-- ==== Sys2Proof/Word.lean ====
section
/-! DEFINITION. The word types of the Krovtar KM8 (02_number_formats R43, 06_encoding R164, R186). -/

namespace Sys2Proof

/-- One byte. -/
abbrev Byte := BitVec 8

/-- One general register, or one instruction word (R164, R186). -/
abbrev Word := BitVec 32

/-- A register pair, an address, a 64-bit special register (R44, R188). -/
abbrev DWord := BitVec 64

/-- One 16-byte sector, the unit of fill, dirty mark and write-back (04, R121). -/
abbrev Sec := BitVec 128

end Sys2Proof
end

