-- ==== Sys2Proof/Config.lean ====
section
/-! DEFINITION. What the spec leaves open, as constants without a body: the free values. Each draw of one is
applied to the counter State.draws, so that nothing fixes it. -/

namespace Sys2Proof.Config

/-- A sector read from a peer module's memory (R157): the peer is outside the model. -/
opaque podSector (n : Nat) : Sec

/-- A choice the device makes among several that the rules allow (R40 step 3 and the like). -/
opaque choice (n : Nat) : Nat

/-- The WANT and SEEN fields of HSTAT where a handle-range fault names a handle that does not exist, or no state is
required (R120 gives no value). -/
opaque handleField (n : Nat) : Nat

/-- The zero point and the codes of a quantised group whose scale rounds to 0 (R72 divides by it and states no
quotient): the draw and the element, 0 for the zero point. -/
opaque quantOpen (n i : Nat) : Nat

/-- The integer a compositor card takes for a NaN coordinate (R319, R321 state none). -/
opaque nanCoord (x : Nat) : Int

/-- The id a projected record takes from a primitive record of a reserved kind (R313 places none). -/
opaque otherKindId (record : List Byte) : Nat

/-- Whether a memory expander is attached to a port (R431). -/
opaque expander (port : Nat) : Bool

/-- Whether a host is attached to a port (R474). -/
opaque hostPort (port : Nat) : Bool

/-- Errors that an SRAM array of a die has corrected since they were last reported (R445). -/
opaque corrected (draw die : Nat) : Nat

/-- Words of a compositor card's output to which the spec gives no value: START of a tile with no pair (R319), and
B1 and B2 of a pixel without a triangle (R320). -/
opaque compOpen (draw i : Nat) : Nat

/-- Byte i of a write-log record, or of an entry of the ownership spill list, as it lies in the log region (R406, R407 give
the sizes and no layout): a function of what it records. -/
opaque logByte (record : List Nat) (i : Nat) : Byte

/-- How far the sample of an RDTIME request lies after the middle of its round trip, in nanoseconds (R244, R460). -/
opaque halfTrip (n : Nat) : Nat

/-- The ticks of the reference that a die counts from sending an RDTIME request to its reply (R460). -/
opaque roundTrip (n : Nat) : Nat

/-- The ticks of a round trip to the pod's time source (R461). -/
opaque podTrip (n : Nat) : Nat

/-- Whether a firmware image's signature verifies (R475): signature scheme and key are outside the spec's text. -/
opaque signatureOk (image : List Byte) : Bool

/-- The device's signature over an attestation report (R476). -/
opaque signature (report : List Byte) : List Byte

/-- The SHA-384 digest of a message (R475, R476): defined outside the spec. -/
opaque digest (message : List Byte) : List Byte

/-- The certificate the module holds for its public key (R476). -/
opaque certificate : List Byte

/-- Version and security version that a firmware image carries (R475 places neither in the image). -/
opaque imageVersion (image : List Byte) : Nat
opaque imageSecurity (image : List Byte) : Nat

/-- The fused minimum of the security version (R475). -/
opaque fusedMinimum : Nat

end Sys2Proof.Config
end

