-- ==== Sys2Proof/Machine/Bits.lean ====
section
/-! DEFINITION. Bit fields, sign extension, bytes and small list helpers used by the meanings. -/

namespace Sys2Proof.Machine

/-- bits(x, hi, lo) of R5. -/
def bits (x hi lo : Nat) : Nat := x / 2 ^ lo % 2 ^ (hi + 1 - lo)

/-- Bit k of x. -/
def bitAt (x k : Nat) : Bool := x / 2 ^ k % 2 == 1

/-- sext(x, n) of R5: the low n bits of x as a signed value. -/
def sextN (x n : Nat) : Int :=
  if 2 * (x % 2 ^ n) < 2 ^ n then (x % 2 ^ n : Nat) else (x % 2 ^ n : Nat) - (2 ^ n : Nat)

/-- An integer modulo 2^n. -/
def wrapN (x : Int) (n : Nat) : Nat := (x % (2 ^ n : Nat)).toNat

/-- Rotation left of a 64-bit value. -/
def rotl64 (x k : Nat) : Nat := (x * 2 ^ (k % 64) + x % 2 ^ 64 / 2 ^ (64 - k % 64)) % 2 ^ 64

/-- Number of significant bits of n; 0 for 0. -/
def bitLen (n : Nat) : Nat := if n == 0 then 0 else Nat.log2 n + 1

/-- Number of set bits among the low k bits. -/
def popCount : Nat → Nat → Nat
  | 0, _ => 0
  | k + 1, x => x % 2 + popCount k (x / 2)

/-- The low k bits of x in reverse order. -/
def reverseBits : Nat → Nat → Nat
  | 0, _ => 0
  | k + 1, x => x % 2 * 2 ^ k + reverseBits k (x / 2)

/-- The n bytes of v, the byte at the lowest address first (02: little-endian). -/
def toBytes : Nat → Nat → List Byte
  | 0, _ => []
  | n + 1, v => BitVec.ofNat 8 v :: toBytes n (v / 256)

/-- The value of bytes, the lowest address first. -/
def ofBytes : List Byte → Nat
  | [] => 0
  | b :: t => b.toNat + 256 * ofBytes t

/-- The field of n bytes at offset o of a record. -/
def field (r : List Byte) (o n : Nat) : Nat := ofBytes ((r.drop o).take n)

/-- Every byte from offset o on, n of them, is zero (reserved fields, R4). -/
def zeroBytes (r : List Byte) (o n : Nat) : Bool := ((r.drop o).take n).all (· == 0)

/-- Replaces element i, if there is one. -/
def setAt {α : Type} (l : List α) (i : Nat) (v : α) : List α := l.set i v

/-- Changes element i, if there is one. -/
def updAt {α : Type} (l : List α) (i : Nat) (f : α → α) : List α :=
  match l[i]? with
  | some v => l.set i (f v)
  | none => l

/-- Element i, or a default. -/
def nth {α : Type} (l : List α) (i : Nat) (d : α) : α := l.getD i d

/-- The numbers a, a+1, ..., a+n-1. -/
def rangeFrom (a : Nat) : Nat → List Nat
  | 0 => []
  | n + 1 => a :: rangeFrom (a + 1) n

/-- Ceiling of a / b for b above 0. -/
def ceilDiv (a b : Nat) : Nat := (a + b - 1) / b

/-- Rounds a up to a multiple of b. -/
def roundUp (a b : Nat) : Nat := ceilDiv a b * b

/-- Integer square root, from bit k-1 down. -/
def isqrtFrom (n : Nat) : Nat → Nat → Nat
  | 0, r => r
  | k + 1, r => if (r + 2 ^ k) * (r + 2 ^ k) ≤ n then isqrtFrom n k (r + 2 ^ k) else isqrtFrom n k r

/-- The largest r with r × r at most n. -/
def isqrt (n : Nat) : Nat := isqrtFrom n (bitLen n / 2 + 1) 0

/-- Inserts by a strict order, after equal elements. -/
def insertBy {α : Type} (lt : α → α → Bool) (x : α) : List α → List α
  | [] => [x]
  | y :: t => if lt x y then x :: y :: t else y :: insertBy lt x t

/-- Stable insertion sort. -/
def sortBy {α : Type} (lt : α → α → Bool) (l : List α) : List α :=
  l.foldl (fun acc x => insertBy lt x acc) []

/-- A value clamped to a range of integers. -/
def clampI (x lo hi : Int) : Int := if x < lo then lo else if hi < x then hi else x

/-- The largest power of two not above n, at least 1. -/
def pow2Floor (n : Nat) : Nat := if n == 0 then 1 else 2 ^ Nat.log2 n

end Sys2Proof.Machine
end

