-- ==== Sys2Proof/Syntax.lean ====
section
/-! DEFINITION. The instructions, operations and events of the KM8: one constructor per row of
spec/opcode_table.json. The operand records are the instruction formats of R164, field for field. -/

namespace Sys2Proof

/-- A team: its context, its grid's identifier and its number in the grid (R30, R31). -/
structure TeamRef where
  ctx : Nat
  gid : Nat
  team : Nat
  deriving DecidableEq, Repr

/-- A thread: its team and its team thread index (R11, R30). -/
structure ThreadRef where
  team : TeamRef
  tid : Nat
  deriving DecidableEq, Repr

/-- Where a launch descriptor comes from (R391): the next slot of a host queue (R394), or a LAUNCH
word whose thread waits for the front end (R295). -/
inductive LaunchSrc where
  | queue (q : Nat)
  | child (r : ThreadRef)
  deriving DecidableEq, Repr

/-- Where an uncorrectable error lies (R446): a cached copy of a sector, a memory sector, a register
line, or a typed-store line of a team. -/
inductive ErrorSite where
  | cacheCopy (own sec : Nat)
  | memory (sec : Nat)
  | register (r : ThreadRef) (n : Nat)
  | typedStore (t : TeamRef) (space off : Nat)
  deriving DecidableEq, Repr

/-- R format (R164): C S, G, W, D, A, B. The F field is fixed by the constructor or its own argument. -/
structure RFmt where
  c : Bool
  s : Bool
  g : Bool
  w : BitVec 2
  d : BitVec 6
  a : BitVec 6
  b : BitVec 6
  deriving DecidableEq, Repr

/-- I format (R164): D, A, IMM12. -/
structure IFmt where
  c : Bool
  s : Bool
  d : BitVec 6
  a : BitVec 6
  imm : BitVec 12
  deriving DecidableEq, Repr

/-- M format (R164): G, W, D data, A address pair, O, IMM6. -/
structure MFmt where
  c : Bool
  s : Bool
  g : Bool
  w : BitVec 2
  d : BitVec 6
  a : BitVec 6
  o : BitVec 3
  imm : BitVec 6
  deriving DecidableEq, Repr

/-- P format (R164): G, PD, A, B. The F field is fixed by the constructor or its own argument. -/
structure PFmt where
  c : Bool
  s : Bool
  g : Bool
  pd : BitVec 6
  a : BitVec 6
  b : BitVec 6
  deriving DecidableEq, Repr

/-- U format (R164): D (v0 to v15), IMM20. -/
structure UFmt where
  c : Bool
  s : Bool
  d : BitVec 4
  imm : BitVec 20
  deriving DecidableEq, Repr

/-- X format (R164): P, OFF18. -/
structure XFmt where
  c : Bool
  s : Bool
  p : BitVec 6
  off : BitVec 18
  deriving DecidableEq, Repr

/-- E format (R164): D, A, G at CODE12 bit 7, ARG. SUB is fixed by the constructor. -/
structure EFmt where
  c : Bool
  s : Bool
  g : Bool
  d : BitVec 6
  a : BitVec 6
  arg : BitVec 7
  deriving DecidableEq, Repr

/-- Every row of spec/opcode_table.json. The first 180 are instruction words (R179 to R183); the rest are
the operations and events of the module's other agents, whose arguments say who acts and where. -/
inductive Instr where
  /-- Integer add of A and B, modulo 2^N. (R192) -/
  | iadd (o : RFmt)
  /-- Integer subtract of B from A, modulo 2^N. (R192) -/
  | isub (o : RFmt)
  /-- Signed minimum of A and B. (R192) -/
  | imin (o : RFmt)
  /-- Signed maximum of A and B. (R192) -/
  | imax (o : RFmt)
  /-- Unsigned minimum of A and B. (R192) -/
  | iminu (o : RFmt)
  /-- Unsigned maximum of A and B. (R192) -/
  | imaxu (o : RFmt)
  /-- Absolute value of signed A; the most negative value gives itself. (R192) -/
  | iabs (o : RFmt)
  /-- Negation 0 − A. (R192) -/
  | ineg (o : RFmt)
  /-- Bitwise and of A and B. (R193) -/
  | and (o : RFmt)
  /-- Bitwise or of A and B. (R193) -/
  | or (o : RFmt)
  /-- Bitwise exclusive or of A and B. (R193) -/
  | xor (o : RFmt)
  /-- A and not B. (R193) -/
  | andn (o : RFmt)
  /-- Bitwise complement of A. (R193) -/
  | not (o : RFmt)
  /-- Selects A or B by the predicate named by the guard selection; never guarded. (R193) -/
  | sel (o : RFmt)
  /-- Copies A to D. (R193) -/
  | mov (o : RFmt)
  /-- Counts the set bits of A. (R193) -/
  | popc (o : RFmt)
  /-- Shift left by B modulo N, zeros in. (R194) -/
  | shl (o : RFmt)
  /-- Logical shift right by B modulo N. (R194) -/
  | shr (o : RFmt)
  /-- Arithmetic shift right by B modulo N. (R194) -/
  | sar (o : RFmt)
  /-- Rotate left by B modulo N. (R194) -/
  | rol (o : RFmt)
  /-- Counts leading zero bits of A. (R194) -/
  | clz (o : RFmt)
  /-- Reverses the bit order of A. (R194) -/
  | brev (o : RFmt)
  /-- Extracts a bit field of A under the control word in B, optionally sign-extended. (R195) -/
  | bfx (o : RFmt)
  /-- Inserts low bits of A into a field of D under the control word in B. (R195) -/
  | bfi (o : RFmt)
  /-- Low half of the product A × B. (R196) -/
  | imul (o : RFmt)
  /-- High half of the signed product. (R196) -/
  | imulh (o : RFmt)
  /-- High half of the unsigned product. (R196) -/
  | imulhu (o : RFmt)
  /-- Multiply-add A × B + D modulo 2^N. (R196) -/
  | imad (o : RFmt)
  /-- Signed quotient truncated toward zero, with fixed results for division by zero and overflow. (R197) -/
  | idiv (o : RFmt)
  /-- Signed remainder with the sign of A. (R197) -/
  | irem (o : RFmt)
  /-- Unsigned quotient. (R197) -/
  | idivu (o : RFmt)
  /-- Unsigned remainder. (R197) -/
  | iremu (o : RFmt)
  /-- Address add A + B with shift 0. (R198) -/
  | lea (o : RFmt)
  /-- Address add A + (B << 1). (R198) -/
  | leaX2 (o : RFmt)
  /-- Address add A + (B << 2). (R198) -/
  | leaX4 (o : RFmt)
  /-- Address add A + (B << 3). (R198) -/
  | leaX8 (o : RFmt)
  /-- 32-bit add with carry-in and carry-out held in the high registers of pairs. (R199) -/
  | iaddc (o : RFmt)
  /-- 32-bit subtract with borrow-in and borrow-out. (R199) -/
  | isubb (o : RFmt)
  /-- Adds a signed 12-bit immediate. (R200) -/
  | iaddi (o : IFmt)
  /-- And with a sign-extended immediate. (R200) -/
  | andi (o : IFmt)
  /-- Or with a sign-extended immediate. (R200) -/
  | ori (o : IFmt)
  /-- Exclusive or with a sign-extended immediate. (R200) -/
  | xori (o : IFmt)
  /-- Shift left by an immediate 0 to 31. (R200) -/
  | shli (o : IFmt)
  /-- Logical shift right by an immediate. (R200) -/
  | shri (o : IFmt)
  /-- Arithmetic shift right by an immediate. (R200) -/
  | sari (o : IFmt)
  /-- Loads a sign-extended 12-bit immediate. (R200) -/
  | movi (o : IFmt)
  /-- Loads IMM20 << 12 into one of v0 to v15. (R201) -/
  | luih (o : UFmt)
  /-- Forms its own word address plus a shifted immediate in a register pair. (R202) -/
  | adrh (o : UFmt)
  /-- FP32 add, correctly rounded under FPC. (R207) -/
  | fadd (o : RFmt)
  /-- FP32 subtract. (R207) -/
  | fsub (o : RFmt)
  /-- FP32 multiply. (R207) -/
  | fmul (o : RFmt)
  /-- FP32 fused multiply-add A × B + D, rounded once. (R207) -/
  | fma (o : RFmt)
  /-- FP32 minimum with −0 below +0 and NaN rules. (R208) -/
  | fmin (o : RFmt)
  /-- FP32 maximum. (R208) -/
  | fmax (o : RFmt)
  /-- FP32 divide, long result. (R207) -/
  | fdiv (o : RFmt)
  /-- FP32 square root, long result. (R207) -/
  | fsqrt (o : RFmt)
  /-- FP64 add. (R207) -/
  | fadd64 (o : RFmt)
  /-- FP64 subtract. (R207) -/
  | fsub64 (o : RFmt)
  /-- FP64 multiply. (R207) -/
  | fmul64 (o : RFmt)
  /-- FP64 fused multiply-add. (R207) -/
  | fma64 (o : RFmt)
  /-- FP64 minimum. (R208) -/
  | fmin64 (o : RFmt)
  /-- FP64 maximum. (R208) -/
  | fmax64 (o : RFmt)
  /-- FP64 divide. (R207) -/
  | fdiv64 (o : RFmt)
  /-- FP64 square root. (R207) -/
  | fsqrt64 (o : RFmt)
  /-- Paired FP16 add, element by element. (R209) -/
  | faddH2 (o : RFmt)
  /-- Paired FP16 subtract. (R209) -/
  | fsubH2 (o : RFmt)
  /-- Paired FP16 multiply. (R209) -/
  | fmulH2 (o : RFmt)
  /-- Paired FP16 fused multiply-add. (R209) -/
  | fmaH2 (o : RFmt)
  /-- Paired FP16 minimum. (R209) -/
  | fminH2 (o : RFmt)
  /-- Paired FP16 maximum. (R209) -/
  | fmaxH2 (o : RFmt)
  /-- Paired FP16 divide. (R209) -/
  | fdivH2 (o : RFmt)
  /-- Paired FP16 square root. (R209) -/
  | fsqrtH2 (o : RFmt)
  /-- Paired BF16 add. (R209) -/
  | faddB2 (o : RFmt)
  /-- Paired BF16 subtract. (R209) -/
  | fsubB2 (o : RFmt)
  /-- Paired BF16 multiply. (R209) -/
  | fmulB2 (o : RFmt)
  /-- Paired BF16 fused multiply-add. (R209) -/
  | fmaB2 (o : RFmt)
  /-- Paired BF16 minimum. (R209) -/
  | fminB2 (o : RFmt)
  /-- Paired BF16 maximum. (R209) -/
  | fmaxB2 (o : RFmt)
  /-- Paired BF16 divide. (R209) -/
  | fdivB2 (o : RFmt)
  /-- Paired BF16 square root. (R209) -/
  | fsqrtB2 (o : RFmt)
  /-- Correctly rounded FP32 reciprocal. (R211) -/
  | frcp (o : RFmt)
  /-- Correctly rounded FP32 reciprocal square root. (R211) -/
  | frsq (o : RFmt)
  /-- Reduces an FP32 argument to (r, q) modulo π/2 into a register pair. (R78) -/
  | frred (o : RFmt)
  /-- Sine from (r, q) through table records 0 and 1. (R79) -/
  | fsinr (o : RFmt)
  /-- Cosine from (r, q) through table records 0 and 1. (R79) -/
  | fcosr (o : RFmt)
  /-- Base-2 exponential through table record 2. (R80) -/
  | fexp2 (o : RFmt)
  /-- Base-2 logarithm through table record 3. (R81) -/
  | flog2 (o : RFmt)
  /-- Evaluates the function-table record named in the word. (R82) -/
  | feval (o : RFmt)
  /-- Converts A under the conversion code in B and the rounding control in F. (R212) -/
  | cvt (f : BitVec 3) (o : RFmt)
  /-- Integer compare setting a predicate. (R203) -/
  | icmp (f : BitVec 5) (o : PFmt)
  /-- FP32 compare setting a predicate. (R204) -/
  | fcmp32 (f : BitVec 5) (o : PFmt)
  /-- FP64 compare setting a predicate. (R204) -/
  | fcmp64 (f : BitVec 5) (o : PFmt)
  /-- Predicate and. (R205) -/
  | pand (o : PFmt)
  /-- Predicate or. (R205) -/
  | por (o : PFmt)
  /-- Predicate exclusive or. (R205) -/
  | pxor (o : PFmt)
  /-- Predicate complement. (R205) -/
  | pnot (o : PFmt)
  /-- Predicate copy. (R205) -/
  | pmov (o : PFmt)
  /-- Sets a predicate to a constant 0 or 1. (R205) -/
  | pset (o : PFmt)
  /-- Sets a predicate from bit n of a general register. (R205) -/
  | pfrom (o : PFmt)
  /-- Writes 1 or 0 to a general register from a predicate. (R205) -/
  | pto (o : PFmt)
  /-- Delivers the source of the lane named by each lane's register. (R224) -/
  | shfl (o : RFmt)
  /-- Delivers the source of lane l xor m. (R224) -/
  | shflx (o : RFmt)
  /-- Swaps with the neighbouring lane, optionally inverting the top bit. (R224) -/
  | lswap (o : RFmt)
  /-- Any, all, ballot or equal vote of a predicate across the cohort. (R225) -/
  | vote (o : RFmt)
  /-- Reduces values over the cohort along a fixed tree. (R226) -/
  | lred (o : RFmt)
  /-- Inclusive scan over the cohort. (R226) -/
  | lscan (o : RFmt)
  /-- Team-convergent reduction over 1,024 positions; team-scope release and acquire. (R227) -/
  | tred (o : RFmt)
  /-- Broadcasts the source of lane k. (R224) -/
  | lbcst (o : RFmt)
  /-- Terminator transferring to a packet at a relative offset. (R219) -/
  | next (o : UFmt)
  /-- Terminator calling a relative packet and writing the return address to v62:63. (R219) -/
  | call (o : UFmt)
  /-- Two-way terminator taken when the predicate is true. (R219) -/
  | nextp (o : XFmt)
  /-- Two-way terminator taken when the predicate is false. (R219) -/
  | nextn (o : XFmt)
  /-- Indirect terminator to the address in a register pair. (R219) -/
  | nexti (o : RFmt)
  /-- Indirect call through a register pair. (R219) -/
  | calli (o : RFmt)
  /-- Returns to the address in v62:63. (R219) -/
  | ret (o : RFmt)
  /-- Ends the thread once its long results are written. (R220) -/
  | exit (o : RFmt)
  /-- Reconvergence point that holds the gang for merging. (R221) -/
  | rcv (o : RFmt)
  /-- Defers the gang's next issue. (R222) -/
  | yield (o : RFmt)
  /-- No operation. (R222) -/
  | nop (o : RFmt)
  /-- Global load, plain or acquire. (R250) -/
  | ld (o : MFmt)
  /-- Global store, plain or release. (R250) -/
  | st (o : MFmt)
  /-- L-store load. (R251) -/
  | ldl (o : MFmt)
  /-- L-store store. (R251) -/
  | stl (o : MFmt)
  /-- A-store load. (R251) -/
  | lda (o : MFmt)
  /-- A-store store. (R251) -/
  | sta (o : MFmt)
  /-- W-store load, plain only. (R251) -/
  | ldw (o : MFmt)
  /-- C-store load. (R251) -/
  | ldc (o : MFmt)
  /-- C-store store. (R251) -/
  | stc (o : MFmt)
  /-- Device-scope acquire load with remote-scope promotion at the home slice. (R254) -/
  | ldra (o : MFmt)
  /-- Returning 32-bit integer atomic at the point of its scope. (R256) -/
  | atom (f : BitVec 3) (o : RFmt)
  /-- Returning exchange, compare-and-swap or floating atomic. (R257) -/
  | atomx (f : BitVec 3) (o : RFmt)
  /-- Non-returning integer reduction. (R259) -/
  | red (f : BitVec 3) (o : RFmt)
  /-- Non-returning floating reduction. (R259) -/
  | redx (f : BitVec 3) (o : RFmt)
  /-- Acquire, release, both or engine fence at a scope. (R261) -/
  | fence (o : RFmt)
  /-- Writes back dirty sectors of a range at the levels within its scope. (R262) -/
  | cwb (o : RFmt)
  /-- Writes back and drops cached copies of a range within its scope. (R262) -/
  | cinv (o : RFmt)
  /-- Removes a range from instruction caches of bays in its scope. (R263) -/
  | iinv (o : RFmt)
  /-- Waits for earlier cache-control words and discards fetched words. (R263) -/
  | fbar (o : RFmt)
  /-- Prefetches a line toward the bay at a level; never faults. (R264) -/
  | pref (o : RFmt)
  /-- Stores a predicate into one bit of a memory unit as a team-scope reduction. (R265) -/
  | pstb (o : RFmt)
  /-- Loads one bit of a memory unit into a predicate. (R265) -/
  | pldb (o : RFmt)
  /-- Copies and checks a parameter block and appends a matrix operation to a stream. (R276) -/
  | mxop (o : EFmt)
  /-- Blocks until earlier operations of a stream complete; acquire. (R279) -/
  | mxwait (o : EFmt)
  /-- Checks a job card and appends it to the team's ring with a notify release. (R281) -/
  | enq (o : EFmt)
  /-- Binds a free handle to a region and length. (R271) -/
  | hsetBind (o : EFmt)
  /-- Moves a handle to full as a team-scope release. (R271) -/
  | hsetFull (o : EFmt)
  /-- Moves a full handle to free. (R271) -/
  | hsetFree (o : EFmt)
  /-- Blocks until a handle is in or enters a state. (R272) -/
  | hwait (o : EFmt)
  /-- Reads a handle's state code. (R272) -/
  | hq (o : EFmt)
  /-- Reads, checks and installs a new function table for the team. (R294) -/
  | ftld (o : EFmt)
  /-- Hands a child launch descriptor to the front end and waits for its verdict. (R295) -/
  | launch (o : EFmt)
  /-- Blocks until the named child grid retires. (R296) -/
  | chwait (o : EFmt)
  /-- Blocks until every earlier child grid of the team retires. (R296) -/
  | chwaitAll (o : EFmt)
  /-- Starts a tree walk from a walk block in the L-store. (R306) -/
  | twinit (o : EFmt)
  /-- Runs one traversal step emitting up to four records. (R307) -/
  | twstep (o : EFmt)
  /-- Reads the values of the last step's records. (R308) -/
  | twgetVal (o : EFmt)
  /-- Reads the status word of the last step. (R308) -/
  | twgetSt (o : EFmt)
  /-- Ends the thread's walk. (R309) -/
  | twend (o : EFmt)
  /-- Changes the thread's role in a phaser. (R231) -/
  | phreg (o : EFmt)
  /-- Arrives at the current phase of a phaser. (R230) -/
  | pharr (o : EFmt)
  /-- Blocks until the next awaited phase completes. (R230) -/
  | phwait (o : EFmt)
  /-- Arrives and then waits. (R230) -/
  | phaw (o : EFmt)
  /-- Reads a phaser's completed-phase count. (R230) -/
  | phq (o : EFmt)
  /-- Checks a memory condition at the home slice and registers a latch entry if it does not hold. (R233) -/
  | waitu (o : EFmt)
  /-- Sets the team's width request, starting a re-slice hold if the grant would change. (R241) -/
  | setw (o : EFmt)
  /-- Cohort-convergent migration of a cohort to the home die of an address. (R40) -/
  | migr (o : EFmt)
  /-- Cohort-convergent return of a migrated cohort to its origin bay. (R42) -/
  | migrh (o : EFmt)
  /-- Reads a special register. (R242) -/
  | rdsr (o : EFmt)
  /-- Writes a special register. (R242) -/
  | wrsr (o : EFmt)
  /-- Names the guard predicate for later groups. (R243) -/
  | gsel (o : EFmt)
  /-- Requests the IOD time count. (R244) -/
  | rdtime (o : EFmt)
  /-- Draws from the keyed sign generator and advances RNGC. (R245) -/
  | rand (o : EFmt)
  /-- Raises the software trap to the user handler. (R368) -/
  | trap (o : EFmt)
  /-- Raises the breakpoint trap to the supervisor handler. (R368) -/
  | brk (o : EFmt)
  /-- Raises the system-call trap to the supervisor handler. (R368) -/
  | sysc (o : EFmt)
  /-- Returns from supervisor level to the word at SPC. (R369) -/
  | eret (o : EFmt)
  /-- Reads a privileged register. (R370) -/
  | rdpr (o : EFmt)
  /-- Writes a privileged register. (R370) -/
  | wrpr (o : EFmt)
  /-- Writes back and invalidates a saved context's image lines and reports status. (R371) -/
  | ctxfl (o : EFmt)
  /-- Kills the executing thread's context with a reason. (R372) -/
  | halt (o : EFmt)
  /-- An outstanding long result is written, possibly ending a switch-marker park. (R177) -/
  | longResultWrite (r : ThreadRef) (k : Nat)
  /-- With every thread held at a boundary the team takes its new grant, cohorts and lanes. (R25) -/
  | reslice (t : TeamRef)
  /-- A re-slice hold lapses after one fairness round and the request stays pending. (R25) -/
  | setwHoldLapse (t : TeamRef)
  /-- After four fairness rounds of divergent convergent words the fault is raised at each word. (R29) -/
  | convergenceFault (t : TeamRef) (cohort : Option Nat)
  /-- A gang held at RCV is released after one fairness interval. (R221) -/
  | rcvHoldExpiry (r : ThreadRef)
  /-- A yielded gang becomes choosable again after 16 cycles. (R222) -/
  | yieldHoldEnd (r : ThreadRef)
  /-- A pending imprecise cause is delivered to the leader at its next issue group. (R440) -/
  | impreciseTrapDelivery (t : TeamRef)
  /-- A walker reads the page-table entries of a missing translation at their home slices. (R423) -/
  | pageWalk (bay ctx va : Nat)
  /-- A parked sub-cohort walks again at a covering shootdown or every 4 µs and replays its group. (R441) -/
  | faultReplayWalk (r : ThreadRef)
  /-- An access set aside at a locked page walks again and proceeds. (R428) -/
  | lockedPageRewalk (r : ThreadRef)
  /-- A cluster cache writes a dirty sector back whole to its home slice. (R125) -/
  | cacheWriteback (cluster sec : Nat) (evict : Bool)
  /-- A wait's deadline passes and the thread ends false or takes the wait-timeout trap. (R236) -/
  | waituExpiry (r : ThreadRef)
  /-- A bay-held wait re-reads its line at least once per microsecond. (R237) -/
  | latchBayReread (r : ThreadRef)
  /-- The home slice re-reads a monitored host-tier line at least once per microsecond. (R239) -/
  | hostLineReread (line : Nat)
  /-- A host access to device memory is performed at the line's home slice under its bias. (R155) -/
  | hostAccess (store : Bool) (pa n v : Nat)
  /-- A numbered pod message is performed at most once and acknowledged. (R158) -/
  | podMessageReceive (peer seq : Nat) (ack : Bool) (pa n v : Nat)
  /-- After a link failure the sender sends the flag again on another path. (R158) -/
  | podFlagResend (peer : Nat)
  /-- No path reaches the peer within the link timeout and the releasing instruction faults. (R159) -/
  | podLinkFault (r : ThreadRef)
  /-- The sequencer acquires NOTIFY, reads and checks the next card, and derives its edges. (R283) -/
  | cardAccept (t : TeamRef)
  /-- A COPY card copies a strided 3-D block between regions. (R289) -/
  | copy (t : TeamRef) (seq : Nat)
  /-- A GATHER card copies indexed source rows to consecutive destination rows. (R290) -/
  | gather (t : TeamRef) (seq : Nat)
  /-- A SCATTER card copies consecutive source rows to indexed destination rows. (R290) -/
  | scatter (t : TeamRef) (seq : Nat)
  /-- An XPOSE card sends this module's blocks of an all-to-all exchange to its peers. (R291) -/
  | xpose (t : TeamRef) (seq : Nat)
  /-- A QUANT card transforms and quantises source groups to AQ8 or AQ4 codes and headers. (R292) -/
  | quant (t : TeamRef) (seq : Nat)
  /-- An MXPRE card preloads or zero-fills a C-store tile. (R293) -/
  | mxpre (t : TeamRef) (seq : Nat)
  /-- A PROJ card projects Gaussians and triangles to screen records. (R314) -/
  | proj (t : TeamRef) (seq : Nat)
  /-- A BIN card sorts projected records into per-tile key lists. (R319) -/
  | bin (t : TeamRef) (seq : Nat)
  /-- A BLEND card rasterises triangles and blends Gaussians per pixel. (R320) -/
  | blend (t : TeamRef) (seq : Nat)
  /-- A BACK card replays the blend backward and accumulates gradients. (R323) -/
  | back (t : TeamRef) (seq : Nat)
  /-- A card's reads and writes complete and its handle makes its completing transition. (R286) -/
  | cardRetire (t : TeamRef) (seq : Nat)
  /-- An engine access that took a translation fault is retried. (R286) -/
  | engineFaultRetry (t : TeamRef) (seq : Nat)
  /-- A stream's next operation starts when its predecessor completes and its handles admit it. (R277) -/
  | mxopStart (t : TeamRef) (stream : Nat)
  /-- A matrix operation's reading handles make their reads-complete transitions. (R277) -/
  | mxopReadsComplete (t : TeamRef) (stream : Nat)
  /-- A matrix operation writes C and MXSn and its HC handle becomes full. (R277) -/
  | mxopComplete (t : TeamRef) (stream : Nat)
  /-- A faulty group header abandons a running matrix operation and raises an imprecise fault. (R481) -/
  | mxopAbandon (t : TeamRef) (stream : Nat)
  /-- A doorbell write sets a host queue's tail or is discarded as bad. (R393) -/
  | lqdbWrite (v : BitVec 64)
  /-- The front end reads and checks a descriptor, assigns a GRIDID and enqueues or refuses the grid. (R391) -/
  | launchAccept (src : LaunchSrc)
  /-- The event word reaches DEPVAL and the grid is released, conditionally on its predicate. (R396) -/
  | dependenceMet (ctx gid : Nat)
  /-- A timed grid's TSTART arrives and its teams may be placed. (R398) -/
  | gridTimedStart (ctx gid : Nat)
  /-- Placement allocates a team's resources on a fitting bay and starts it. (R401) -/
  | teamPlace (t : TeamRef) (bay : Nat)
  /-- A grid waiting longer than PRIWT causes a lower-priority team to be shuttered or aborted. (R403) -/
  | priorityPreempt (ctx gid : Nat)
  /-- All threads exited, cards retired and streams drained; allocations are released. (R35) -/
  | teamRetire (t : TeamRef)
  /-- Writes are performed at system scope, the completion record is written and SIGADDR signalled. (R400) -/
  | gridRetire (ctx gid : Nat)
  /-- At phase end shared lines of a deterministic launch are committed in TEAMID order. (R408) -/
  | phaseCommit (ctx gid : Nat)
  /-- A deterministic team is discarded and rerun from its first word. (R409) -/
  | detTeamAbort (t : TeamRef)
  /-- A shuttered team has drained and its state is written to its image. (R450) -/
  | teamSaved (t : TeamRef)
  /-- A saved team is placed on a bay, its image recalled and its threads issued. (R453) -/
  | teamResume (t : TeamRef) (bay : Nat)
  /-- A killed context's issued stores are performed or dropped and STATE reads killed. (R455) -/
  | contextKillComplete (ctx : Nat)
  /-- A module measures the round trip to the pod time source and adjusts its rate. (R461) -/
  | timeSyncMeasure (peer sourceCount : Nat)
  /-- A cross-die request's LTO count ends and it completes with the link-timeout error. (R462) -/
  | linkTimeout (r : ThreadRef) (addr : Nat)
  /-- A die without IOD replies for 2 × LTO is marked failed and its contexts are killed. (R464) -/
  | dieFailed (die : Nat)
  /-- A die sees no reference edge for 100 ns and switches to its backup oscillator. (R463) -/
  | referenceClockLoss (die : Nat)
  /-- A die returns to the reference at its first edge. (R463) -/
  | referenceClockReturn (die : Nat)
  /-- A compute die's power estimate reaches its cap and it stretches its clock. (R466) -/
  | powerCapStretch (die watts : Nat)
  /-- A die's power estimate falls and its clock is restored. (R466) -/
  | clockRestore (die watts : Nat)
  /-- Eight more bays of a die start, every 2 µs. (R467) -/
  | bayStartBatch (die : Nat)
  /-- A pod flit failing its CRC is retried on the same link. (R471) -/
  | flitCrcRetry (port : Nat)
  /-- A pod link failing training for 1 ms is taken out of use. (R471) -/
  | podLinkTrainingFail (port : Nat)
  /-- An uncorrectable SRAM or memory error drops, or marks failed, the affected sector or line. (R446) -/
  | uncorrectableError (e : ErrorSite)
  /-- An issued word with major 0x00 or 0x3F, a reserved major, or a reserved F, SUB or P-format code raises illegal encoding or the undefined trap. (R184) -/
  | nonInstructionWord (w : Word)
  /-- A job card's reads all complete, a released reading handle goes from draining to free, and write-after-read edges on it are satisfied. (R117) -/
  | cardReadsComplete (t : TeamRef) (seq : Nat)
  /-- A write to MBCTL while BUSY is set is discarded and counted in RESYNC. (R468) -/
  | mbctlWriteWhileBusy (addr : Nat)
  /-- Management command writing the 512-byte status record. (R474) -/
  | resync
  /-- Management command setting the context-table base. (R469) -/
  | setregCtxtb
  /-- Management command setting the launch-queue table base. (R469) -/
  | setregLqtb
  /-- Management command setting a partition's fault-queue base and size. (R469) -/
  | setregFqb
  /-- Management command setting the priority wait. (R469) -/
  | setregPriwt
  /-- Management command setting the latch overflow region base and size. (R469) -/
  | setregLovb
  /-- Management command setting the link timeout. (R469) -/
  | setregLto
  /-- Translation request dropping cached translations and waiting for accesses through them. (R426) -/
  | shootdown
  /-- Translation request moving a page between tiers under its lock. (R429) -/
  | migrate
  /-- Translation request flipping a host-coherent page's bias after draining the losing side. (R430) -/
  | biasFlip
  /-- Management command requesting that a team or all teams of a context be shuttered. (R450) -/
  | shutter
  /-- Management command killing a context with cause 0x44. (R455) -/
  | kill
  /-- Management command installing the partition table. (R385) -/
  | partset
  /-- Management command lowering a die's power cap. (R465) -/
  | powercap
  /-- Management command setting the node identifier and export windows. (R469) -/
  | podcfg
  /-- Management command setting the IOD time count. (R461) -/
  | timeset
  /-- Management command verifying and writing a firmware image, then resetting. (R475) -/
  | fwload
  /-- Management command writing a signed attestation report over a nonce. (R476) -/
  | attest
  /-- The IOD verifies firmware, starts the dies and enters reduced service or recovery. (R472) -/
  | powerOnReset
  /-- Training of every die, link and stack ends and resident teams are shuttered. (R473) -/
  | trainingEnd
  /-- With no team placed, full service begins and saved teams may resume. (R473) -/
  | fullServiceStart
  /-- Once CD 0 and HBM4E stack 0 of ND 0 are trained, reduced service becomes available on bays 0 to 15 of CD 0. (R472) -/
  | reducedServiceStart
  deriving DecidableEq, Repr

end Sys2Proof
end

