-- ==== Sys2Proof/Machine/State.lean ====
section
/-! DEFINITION. The state of the KM8, as plain data: every piece of architectural state the spec names,
and the few bookkeeping fields of the model itself, each marked MODEL. -/

namespace Sys2Proof.Machine

/-- Memory (global by physical address, or one typed store by offset): the listed bytes, addresses strictly
rising, no entry equal to what an unlisted address reads as (Ops.lean: Memory.wf, Memory.default). -/
structure Memory where
  cells : List Host.Cell
  deriving DecidableEq, Repr

/-- A thread's part in one phaser: its role and its counts (R229). -/
structure PhRec where
  sig : Bool
  wait : Bool
  arr : Word
  wai : Word
  deriving DecidableEq, Repr

/-- One outstanding long result (R177): a register, a predicate, or the flags to be ORed into FPS when the result they
belong to is written (R191): that of as many registers as `regs` says, which stand directly before them. -/
inductive Pending where
  | reg (n : Nat) (v : Word)
  | pred (p : Nat) (b : Bool)
  | flags (m : Word) (regs : Nat)
  deriving DecidableEq, Repr

/-- What a thread is blocked on (R380 BLOCK; the waits of R281, R295, R152, R221, R157, R262, R307, R294 and R462, from
ring on, have no code there). -/
inductive BlockOn where
  | phaser (slot : Nat) (arriving : Bool)
  | handle | waitu | stream | childGrid | convergent | teamConv
  /-- at MIGR, its first steps done, for a vestibule slot on a die (R40) -/
  | migr (die : Option Nat)
  | ring | launch | fence | rcv | pod | flush | table
  /-- for the reply of another die to a request of the group (R462) -/
  | link
  /-- at TWINIT or TWSTEP, for the unit: for a translation it needs, or to go on -/
  | walk (need : Option Nat)
  deriving DecidableEq, Repr

/-- Where a thread stands (R380 STATUS): at a segment boundary, within a segment, blocked, parked on a
translation fault (R441), set aside at a locked page (R428), or exited. -/
inductive Status where
  | boundary
  | within
  | blocked (b : BlockOn)
  | parked (va kind : Nat)
  | aside (va : Nat)
  | exited
  deriving DecidableEq, Repr

/-- A tree walk (R299): copies of the walk block and descriptor, the stack area, depth, tmax, and the records'
values and status word of the last step. -/
structure Walk where
  blk : List Byte
  desc : List Byte
  area : Nat
  depth : Nat
  tmax : Word
  vals : List Word
  status : Word
  failed : Bool
  deriving DecidableEq, Repr

/-- A traversal step in progress (R299, R304): the walk and the records (offset, value, accepted) it has come to, and the
bytes of the stack area as it found them. -/
structure WalkStep where
  walk : Walk
  recs : List (Nat × Nat × Bool)
  stack : List Byte
  deriving DecidableEq, Repr

/-- What a memory word at pc waits for (R152, R157, R262): the stage it has come to; the messages (peer and number) whose
acknowledgement it awaits; the rings of which it awaits the cards before a count; the value it has fixed: the order
number of a FENCE.engine, or what an atomic has read; and when it sent the messages, and whether the backup oscillator counts their
time (R159, R462). -/
structure MemWait where
  stage : Nat
  msgs : List (Nat × Nat)
  cards : List (TeamRef × Word)
  val : Nat
  since : Nat
  backup : Bool
  deriving DecidableEq, Repr

/-- A request of a thread to another die that is outstanding (R462, R463): when it was sent, whether the backup oscillator counts its
time, whether it is the walker's, the sector at its home it asks for, and the index of its word in the group. -/
structure Asked where
  since : Nat
  backup : Bool
  walker : Bool
  sec : Nat
  pos : Nat
  deriving DecidableEq, Repr

/-- A code line held by a bay's instruction cache (R263): its 16 words. -/
structure CodeLine where
  bay : Nat
  line : Nat
  words : List Word
  deriving DecidableEq, Repr

/-- A thread (R11, R188, R365, R373, R380). -/
structure Thread where
  /-- team thread index (TID) -/
  tid : Nat
  /-- byte address of the next word to issue (R380) -/
  pc : DWord
  /-- packets of the running segment counted so far (R173) -/
  seg : Nat
  /-- v0 to v63 (R186) -/
  regs : List Word
  /-- p0 to p47 (R187); p0 reads true -/
  preds : List Bool
  /-- predicate named by the last GSEL (R243) -/
  gsel : Nat
  fpc : Word
  fps : Word
  rngk : DWord
  rngc : Word
  trapc : Word
  trapa : DWord
  trappc : DWord
  timeout : Word
  /-- level: true at supervisor level (R365) -/
  sup : Bool
  /-- trap level TL (R365) -/
  tl : Bool
  spc : DWord
  scause : Word
  saddr : DWord
  sgrp : List Word
  sscr : List DWord
  status : Status
  /-- outstanding long results, oldest first (R177) -/
  pending : List Pending
  /-- roles and counts: team phasers 0 to 15, cluster phasers 16 to 23, grid phasers 24 to 27 (R229, R379) -/
  ph : List PhRec
  walk : Option Walk
  /-- the traversal step in progress -/
  step : Option WalkStep
  /-- bay on which the thread runs, die × 96 + bay (R39) -/
  bay : Nat
  /-- in a vestibule slot (R41) -/
  migrated : Bool
  /-- number of its gang within the team (R16) -/
  gang : Nat
  /-- MODEL: what is left of a control word at pc that has been performed: the results of a convergent word, or none after
  a merge at RCV, a migration or the arrival of PHAW; written when the thread issues the word again -/
  conv : Option (List Pending)
  /-- MODEL: cycle at which a hold at RCV or a YIELD began (R221, R222); of a thread that waits for a page, the time of its last
  walk, 0 where it is to walk at once (R441) -/
  since : Nat
  /-- YIELD in force (R222), and every other ready gang of the quadrant has issued since -/
  yielded : Bool
  passed : Bool
  /-- held at a segment boundary for a re-slice (R25) -/
  held : Bool
  /-- how far the blocking engine word at pc has come, or the outcome it will deliver (R279, R295, R296) -/
  woke : Option DWord
  /-- how far the blocking memory word at pc has come (R152, R157, R262) -/
  sent : Option MemWait
  /-- MODEL: the words of the issue group at pc, while the thread is blocked in it or has finished its part of it -/
  issued : List Word
  /-- the parameter block or card that the blocking word at pc has copied and checked (R276, R281) -/
  copy : Option (List Byte)
  /-- scopes (bit 0 team, bit 1 cluster) of release fences that earlier words performed (R135, R146) -/
  relFence : Nat
  /-- finished its part of the blocking word at pc, whose gang has not left it yet (R230, R270) -/
  fin : Bool
  /-- at the entry of its user handler, for a trap taken since its team was shuttered: it stops at a boundary after it (R450) -/
  entering : Bool
  /-- the request of the group at pc whose reply is outstanding -/
  asked : Option Asked
  /-- sectors at their homes that the store or reduction at pc does not reach, its request to them timed out (R464) -/
  lost : List Nat
  /-- lines that an IINV has removed from the instruction cache of its bay since it last entered a segment: words of them may have been
  fetched by it before (R263, R351) -/
  fetched : List CodeLine
  /-- MODEL: the turn at which it last issued, for the default scheduling -/
  stamp : Nat
  deriving DecidableEq, Repr

/-- Handle states (R116). -/
inductive HState where
  | free | filling | full | draining
  deriving DecidableEq, Repr

/-- A buffer handle (R116): region word, length, state, and the readers in progress that keep it full (R117). -/
structure Handle where
  region : DWord
  len : Word
  st : HState
  readers : Nat
  deriving DecidableEq, Repr

/-- A thread waiting in HWAIT, or in HSET to make a transition (`sets`) once the handle is in the state it waits for
(R117), and whether that has come about since (R272). -/
structure HWait where
  tid : Nat
  h : Nat
  st : HState
  sets : Option HState
  done : Bool
  deriving DecidableEq, Repr

/-- An appended matrix operation (R276): its copied block, tick, block offset, and the C region's order mark of
deterministic launches (R154). -/
structure MxJob where
  blk : List Byte
  tick : Word
  off : Nat
  ser : Bool
  order : Nat
  deriving DecidableEq, Repr

/-- Operand bytes of a matrix operation: rows of A, columns of B, and their headers (R274). -/
structure MxOperands where
  a : List (List Byte)
  b : List (List Byte)
  ga : List (List Byte)
  gb : List (List Byte)
  deriving DecidableEq, Repr

/-- The running operation of a stream (R277): the job, and its operands once its reads are complete. -/
structure MxRun where
  job : MxJob
  ops : Option MxOperands
  /-- MODEL: operand bytes that it has read before the others (R278) -/
  early : Option MxOperands
  /-- MODEL: the 8×8 sub-tiles of C written before the others, by number, with the rows of C that each found (R153) -/
  tiles : List (Nat × List (List Byte))
  deriving DecidableEq, Repr

/-- A matrix stream (R103, R276, R277). -/
structure Stream where
  mxs : Word
  tick : Word
  queue : List MxJob
  running : Option MxRun
  deriving DecidableEq, Repr

/-- How far an accepted card has come (R286): not started, started, its accesses performed, its reads complete. -/
inductive CardPhase where
  | waiting | started | moved | readsDone
  deriving DecidableEq, Repr

/-- An accepted, unretired card (R283 to R286): sequence number, the card, its parameter block, the appending
thread, its place in the group order (R150), and its phase. -/
structure Card where
  seq : Nat
  bytes : List Byte
  blk : List Byte
  tid : Nat
  place : Nat
  phase : CardPhase
  /-- its handle's binding equals its write region (R286) -/
  writing : Bool
  /-- DEG and coefficients of the function-table record 2 in force at acceptance, for the compositor (R312) -/
  exp2 : List Word
  /-- MODEL: the typed store of its read region at an instant before its reads are complete (R115) -/
  early : Option Memory
  /-- when it came to its phase (R462) -/
  since : Nat
  deriving DecidableEq, Repr

/-- One append of cards by ENQ or a notify release: the count it left, its place and thread (R150, R282). -/
structure Append where
  upto : Word
  place : Nat
  tid : Nat
  deriving DecidableEq, Repr

/-- The command ring (R280, R283); NOTIFY itself lies in the L-store. -/
structure Ring where
  size : Nat
  accepted : Word
  stopped : Bool
  cards : List Card
  appends : List Append
  /-- the accepted cards that had not started when the team was saved, each one past its sequence number: they are accepted
  again, even with the ring stopped (R283, R451) -/
  again : List Append
  deriving DecidableEq, Repr

/-- A function-table record (R75). -/
structure FRec where
  deg : Nat
  a : Word
  b : Word
  c : List Word
  deriving DecidableEq, Repr

/-- A kernel's declarations (R342, R388). -/
structure Decl where
  dim : Nat
  width : Nat
  cls : Nat
  lstore : Nat
  astore : Nat
  wstore : Nat
  cstore : Nat
  handles : Nat
  streams : Nat
  phasers : Nat
  cphasers : Nat
  ring : Nat
  det : Nat
  entry : DWord
  ftab : DWord
  deriving DecidableEq, Repr

/-- A record of a deterministic team's write log (R406): a sector with its bytes and byte mask, or a reduction with
its thread and place in program order (R161, R325). -/
inductive LogRec where
  | store (sec : Nat) (data : Sec) (mask : BitVec 16)
  | red (pa n op : Nat) (v : DWord) (tid stamp : Nat)
  deriving DecidableEq, Repr

/-- Image STATE of a team (R378). -/
inductive TeamState where
  | running | shuttered | saved | retired
  deriving DecidableEq, Repr

/-- A fairness counter: its count, and the turn at which it reached its context's interval (R18). -/
structure FairCount where
  count : Nat
  reached : Option Nat
  deriving DecidableEq, Repr

/-- A team that has been placed (R30, R378). -/
structure Team where
  ref : TeamRef
  decl : Decl
  st : TeamState
  /-- bay of the team, die × 96 + bay -/
  bay : Nat
  /-- grant in force (R20) and width request: the last SETW, 0 if none (R25, R378) -/
  grant : Nat
  widthReq : Nat
  /-- pressure cap in force at its last placement (R20, R402) -/
  pcap : Nat
  /-- a request is pending (R25), the thread that made it, and the cycle its hold began -/
  reqPending : Bool
  setwBy : Nat
  hold : Option Nat
  trapv : DWord
  /-- FTB and the team's copy of its function table (R74) -/
  ftb : DWord
  ftab : List FRec
  hstat : Word
  lst : Memory
  ast : Memory
  wst : Memory
  cst : Memory
  handles : List Handle
  hwaits : List HWait
  streams : List Stream
  /-- Pc of team phasers (R229) -/
  tph : List Word
  ring : Ring
  /-- identifiers of the grids it launched (R296) -/
  children : List Nat
  /-- pending imprecise causes: cause number and address (R440) -/
  imprecise : List (Nat × Nat)
  /-- it has been resumed with causes pending, and none of its threads issues before they are delivered (R440) -/
  resumed : Bool
  /-- write log of a deterministic launch (R406) -/
  log : List LogRec
  /-- cycles each cohort, and the team for TRED, has stood divergent (R29) -/
  convAcc : List Nat
  /-- quadrant of each cohort slot (R404), the fairness counters of its cohorts and, by number, of its gangs (R18) -/
  quads : List Nat
  cfair : List FairCount
  gfair : List (Nat × FairCount)
  /-- MODEL: next gang number and the placement order -/
  gangs : Nat
  placedAt : Nat
  /-- the shutter is answered by the mailbox, to be resumed later (R450, R478) -/
  shutMb : Bool
  /-- failed typed-store lines (space, offset) and register lines (thread, register) (R446) -/
  badStore : List (Nat × Nat)
  badReg : List (Nat × Nat)
  /-- order in which MXOP words of the team executed (R154) -/
  mxOrder : Nat
  /-- MODEL: the turn at which a thread of the team last acquired what other teams do (R136) -/
  acquired : Nat
  /-- address of the team's image, 0 if it has none (R376, R378) -/
  image : Nat
  /-- lines of its image that its bay has written back and no longer holds, by their offset in units of 64 bytes: of registers,
  of predicates, and the first of each 4 KiB unit of a typed store (R381, R383) -/
  away : List Nat
  threads : List Thread
  deriving DecidableEq, Repr

/-- Grid states: accepted and waiting for its dependence, waiting for placement, running, retired (R396 to R400). -/
inductive GridState where
  | waiting | ready | retired
  deriving DecidableEq, Repr

/-- A grid (R31, R389, R390, R395, R399). -/
structure Grid where
  ctx : Nat
  gid : Nat
  st : GridState
  /-- completion STATUS: 1 completed, 2 skipped, 3 refused, 4 killed (R399) -/
  status : Nat
  cond : Bool
  cores : Bool
  timed : Bool
  group : Nat
  prio : Nat
  nteams : Nat
  decl : Decl
  /-- the function table read at acceptance (R74) -/
  ftab : List FRec
  args : DWord
  rngkey : DWord
  depaddr : Nat
  depval : Nat
  sigaddr : Nat
  tstart : Nat
  predaddr : Nat
  logbase : Nat
  logsize : Nat
  cmpl : Nat
  /-- depth (R34) and the launching team of a child -/
  depth : Nat
  parent : Option TeamRef
  /-- acceptance order, when it last placed a team (R403), teams placed and retired so far -/
  order : Nat
  waitSince : Nat
  placed : Nat
  retired : Nat
  tbegin : Nat
  phases : Nat
  reruns : Nat
  killn : Nat
  /-- of a grid that retires: how many acts of it are done, and the messages to peers (peer and number) of the last one that are
  awaited before the next (R400) -/
  retiring : Option (Nat × List (Nat × Nat))
  /-- Pc of cluster phasers by cluster group, and of grid phasers (R229) -/
  cph : List (List Word)
  gph : List Word
  /-- bytes as they stood at the start of the phase, of lines committed early (R408) -/
  phaseImg : Memory
  phaseHeld : List Nat
  deriving DecidableEq, Repr

/-- Context states (R376). -/
inductive CtxState where
  | free | resident | saved | killing | killed
  deriving DecidableEq, Repr

/-- A context the module knows (R373, R376, R395). -/
structure Ctx where
  id : Nat
  st : CtxState
  part : Nat
  asid : Nat
  fairk : Nat
  ptroot : DWord
  svec : DWord
  nextGid : Nat
  killn : Nat
  deriving DecidableEq, Repr

/-- A sector held by an L1 (own = bay, 0 to 767) or a cluster cache (own = 768 + cluster) (R121), at the lowest retention
priority where it was brought there by a streaming access (R127). -/
structure CacheSec where
  own : Nat
  sec : Nat
  data : Sec
  dirty : Bool
  stream : Bool
  deriving DecidableEq, Repr

/-- A leaf held by a bay's L1 TLB (own = bay) or a cluster TLB (own = 768 + cluster) (R422). -/
structure TlbEnt where
  own : Nat
  asid : Nat
  base : Nat
  size : Nat
  leaf : DWord
  deriving DecidableEq, Repr

/-- A table entry, no leaf, that a die's walk cache holds (R422): the ASID, the range of addresses it serves, its level. -/
structure WalkEnt where
  die : Nat
  asid : Nat
  base : Nat
  size : Nat
  level : Nat
  entry : Nat
  deriving DecidableEq, Repr

/-- A promotion-filter entry (R146): home slice, line, the clusters that recorded a release. -/
structure PromEnt where
  slice : Nat
  line : Nat
  clusters : List Nat
  deriving DecidableEq, Repr

/-- Who waits in a latch entry: a thread (R234) or the front end for a grid (R396). -/
inductive Waiter where
  | thread (r : ThreadRef)
  | grid (ctx gid : Nat)
  deriving DecidableEq, Repr

/-- Where a latch entry is held (R237, R239). -/
inductive LatchAt where
  | table | overflow | bay | peer
  deriving DecidableEq, Repr

/-- A thread's share of a latch entry (R234): what it watches, its condition, deadline, place, and the recorded
outcome (R238, R454). -/
structure Latch where
  who : Waiter
  cohort : Nat
  gang : Nat
  /-- home slice of the line, die × 160 + slice (R123) -/
  slice : Nat
  pa : Nat
  cc : Nat
  wide : Bool
  operand : DWord
  deadline : Option Nat
  place : LatchAt
  /-- judged on the team's own view (deterministic launches, R160, R239) -/
  ownView : Bool
  /-- its deadline has passed at this very instant: a write of the instant still satisfies it (R236) -/
  lapsed : Bool
  /-- when its line was last read again for it, from the issuing bay (R237) or from the host (R239) -/
  reread : Nat
  outcome : Option Bool
  deriving DecidableEq, Repr

/-- A numbered message to a peer that is not yet acknowledged (R157, R158): a write, or with n = 0 a read (R433). -/
structure PodMsg where
  who : Option ThreadRef
  peer : Nat
  seq : Nat
  pa : Nat
  n : Nat
  v : Nat
  flag : Bool
  deriving DecidableEq, Repr

/-- A sector held at a home slice apart from what is behind it: of a pod-tier line (R157), dirty until written at the peer;
or in an L2 slice, dirty until written to memory. -/
structure PodSec where
  sec : Nat
  data : Sec
  dirty : Bool
  deriving DecidableEq, Repr

/-- Ownership of a line by the teams of a deterministic phase (R407). -/
structure Owner where
  ctx : Nat
  gid : Nat
  slice : Nat
  line : Nat
  teams : List Nat
  shared : Bool
  spilled : Bool
  deriving DecidableEq, Repr

/-- The memory system: home images, caches, instruction caches, TLBs, promotion filters, latch tables, failed
sectors, pod-tier lines and messages, ownership tables. -/
structure MemSys where
  mem : Memory
  caches : List CacheSec
  icache : List CodeLine
  tlb : List TlbEnt
  walks : List WalkEnt
  prom : List PromEnt
  promAll : List Nat
  latches : List Latch
  failed : List Nat
  /-- local home copies of pod-tier sectors, keyed by node and address (R157) -/
  pod : List PodSec
  podOut : List PodMsg
  podSeq : List (Nat × Nat)
  podIn : List (Nat × Nat)
  owners : List Owner
  /-- sectors that L2 slices hold apart from memory: of host-tier pages, and of pages away from their default home
  (R121, R155, R418) -/
  l2 : List PodSec
  /-- lines whose tags at their home slices have the spill bit (R237) -/
  spill : List Nat
  /-- links of the expander ports (R431), coded as EXPL of R474: 0 absent, 1 training, 2 up, 3 down -/
  expl : List Nat
  deriving DecidableEq, Repr

/-- A partition table entry (R385). -/
structure Part where
  valid : Bool
  cdmask : Nat
  asidBase : Nat
  asidCnt : Nat
  ctxBase : Nat
  ctxCnt : Nat
  qmask : Nat
  wins : List (Nat × Nat)
  deriving DecidableEq, Repr

/-- DIESTATE codes (R474). -/
inductive DieState where
  | off | training | ready | degraded | failed
  deriving DecidableEq, Repr

/-- A die (R458 to R467): state, power cap, stretched clock, lost reference, largest time returned, error counts,
bays started. -/
structure Die where
  st : DieState
  cap : Nat
  stretched : Bool
  refLost : Bool
  lastTime : Nat
  corr : Nat
  uncorr : Nat
  bays : Nat
  /-- when the last bays of it started, and those that are power-gated since (R467) -/
  batchAt : Nat
  gated : List Nat
  /-- when the IOD last answered it (R464) -/
  heard : Nat
  deriving DecidableEq, Repr

/-- A host launch queue's counts (R393). -/
structure HostQueue where
  head : Word
  tail : Word
  deriving DecidableEq, Repr

/-- A slot of a host queue that the front end has judged and not yet passed (R394, R400): the context, the completion record
still to be written for a refused launch, with its reason, and the address of the head count. -/
structure QueuePass where
  queue : Nat
  ctx : Nat
  cmpl : Nat
  reason : Nat
  headAddr : Nat
  deriving DecidableEq, Repr

/-- SERVICE codes (R474), and off before power-on reset has run. -/
inductive Service where
  | off | recovery | reduced | full
  deriving DecidableEq, Repr

/-- An export window (R433, R469). -/
structure ExportWin where
  base : Nat
  size : Nat
  home : Nat
  deriving DecidableEq, Repr

/-- A thread blocked in LAUNCH, with its descriptor's virtual address (R295). -/
structure LaunchReq where
  who : ThreadRef
  desc : Nat
  deriving DecidableEq, Repr

/-- A migration that a migration engine holds, or the bias flip in progress (R429, R430): its record and partition; the
address, value and page size exponent of its entry; the stage it has come to; and how it will end; and the context whose page it
is. -/
structure TransJob where
  record : List Byte
  part : Nat
  ctx : Nat
  entryAt : Nat
  entry : Nat
  k : Nat
  stage : Nat
  status : Nat
  pages : Nat
  /-- it has shot down its page since it last asked for that (R427) -/
  shot : Bool
  deriving DecidableEq, Repr

/-- The I/O die's registers and tables (R373, R384, R403, R442, R462, R468 to R476). -/
structure Iod where
  ctxtb : Nat
  lqtb : Nat
  fqb : List (Nat × Nat)
  priwt : Nat
  lovb : Nat
  lovs : Nat
  /-- LOVB and LOVS requested while an entry is spilled (R375) -/
  lovNext : Option (Nat × Nat)
  lto : Nat
  parts : List Part
  node : Option Nat
  exports : List ExportWin
  queues : List HostQueue
  /-- slots judged and not yet passed -/
  passes : List QueuePass
  /-- MBCTL: the record address while BUSY (R468) -/
  mb : Option Nat
  /-- the record as it was taken (R468) -/
  mbrec : List Byte
  /-- the shootdowns asked for, in their order of arrival: 0 of the mailbox, 1 and 2 of the migration engines (R427) -/
  shootq : List Nat
  /-- the bias flip in progress (R430) -/
  transreq : Option TransJob
  /-- the requests of the two migration engines, oldest first (R429) -/
  movers : List (List TransJob)
  mbdrop : Nat
  service : Service
  /-- training has ended and full service is due once no team is placed (R473) -/
  trained : Bool
  dies : List Die
  hbm : List DieState
  hostl : List Nat
  podl : List Nat
  /-- routes to the nodes of the pod: node and port (R471) -/
  routes : List (Nat × Nat)
  ucieDown : Nat
  retired : Nat
  ltocnt : Nat
  /-- flit CRC retries are counted nowhere; this is the last port retried (R471) -/
  crcPort : Option Nat
  /-- firmware slot: version, security version, whether its signature verifies (R475) -/
  fwver : Nat
  fwsec : Nat
  fwok : Bool
  fwimage : List Byte
  /-- the verified image that FWLOAD is writing into the slot (R475) -/
  fwwrite : Option (List Byte)
  /-- a context has been resident since reset (R461) -/
  everResident : Bool
  launches : List LaunchReq
  accepted : Nat
  /-- MODEL: value the host last read from device memory (R155) -/
  hostRead : Nat
  /-- lane groups fused off: (bay, quadrant, working groups) (R21) -/
  fused : List (Nat × Nat × Nat)
  /-- alignment to the pod's time source: measurements since joining, rate in parts per million, and what the rate has yielded so
  far of the next nanosecond, in millionths (R461) -/
  syncCount : Nat
  syncRate : Int
  syncRem : Int
  deriving DecidableEq, Repr

/-- How an issue group stops short of its end: a delivered cause (number, address, code), a parked translation
fault (address, access kind, level), a locked page, or a word that blocks. -/
inductive Halt where
  | trap (cause addr code : Nat)
  | park (va kind level : Nat)
  | aside (va : Nat)
  | block
  deriving DecidableEq, Repr

/-- MODEL: the issue group being performed: its words, the index of the word now performed, the thread and its team as they
stood before the group (R176), and how the group stopped short, if it did. -/
structure Group where
  words : List Word
  pos : Nat
  view : Thread
  team : Team
  stop : Option Halt
  deriving DecidableEq, Repr

/-- MODEL: a store or reduction that a gang has passed and that is not performed yet (R138, R145): the word, the threads at it
as they stood, in ascending index, the 64-byte lines they access, and the leaves by which their accesses were translated. -/
structure LateWord where
  word : Word
  team : TeamRef
  threads : List Thread
  lines : List Nat
  tlb : List TlbEnt
  deriving DecidableEq, Repr

/-- MODEL: what happens at one turn: an event, a thread's next issue group, an issue cycle of a quadrant of a bay
(R17) or of several in one cycle, an issue whose store or reduction is performed later, or the performance of one such (R138, R145), a card or a stream's
operation that reads typed stores before its other reads (R115, R278), or one that writes a sub-tile of C before the others (R153);
a group's request that leaves for another die and stays outstanding (R462); or, from outside, a route to a node of the pod that
appears or goes (R471), a host port whose link changes (R474), an idle bay that is power-gated (R467). -/
inductive Act where
  | event (i : Instr)
  | issue (r : ThreadRef)
  | issueLate (r : ThreadRef)
  | send (r : ThreadRef)
  | performLate (n : Nat)
  | cycle (quads : List (Nat × Nat))
  | cardEarly (r : TeamRef) (seq : Nat)
  | mxEarly (r : TeamRef) (stream : Nat)
  | mxTile (r : TeamRef) (stream tile : Nat)
  | route (node port : Nat) (up : Bool)
  | hostLink (port st : Nat)
  | gate (die bay : Nat)
  deriving DecidableEq, Repr

/-- MODEL: one turn: nanoseconds and cycles that pass before it, and the act. -/
structure Turn where
  dns : Nat
  dcy : Nat
  act : Act
  deriving DecidableEq, Repr

/-- The whole machine. `th`, `tm` and `grp` are the FOCUS: the thread whose issue group is being performed, and
its team, copied out of `teams` for the duration of the group. -/
structure State where
  th : Thread
  tm : Team
  grp : Group
  ms : MemSys
  teams : List Team
  grids : List Grid
  ctxs : List Ctx
  iod : Iod
  /-- IOD nanosecond count (R459) -/
  time : Nat
  /-- MODEL: cycles counted since reset (R18) -/
  cycle : Nat
  /-- MODEL: the misses walked for in this turn and found invalid: die, ASID, 64 KiB page (R424) -/
  walked : List (Nat × Nat × Nat)
  /-- MODEL: requests that leave a die now are not answered at once (R462) -/
  sending : Bool
  /-- MODEL: counter of free values drawn -/
  draws : Nat
  /-- MODEL: counter of turns, of acceptances and appends (orders) -/
  turns : Nat
  /-- MODEL: stores and reductions passed and not performed yet, oldest first -/
  late : List LateWord
  /-- MODEL: the turns to come; when empty the default policy chooses -/
  agenda : List Turn
  deriving DecidableEq, Repr

/-- No rule of the spec stops the whole module: a trap, a kill or a refused record leaves a next state. -/
inductive Fault
  deriving DecidableEq, Repr

/-- Why a step has no meaning. -/
inductive Refusal where
  /-- Raised by exec alone, for an instruction the model gives no meaning yet (safe). -/
  | notModelled (mnemonic : String)
  deriving DecidableEq, Repr

/-- A thread with nothing in it: registers 0, p0 true, at user level. -/
def Thread.blank : Thread where
  tid := 0
  pc := 0
  seg := 0
  regs := List.replicate 64 0
  preds := true :: List.replicate 47 false
  gsel := 0
  fpc := 0
  fps := 0
  rngk := 0
  rngc := 0
  trapc := 0
  trapa := 0
  trappc := 0
  timeout := 10000000
  sup := false
  tl := false
  spc := 0
  scause := 0
  saddr := 0
  sgrp := [0, 0, 0]
  sscr := [0, 0, 0, 0]
  status := .exited
  pending := []
  ph := List.replicate 28 ⟨true, true, 0, 0⟩
  walk := none
  step := none
  bay := 0
  migrated := false
  gang := 0
  conv := none
  since := 0
  yielded := false
  passed := false
  held := false
  woke := none
  sent := none
  issued := []
  copy := none
  relFence := 0
  fin := false
  entering := false
  asked := none
  lost := []
  fetched := []
  stamp := 0

/-- Declarations with every default of R335. -/
def Decl.blank : Decl := ⟨64, 64, 0, 0, 0, 0, 0, 0, 0, 0, 0, 0, 0, 0, 0⟩

/-- A team with nothing allocated and no thread. -/
def Team.blank : Team where
  ref := ⟨0, 0, 0⟩
  decl := Decl.blank
  st := .retired
  bay := 0
  grant := 64
  widthReq := 0
  pcap := 64
  reqPending := false
  setwBy := 0
  hold := none
  trapv := 0
  ftb := 0
  ftab := []
  hstat := 0
  lst := ⟨[]⟩
  ast := ⟨[]⟩
  wst := ⟨[]⟩
  cst := ⟨[]⟩
  handles := []
  hwaits := []
  streams := []
  tph := List.replicate 16 0
  ring := ⟨0, 0, false, [], [], []⟩
  children := []
  imprecise := []
  resumed := false
  log := []
  convAcc := []
  quads := []
  cfair := []
  gfair := []
  gangs := 0
  placedAt := 0
  shutMb := false
  badStore := []
  badReg := []
  mxOrder := 0
  acquired := 0
  image := 0
  away := []
  threads := []

/-- The partition table after power-on reset (R385): one partition with every die, ASID, context and queue, and
windows that cover every window of R416. -/
def Part.reset : Part := ⟨true, 0xFF, 0, 512, 0, 4096, 2 ^ 64 - 1, [(0, 2 ^ 52)]⟩

/-- A partition table entry that is not in use (R385). -/
def Part.unused : Part := ⟨false, 0, 0, 0, 0, 0, 0, []⟩

/-- No die: off and without power. -/
def Die.none : Die := ⟨.off, 0, false, false, 0, 0, 0, 0, 0, [], 0⟩

/-- The dies at power-on (R458, R465): off, at their fixed caps. -/
def Die.resetAll : List Die :=
  List.replicate 8 ⟨.off, 740, false, false, 0, 0, 0, 0, 0, [], 0⟩ ++ List.replicate 4 ⟨.off, 120, false, false, 0, 0, 0, 0, 0, [], 0⟩ ++
  List.replicate 2 ⟨.off, 150, false, false, 0, 0, 0, 0, 0, [], 0⟩ ++ [⟨.off, 200, false, false, 0, 0, 0, 0, 0, [], 0⟩]

/-- The memory system at power-on: nothing listed, cached or waiting, no expander's link up. -/
def MemSys.reset : MemSys := ⟨⟨[]⟩, [], [], [], [], [], [], [], [], [], [], [], [], [], [], [], [0, 0, 0, 0]⟩

/-- The I/O die after power-on reset (R470, R403, R462), before its controller has started the dies (R472). -/
def Iod.reset : Iod where
  ctxtb := 0
  lqtb := 0
  fqb := List.replicate 8 (0, 0)
  priwt := 1000000
  lovb := 0
  lovs := 4
  lovNext := none
  lto := 100000
  parts := Part.reset :: List.replicate 7 Part.unused
  node := none
  exports := []
  queues := List.replicate 64 ⟨0, 0⟩
  passes := []
  mb := none
  mbrec := []
  shootq := []
  transreq := none
  movers := [[], []]
  mbdrop := 0
  service := .off
  trained := false
  dies := Die.resetAll
  hbm := List.replicate 16 .off
  hostl := [0, 0]
  podl := List.replicate 16 0
  routes := []
  ucieDown := 0
  retired := 0
  ltocnt := 0
  crcPort := none
  fwver := 0
  fwsec := 0
  fwok := true
  fwimage := []
  fwwrite := none
  everResident := false
  launches := []
  accepted := 0
  hostRead := 0
  fused := []
  syncCount := 0
  syncRate := 0
  syncRem := 0

/-- The machine right after power-on reset (R470): no context, grid or team, memory with nothing listed, time 0
(R459), and the first act of the IOD, POWER_ON_RESET (R472), due by the default policy. -/
def State.reset : State where
  th := Thread.blank
  tm := Team.blank
  grp := ⟨[], 0, Thread.blank, Team.blank, none⟩
  ms := MemSys.reset
  teams := []
  grids := []
  ctxs := []
  iod := Iod.reset
  time := 0
  cycle := 0
  walked := []
  sending := false
  draws := 0
  turns := 0
  late := []
  agenda := []

end Sys2Proof.Machine
end

