-- ==== Sys2Proof/Machine/Mem.lean ====
section
/-! DEFINITION. A memory as a canonical list of bytes: reading, writing, sectors of 16 bytes. It serves for
global memory (by physical address) and for the typed stores (by offset). -/

namespace Sys2Proof.Machine

/-- What an unlisted byte reads as: zero. The spec says so of the typed stores (R113); of power-on memory it says
nothing (assumption 2). -/
def Memory.default : Byte := 0

/-- Addresses strictly rising from `lo` on, and no entry equal to the default. -/
def Memory.wfFrom (lo : Nat) : List Host.Cell → Bool
  | [] => true
  | (a, b) :: t => lo ≤ a && b != Memory.default && Memory.wfFrom (a + 1) t

/-- The canonical form. -/
def Memory.wf (m : Memory) : Bool := Memory.wfFrom 0 m.cells

def Memory.getIn (a : Nat) : List Host.Cell → Byte
  | [] => Memory.default
  | (k, b) :: t => if k == a then b else Memory.getIn a t

/-- The byte at an address. -/
def Memory.get (m : Memory) (a : Nat) : Byte := Memory.getIn a m.cells

/-- Inserts an entry before the first one with a higher address. -/
def Memory.insertIn (a : Nat) (v : Byte) : List Host.Cell → List Host.Cell
  | [] => [(a, v)]
  | (k, b) :: t => if a < k then (a, v) :: (k, b) :: t else (k, b) :: Memory.insertIn a v t

/-- Puts a byte into an ordered list, keeping the canonical form. -/
def Memory.putIn (a : Nat) (v : Byte) (l : List Host.Cell) : List Host.Cell :=
  let rest := l.filter fun c => c.1 != a
  if v == Memory.default then rest else Memory.insertIn a v rest

/-- Writes one byte. -/
def Memory.put (m : Memory) (a : Nat) (v : Byte) : Memory := ⟨Memory.putIn a v m.cells⟩

/-- The n bytes from an address on. -/
def Memory.read (m : Memory) (a : Nat) : Nat → List Byte
  | 0 => []
  | n + 1 => m.get a :: m.read (a + 1) n

/-- Writes bytes from an address on. -/
def Memory.write (m : Memory) (a : Nat) : List Byte → Memory
  | [] => m
  | b :: t => (m.put a b).write (a + 1) t

/-- The n bytes from an address on as a number (little-endian). -/
def Memory.readNat (m : Memory) (a n : Nat) : Nat := ofBytes (m.read a n)

/-- Writes the n low bytes of a number. -/
def Memory.writeNat (m : Memory) (a n v : Nat) : Memory := m.write a (toBytes n v)

/-- The sector at sector number q (address 16 × q). -/
def Memory.sector (m : Memory) (q : Nat) : Sec := BitVec.ofNat 128 (m.readNat (16 * q) 16)

/-- Writes a whole sector. -/
def Memory.putSector (m : Memory) (q : Nat) (v : Sec) : Memory := m.writeNat (16 * q) 16 v.toNat

/-- The n bytes at offset o of a sector. -/
def secBytes (v : Sec) (o n : Nat) : List Byte := toBytes n (v.toNat / 256 ^ o)

/-- A sector with bytes replaced from offset o on. -/
def secPut (v : Sec) (o : Nat) (bs : List Byte) : Sec :=
  BitVec.ofNat 128 (ofBytes (secBytes v 0 o ++ bs ++ secBytes v (o + bs.length) (16 - o - bs.length)))

end Sys2Proof.Machine
end

