-- ==== Sys2Proof/Machine/Cache.lean ====
section
/-! DEFINITION. Home slices, caches, latch entries and the promotion filter (R121 to R127, R139 to R148, R233 to
R239). A home address is a physical address, (node + 1) × 2^52 above it for a pod-tier line, and (HOME + 1) × 2^72 above it
for a line that its page homes on another die than its default home (R418). An L2 slice holds sectors apart from the memory
behind it (R121). -/

namespace Sys2Proof.Machine

/-- The cluster of a bay: die × 12 + cluster within the die. -/
def clusterOf (bay : Nat) : Nat := bay / 8

/-- Owner number of a cluster cache among the caches of MemSys. -/
def clOwn (c : Nat) : Nat := 768 + c

/-- Whether an owner number belongs to cluster c: one of its L1s or its cluster cache. -/
def ofCluster (c own : Nat) : Bool := own == clOwn c || (own < 768 && own / 8 == c)

/-- Host memory begins here (R416); below lie the near and the far tier, at their default homes. -/
def hostBase : Nat := 2 ^ 51

/-- Home addresses of pod-tier lines lie here and above. -/
def podBase : Nat := 2 ^ 52

/-- Home addresses on another die than the default home lie here and above. -/
def aliasBase : Nat := 2 ^ 72

/-- A sector number without its home die. -/
def physSec (q : Nat) : Nat := q % (aliasBase / 16)

/-- Whether a home address is one of a pod-tier line. -/
def isPod (ha : Nat) : Bool := podBase ≤ ha % aliasBase

/-- The home slice of a line on a die, as die × 160 + slice (R123). -/
def homeSlice (die ha : Nat) : Nat :=
  let pa := ha % podBase
  let h := (bits pa 21 6 ^^^ bits pa 37 22) ^^^ bits pa 51 38
  die * 160 + h * 160 / 65536

/-- The home image of a sector: as its L2 slice holds it, or else as memory does. -/
def homeSector (ms : MemSys) (q : Nat) : Sec :=
  match (if isPod (16 * q) then ms.pod else ms.l2).find? (fun p => p.sec == q) with
  | some p => p.data
  | none => if isPod (16 * q) then 0 else ms.mem.sector (q % (podBase / 16))

/-- Bytes of the home image; those of which no L2 slice holds a sector are memory's. -/
def homeRead (ms : MemSys) (ha n : Nat) : List Byte :=
  if ha + n ≤ podBase && ms.l2.all (fun p => 16 * p.sec + 16 ≤ ha || ha + n ≤ 16 * p.sec) then ms.mem.read ha n
  else (rangeFrom ha n).flatMap fun a => secBytes (homeSector ms (a / 16)) (a % 16) 1

def homeNat (ms : MemSys) (ha n : Nat) : Nat := ofBytes (homeRead ms ha n)

/-- The condition of a WAITU (R232): CC, size, value and operand. -/
def latchCond (cc : Nat) (wide : Bool) (v x : Nat) : Bool :=
  let n := if wide then 64 else 32
  let v := v % 2 ^ n
  let x := x % 2 ^ n
  match cc with
  | 0 => v == x
  | 1 => v != x
  | 2 => sextN v n < sextN x n
  | 3 => sextN v n ≥ sextN x n
  | 4 => v < x
  | 5 => v ≥ x
  | 6 => v &&& x != 0
  | _ => v &&& x == 0

def latchHolds (ms : MemSys) (l : Latch) : Bool :=
  latchCond l.cc l.wide (homeNat ms l.pa (if l.wide then 8 else 4)) l.operand.toNat

/-- Re-evaluates the entries of a line after a write at its home slice (R235), those in the overflow region where the line's
spill bit is set (R237). Entries held by an issuing bay re-read the line themselves (R237), entries of a deterministic launch
see their team's view (R239), and entries at a pod peer see the peer's writes. -/
def wakeLine (ms : MemSys) (line : Nat) : MemSys :=
  { ms with
    latches := ms.latches.map fun l =>
      if l.pa / 64 == line && l.outcome.isNone && !l.ownView && (l.place == .table || (l.place == .overflow && ms.spill.contains line)) && latchHolds ms l then
        { l with outcome := some true }
      else l }

/-- A write of at most 16 bytes of one sector at its home slice. A whole sector clears its failed mark (R447). -/
def homeWrite (ms : MemSys) (ha : Nat) (bs : List Byte) : MemSys :=
  let q := ha / 16
  let put := fun (l : List PodSec) => (⟨q, secPut (homeSector ms q) (ha % 16) bs, true⟩ : PodSec) :: l.filter (fun p => p.sec != q)
  let ms1 : MemSys :=
    if isPod ha then { ms with pod := put ms.pod }
    else if ms.l2.any fun p => p.sec == q then { ms with l2 := put ms.l2 }
    else { ms with mem := ms.mem.write (ha % podBase) bs }
  let ms2 := if bs.length == 16 then { ms1 with failed := ms1.failed.filter (· != physSec q) } else ms1
  wakeLine ms2 (ha / 64)

/-- Whether a home address lies behind an expander port whose link is not up (R416, R431). -/
def portDown (ms : MemSys) (ha : Nat) : Bool :=
  let pa := ha % aliasBase
  2 ^ 48 ≤ pa && pa < 5 * 2 ^ 48 && nth ms.expl (pa / 2 ^ 48 - 1) 0 != 2

/-- A sector that memory cannot give: it is marked failed (R446), or lies behind a link that is down (R431). -/
def MemSys.lost (ms : MemSys) (q : Nat) : Bool := ms.failed.contains (physSec q) || portDown ms (16 * q)

/-- A sector held by an L1 or cluster cache. -/
def cacheGet (ms : MemSys) (own q : Nat) : Option CacheSec :=
  ms.caches.find? fun c => c.own == own && c.sec == q

def cacheDrop (ms : MemSys) (own q : Nat) : MemSys :=
  { ms with caches := ms.caches.filter fun c => !(c.own == own && c.sec == q) }

/-- Puts a sector into a cache; `stream` gives it the lowest retention priority. -/
def cachePut (ms : MemSys) (own q : Nat) (v : Sec) (dirty stream : Bool) : MemSys :=
  { ms with caches := ⟨own, q, v, dirty, stream⟩ :: ms.caches.filter fun c => !(c.own == own && c.sec == q) }

/-- The L1 of cluster c that holds a sector dirty, if any (R122: at most one). -/
def dirtyL1 (ms : MemSys) (c q : Nat) : Option CacheSec :=
  ms.caches.find? fun x => x.sec == q && x.dirty && x.own < 768 && x.own / 8 == c

/-- Merges a dirty L1 copy of a sector into the cluster cache, which snoops its L1s (R121). -/
def pullUp (ms : MemSys) (c q : Nat) : MemSys :=
  match dirtyL1 ms c q with
  | none => ms
  | some x => cachePut (cachePut ms (clOwn c) q x.data true x.stream) x.own q x.data false x.stream

/-- Takes a line exclusive for one L1 of cluster c, or for none: every other L1 copy of it is dropped, after dirty sectors
have been merged into the cluster cache (R122). -/
def takeLine (ms : MemSys) (c line keep : Nat) : MemSys :=
  let away := fun (x : CacheSec) => x.sec / 4 == line && x.own < 768 && x.own / 8 == c && x.own != keep
  let ms := (ms.caches.filter fun x => away x && x.dirty).foldl (fun ms x => pullUp ms c x.sec) ms
  { ms with caches := ms.caches.filter fun x => !away x }

/-- Writes a dirty sector of cluster c back whole to its home slice (R125); the copies stay, clean. -/
def writeBack (ms : MemSys) (c q : Nat) : MemSys :=
  let ms := pullUp ms c q
  match cacheGet ms (clOwn c) q with
  | some x => if x.dirty then homeWrite (cachePut ms (clOwn c) q x.data false x.stream) (16 * q) (secBytes x.data 0 16) else ms
  | none => ms

/-- Writes back, then drops every copy of a sector in cluster c. -/
def evict (ms : MemSys) (c q : Nat) : MemSys :=
  let ms := writeBack ms c q
  { ms with caches := ms.caches.filter fun x => !(x.sec == q && ofCluster c x.own) }

/-- Sectors that a cache holds at most (R121): 256 KiB in an L1, 4 MiB in a cluster cache. -/
def cacheRoom (own : Nat) : Nat := if own < 768 then 16384 else 262144

/-- What a full cache gives up for another sector: the oldest streaming sector, or else the oldest (R127). -/
def victimOf (ms : MemSys) (own : Nat) : Option CacheSec :=
  let mine := (ms.caches.filter fun c => c.own == own).reverse
  if mine.length < cacheRoom own then none else (mine.find? (·.stream)).orElse fun _ => mine.head?

/-- Makes room in a cache for one more sector: from an L1 the sector goes to the cluster cache, from there to its home. -/
def makeRoom (ms : MemSys) (own : Nat) : MemSys :=
  match victimOf ms own with
  | none => ms
  | some x => if own < 768 then cacheDrop (pullUp ms (own / 8) x.sec) own x.sec else evict ms (own - 768) x.sec

/-- Sectors in ascending order, each once. -/
def sortDedup (l : List Nat) : List Nat :=
  (sortBy (fun a b => decide (a < b)) l).foldl (fun acc x => if acc.contains x then acc else acc ++ [x]) []

/-- The sectors that cluster c holds dirty. -/
def dirtyOf (ms : MemSys) (c : Nat) : List Nat :=
  sortDedup ((ms.caches.filter fun x => x.dirty && ofCluster c x.own).map (·.sec))

/-- Every dirty sector of cluster c is written back to its home slice and acknowledged (R139, R140). -/
def flushCluster (ms : MemSys) (c : Nat) : MemSys := (dirtyOf ms c).foldl (fun ms q => writeBack ms c q) ms

/-- The clean sectors of cluster c, in its L1s and its cluster cache, are invalidated (R139); dirty ones stay. -/
def invalidateClean (ms : MemSys) (c : Nat) : MemSys :=
  let dirty := dirtyOf ms c
  { ms with caches := ms.caches.filter fun x => !ofCluster c x.own || dirty.contains x.sec }

/-- Retention of an access (R127, R419): 0 normal, 1 streaming, 2 L1 bypass, 3 uncached, at the home slice. -/
abbrev Alloc := Nat

/-- The point of a scope (R124): team the L1, cluster the cluster cache, device and system the home slice. -/
def scopeAlloc (sc : Nat) : Alloc := if sc == 0 then 0 else if sc == 1 then 2 else 3

/-- Whether an address is one of host memory. -/
def isHost (ha : Nat) : Bool := hostBase ≤ ha % aliasBase && ha % aliasBase < podBase

/-- Sectors that an L2 slice holds at most (R121): 512 KiB. -/
def l2Room : Nat := 32768

/-- The home die of a home address: its own, or the default one (R416, R418). -/
def homeDie (ha : Nat) : Nat := if aliasBase ≤ ha then ha / aliasBase - 1 else bits ha 32 30

/-- The home slice of a sector. -/
def sliceOf (q : Nat) : Nat := homeSlice (homeDie (16 * q)) (16 * q)

/-- The sectors that the home slice of a sector holds, pod-tier ones among them, newest last. -/
def sliceHolds (ms : MemSys) (q : Nat) : List PodSec := (ms.pod.reverse ++ ms.l2).filter fun p => sliceOf p.sec == sliceOf q

/-- An L2 slice has room for one more sector. -/
def l2Free (ms : MemSys) (q : Nat) : Bool := ms.pod.length + ms.l2.length < l2Room || (sliceHolds ms q).length < l2Room

/-- A fill of a cache leaves a copy in the sector's L2 slice, where it has room. -/
def l2Fill (ms : MemSys) (q : Nat) : MemSys :=
  if !isPod (16 * q) && !(ms.l2.any fun p => p.sec == q) && l2Free ms q then
    { ms with l2 := ms.l2 ++ [⟨q, homeSector ms q, false⟩] }
  else ms

/-- An L2 slice writes a sector it holds dirty to memory, and may drop it. -/
def l2WriteBack (ms : MemSys) (q : Nat) (drop : Bool) : MemSys :=
  let ms1 : MemSys :=
    match ms.l2.find? fun p => p.sec == q with
    | some p => if p.dirty then { ms with mem := ms.mem.putSector (q % (podBase / 16)) p.data } else ms
    | none => ms
  { ms1 with
    l2 := if drop then ms1.l2.filter fun p => p.sec != q else ms1.l2.map fun p => if p.sec == q then { p with dirty := false } else p }

/-- The sectors that n bytes from an address on touch. -/
def sectorsOf (ha n : Nat) : List Nat := if n == 0 then [] else rangeFrom (ha / 16) ((ha + n - 1) / 16 - ha / 16 + 1)

/-- What L2 slices hold dirty of n bytes of host memory reaches the host (R157). -/
def toHost (ms : MemSys) (ha n : Nat) : MemSys :=
  ((ms.l2.filter fun p => isHost (16 * p.sec) && (sectorsOf ha n).contains p.sec).map (·.sec)).foldl (fun ms q => l2WriteBack ms q false) ms

/-- The next sequence number to a peer, and the numbering after it (R158: 48 bits). -/
def podNext (ms : MemSys) (peer : Nat) : Nat × MemSys :=
  match ms.podSeq.find? fun p => p.1 == peer with
  | some p => (p.2, { ms with podSeq := ms.podSeq.map fun q => if q.1 == peer then (peer, (q.2 + 1) % 2 ^ 48) else q })
  | none => (0, { ms with podSeq := ms.podSeq ++ [(peer, 1)] })

/-- Sends a numbered message to a peer (R157, R158); of no bytes it is a read, which the peer may refuse (R433). -/
def podSend (ms : MemSys) (who : Option ThreadRef) (ha n v : Nat) (flag : Bool) : MemSys :=
  let peer := ha % aliasBase / podBase - 1
  let (k, ms) := podNext ms peer
  { ms with podOut := ms.podOut ++ [⟨who, peer, k, ha % podBase, n, v, flag⟩] }

/-- Sends what a home slice holds dirty of a pod-tier sector to the peer; the local copy stays, clean, or is dropped. -/
def podWriteBack (ms : MemSys) (who : Option ThreadRef) (q : Nat) (drop : Bool) : MemSys :=
  let ms := (ms.pod.filter fun p => p.sec == q && p.dirty).foldl (fun ms p => podSend ms who (16 * p.sec) 16 p.data.toNat false) ms
  { ms with pod := if drop then ms.pod.filter fun p => p.sec != q else ms.pod.map fun p => if p.sec == q then { p with dirty := false } else p }

/-- Who sends a context's messages that no thread waits for. -/
def backRef (ctx : Nat) : ThreadRef := ⟨⟨ctx, 0, 0⟩, 2 ^ 40⟩

/-- A full L2 slice gives up its oldest sector for a pod-tier one (R121). -/
def podRoom (ms : MemSys) (who : ThreadRef) (q : Nat) : MemSys :=
  if l2Free ms q then ms
  else
    match (sliceHolds ms q).head? with
    | none => ms
    | some p => if isPod (16 * p.sec) then podWriteBack ms (some (backRef who.team.ctx)) p.sec true else l2WriteBack ms p.sec true

/-- A copy of a sector in the cluster cache, filled from the home image when absent. -/
def fillCluster (ms : MemSys) (c q : Nat) (stream : Bool) : Sec × MemSys :=
  let ms := pullUp ms c q
  match cacheGet ms (clOwn c) q with
  | some x => (x.data, ms)
  | none => (homeSector ms q, cachePut (makeRoom (l2Fill ms q) (clOwn c)) (clOwn c) q (homeSector ms q) false stream)

/-- Reads a sector for a bay. -/
def readSec (ms : MemSys) (bay : Nat) (al : Alloc) (q : Nat) : Sec × MemSys :=
  let c := clusterOf bay
  if al ≥ 3 then
    let ms := evict ms c q
    (homeSector ms q, ms)
  else if al == 2 then fillCluster ms c q false
  else
    match cacheGet ms bay q with
    | some x => (x.data, ms)
    | none =>
      let (v, ms) := fillCluster ms c q (al == 1)
      (v, cachePut (makeRoom ms bay) bay q v false (al == 1))

/-- Writes bytes of one sector for a bay (R122). -/
def writeSec (ms : MemSys) (bay : Nat) (al : Alloc) (ha : Nat) (bs : List Byte) : MemSys :=
  let c := clusterOf bay
  let q := ha / 16
  if al ≥ 3 then homeWrite (evict ms c q) ha bs
  else if al == 2 then
    let (v, ms) := fillCluster ms c q false
    cachePut (takeLine ms c (q / 4) 768) (clOwn c) q (secPut v (ha % 16) bs) true false
  else
    let (v, ms) := fillCluster ms c q (al == 1)
    let ms := takeLine ms c (q / 4) bay
    cachePut (if (cacheGet ms bay q).isSome then ms else makeRoom ms bay) bay q (secPut v (ha % 16) bs) true (al == 1)

/-- Reads n bytes at a home address, sector by sector (R109: halves of 16 bytes). -/
def readMem (ms : MemSys) (bay : Nat) (al : Alloc) (ha n : Nat) : List Byte × MemSys :=
  if n ≤ 16 then
    let (v, ms) := readSec ms bay al (ha / 16)
    (secBytes v (ha % 16) n, ms)
  else
    let (v, ms) := readSec ms bay al (ha / 16)
    let (w, ms) := readSec ms bay al (ha / 16 + 1)
    (secBytes v 0 16 ++ secBytes w 0 16, ms)

/-- Writes bytes at a home address, sector by sector. -/
def writeMem (ms : MemSys) (bay : Nat) (al : Alloc) (ha : Nat) (bs : List Byte) : MemSys :=
  if bs.length ≤ 16 then writeSec ms bay al ha bs
  else writeSec (writeSec ms bay al ha (bs.take 16)) bay al (ha + 16) (bs.drop 16)

/-- A read of a sector for a bay at a retention is served by its cluster: by a copy of the L1 or the cluster cache, or, at the
home slice, by a dirty one, which is written back whole before (R447). -/
def servedHere (ms : MemSys) (bay : Nat) (al : Alloc) (q : Nat) : Bool :=
  let c := clusterOf bay
  if al ≥ 3 then ((dirtyL1 ms c q).isSome || (cacheGet ms (clOwn c) q).any (·.dirty)) && !portDown ms (16 * q)
  else (dirtyL1 ms c q).isSome || (cacheGet ms (clOwn c) q).isSome || (al < 2 && (cacheGet ms bay q).isSome)

/-- A read of this sector for a bay finds it lost (R431, R447). -/
def secFailed (ms : MemSys) (bay : Nat) (al : Alloc) (q : Nat) : Bool := ms.lost q && !servedHere ms bay al q

/-- The first failed sector among those an access of n bytes reads. A store of whole sectors reads none. -/
def failedIn (ms : MemSys) (bay : Nat) (al : Alloc) (ha n : Nat) (store : Bool) : Option Nat :=
  if store && n ≥ 16 then none
  else if secFailed ms bay al (ha / 16) then some (ha / 16)
  else if n > 16 && secFailed ms bay al (ha / 16 + 1) then some (ha / 16 + 1)
  else none

/-- The release actions of a scope for a thread of a bay (R139): at system scope, what the home slices hold of host-tier
lines reaches the host (R157). -/
def releaseCaches (ms : MemSys) (bay sc : Nat) : MemSys :=
  if sc ≥ 2 then
    let ms := flushCluster ms (clusterOf bay)
    if sc == 3 then (ms.l2.filter fun p => isHost (16 * p.sec)).foldl (fun ms p => l2WriteBack ms p.sec false) ms else ms
  else if sc == 1 then
    (sortDedup ((ms.caches.filter fun x => x.dirty && x.own == bay).map (·.sec))).foldl
      (fun ms q => pullUp ms (clusterOf bay) q) ms
  else ms

/-- The acquire actions of a scope (R139): at system scope, local copies of pod-tier lines are dropped as well. -/
def acquireCaches (ms : MemSys) (bay sc : Nat) : MemSys :=
  if sc ≥ 2 then
    let ms := invalidateClean ms (clusterOf bay)
    if sc == 3 then { ms with pod := ms.pod.filter (·.dirty) } else ms
  else ms

/-- A team- or cluster-scope release to a line is recorded at its home slice before its store (R146). -/
def promRecord (ms : MemSys) (slice line c : Nat) : MemSys :=
  if ms.prom.any fun e => e.slice == slice && e.line == line then
    { ms with
      prom := ms.prom.map fun e =>
        if e.slice == slice && e.line == line then
          { e with clusters := if e.clusters.contains c then e.clusters else e.clusters ++ [c] }
        else e }
  else if (ms.prom.filter fun e => e.slice == slice).length < 16 then { ms with prom := ms.prom ++ [⟨slice, line, [c]⟩] }
  else { ms with promAll := if ms.promAll.contains slice then ms.promAll else ms.promAll ++ [slice] }

/-- The promotion of an LDRA (R147): the chosen clusters write back every dirty sector; the entry, or with the
broadcast mark every entry of the slice, is freed. -/
def promote (ms : MemSys) (slice line : Nat) : MemSys :=
  if ms.promAll.contains slice then
    let ms := (List.range 96).foldl flushCluster ms
    { ms with promAll := ms.promAll.filter (· != slice), prom := ms.prom.filter fun e => e.slice != slice }
  else
    let cs := (ms.prom.filter fun e => e.slice == slice && e.line == line).flatMap (·.clusters)
    let ms := cs.foldl flushCluster ms
    { ms with prom := ms.prom.filter fun e => !(e.slice == slice && e.line == line) }

/-- The physical lines a byte range touches. -/
def linesOf (ha n : Nat) : List Nat := if n == 0 then [] else rangeFrom (ha / 64) ((ha + n - 1) / 64 - ha / 64 + 1)

/-- The cached sectors that lie in a line, for owners that satisfy a test. -/
def cachedInLine (ms : MemSys) (own : Nat → Bool) (line : Nat) : List Nat :=
  sortDedup ((ms.caches.filter fun x => own x.own && x.sec / 4 == line).map (·.sec))

/-- Memory as it stands once every L2 slice has written back what it holds dirty of its own default home. -/
def settledMem (ms : MemSys) : Memory :=
  (ms.l2.filter fun p => p.dirty).foldl (fun m p => m.putSector (p.sec % (podBase / 16)) p.data) ms.mem

/-- Writes back and drops every copy of a physical line everywhere, in L2 slices too (R156, R429). -/
def purgeLine (ms : MemSys) (line : Nat) : MemSys :=
  let here := fun (q : Nat) => physSec q / 4 == line
  let ms := (ms.caches.filter fun x => here x.sec).foldl
    (fun ms x => evict ms (if x.own < 768 then x.own / 8 else x.own - 768) x.sec) ms
  (ms.l2.filter fun p => here p.sec).foldl (fun ms p => l2WriteBack ms p.sec true) ms

end Sys2Proof.Machine
end

