-- ==== Sys2Proof/Machine/Translate.lean ====
section
/-! DEFINITION. Page tables, TLBs, walks, the faults of translation and the fault queue (chapter 17, R384, R442). -/

namespace Sys2Proof.Machine

/-! Fields of a leaf entry (R415). -/

def leafNode (l : Nat) : Nat := bits l 63 52
def leafDT (l : Nat) : Bool := bitAt l 15
def leafPol (l : Nat) : Nat := bits l 14 13
def leafHome (l : Nat) : Nat := bits l 12 10
def leafTier (l : Nat) : Nat := bits l 9 8
def leafHC (l : Nat) : Bool := bitAt l 7
def leafBias (l : Nat) : Bool := bitAt l 6
def leafLock (l : Nat) : Bool := bitAt l 5
def leafSup (l : Nat) : Bool := bitAt l 4
def leafX (l : Nat) : Bool := bitAt l 3
def leafW (l : Nat) : Bool := bitAt l 2

/-- The page's physical address. -/
def leafPa (l : Nat) : Nat := bits l 51 16 * 65536

/-- The home address of a virtual address in a page: pod-tier lines stand above podBase, and lines that the page homes
elsewhere than the default home of their address above aliasBase (R418). -/
def leafHa (l size va : Nat) : Nat :=
  (if leafHome l != bits (leafPa l) 32 30 then (leafHome l + 1) * aliasBase else 0) +
    (if leafTier l == 3 then (leafNode l + 1) * podBase else 0) + leafPa l + va % size

/-- The retention a page forces: host bias makes every access uncached (R419). -/
def leafAlloc (l : Nat) : Alloc := if leafBias l then 3 else leafPol l

/-- Whether a physical address lies in a window that R416 admits for a tier. -/
def windowOk (tier pa : Nat) : Bool :=
  let near := pa < 2 ^ 40
  let far := (2 ^ 40 ≤ pa && pa < 5 * 2 ^ 40) || (2 ^ 48 ≤ pa && pa < 5 * 2 ^ 48)
  let host := 8 * 2 ^ 48 ≤ pa && pa < 12 * 2 ^ 48
  match tier with
  | 0 => near
  | 1 => far
  | 2 => host
  | _ => near || far

/-- The rules of R417 on a leaf of a page of 2^k bytes. -/
def leafOk (own : Option Nat) (l k : Nat) : Bool :=
  let tier := leafTier l
  leafPa l % 2 ^ k == 0 && !(leafW l && leafX l) && !(leafX l && tier ≥ 2) && windowOk tier (leafPa l) &&
    (tier == 3 || leafNode l == 0) && (tier != 3 || (match own with | some n => n != leafNode l | none => false)) &&
    !(tier == 2 && !leafHC l) && !(tier == 3 && leafHC l) && !(leafBias l && !leafHC l) &&
    !(leafHC l && tier ≤ 1 && leafHome l != bits (leafPa l) 32 30)

/-- What a walk finds. -/
inductive WalkRes where
  | leaf (l k : Nat) (entryAt : Nat)
  | invalid (level : Nat)
  | format
  | partition
  | failed (sec : Nat)
  deriving DecidableEq, Repr

/-- One level of the table (R413): its number, the shift of its index and the index width. -/
def walkLevels : List (Nat × Nat × Nat) := [(0, 48, 8), (1, 39, 9), (2, 30, 9), (3, 21, 9), (4, 16, 5)]

/-- In reduced service only stack 0 of the near tier is mapped (R472, R416). -/
def servicePaOk (s : State) (l pa : Nat) : Bool := s.iod.service != .reduced || (leafTier l == 0 && bits pa 19 16 == 0)

/-- The die behind which a physical address lies: its near-tier die by stack, its far-tier die by window (R416, R431). -/
def memoryDie (pa : Nat) : Nat :=
  if pa < 2 ^ 40 then 8 + bits pa 19 18
  else if pa < 2 ^ 48 then (if pa < 3 * 2 ^ 40 then 12 else 13)
  else 12 + (pa / 2 ^ 48 - 1) / 2

/-- A page of a die or stack that has failed: at an address behind it, or at a home slice of it. It is not used (R473); an access to it
ends as to a page of a bad format: DESIGN CHOICE (log entry 44). -/
def pageFailed (s : State) (l pa : Nat) : Bool :=
  let dead := fun (d : Nat) => match s.iod.dies[d]? with | some x => x.st == .failed | none => false
  dead (leafHome l) || (leafTier l < 2 && dead (memoryDie pa)) || (leafTier l == 0 && s.iod.hbm[bits pa 19 16]? == some .failed)

/-- A leaf of a page that spans stacks is kept by no TLB where not all of them are in use. -/
def leafKept (s : State) (l k : Nat) : Bool :=
  !leafLock l && (k == 16 || !(s.iod.service == .reduced || (leafTier l == 0 && s.iod.hbm.contains .failed)))

/-- The entries of a table of n 8-byte entries of which some byte is listed: their addresses. -/
def listedEntries (m : Memory) (tab n : Nat) : List Nat :=
  sortDedup ((m.cells.filter fun c => tab ≤ c.1 && c.1 < tab + 8 * n).map fun c => tab + (c.1 - tab) / 8 * 8)

/-- Whether a physical address lies in a partition's windows (R384). -/
def inWindows (s : State) (part pa : Nat) : Bool :=
  (nth s.iod.parts part Part.unused).wins.any fun w => w.1 ≤ pa && pa < w.1 + w.2

/-- A table entry met on the way: level, shift of its index, entry. -/
abbrev PathEntry : Type := Nat × Nat × Nat

/-- Walks from a table down (R413 to R417, R423): each entry is read at its home slice, or as `held` has it by level and
shift. A table outside the partition's windows cannot be reached (R384). The path lists the valid entries that are no
leaf. -/
def walkFrom (s : State) (held : Nat → Nat → Option Nat) (part : Nat) (va tab : Nat) : List (Nat × Nat × Nat) → WalkRes × List PathEntry
  | [] => (.format, [])
  | (lv, sh, ib) :: rest =>
    let at' := tab + 8 * (va / 2 ^ sh % 2 ^ ib)
    let e := (held lv sh).getD (homeNat s.ms at' 8)
    if !inWindows s part at' then (.partition, [])
    else if (held lv sh).isNone && s.ms.lost (at' / 16) then (.failed (at' / 16), [])
    else if !bitAt e 0 then (.invalid lv, [])
    else if bitAt e 1 then
      if lv < 2 || !leafOk s.iod.node e sh || !servicePaOk s e (leafPa e + va % 2 ^ sh) || pageFailed s e (leafPa e + va % 2 ^ sh) then
        (.format, [])
      else if bitAt (nth s.iod.parts part Part.unused).cdmask (leafHome e) && inWindows s part (leafPa e) then (.leaf e sh at', [])
      else (.partition, [])
    else
      let next := bits e 51 8 * 256
      if lv == 4 || bits e 63 52 != 0 || bits e 7 2 != 0 || (lv < 3 && next % 4096 != 0) then (.format, [])
      else
        let (r, es) := walkFrom s held part va next rest
        (r, (lv, sh, e) :: es)

/-- A walk of a context's page table (R413). -/
def walkWith (s : State) (held : Nat → Nat → Option Nat) (c : Ctx) (va : Nat) : WalkRes × List PathEntry :=
  let root := c.ptroot.toNat
  if root % 4096 != 0 || root ≥ 2 ^ 52 then (.format, []) else walkFrom s held c.part va root walkLevels

/-- A walk that uses no walk cache. -/
def walk (s : State) (c : Ctx) (va : Nat) : WalkRes := (walkWith s (fun _ _ => none) c va).1

/-- The entry that a die's walk cache holds of an ASID for an address at a level (R422). -/
def walkHeld (ms : MemSys) (die asid va lv : Nat) : Option Nat :=
  (ms.walks.find? fun e => e.die == die && e.asid == asid && e.level == lv && e.base ≤ va && va < e.base + e.size).map (·.entry)

/-- The entries of a walk's path are held by the die's walk cache from then on. -/
def walkInstall (ms : MemSys) (die asid va : Nat) (path : List PathEntry) : MemSys :=
  path.foldl
    (fun ms p =>
      if (walkHeld ms die asid va p.1).isSome then ms
      else { ms with walks := ⟨die, asid, va / 2 ^ p.2.1 * 2 ^ p.2.1, 2 ^ p.2.1, p.1, p.2.2⟩ :: ms.walks })
    ms

/-- Finds a cached leaf of an ASID covering an address. -/
def tlbFind (ms : MemSys) (own asid va : Nat) : Option TlbEnt :=
  ms.tlb.find? fun e => e.own == own && e.asid == asid && e.base ≤ va && va < e.base + e.size

/-- Installs a leaf, keeping at most the entries the structure holds (R422). -/
def tlbInstall (ms : MemSys) (own asid l k va : Nat) : MemSys :=
  let room := if own < 768 then 63 else 2047
  let keep := fun (e : TlbEnt) => !(e.own == own && e.asid == asid && e.base ≤ va && va < e.base + e.size)
  let mine := (ms.tlb.filter fun e => e.own == own && keep e).take room
  { ms with
    tlb := ⟨own, asid, va / 2 ^ k * 2 ^ k, 2 ^ k, BitVec.ofNat 64 l⟩ :: mine ++ ms.tlb.filter fun e => e.own != own }

/-- The context record of an identifier, if the module knows it. -/
def State.ctx? (s : State) (id : Nat) : Option Ctx := s.ctxs.find? fun c => c.id == id

/-- A context with nothing known of it: its walks fail. -/
def Ctx.blank (id : Nat) : Ctx := ⟨id, .free, 0, 0, 11, BitVec.ofNat 64 1, 0, 1, 0⟩

def State.ctxOf (s : State) (id : Nat) : Ctx := (s.ctx? id).getD (Ctx.blank id)

/-- The cluster TLB that serves a place: a bay, or the cluster itself, by its owner number, for its compositor. -/
def clusterTlb (place : Nat) : Nat := if 768 ≤ place && place < 864 then place else clOwn (clusterOf place)

/-- The die of a place. -/
def dieOf (place : Nat) : Nat := if 768 ≤ place && place < 864 then (place - 768) / 12 else place / 96

/-- Finds the leaf for an access made from a bay: L1 TLB, cluster TLB, then a walk through the die's walk cache, whose valid
leaf both hold from then on (R422). A locked leaf is not kept: an access that meets it walks again (R428). -/
def leafFor (s : State) (ctx bay va : Nat) : WalkRes × State :=
  let c := s.ctxOf ctx
  match tlbFind s.ms bay c.asid va with
  | some e => (.leaf e.leaf.toNat (Nat.log2 e.size) 0, s)
  | none =>
    match tlbFind s.ms (clusterTlb bay) c.asid va with
    | some e =>
      (.leaf e.leaf.toNat (Nat.log2 e.size) 0, { s with ms := tlbInstall s.ms bay c.asid e.leaf.toNat (Nat.log2 e.size) va })
    | none =>
      let (r, path) := walkWith s (fun lv _ => walkHeld s.ms (dieOf bay) c.asid va lv) c va
      let s := { s with ms := walkInstall s.ms (dieOf bay) c.asid va path }
      match r with
      | .leaf l k a =>
        if !leafKept s l k then (.leaf l k a, s)
        else
          (.leaf l k a,
            { s with
              ms := tlbInstall (tlbInstall s.ms (clusterTlb bay) c.asid l k va) bay c.asid l k va })
      | r => (r, s)

/-- What the TLBs of a bay and its cluster and the die's walk cache hold for an address is dropped, as each may be at any time
(R422). -/
def tlbDrop (s : State) (ctx bay va : Nat) : State :=
  let asid := (s.ctxOf ctx).asid
  { s with
    ms := { s.ms with
      tlb := s.ms.tlb.filter fun e => !((e.own == bay || e.own == clusterTlb bay) && e.asid == asid && e.base ≤ va && va < e.base + e.size)
      walks := s.ms.walks.filter fun e => !(e.die == dieOf bay && e.asid == asid && e.base ≤ va && va < e.base + e.size) } }

/-- What an access is, for its faults and for a fault record's KIND (R442). -/
inductive AccKind where
  | load | store | atomic | fetch | engineRead | engineWrite | unit
  deriving DecidableEq, Repr

def AccKind.code : AccKind → Nat
  | .load => 0
  | .store => 1
  | .atomic => 2
  | .fetch => 3
  | .engineRead => 4
  | .engineWrite => 5
  | .unit => 6

def AccKind.writes : AccKind → Bool
  | .store | .atomic | .engineWrite => true
  | _ => false

/-- Who makes an access: context, bay, level, whether the launch is deterministic, grid and team. -/
structure Accessor where
  ctx : Nat
  bay : Nat
  sup : Bool
  det : Bool
  gid : Nat
  team : Nat
  /-- an engine outside a bay: the compositor, or on die 14 the front end (R442) -/
  outside : Bool
  deriving DecidableEq, Repr

/-- The result of translating one address: a leaf; or what stops it, with the sector that the walker cannot read, or that a fetch
then cannot. -/
inductive XRes where
  | ok (leaf k : Nat)
  | unmapped (level : Nat)
  | locked
  | fault (cause : Nat)
  | failed (sec : Nat)
  | lost (sec : Nat)
  deriving DecidableEq, Repr

/-- Cause numbers of R435. -/
def cIllegal : Nat := 0x01
def cUndefined : Nat := 0x02
def cPrivileged : Nat := 0x03
def cTarget : Nat := 0x04
def cSegLen : Nat := 0x05
def cConverge : Nat := 0x06
def cMigrated : Nat := 0x07
def cRange : Nat := 0x08
def cAlign : Nat := 0x09
def cBounds : Nat := 0x0A
def cTranslation : Nat := 0x0B
def cProtection : Nat := 0x0C
def cPageFormat : Nat := 0x0D
def cPartition : Nat := 0x0E
def cDataError : Nat := 0x0F
def cHandleState : Nat := 0x10
def cHandleRange : Nat := 0x11
def cStreamRange : Nat := 0x12
def cMatrix : Nat := 0x13
def cTensor : Nat := 0x14
def cCardFormat : Nat := 0x15
def cEnginePerm : Nat := 0x16
def cEngineCard : Nat := 0x17
def cFuncTable : Nat := 0x18
def cPhRange : Nat := 0x19
def cPhRole : Nat := 0x1A
def cTimeout : Nat := 0x1B
def cLDepth : Nat := 0x1C
def cLLeader : Nat := 0x1D
def cLDesc : Nat := 0x1E
def cChild : Nat := 0x1F
def cWalkFormat : Nat := 0x20
def cWalkState : Nat := 0x21
def cWalkStack : Nat := 0x22
def cDetLog : Nat := 0x23
def cPodLink : Nat := 0x24
def cTrap : Nat := 0x25
def cBrk : Nat := 0x26
def cSysc : Nat := 0x27

/-- The protection rules of a leaf (R107, R420, R421). -/
def leafDenied (l : Nat) (k : AccKind) (w : Accessor) : Bool :=
  (k.writes && !leafW l) || (k == .fetch && !leafX l) || (leafSup l && !w.sup) ||
    (w.det && k != .fetch && k.writes && !leafDT l)

/-- The place whose TLBs serve an accessor: its bay, or for a compositor its cluster (R422). -/
def Accessor.place (w : Accessor) : Nat := if w.outside && w.bay < 768 then clOwn (clusterOf w.bay) else w.bay

/-- Steps 5 and 6 of R252 for one address; a locked page first (R428: no fault is raised for the lock). -/
def translate (s : State) (w : Accessor) (k : AccKind) (va : Nat) : XRes × State :=
  match leafFor s w.ctx w.place va with
  | (.leaf l sz _, s) =>
    if leafLock l then (.locked, s)
    else if leafDenied l k w then (.fault cProtection, s)
    else (.ok l sz, s)
  | (.invalid lv, s) => (.unmapped lv, s)
  | (.format, s) => (.fault cPageFormat, s)
  | (.partition, s) => (.fault cPartition, s)
  | (.failed q, s) => (.failed q, s)

/-- What misses have in common that a single walk serves (R424): die, ASID, 64 KiB page. -/
def walkKey (s : State) (w : Accessor) (va : Nat) : Nat × Nat × Nat := (dieOf w.place, (s.ctxOf w.ctx).asid, va / 65536)

/-- Appends a record to the fault queue of the context's partition (R442), unless the walk has served another miss of this turn,
which made it (R424). TAIL is written with a system-scope release. -/
def faultRecord (s : State) (w : Accessor) (k : AccKind) (va level : Nat) : State :=
  let c := s.ctxOf w.ctx
  let (base, ksz) := nth s.iod.fqb c.part (0, 0)
  if base == 0 || s.walked.contains (walkKey s w va) then s
  else
    let s := { s with walked := walkKey s w va :: s.walked }
    let tail := homeNat s.ms base 4
    let head := homeNat s.ms (base + 4) 4
    if wrapN ((tail : Int) - head) 32 == 2 ^ ksz then
      { s with ms := toHost (homeWrite s.ms (base + 8) (toBytes 4 (homeNat s.ms (base + 8) 4 + 1))) (base + 8) 4 }
    else
      let at' := base + 64 + 32 * (tail % 2 ^ ksz)
      let ms := homeWrite s.ms at' (toBytes 8 va ++ toBytes 2 c.asid ++ toBytes 2 c.id ++ toBytes 1 k.code ++
        toBytes 1 level ++ toBytes 1 (w.bay / 96) ++ toBytes 1 (if w.outside then 0xFF else w.bay % 96))
      let ms := homeWrite ms (at' + 16) (toBytes 8 s.time ++ toBytes 4 w.gid ++ toBytes 4 w.team)
      { s with ms := toHost (toHost (homeWrite ms base (toBytes 4 (tail + 1))) at' 32) base 4 }

/-- Brings a pod-tier sector into its local home slice: it is read at the peer, which may refuse that, and its bytes are free
(R157, R433). -/
def podFill (who : ThreadRef) (s : State) (q : Nat) : State :=
  if !isPod (16 * q) || s.ms.pod.any (fun p => p.sec == q) then s
  else
    let ms := podSend (podRoom s.ms who q) (some who) (16 * q) 0 0 false
    { s with
      ms := { ms with pod := ⟨q, Config.podSector s.draws, false⟩ :: ms.pod }
      draws := s.draws + 1 }

/-- Both sectors an access of up to 32 bytes reaches. -/
def podFillFor (who : ThreadRef) (s : State) (ha n : Nat) : State :=
  if !isPod ha then s else if n > 16 then podFill who (podFill who s (ha / 16)) (ha / 16 + 1) else podFill who s (ha / 16)

end Sys2Proof.Machine
end

