-- ==== Sys2Proof/Machine/Ops.lean ====
section
/-! DEFINITION. The named operations the meanings are written with: focus, registers, predicates, guards, long
results, fetching a code line, transfers, taking a trap (R435 to R444) and returning from one (R369), kills, and
global memory accesses of a thread (R252). -/

namespace Sys2Proof.Machine

/-! ### Focus: the issuing thread and its team stand in `th` and `tm`. -/

/-- The team with its copy of the issuing thread up to date. -/
def State.syncTm (s : State) : Team :=
  { s.tm with threads := s.tm.threads.map fun t => if t.tid == s.th.tid then s.th else t }

/-- Writes the issuing thread and its team back among the teams. -/
def State.flush (s : State) : State :=
  let tm := s.syncTm
  { s with tm := tm, teams := s.teams.map fun t => if t.ref == tm.ref then tm else t }

/-- Copies a team and one of its threads out of the teams. -/
def State.focus (s : State) (r : ThreadRef) : State :=
  match s.teams.find? fun t => t.ref == r.team with
  | none => s
  | some tm =>
    match tm.threads.find? fun t => t.tid == r.tid with
    | none => s
    | some th => { s with th := th, tm := tm, grp := ⟨[], 0, th, tm, none⟩ }

/-- Changes the issuing thread. -/
def State.mapTh (s : State) (f : Thread → Thread) : State := { s with th := f s.th }

/-- Changes the issuing thread's team. -/
def State.mapTm (s : State) (f : Team → Team) : State := { s with tm := f s.tm }

/-- Changes the memory system. -/
def State.mapMs (s : State) (f : MemSys → MemSys) : State := { s with ms := f s.ms }

/-- Changes every team by one rule, the issuing thread and its team with them. -/
def State.overTeams (s : State) (f : Team → Team) : State :=
  let s := s.flush
  let tm := f s.tm
  { s with
    teams := s.teams.map f
    tm := tm
    th := (tm.threads.find? fun t => t.tid == s.th.tid).getD s.th }

/-- The issuing thread's name. -/
def State.self (s : State) : ThreadRef := ⟨s.tm.ref, s.th.tid⟩

/-- A grid with nothing known of it. -/
def Grid.blank (ctx gid : Nat) : Grid where
  ctx := ctx
  gid := gid
  st := .retired
  status := 0
  cond := false
  cores := false
  timed := false
  group := 1
  prio := 0
  nteams := 1
  decl := Decl.blank
  ftab := []
  args := 0
  rngkey := 0
  depaddr := 0
  depval := 0
  sigaddr := 0
  tstart := 0
  predaddr := 0
  logbase := 0
  logsize := 0
  cmpl := 0
  depth := 0
  parent := none
  order := 0
  waitSince := 0
  placed := 0
  retired := 0
  tbegin := 0
  phases := 0
  reruns := 0
  killn := 0
  retiring := none
  cph := []
  gph := [0, 0, 0, 0]
  phaseImg := ⟨[]⟩
  phaseHeld := []

def State.gridOf (s : State) (ctx gid : Nat) : Grid :=
  (s.grids.find? fun g => g.ctx == ctx && g.gid == gid).getD (Grid.blank ctx gid)

/-- The issuing thread's grid. -/
def State.grid (s : State) : Grid := s.gridOf s.tm.ref.ctx s.tm.ref.gid

def State.setGrid (s : State) (g : Grid) : State :=
  { s with grids := s.grids.map fun x => if x.ctx == g.ctx && x.gid == g.gid then g else x }

def State.setCtx (s : State) (c : Ctx) : State :=
  { s with ctxs := s.ctxs.map fun x => if x.id == c.id then c else x }

/-- Whether the issuing thread's launch is deterministic (R405). -/
def State.det (s : State) : Bool := s.tm.decl.det != 0

/-- The issuing thread as the maker of a global access. -/
def State.accessor (s : State) : Accessor :=
  ⟨s.tm.ref.ctx, s.th.bay, s.th.sup, s.det, s.tm.ref.gid, s.tm.ref.team, false⟩

/-- Grid linear index (R31). -/
def State.linear (s : State) : Nat := s.tm.ref.team * s.tm.decl.dim + s.th.tid

def Thread.cohort (t : Thread) (grant : Nat) : Nat := t.tid / grant

/-- The issuing thread's cohort and lane (R22). -/
def State.cohort (s : State) : Nat := s.th.tid / s.tm.grant
def State.lane (s : State) : Nat := s.th.tid % s.tm.grant

/-! ### Registers and predicates. Sources are read as they stood before the group (R176). -/

def Thread.reg (t : Thread) (n : Nat) : Word := t.regs.getD n 0

/-- Register n of a pair, quad or octet joined: the low register holds the low bits (R44, R166). -/
def Thread.regsNat (t : Thread) (n : Nat) : Nat → Nat
  | 0 => 0
  | k + 1 => (t.reg n).toNat + 2 ^ 32 * t.regsNat (n + 1) k

/-- p0 always reads true (R187). -/
def Thread.pred (t : Thread) (p : Nat) : Bool := p == 0 || t.preds.getD p false

/-- Source register, as it stood before the group. -/
def State.src (s : State) (r : BitVec 6) : Word := s.grp.view.reg r.toNat

/-- Source pair. -/
def State.srcPair (s : State) (r : BitVec 6) : DWord := BitVec.ofNat 64 (s.grp.view.regsNat r.toNat 2)

/-- k source registers joined. -/
def State.srcs (s : State) (r : BitVec 6) (k : Nat) : Nat := s.grp.view.regsNat r.toNat k

/-- Source predicate. -/
def State.srcPred (s : State) (p : BitVec 6) : Bool := s.grp.view.pred p.toNat

/-- guard(t): the predicate named by the guard selection, both as they stood before the group (R165, R243). -/
def State.guardOn (s : State) : Bool := s.grp.view.pred s.grp.view.gsel

/-- Whether a word with guard bit g takes effect in the issuing thread. -/
def State.active (s : State) (g : Bool) : Bool := !g || s.guardOn

def Thread.setReg (t : Thread) (n : Nat) (v : Word) : Thread := { t with regs := t.regs.set n v }

/-- A write to p0 is performed without effect (R187). -/
def Thread.setPred (t : Thread) (p : Nat) (b : Bool) : Thread :=
  if p == 0 then t else { t with preds := t.preds.set p b }

def Thread.orFps (t : Thread) (m : Nat) : Thread := { t with fps := t.fps ||| BitVec.ofNat 32 m }

/-- The long results that write the registers from n on with a value of k registers. -/
def pendRegs (n v : Nat) : Nat → List Pending
  | 0 => []
  | k + 1 => .reg n (BitVec.ofNat 32 v) :: pendRegs (n + 1) (v / 2 ^ 32) k

/-- Short write of k registers. -/
def Thread.setRegs (t : Thread) (n v : Nat) : Nat → Thread
  | 0 => t
  | k + 1 => (t.setReg n (BitVec.ofNat 32 v)).setRegs (n + 1) (v / 2 ^ 32) k

/-- One outstanding result is written. -/
def Thread.deliverOne (t : Thread) : Pending → Thread
  | .reg n v => t.setReg n v
  | .pred p b => t.setPred p b
  | .flags m _ => { t with fps := t.fps ||| m }

/-- Every outstanding long result is written, in the order of issue (R174, R177). -/
def Thread.drain (t : Thread) : Thread := { t.pending.foldl Thread.deliverOne t with pending := [] }

/-- The flags of a result that stands at a place among the outstanding ones, when its last register has been written:
`ps` is what is left, with j registers between that place and the next flags. -/
def settleFlags (ps : List Pending) (k : Nat) : Word × List Pending :=
  let j := ((ps.drop k).takeWhile fun p => match p with | .reg _ _ => true | _ => false).length
  match ps[k + j]? with
  | some (.flags m n) =>
    if n ≤ j then (0, ps) else if n == 1 then (m, ps.eraseIdx (k + j)) else (0, ps.set (k + j) (.flags m (n - 1)))
  | _ => (0, ps)

/-- One outstanding result, chosen by its place, is written (R178); the flags of a result are ORed in with the last of
its registers (R191), and are none to be chosen themselves. -/
def Thread.writeOne (t : Thread) (k : Nat) : Thread :=
  match t.pending[k]? with
  | some (.reg n v) =>
    let (m, ps) := settleFlags (t.pending.eraseIdx k) k
    { t.setReg n v with fps := t.fps ||| m, pending := ps }
  | some (.pred p b) => { t.setPred p b with pending := t.pending.eraseIdx k }
  | _ => t

/-- Nothing of a blocking word, of a hold or of a group in progress is left: the thread goes to another word. -/
def Thread.clearWaits (t : Thread) : Thread :=
  { t with
    yielded := false, passed := false, held := false, woke := none, sent := none, issued := [], copy := none, step := none, conv := none
    fin := false, entering := false, asked := none, lost := [] }

/-- Short result of one register. -/
def State.put (s : State) (r : BitVec 6) (v : Word) : State := s.mapTh fun t => t.setReg r.toNat v

/-- Short result of k registers. -/
def State.puts (s : State) (r : BitVec 6) (k v : Nat) : State := s.mapTh fun t => t.setRegs r.toNat v k

def State.putPred (s : State) (p : BitVec 6) (b : Bool) : State := s.mapTh fun t => t.setPred p.toNat b

/-- Adds outstanding long results. -/
def State.pend (s : State) (ps : List Pending) : State := s.mapTh fun t => { t with pending := t.pending ++ ps }

/-- Long result of k registers. -/
def State.pendTo (s : State) (r : BitVec 6) (k v : Nat) : State := s.pend (pendRegs r.toNat v k)

/-! ### Kills -/

/-- The KILLN field (R436): cause, and the inner cause or reason in bits 15:8. -/
def killWord (cause inner : Nat) : Nat := cause + 256 * inner

/-- Whether a latch entry belongs to a context. -/
def Latch.ofCtx (l : Latch) (id : Nat) : Bool :=
  match l.who with
  | .thread r => r.team.ctx == id
  | .grid c _ => c == id

/-- A context is killed (R455): its threads and engines stop, its waits and latch entries are gone. The event
CONTEXT_KILL_COMPLETE ends the kill. -/
def State.killContext (s : State) (id cause inner : Nat) : State :=
  match s.ctx? id with
  | none => s
  | some c =>
    match c.st with
    | .killing | .killed => s
    | _ =>
      let s := s.setCtx { c with st := .killing, killn := killWord cause inner }
      { s with
        ms := { s.ms with latches := s.ms.latches.filter fun l => !l.ofCtx id }
        iod := { s.iod with launches := s.iod.launches.filter fun l => l.who.team.ctx != id } }

/-- Counts one link-timeout error (R462). -/
def countLink (s : State) : State := { s with iod := { s.iod with ltocnt := (s.iod.ltocnt + 1) % 2 ^ 64 } }

/-- A read of a sector behind a link that is down ends as a link-timeout error (R431). -/
def State.countDown (s : State) (q : Nat) : State := if portDown s.ms (16 * q) then countLink s else s

/-- A walker's, an engine's or the front end's read of a lost sector kills the context (R431, R447). -/
def State.killLost (s : State) (ctx q : Nat) : State := (s.countDown q).killContext ctx 0x40 0

/-! ### Fetching code lines (R167 to R172, R263) -/

/-- A code line's words, or what its fetch met. -/
inductive FetchRes where
  | line (ws : List Word)
  | stop (r : XRes)
  deriving DecidableEq, Repr

/-- The 16 words of a line at a home address. -/
def lineWords (ms : MemSys) (ha : Nat) : List Word :=
  (List.range 16).map fun i => BitVec.ofNat 32 (homeNat ms (ha + 4 * i) 4)

/-- Each word of a line that is being rewritten, old or new by a free choice (R351). -/
def mixWords (pick : Nat) (old new : List Word) : List Word :=
  (List.range 16).map fun i => if bitAt pick i then new.getD i 0 else old.getD i 0

/-- Fetches the line holding an address for an accessor: through translation and the bay's instruction cache,
which fills from the home image (R263). Of a line that it holds and that has been written since, each word is the old or the
new one (R351). -/
def fetchLine (s : State) (w : Accessor) (va : Nat) : FetchRes × State :=
  match translate s w .fetch va with
  | (.ok l k, s) =>
    let ln := leafHa l (2 ^ k) va / 64
    match s.ms.icache.find? fun c => c.bay == w.bay && c.line == ln with
    | some c =>
      let new := lineWords s.ms (64 * ln)
      if new == c.words then (.line c.words, s)
      else (.line (mixWords (Config.choice s.draws) c.words new), { s with draws := s.draws + 1 })
    | none =>
      match (rangeFrom (4 * ln) 4).find? s.ms.lost with
      | some q => (.stop (.lost q), s)
      | none =>
        let ws := lineWords s.ms (64 * ln)
        (.line ws, { s with ms := { s.ms with icache := ⟨w.bay, ln, ws⟩ :: s.ms.icache } })
  | (r, s) => (.stop r, s)

/-- Packet number of an address (R168). -/
def packetOf (a : Nat) : Nat := 5 * (a / 64) + a % 64 / 12

/-- Byte address of a packet, over the 64-bit address arithmetic (R168). -/
def packetAddr (n : Int) : Nat := wrapN (64 * (n / 5) + 12 * (n % 5)) 64

/-- Line offsets of the five packets. -/
def packetOffset (a : Nat) : Bool := a % 64 == 0 || a % 64 == 12 || a % 64 == 24 || a % 64 == 36 || a % 64 == 48

/-- Bits 63:56 clear (R106, R172). -/
def addrOk56 (a : Nat) : Bool := a < 2 ^ 56

/-- What R172 says of a successor. -/
inductive TargetRes where
  | legal
  | illegal
  | stop (r : XRes)
  deriving DecidableEq, Repr

/-- R172: bits 63:56 clear, slot 0 of a packet, its entry bit set in its line's lintel. -/
def checkTarget (s : State) (w : Accessor) (a : Nat) : TargetRes × State :=
  if !addrOk56 a || !packetOffset a then (.illegal, s)
  else
    match fetchLine s w a with
    | (.line ws, s) => (if (ws.getD 15 0).getLsbD (a % 64 / 12) then .legal else .illegal, s)
    | (.stop r, s) => (.stop r, s)

/-! ### Transfers -/

/-- A gang has issued its first word: a member of it has left the boundary. -/
def Team.gangIssued (t : Team) (self g : Nat) : Bool :=
  t.threads.any fun y => y.tid != self && y.gang == g &&
    match y.status with
    | .within | .blocked _ => true
    | _ => false

/-- The gang a thread joins at a successor: the gang of its cohort that stands there and has not issued its first word,
or else a new one (R16). The thread's own gang has issued. -/
def State.gangAt (s : State) (pc : DWord) : Nat × State :=
  match s.tm.threads.find? fun t =>
      t.tid != s.th.tid && t.status == .boundary && t.pc == pc && t.tid / s.tm.grant == s.cohort && t.bay == s.th.bay &&
        t.gang != s.th.gang && !s.tm.gangIssued s.th.tid t.gang with
  | some t => (t.gang, s)
  | none => (s.tm.gangs, s.mapTm fun t => { t with gangs := t.gangs + 1 })

/-- A segment successor: long results are written, the packet count restarts, the thread stands at a boundary
(R15, R173, R174). -/
def State.enter (s : State) (target : Nat) : State :=
  let pc := BitVec.ofNat 64 target
  let (g, s) := s.gangAt pc
  -- a lapsed SETW is tried again at each boundary of the thread that executed it (R25)
  let s := if s.tm.reqPending && s.tm.setwBy == s.th.tid && s.tm.hold.isNone then { s with tm := { s.tm with hold := some s.cycle } } else s
  s.mapTh fun t =>
    { t.drain.clearWaits with pc := pc, seg := 1, status := .boundary, gang := g, held := s.tm.hold.isSome, fetched := [] }

/-- A gang of its own (R16, R438). -/
def State.newGang (s : State) : State :=
  { s with th := { s.th with gang := s.tm.gangs }, tm := { s.tm with gangs := s.tm.gangs + 1 } }

/-! ### Traps -/

/-- Byte address of the group's first word: the thread's PC. -/
def State.groupPc (s : State) : DWord := s.th.pc

/-- Byte address of the word now performed. -/
def State.wordPc (s : State) : Nat := (s.th.pc.toNat + 4 * s.grp.pos) % 2 ^ 64

/-- Slot of the word now performed: the words of a line are three to a packet. -/
def State.slot (s : State) : Nat := s.wordPc % 64 / 4 % 3

/-- The cause word (R436). -/
def causeWord (cause code slot len : Nat) : Word := BitVec.ofNat 32 (cause + 256 * len + 1024 * slot + 4096 * code)

/-- Whether R435 delivers a cause to the user handler while TRAPV is nonzero. -/
def userCause (c : Nat) : Bool :=
  !(c == cIllegal || c == cUndefined || c == cPrivileged || c == cPageFormat || c == cPartition || c == cDataError ||
    c == cBrk || c == cSysc)

/-- A translation fault parks the thread and records the walk (R441, R442). -/
def State.park (s : State) (va kind level : Nat) : State :=
  let k : AccKind := match kind with | 0 => .load | 1 => .store | 2 => .atomic | 3 => .fetch | _ => .unit
  let s := faultRecord s s.accessor k va level
  let s := s.newGang
  { s with th := { s.th with status := .parked va kind, issued := [], since := s.time }, grp := { s.grp with stop := some (.park va kind level) } }

/-- A locked page sets the thread aside (R428). -/
def State.setAside (s : State) (va : Nat) : State :=
  let s := s.newGang
  { s with th := { s.th with status := .aside va, issued := [], since := max 1 s.time }, grp := { s.grp with stop := some (.aside va) } }

/-- Supervisor delivery (R443). A translation fault or a lock met in fetching the handler's line parks the thread or
sets it aside at the trapping group, as for any fetch (R421, R428). -/
def State.toSupervisor (s : State) (cw : Word) (addr : Nat) : State :=
  let svec := (s.ctxOf s.tm.ref.ctx).svec.toNat
  match checkTarget s { s.accessor with sup := true } svec with
  | (.legal, s) =>
    let ws := s.grp.words
    ({ s with
        th := { s.th.drain with
          scause := cw, saddr := BitVec.ofNat 64 addr, spc := s.groupPc,
          sgrp := [ws.getD 0 0, ws.getD 1 0, ws.getD 2 0], sup := true, tl := true } }.enter svec).newGang
  | (.stop (.unmapped lv), s) => s.park svec 3 lv
  | (.stop .locked, s) => s.setAside svec
  | (.stop (.failed q), s) => s.killLost s.tm.ref.ctx q
  | (_, s) => s.killContext s.tm.ref.ctx 0x42 0

/-- User delivery (R439); where TRAPV is no legal target, the same cause goes to the supervisor handler. DESIGN CHOICE (log
entry 81): TRAPPC names the group's first word for every cause, also where R172 says the terminator's address. -/
def State.toUser (s : State) (cw : Word) (addr : Nat) : State :=
  match checkTarget s s.accessor s.tm.trapv.toNat with
  | (.legal, s) =>
    (({ s with th := { s.th.drain with trapc := cw, trapa := BitVec.ofNat 64 addr, trappc := s.groupPc } }.enter
      s.tm.trapv.toNat).newGang).mapTh fun t => { t with entering := s.tm.st == TeamState.shuttered }
  | (.stop (.unmapped lv), s) => s.park s.tm.trapv.toNat 3 lv
  | (.stop .locked, s) => s.setAside s.tm.trapv.toNat
  | (.stop (.failed q), s) => s.killLost s.tm.ref.ctx q
  | (_, s) => s.toSupervisor cw addr

/-- Taking a trap: the one delivery of every cause (R435, R439, R443, R444). -/
def State.deliver (s : State) (cause addr code slot len : Nat) : State :=
  let cw := causeWord cause code slot len
  -- a wait that ends in a trap is over (R233)
  let s := s.mapMs fun ms => { ms with latches := ms.latches.filter fun l => l.who != .thread s.self }
  let s := s.mapTm fun tm => { tm with hwaits := tm.hwaits.filter fun w => w.tid != s.th.tid }
  if s.th.tl then s.killContext s.tm.ref.ctx 0x41 cause
  else if userCause cause && s.tm.trapv != 0 then s.toUser cw addr
  else s.toSupervisor cw addr

/-- A word raises a cause precisely at its group. -/
def State.raiseCode (s : State) (cause addr code : Nat) : State :=
  let s' := s.deliver cause addr code s.slot s.grp.words.length
  { s' with grp := { s'.grp with stop := some (s'.grp.stop.getD (.trap cause addr code)) } }

def State.raise (s : State) (cause addr : Nat) : State := s.raiseCode cause addr 0

/-- The thread blocks at the word (R230, R270). -/
def State.block (s : State) (b : BlockOn) : State :=
  { s with th := { s.th with status := .blocked b, issued := s.grp.words }, grp := { s.grp with stop := some .block } }

/-- A data-error fault: the address of the failing sector (R435, R447). -/
def State.dataError (s : State) (ha : Nat) : State := (s.countDown (ha / 16)).raise cDataError (ha / 16 * 16)

/-- What a failed translation does to the thread whose word made the access; a sector that the walker or the fetch cannot read
(R447). -/
def State.xstop (s : State) (r : XRes) (va : Nat) (k : AccKind) : State :=
  match r with
  | .ok _ _ => s
  | .unmapped lv => s.park va k.code lv
  | .locked => s.setAside va
  | .fault c => s.raise c va
  | .failed q => s.killLost s.tm.ref.ctx q
  | .lost q => s.dataError (16 * q)

/-- A terminator's successor under R172: legal, or the trap, park or hold at the terminator. -/
def State.transfer (s : State) (target : Nat) (k : State → State) : State :=
  match checkTarget s s.accessor target with
  | (.legal, s) => (k s).enter target
  | (.illegal, s) => s.raise cTarget target
  | (.stop r, s) => s.xstop r target .fetch

/-- Return from a trap (R369): long results are written, level user, TL 0, the word at SPC; the thread forms a
gang of its own and the packet count restarts. An SPC that names no word is an illegal target. -/
def State.eret (s : State) : State :=
  let spc := s.th.spc.toNat
  if spc % 4 != 0 || spc % 64 == 60 || !addrOk56 spc then s.raise cTarget spc
  else
    ({ s with
        th := { s.th.drain.clearWaits with sup := false, tl := false, pc := s.th.spc, seg := 1, status := .within } }).newGang

/-! ### Requests to other dies (R462 to R464) -/

/-- The die of the thread in the focus has lost the reference. -/
def State.refLost (s : State) : Bool := match s.iod.dies[s.th.bay / 96]? with | some d => d.refLost | none => false

/-- Nothing keeps a request of the thread from being answered at once. -/
def State.linkFree (s : State) : Bool := !s.sending && s.th.asked.isNone && !s.refLost

/-- The time by which a request has certainly failed: LTO ticks, the tick in which they end included, or 2 × LTO of a backup
oscillator that is 5 % slow. -/
def askedEnd (lto : Nat) (a : Asked) : Nat := if a.backup then a.since + 21 * lto else a.since + 10 * lto + 9

/-- The time from which it may have failed: the count ends, of a backup oscillator that is 5 % fast. -/
def askedFrom (lto : Nat) (a : Asked) : Nat := if a.backup then a.since + 19 * lto else a.since + 10 * lto

/-- What a request comes to: the reply is there, or the word stops. -/
inductive LinkRes where
  | go (s : State)
  | stop (s : State)

/-- The link-timeout error of a request: a data-error fault with the sector, 0 for RDTIME; of the walker's a kill (R464). -/
def State.linkError (s : State) (walker : Bool) (sec : Nat) : State :=
  if walker then (countLink s).killContext s.tm.ref.ctx 0x40 0 else (countLink s).raise cDataError (16 * sec)

/-- A request of the thread to another die: sent, or answered, or at its end. Its reply is discarded after the count; none comes to
one that the backup oscillator counts. -/
def State.overLink (s : State) (walker : Bool) (sec : Nat) : LinkRes :=
  match s.th.asked with
  | none =>
    if s.sending || s.refLost then
      .stop ((s.mapTh fun t => { t with asked := some ⟨s.time, s.refLost, walker, sec, s.grp.pos⟩ }).block .link)
    else .go s
  | some a =>
    if askedEnd s.iod.lto a < s.time then .stop (s.linkError walker sec)
    else if a.backup then .stop (s.block .link)
    else .go (s.mapTh fun t => { t with asked := none })

/-- The walk that an access from a place needs reads a table entry at a home slice on another die, which neither TLB nor walk cache
spares it (R422, R423). -/
def walkAway (s : State) (ctx place va : Nat) : Bool :=
  let c := s.ctxOf ctx
  let held := fun (lv : Nat) => walkHeld s.ms (dieOf place) c.asid va lv
  let tables := (0, c.ptroot.toNat) :: (walkWith s (fun lv _ => held lv) c va).2.map fun p => (p.1 + 1, bits p.2.2 51 8 * 256)
  (tlbFind s.ms place c.asid va).isNone && (tlbFind s.ms (clusterTlb place) c.asid va).isNone &&
    tables.any fun p => (held p.1).isNone && homeDie p.2 != dieOf place

/-- The request of the walker for an access. -/
def State.askWalk (s : State) (va : Nat) : LinkRes :=
  if s.linkFree then .go s else if walkAway s s.tm.ref.ctx s.th.bay va then s.overLink true 0 else .go s

/-- The cluster of a bay holds a sector, so that no request for it leaves the die. -/
def heldHere (ms : MemSys) (bay q : Nat) : Bool := ms.caches.any fun c => c.sec == q && ofCluster (clusterOf bay) c.own

/-- An access at a home address under a leaf and a retention leaves the thread's die: for a home slice elsewhere or an expander, and
not for a sector that the cluster holds. Pod-tier accesses have errors of their own (R159). -/
def State.leavesDie (s : State) (leaf ha : Nat) (al : Alloc) : Bool :=
  leafTier leaf != 3 && (leafHome leaf != s.th.bay / 96 || (leafTier leaf == 1 && leafPa leaf ≥ 2 ^ 48)) &&
    !(max al (leafAlloc leaf) < 3 && heldHere s.ms s.th.bay (ha / 16))

/-- The request of an access itself. One that only writes is not waited for: it is performed, with an error that nobody hears of
where the backup oscillator counts its time. -/
def State.askHome (s : State) (leaf ha n : Nat) (k : AccKind) (al : Alloc) : LinkRes :=
  if s.linkFree || !s.leavesDie leaf ha al then .go s
  else if k == .store && (n ≥ 16 || max al (leafAlloc leaf) ≥ 3) then .go (if s.refLost then countLink s else s)
  else s.overLink false (ha / 16)

/-! ### Thread accesses to global memory (R247 to R252) -/

/-- The outcome of checking a global access: its home address and leaf, or the state after the stop. -/
inductive AccRes where
  | ok (ha leaf : Nat) (s : State)
  | stop (s : State)

/-- The retention under which an access looks for failed sectors: the word's or the page's, the larger (R419); a deterministic
launch reads home images (R160). -/
def State.soundAt (s : State) (leaf : Nat) (al : Alloc) : Alloc := if s.det then 4 else max al (leafAlloc leaf)

/-- Checks 2 to 6 of R252 and the failed sectors of R447, for n bytes at va, at a retention. -/
def State.checkGlobal (s : State) (va n : Nat) (k : AccKind) (al : Alloc) : AccRes :=
  if !addrOk56 va then .stop (s.raise cRange va)
  else if va % n != 0 then .stop (s.raise cAlign va)
  else
    match s.askWalk va with
    | .stop s => .stop s
    | .go s =>
      match translate s s.accessor k va with
      | (.ok l sz, s) =>
        let ha := leafHa l (2 ^ sz) va
        match failedIn s.ms s.th.bay (s.soundAt l al) ha n (k == .store), s.askHome l ha n k al with
        | some q, _ => .stop (s.dataError (16 * q))
        | none, .stop s => .stop s
        | none, .go s => .ok ha l (podFillFor s.self s ha n)
      | (r, s) => .stop (s.xstop r va k)

/-- The scope at which a thread's operation is performed: a migrated thread's team and cluster scope are device
scope (R41, R266). -/
def State.effScope (s : State) (sc : Nat) : Nat := if s.th.migrated && sc < 2 then 2 else sc

end Sys2Proof.Machine
end

