-- ==== Sys2Proof/Machine/Bays.lean ====
section
/-! DEFINITION. Bays as places: caps, slots, vestibules and the resources of R37; when a team fits; quadrants (R20 to R23, R36, R404,
R402). -/

namespace Sys2Proof.Machine

/-- One of several, chosen by the device; with one there is no choice. -/
def State.pick {α : Type} (s : State) (l : List α) : Option (α × State) :=
  match l with
  | [] => none
  | [x] => some (x, s)
  | x :: _ => some (l.getD (Config.choice s.draws % l.length) x, { s with draws := s.draws + 1 })

/-- Working lane groups of a quadrant (R21). -/
def laneGroups (s : State) (bay q : Nat) : Nat :=
  match s.iod.fused.find? fun f => f.1 == bay && f.2.1 == q with
  | some f => min f.2.2 8
  | none => 8

/-- A bay's cap (R21); 0 for a bay that is fused off. -/
def bayCap (s : State) (bay : Nat) : Nat :=
  let caps := (List.range 4).map fun q =>
    let g := laneGroups s bay q
    if g == 0 then 0 else pow2Floor (8 * g)
  caps.foldl min 64

/-- Whether a bay is in service: not fused off, its die ready, the bay started and not power-gated (R467); in reduced service bays 0 to
15 of die 0 only (R472). -/
def bayInService (s : State) (bay : Nat) : Bool :=
  let die := nth s.iod.dies (bay / 96) Die.none
  bay < 768 && bayCap s bay != 0 && (die.st == .ready || die.st == .degraded) && bay % 96 < die.bays && !die.gated.contains (bay % 96) &&
    (match s.iod.service with
     | .full => true
     | .reduced => bay < 16
     | _ => false)

/-- The bays of a die that are in service. -/
def baysOfDie (s : State) (die : Nat) : List Nat := (rangeFrom (96 * die) 96).filter (bayInService s)

/-- Cohort slots of a team of n threads under a grant (R23). -/
def slotsFor (n w : Nat) : Nat := ceilDiv (ceilDiv n w * w) 64

/-- Whether a team stands on a bay: placed, or shuttered and not yet saved. -/
def Team.placedHere (t : Team) : Bool := t.st == .running || t.st == .shuttered

/-- The teams placed on a bay. -/
def teamsOn (s : State) (bay : Nat) : List Team := s.teams.filter fun t => t.placedHere && t.bay == bay

def sumBy {α : Type} (l : List α) (f : α → Nat) : Nat := (l.map f).foldl (· + ·) 0

/-- The cohort slots of a team that are not yet free: those with a thread that has not exited (R23, R220). -/
def Team.slotsHeld (t : Team) : List Nat :=
  (List.range (slotsFor t.decl.dim t.grant)).filter fun i => t.threads.any fun x => x.tid / 64 == i && x.status != .exited

def slotsUsed (s : State) (bay : Nat) : Nat := sumBy (teamsOn s bay) fun t => t.slotsHeld.length

/-- The migrated cohorts that stand in vestibule slots of a bay, each once (R23, R41). -/
def vestibuleCohorts (s : State) (bay : Nat) : List (TeamRef × Nat) :=
  (s.teams.filter Team.placedHere).flatMap fun t =>
    (((t.threads.filter fun x => x.migrated && x.bay == bay && x.status != .exited).map fun x => (t.ref, x.tid / t.grant))).eraseDups

def vestibuleFree (s : State) (bay : Nat) : Bool := (vestibuleCohorts s bay).length < 4

/-- Teams with cohort slots on a bay, by quadrant: how many each quadrant has (R23). -/
def quadsUsed (ts : List Team) (q : Nat) : Nat := sumBy ts fun t => (t.slotsHeld.filter fun i => nth t.quads i 4 == q).length

/-- A quadrant for each of n cohort slots: one after the other in the quadrant with the most free slots, the lowest of
several (R404). -/
def quadsFor (ts : List Team) : Nat → List Nat → List Nat
  | 0, qs => qs
  | n + 1, qs =>
    let used := fun q => quadsUsed ts q + (qs.filter (· == q)).length
    let q := [1, 2, 3].foldl (fun b q => if used q < used b then q else b) 0
    quadsFor ts n (qs ++ [q])

/-- The quadrants and counters of a team that takes its slots on a bay anew. -/
def Team.seat (s : State) (t : Team) : Team :=
  let others := (teamsOn s t.bay).filter fun u => u.ref != t.ref
  { t with
    quads := quadsFor others (slotsFor t.decl.dim t.grant) []
    cfair := List.replicate (ceilDiv t.decl.dim t.grant) ⟨0, none⟩
    gfair := [] }

/-- The quadrant that issues a thread's cohort: that of its slot, or, for a migrated cohort, that of its vestibule slot. -/
def quadOf (s : State) (t : Team) (x : Thread) : Nat :=
  let c := x.tid / t.grant
  if x.migrated then (vestibuleCohorts s x.bay).idxOf (t.ref, c) % 4 else nth t.quads (c * t.grant / 64) 0

/-- The grant of R20 under a request, a bay cap and a pressure cap. -/
def grantFor (req cap pcap : Nat) : Nat := max 8 (pow2Floor (min req (min cap pcap)))

/-- Every declared resource but slots is free on a bay (R36, R37). -/
def resourcesFree (s : State) (bay : Nat) (d : Decl) : Bool :=
  let ts := teamsOn s bay
  let here := fun (f : Decl → Nat) (lim : Nat) => sumBy ts (fun t => f t.decl) + f d ≤ lim
  here Decl.lstore 262144 && here Decl.astore 524288 && here Decl.wstore 524288 && here Decl.cstore 262144 &&
    here Decl.handles 64 && here Decl.streams 4 && here Decl.phasers 16

/-- Cluster phasers in use on a hardware cluster, one set per cluster group (R37); the given group apart. -/
def cphasersUsed (s : State) (cluster ctx gid grp : Nat) (groupOf : Team → Nat) : Nat :=
  let ts := s.teams.filter fun t =>
    t.placedHere && clusterOf t.bay == cluster && t.decl.cphasers != 0 &&
      !(t.ref.ctx == ctx && t.ref.gid == gid && groupOf t == grp)
  let keys := (ts.map fun t => ((t.ref.ctx, t.ref.gid, groupOf t), t.decl.cphasers)).eraseDups
  sumBy keys (·.2)

/-- The grant and pressure cap a team takes on a bay for a width request, if it fits there (R402). A fixed grant
must be admitted as it stands (R26, R25). -/
def fitsBay (s : State) (bay : Nat) (d : Decl) (req : Nat) (fixed : Option Nat) : Option (Nat × Nat) :=
  if !bayInService s bay || !resourcesFree s bay d then none
  else
    let cap := bayCap s bay
    let used := slotsUsed s bay
    match fixed with
    | some w =>
      let pcap := if used + slotsFor d.dim w > 36 then 32 else 64
      if w ≤ min cap pcap && used + slotsFor d.dim w ≤ 48 then some (w, pcap) else none
    | none =>
      let w := grantFor req cap 64
      let pcap := if used + slotsFor d.dim w > 36 then 32 else 64
      let w := grantFor req cap pcap
      if used + slotsFor d.dim w ≤ 48 then some (w, pcap) else none

end Sys2Proof.Machine
end

