-- ==== Sys2Proof/Machine/Float.lean ====
section
/-! DEFINITION. Floating-point formats, rounding, overflow, and the arithmetic of chapters 02 and 07
(R45 to R48, R59 to R66, R69, R206 to R208, R258). Values are exact; each operation rounds once. -/

namespace Sys2Proof.Machine

/-- How a format uses its top exponent (R45, R47). -/
inductive FKind where
  | ieee | e5m2 | e4m3 | e2m1
  deriving DecidableEq, Repr

/-- A floating-point format: exponent bits, fraction bits, bias (R45, R47). -/
structure Fmt where
  eb : Nat
  mb : Nat
  bias : Nat
  kind : FKind
  deriving DecidableEq, Repr

def fmt64 : Fmt := ⟨11, 52, 1023, .ieee⟩
def fmt32 : Fmt := ⟨8, 23, 127, .ieee⟩
def fmt16 : Fmt := ⟨5, 10, 15, .ieee⟩
def fmtB16 : Fmt := ⟨8, 7, 127, .ieee⟩
def fmtTf19 : Fmt := ⟨8, 10, 127, .ieee⟩
def fmtE5m2 : Fmt := ⟨5, 2, 15, .e5m2⟩
def fmtE4m3 : Fmt := ⟨4, 3, 7, .e4m3⟩
def fmtE2m1 : Fmt := ⟨2, 1, 1, .e2m1⟩

/-- A value: a NaN, an infinity, or (-1)^neg × m × 2^e. -/
inductive FVal where
  | nan (signalling : Bool)
  | inf (neg : Bool)
  | fin (neg : Bool) (m : Nat) (e : Int)
  deriving DecidableEq, Repr

/-- Rounding modes (R58, R61, R69); the draw of a stochastic rounding is its argument. -/
inductive Rnd where
  | rne | rz | rd | ru | rna
  | stoch (u : Nat)
  deriving DecidableEq, Repr

/-- Result bits and the FPS flags raised (R59). -/
structure FR where
  bits : Nat
  fl : Nat
  deriving DecidableEq, Repr

def flagNX : Nat := 1
def flagUF : Nat := 2
def flagOF : Nat := 4
def flagDZ : Nat := 8
def flagIV : Nat := 16

def orFlags (a b : Nat) : Nat := a ||| b

/-- Exponent of the unit of a subnormal. -/
def Fmt.qmin (f : Fmt) : Int := 1 - (f.bias : Int) - f.mb

/-- Fraction (with hidden bit) and unit exponent of the max finite value. -/
def Fmt.maxM (f : Fmt) : Nat := match f.kind with | .e4m3 => 14 | _ => 2 ^ (f.mb + 1) - 1

def Fmt.maxQ (f : Fmt) : Int :=
  match f.kind with
  | .e4m3 | .e2m1 => (2 ^ f.eb - 1 : Nat) - (f.bias : Int) - f.mb
  | _ => (2 ^ f.eb - 2 : Nat) - (f.bias : Int) - f.mb

def Fmt.signBit (f : Fmt) (neg : Bool) : Nat := if neg then 2 ^ (f.eb + f.mb) else 0

/-- The canonical NaN (R48); E2M1 has none and gives +0 (R63). -/
def Fmt.nanBits (f : Fmt) : Nat :=
  match f.kind with
  | .e4m3 => 0x7F
  | .e2m1 => 0
  | _ => (2 ^ f.eb - 1) * 2 ^ f.mb + 2 ^ (f.mb - 1)

/-- Infinity; in formats without one, the max finite. -/
def Fmt.infBits (f : Fmt) (neg : Bool) : Nat :=
  match f.kind with
  | .e4m3 => f.signBit neg + 0x7E
  | .e2m1 => f.signBit neg + 7
  | _ => f.signBit neg + (2 ^ f.eb - 1) * 2 ^ f.mb

def Fmt.maxBits (f : Fmt) (neg : Bool) : Nat :=
  match f.kind with
  | .e4m3 => f.signBit neg + 0x7E
  | .e2m1 => f.signBit neg + 7
  | _ => f.signBit neg + ((2 ^ f.eb - 2) * 2 ^ f.mb + (2 ^ f.mb - 1))

/-- Reads a value (R45, R47). Bits above the format are ignored (R46). -/
def Fmt.read (f : Fmt) (x : Nat) : FVal :=
  let neg := bitAt x (f.eb + f.mb)
  let e := x / 2 ^ f.mb % 2 ^ f.eb
  let m := x % 2 ^ f.mb
  let top := e == 2 ^ f.eb - 1
  match f.kind with
  | .ieee =>
    if top then (if m == 0 then .inf neg else .nan (m < 2 ^ (f.mb - 1)))
    else if e == 0 then .fin neg m f.qmin
    else .fin neg (2 ^ f.mb + m) (e - (f.bias : Int) - f.mb)
  | .e5m2 =>
    if top then (if m == 0 then .inf neg else .nan false)
    else if e == 0 then .fin neg m f.qmin
    else .fin neg (2 ^ f.mb + m) (e - (f.bias : Int) - f.mb)
  | .e4m3 =>
    if top && m == 7 then .nan false
    else if e == 0 then .fin neg m f.qmin
    else .fin neg (2 ^ f.mb + m) (e - (f.bias : Int) - f.mb)
  | .e2m1 =>
    if e == 0 then .fin neg m f.qmin
    else .fin neg (2 ^ f.mb + m) (e - (f.bias : Int) - f.mb)

/-- Subnormal encoding: exponent field 0, fraction not 0. -/
def Fmt.subnormal (f : Fmt) (x : Nat) : Bool := x / 2 ^ f.mb % 2 ^ f.eb == 0 && x % 2 ^ f.mb != 0

/-- Reads with DAZ: a subnormal reads as a zero of its sign (R60). -/
def Fmt.readDaz (f : Fmt) (daz : Bool) (x : Nat) : FVal :=
  if daz && f.subnormal x then .fin (bitAt x (f.eb + f.mb)) 0 0 else f.read x

/-- Whether a rounding moves one unit away from zero: t units are kept, the rest is num / den of a unit (plus a
little more when sticky) (R61, R69). -/
def roundsUp (r : Rnd) (neg : Bool) (t num den : Nat) (sticky : Bool) : Bool :=
  match r with
  | .rz => false
  | .rd => neg && (num != 0 || sticky)
  | .ru => !neg && (num != 0 || sticky)
  | .rne => 2 * num > den || (2 * num == den && (sticky || t % 2 == 1))
  | .rna => 2 * num ≥ den
  | .stoch u => u < num * 2 ^ 32 / den

/-- |x| = m × 2^e (and a little more when sticky) as a whole number of units 2^q, rounded; and whether it was
inexact. -/
def roundAt (r : Rnd) (neg : Bool) (m : Nat) (e q : Int) (sticky : Bool) : Nat × Bool :=
  if q ≤ e then (m * 2 ^ (e - q).toNat, sticky)
  else
    let d := 2 ^ (q - e).toNat
    let t := m / d
    let num := m % d
    (if roundsUp r neg t num d sticky then t + 1 else t, num != 0 || sticky)

/-- Compares a × 2^x with b × 2^y: a × 2^x above b × 2^y. -/
def aboveExp (a : Nat) (x : Int) (b : Nat) (y : Int) : Bool :=
  if x ≥ y then a * 2 ^ (x - y).toNat > b else a > b * 2 ^ (y - x).toNat

/-- Encodes r units of 2^q, r not above 2^(mb+1), within the finite range. -/
def Fmt.pack (f : Fmt) (neg : Bool) (r : Nat) (q : Int) : Nat :=
  if r < 2 ^ f.mb then f.signBit neg + r
  else
    let r' := if r == 2 ^ (f.mb + 1) then 2 ^ f.mb else r
    let q' := if r == 2 ^ (f.mb + 1) then q + 1 else q
    f.signBit neg + ((q' + f.mb + f.bias).toNat * 2 ^ f.mb + (r' - 2 ^ f.mb))

/-- The result of an overflow (R62). -/
def Fmt.overflow (f : Fmt) (r : Rnd) (neg sat : Bool) : FR :=
  let inf : FR :=
    match f.kind with
    | .e4m3 => ⟨f.nanBits, flagOF + flagNX + flagIV⟩
    | _ => ⟨f.infBits neg, flagOF + flagNX⟩
  let max : FR := ⟨f.maxBits neg, flagOF + flagNX⟩
  if sat || f.kind == .e2m1 then max
  else
    match r with
    | .rne | .rna | .stoch _ => inf
    | .rz => max
    | .rd => if neg then inf else max
    | .ru => if neg then max else inf

/-- round_to with flags: (-1)^neg × (m × 2^e, and a little more when sticky), saturation and FTZ
(R59 to R62). -/
def Fmt.round (f : Fmt) (r : Rnd) (sat ftz : Bool) (neg : Bool) (m : Nat) (e : Int) (sticky : Bool) : FR :=
  if m == 0 && !sticky then ⟨f.signBit neg, 0⟩
  else
    let qU : Int := e + bitLen m - 1 - f.mb
    let q := if qU < f.qmin then f.qmin else qU
    let (v, inex) := roundAt r neg m e q sticky
    if aboveExp v q f.maxM f.maxQ then f.overflow r neg sat
    else
      let u := (roundAt r neg m e qU sticky).1
      let tiny := aboveExp 1 (1 - (f.bias : Int)) u qU
      let out := f.pack neg v q
      if ftz && f.subnormal out then ⟨f.signBit neg, flagUF + flagNX⟩
      else ⟨out, (if inex then flagNX else 0) + (if tiny && inex then flagUF else 0)⟩

/-- A NaN result; IV when an input was signalling or the operation invalid (R48, R63). -/
def Fmt.nanFR (f : Fmt) (iv : Bool) : FR := ⟨f.nanBits, if iv then flagIV else 0⟩

def FVal.isNan : FVal → Bool
  | .nan _ => true
  | _ => false

def FVal.isSnan : FVal → Bool
  | .nan s => s
  | _ => false

def FVal.neg : FVal → FVal
  | .nan s => .nan s
  | .inf n => .inf (!n)
  | .fin n m e => .fin (!n) m e

/-- A signed multiple of a unit. -/
def signedN (neg : Bool) (m : Nat) : Int := if neg then -(m : Int) else m

/-- The sum of two exact finite values p + q, rounded once; zero sums by R207. -/
def Fmt.addFin (f : Fmt) (r : Rnd) (ftz : Bool) (p : Bool) (m : Nat) (e : Int) (q : Bool) (n : Nat) (g : Int) : FR :=
  let lo := if e ≤ g then e else g
  let t := signedN p (m * 2 ^ (e - lo).toNat) + signedN q (n * 2 ^ (g - lo).toNat)
  if t == 0 then ⟨f.signBit (if p == q then p else r == .rd), 0⟩
  else f.round r false ftz (t < 0) t.natAbs lo false

/-- A + B (R206, R207). -/
def Fmt.add (f : Fmt) (r : Rnd) (ftz : Bool) (x y : FVal) : FR :=
  match x, y with
  | .nan s, y => f.nanFR (s || y.isSnan)
  | .inf _, .nan s => f.nanFR s
  | .inf p, .inf q => if p == q then ⟨f.infBits p, 0⟩ else f.nanFR true
  | .inf p, .fin _ _ _ => ⟨f.infBits p, 0⟩
  | .fin _ _ _, .nan s => f.nanFR s
  | .fin _ _ _, .inf q => ⟨f.infBits q, 0⟩
  | .fin p m e, .fin q n g => f.addFin r ftz p m e q n g

/-- A × B + D, rounded once (R206, R207). -/
def Fmt.fma (f : Fmt) (r : Rnd) (ftz : Bool) (x y z : FVal) : FR :=
  match x, y with
  | .nan s, y => f.nanFR (s || y.isSnan || z.isSnan)
  | .inf _, .nan s => f.nanFR (s || z.isSnan)
  | .fin _ _ _, .nan s => f.nanFR (s || z.isSnan)
  | .inf p, .inf q => infPlus (p != q) z
  | .inf p, .fin q n _ => if n == 0 then f.nanFR true else infPlus (p != q) z
  | .fin p m _, .inf q => if m == 0 then f.nanFR true else infPlus (p != q) z
  | .fin p m e, .fin q n g =>
    match z with
    | .nan s => f.nanFR s
    | .inf k => ⟨f.infBits k, 0⟩
    | .fin k l h => f.addFin r ftz (p != q) (m * n) (e + g) k l h
where
  /-- an infinite product plus D -/
  infPlus (neg : Bool) (z : FVal) : FR :=
    match z with
    | .nan s => f.nanFR s
    | .inf k => if k == neg then ⟨f.infBits k, 0⟩ else f.nanFR true
    | .fin _ _ _ => ⟨f.infBits neg, 0⟩

/-- A × B (R206, R207). -/
def Fmt.mul (f : Fmt) (r : Rnd) (ftz : Bool) (x y : FVal) : FR :=
  match x, y with
  | .nan s, y => f.nanFR (s || y.isSnan)
  | .inf _, .nan s => f.nanFR s
  | .fin _ _ _, .nan s => f.nanFR s
  | .inf p, .inf q => ⟨f.infBits (p != q), 0⟩
  | .inf p, .fin q n _ => if n == 0 then f.nanFR true else ⟨f.infBits (p != q), 0⟩
  | .fin p m _, .inf q => if m == 0 then f.nanFR true else ⟨f.infBits (p != q), 0⟩
  | .fin p m e, .fin q n g => f.round r false ftz (p != q) (m * n) (e + g) false

/-- A / B (R206, R207). -/
def Fmt.div (f : Fmt) (r : Rnd) (ftz : Bool) (x y : FVal) : FR :=
  match x, y with
  | .nan s, y => f.nanFR (s || y.isSnan)
  | .inf _, .nan s => f.nanFR s
  | .fin _ _ _, .nan s => f.nanFR s
  | .inf _, .inf _ => f.nanFR true
  | .inf p, .fin q _ _ => ⟨f.infBits (p != q), 0⟩
  | .fin p _ _, .inf q => ⟨f.signBit (p != q), 0⟩
  | .fin p m e, .fin q n g =>
    if n == 0 then (if m == 0 then f.nanFR true else ⟨f.infBits (p != q), flagDZ⟩)
    else f.round r false ftz (p != q) (m * 2 ^ 130 / n) (e - g - 130) (m * 2 ^ 130 % n != 0)

/-- √A (R206, R207). -/
def Fmt.sqrt (f : Fmt) (r : Rnd) (ftz : Bool) (x : FVal) : FR :=
  match x with
  | .nan s => f.nanFR s
  | .inf n => if n then f.nanFR true else ⟨f.infBits false, 0⟩
  | .fin p m e =>
    if m == 0 then ⟨f.signBit p, 0⟩
    else if p then f.nanFR true
    else
      let m2 := (if e % 2 == 0 then m else 2 * m) * 4 ^ 70
      let t := isqrt m2
      f.round r false ftz false t ((if e % 2 == 0 then e else e - 1) / 2 - 70) (t * t != m2)

/-- 1/A rounded to nearest even (R211). -/
def Fmt.rcp (f : Fmt) (ftz : Bool) (x : FVal) : FR := f.div .rne ftz (.fin false 1 0) x

/-- 1/√A rounded to nearest even (R211). -/
def Fmt.rsq (f : Fmt) (ftz : Bool) (x : FVal) : FR :=
  match x with
  | .nan s => f.nanFR s
  | .inf n => if n then f.nanFR true else ⟨0, 0⟩
  | .fin p m e =>
    if m == 0 then ⟨f.infBits p, flagDZ⟩
    else if p then f.nanFR true
    else
      let m2 := if e % 2 == 0 then m else 2 * m
      let e2 := if e % 2 == 0 then e else e - 1
      let t := isqrt (4 ^ 100 / m2)
      f.round .rne false ftz false t (-(e2 / 2) - 100) (t * t * m2 != 4 ^ 100)

/-- The relation of two values: less, equal, greater, or none when a NaN takes part. −0 equals +0. -/
def FVal.cmp (x y : FVal) : Option Ordering :=
  match x, y with
  | .nan _, _ | _, .nan _ => none
  | .inf p, .inf q => some (if p == q then .eq else if p then .lt else .gt)
  | .inf p, .fin _ _ _ => some (if p then .lt else .gt)
  | .fin _ _ _, .inf q => some (if q then .gt else .lt)
  | .fin p m e, .fin q n g =>
    let lo := if e ≤ g then e else g
    let a := signedN p (m * 2 ^ (e - lo).toNat)
    let b := signedN q (n * 2 ^ (g - lo).toNat)
    some (if a < b then .lt else if a == b then .eq else .gt)

/-- The sign of a value that is not a NaN. -/
def FVal.isNeg : FVal → Bool
  | .nan _ => false
  | .inf n => n
  | .fin n _ _ => n

/-- The bits of an operand after DAZ. -/
def Fmt.dazBits (f : Fmt) (daz : Bool) (x : Nat) : Nat :=
  if daz && f.subnormal x then f.signBit (bitAt x (f.eb + f.mb)) else x

/-- FTZ on bits that are delivered without rounding (R208). -/
def Fmt.flushBits (f : Fmt) (ftz : Bool) (x fl : Nat) : FR :=
  if ftz && f.subnormal x then ⟨f.signBit (bitAt x (f.eb + f.mb)), fl ||| (flagUF + flagNX)⟩ else ⟨x, fl⟩

/-- FMIN (max = false) and FMAX (max = true) (R208). -/
def Fmt.minmax (f : Fmt) (max : Bool) (daz ftz : Bool) (a b : Nat) : FR :=
  let x := f.readDaz daz a
  let y := f.readDaz daz b
  let a' := f.dazBits daz a
  let b' := f.dazBits daz b
  let fl := if x.isSnan || y.isSnan then flagIV else 0
  match x.cmp y with
  | some .lt => f.flushBits ftz (if max then b' else a') fl
  | some .gt => f.flushBits ftz (if max then a' else b') fl
  | some .eq => f.flushBits ftz (if x.isNeg == max then b' else a') fl
  | none =>
    if x.isNan && y.isNan then ⟨f.nanBits, fl⟩
    else f.flushBits ftz (if x.isNan then b' else a') fl

/-- Conversion between floating formats (R213). `widen`: an exact widening, on which saturation does not act. -/
def convertF (src dst : Fmt) (r : Rnd) (sat daz ftz widen : Bool) (x : Nat) : FR :=
  match src.readDaz daz x with
  | .nan s => match dst.kind with | .e2m1 => ⟨0, flagIV⟩ | _ => dst.nanFR s
  | .inf n =>
    if sat && !widen then ⟨dst.maxBits n, 0⟩
    else
      match dst.kind with
      | .e4m3 => ⟨dst.nanBits, flagIV⟩
      | .e2m1 => ⟨dst.maxBits n, flagIV⟩
      | _ => ⟨dst.infBits n, 0⟩
  | .fin n m e =>
    dst.round r sat ((match dst.kind with | .ieee => true | _ => false) && ftz) n m e false

/-- Conversion to an integer of the range lo to hi (R66, R214): value and flags. -/
def toIntF (r : Rnd) (lo hi : Int) (x : FVal) : Int × Nat :=
  match x with
  | .nan _ => (0, flagIV)
  | .inf n => (if n then lo else hi, flagIV)
  | .fin n m e =>
    let (v, inex) := roundAt r n m e 0 false
    let i := signedN n v
    if i < lo then (lo, flagIV) else if hi < i then (hi, flagIV) else (i, if inex then flagNX else 0)

/-- Conversion from an integer (R215). -/
def Fmt.ofInt (f : Fmt) (r : Rnd) (i : Int) : FR := f.round r false false (i < 0) i.natAbs 0 false

/-- rne_int of an exact value m × 2^e, signed (R72, R80). -/
def rneInt (neg : Bool) (m : Nat) (e : Int) : Int := signedN neg (roundAt .rne neg m e 0 false).1

/-- FP32 arithmetic with RNE, no flushing and no flags, on bits (R71, R77, R226, R258). -/
def f32add (a b : Nat) : Nat := (fmt32.add .rne false (fmt32.read a) (fmt32.read b)).bits
def f32sub (a b : Nat) : Nat := (fmt32.add .rne false (fmt32.read a) (fmt32.read b).neg).bits
def f32mul (a b : Nat) : Nat := (fmt32.mul .rne false (fmt32.read a) (fmt32.read b)).bits
def f32div (a b : Nat) : Nat := (fmt32.div .rne false (fmt32.read a) (fmt32.read b)).bits
def f32sqrt (a : Nat) : Nat := (fmt32.sqrt .rne false (fmt32.read a)).bits
def f32fma (a b c : Nat) : Nat := (fmt32.fma .rne false (fmt32.read a) (fmt32.read b) (fmt32.read c)).bits
def f32min (a b : Nat) : Nat := (fmt32.minmax false false false a b).bits
def f32max (a b : Nat) : Nat := (fmt32.minmax true false false a b).bits
def f32neg (a : Nat) : Nat := if a / 2 ^ 31 % 2 == 1 then a - 2 ^ 31 else a + 2 ^ 31
def f32abs (a : Nat) : Nat := a % 2 ^ 31
def f32lt (a b : Nat) : Bool := (fmt32.read a).cmp (fmt32.read b) == some .lt
def f32le (a b : Nat) : Bool :=
  match (fmt32.read a).cmp (fmt32.read b) with | some .lt | some .eq => true | _ => false
def f32isNan (a : Nat) : Bool := (fmt32.read a).isNan
def f32finite (a : Nat) : Bool := a / 2 ^ 23 % 256 != 255
def f32ofInt (i : Int) : Nat := (fmt32.ofInt .rne i).bits

end Sys2Proof.Machine
end

