-- ==== Sys2Proof/Machine/Operands.lean ====
section
/-! DEFINITION. Operand forms: width-selected register operands (R166, R190), M-format addresses (R247, R248),
address pairs (R255), and where results go, short or long (R177). -/

namespace Sys2Proof.Machine

/-- Where a result goes. -/
inductive Class where
  | short | long
  deriving DecidableEq, Repr

/-- Writes a result of k registers in its class. -/
def State.result (s : State) (c : Class) (r : BitVec 6) (k v : Nat) : State :=
  match c with
  | .short => s.puts r k v
  | .long => s.pendTo r k v

/-- A word of two operands whose W selects 32 or 64 bits for every field (R190). -/
def alu2 (c : Class) (f : (n : Nat) → BitVec n → BitVec n → BitVec n) (o : RFmt) (s : State) : State :=
  if s.active o.g then
    if o.w == 0 then s.result c o.d 1 (f 32 (s.src o.a) (s.src o.b)).toNat
    else s.result c o.d 2 (f 64 (s.srcPair o.a) (s.srcPair o.b)).toNat
  else s

/-- As `alu2`, with the destination as a third source (R189). -/
def alu3 (c : Class) (f : (n : Nat) → BitVec n → BitVec n → BitVec n → BitVec n) (o : RFmt) (s : State) : State :=
  if s.active o.g then
    if o.w == 0 then s.result c o.d 1 (f 32 (s.src o.a) (s.src o.b) (s.src o.d)).toNat
    else s.result c o.d 2 (f 64 (s.srcPair o.a) (s.srcPair o.b) (s.srcPair o.d)).toNat
  else s

/-- A word that reads A only. -/
def alu1 (c : Class) (f : (n : Nat) → BitVec n → BitVec n) (o : RFmt) (s : State) : State :=
  alu2 c (fun n a _ => f n a) o s

/-- A word whose second operand is a 32-bit control or shift count: B's low register at either width (R194). -/
def aluCtl (c : Class) (f : (n : Nat) → BitVec n → Word → BitVec n → BitVec n) (o : RFmt) (s : State) : State :=
  if s.active o.g then
    if o.w == 0 then s.result c o.d 1 (f 32 (s.src o.a) (s.src o.b) (s.src o.d)).toNat
    else s.result c o.d 2 (f 64 (s.srcPair o.a) (s.src o.b) (s.srcPair o.d)).toNat
  else s

/-- An I-format immediate word (R200): never guarded, 32 bits. -/
def aluImm (f : Word → Word → Word) (o : IFmt) (s : State) : State :=
  s.puts o.d 1 (f (s.src o.a) (o.imm.signExtend 32)).toNat

/-- Bytes of an M-format access (R248). -/
def memSize (w : BitVec 2) : Nat := 4 * 2 ^ w.toNat

/-- The effective address of an M-format word (R247). -/
def State.eaM (s : State) (o : MFmt) : Nat :=
  (s.srcPair o.a + (o.imm.signExtend 64) * BitVec.ofNat 64 (memSize o.w)).toNat

/-- The effective address of an R-format memory word (R255). -/
def State.eaR (s : State) (o : RFmt) : Nat := (s.srcPair o.a).toNat

/-- Registers of a data group at width W. -/
def groupRegs (w : BitVec 2) : Nat := 2 ^ w.toNat

end Sys2Proof.Machine
end

