-- ==== Sys2Proof/Machine/Flags.lean ====
section
/-! DEFINITION. FPC and FPS: their fields and how floating-point words use them (R58 to R60, R191). -/

namespace Sys2Proof.Machine

/-- The families of DAZ and FTZ, by their bit in FPC (R58). -/
inductive Family where
  | f64 | f32 | f16 | bf16
  deriving DecidableEq, Repr

def Family.ftzBit : Family → Nat
  | .f64 => 9
  | .f32 => 10
  | .f16 => 11
  | .bf16 => 12

/-- A word uses FPC as it stood before its issue group (R191). -/
def State.fpc (s : State) : Word := s.grp.view.fpc

def State.ftz (s : State) (f : Family) : Bool := s.fpc.getLsbD f.ftzBit
def State.daz (s : State) (f : Family) : Bool := s.fpc.getLsbD (f.ftzBit + 4)
def State.sat (s : State) : Bool := s.fpc.getLsbD 8

/-- The rounding mode of a code (R58): codes 5 to 7 are never stored. -/
def rndOf (n : Nat) : Rnd :=
  match n with
  | 1 => .rz
  | 2 => .rd
  | 3 => .ru
  | 4 => .rna
  | _ => .rne

/-- The dynamic rounding mode. -/
def State.rm (s : State) : Rnd := rndOf (s.fpc.toNat % 8)

/-- The value FPC holds after a WRSR (R58, R4). -/
def fpcWrite (v : Word) : Word :=
  let k := v.toNat % 8
  BitVec.ofNat 32 (bits v.toNat 16 8 * 256 + (if k ≥ 5 then 0 else k))

/-- A floating-point result with its flags, in its class (R191): flags of a short result are ORed at once, those of
a long result when it is written. -/
def State.fpResult (s : State) (c : Class) (r : BitVec 6) (k : Nat) (x : FR) : State :=
  match c with
  | .short => (s.puts r k x.bits).mapTh fun t => t.orFps x.fl
  | .long => s.pend (pendRegs r.toNat x.bits k ++ [.flags (BitVec.ofNat 32 x.fl) k])

end Sys2Proof.Machine
end

