-- ==== Sys2Proof/Machine/View.lean ====
section
/-! DEFINITION. The view of memory of a team of a deterministic launch: its write log over the image of the phase's
start, and the ownership of lines (R160, R406, R407). -/

namespace Sys2Proof.Machine

/-- The log's record of a sector, if it has one (R406). -/
def logFind (log : List LogRec) (q : Nat) : Option (Sec × BitVec 16) :=
  match log with
  | [] => none
  | .store k d m :: t => if k == q then some (d, m) else logFind t q
  | .red _ _ _ _ _ _ :: t => logFind t q

/-- A byte of the phase-start image: as kept for lines committed early, else as the home slice holds it (R408), with what an outside
agent has written there since: DESIGN CHOICE (log entry 122). -/
def imageByte (ms : MemSys) (g : Grid) (ha : Nat) : Byte :=
  if g.phaseHeld.contains (ha / 64) then g.phaseImg.get ha
  else BitVec.ofNat 8 (ofBytes (homeRead ms ha 1))

/-- A byte of a team's view (R160). -/
def viewByte (ms : MemSys) (g : Grid) (log : List LogRec) (ha : Nat) : Byte :=
  match logFind log (ha / 16) with
  | some (d, m) => if m.getLsbD (ha % 16) then BitVec.ofNat 8 (ofBytes (secBytes d (ha % 16) 1)) else imageByte ms g ha
  | none => imageByte ms g ha

/-- n bytes of a team's view. -/
def viewRead (ms : MemSys) (g : Grid) (log : List LogRec) (ha n : Nat) : List Byte :=
  (rangeFrom ha n).map (viewByte ms g log)

/-- Records a store of bytes within one sector: updates the sector's record or takes a new one. -/
def logStore (log : List LogRec) (ha : Nat) (bs : List Byte) : List LogRec :=
  let q := ha / 16
  let mask : BitVec 16 := BitVec.ofNat 16 ((2 ^ bs.length - 1) * 2 ^ (ha % 16))
  match logFind log q with
  | none => log ++ [.store q (secPut 0 (ha % 16) bs) mask]
  | some _ =>
    log.map fun r =>
      match r with
      | .store k d m => if k == q then .store k (secPut d (ha % 16) bs) (m ||| mask) else r
      | .red _ _ _ _ _ _ => r

/-- Bytes of the spill list and of a team's share of the log region (R406). -/
def splBytes (g : Grid) : Nat := g.logsize / 65536 * 4096

def shareBytes (g : Grid) : Nat := if g.decl.det == 0 then 0 else (g.logsize - splBytes g) / g.decl.det / 4096 * 4096

/-- The most records a team may hold. -/
def logCapacity (g : Grid) : Nat := 512 + shareBytes g / 32

/-- The key of a free value: a new one at each draw; in a deterministic launch one that the operands fix, so that every run
draws the same (R410). -/
def State.openKey (s : State) (key : Nat) : Nat := if s.det then 2 * key + 1 else 2 * s.draws

/-- Adds a team's touch of a line to the ownership records; none when the spill list has no room (R407). -/
def touchLine (owners : List Owner) (g : Grid) (team slice line : Nat) (red : Bool) : Option (List Owner) :=
  let mine := fun (o : Owner) => o.ctx == g.ctx && o.gid == g.gid && o.line == line && o.slice == slice
  if owners.any mine then
    some <| owners.map fun o =>
      if mine o then
        let ts := if o.teams.contains team then o.teams else o.teams ++ [team]
        { o with teams := ts, shared := o.shared || red || ts.length > 1 }
      else o
  else if (owners.filter fun o => o.slice == slice && !o.spilled).length < 2048 then
    some (owners ++ [⟨g.ctx, g.gid, slice, line, [team], red, false⟩])
  else if (owners.filter fun o => o.ctx == g.ctx && o.gid == g.gid && o.spilled).length < splBytes g / 16 then
    some (owners ++ [⟨g.ctx, g.gid, slice, line, [team], true, true⟩])
  else none

/-- Writes bytes of whole sectors at an offset of the log region, which the context's page table maps; where it maps no page
there, the device holds them (log entry 92). -/
def State.logWrite (s : State) (off : Nat) (bs : List Byte) : State :=
  let va := s.grid.logbase + off
  match leafFor s s.tm.ref.ctx s.tm.bay va with
  | (.leaf l k _, s) =>
    let ha := leafHa l (2 ^ k) va
    if leafLock l then s
    else s.mapMs fun ms => (List.range (bs.length / 16)).foldl (fun ms i => homeWrite ms (ha + 16 * i) ((bs.drop (16 * i)).take 16)) ms
  | (_, s) => s

/-- An address of the log region that the next record of the team may be written to, and whose page is locked: the access that makes
the record waits for it (R428). -/
def State.lockedLog (s : State) : Option Nat :=
  let g := s.grid
  let share := splBytes g + s.tm.ref.team % max 1 g.decl.det * shareBytes g
  let records := if s.tm.log.length < 510 then [] else (List.range ((s.tm.log.length - 510) / 2048 + 2)).map fun i => share + 65536 * i
  let spills := if s.ms.owners.length < 2048 then [] else (List.range (splBytes g / 65536 + 1)).map fun i => 65536 * i
  ((records ++ spills).map (g.logbase + ·)).find? fun va =>
    match (leafFor s s.tm.ref.ctx s.tm.bay va).1 with
    | .leaf l _ _ => leafLock l
    | _ => false

/-- What a record holds (R406). -/
def LogRec.fields (r : LogRec) : List Nat :=
  match r with
  | .store q d m => [0, q, d.toNat, m.toNat]
  | .red pa n op v _ _ => [1, pa, n, op, v.toNat]

/-- The records of a team beyond the 512 on chip that have changed are written into its share (R406). -/
def State.spillLog (s : State) (old : List LogRec) : State :=
  let g := s.grid
  let base := splBytes g + s.tm.ref.team % max 1 g.decl.det * shareBytes g
  ((s.tm.log.drop 512).zipIdx.filter fun p => old[512 + p.2]? != some p.1).foldl
    (fun s p => s.logWrite (base + 32 * p.2) ((List.range 32).map (Config.logByte p.1.fields))) s

/-- New records a store of bytes at ha needs. -/
def newRecords (log : List LogRec) (ha n : Nat) : Nat :=
  if n ≤ 16 then (if (logFind log (ha / 16)).isNone then 1 else 0)
  else (if (logFind log (ha / 16)).isNone then 1 else 0) + (if (logFind log (ha / 16 + 1)).isNone then 1 else 0)

/-- The issuing team's touch of a line on home die `die`. -/
def State.touch (s : State) (die ha : Nat) (red : Bool) : Option State :=
  match touchLine s.ms.owners s.grid s.tm.ref.team (homeSlice die ha) (ha / 64) red with
  | some os =>
    let g := s.grid
    let spilled := fun (l : List Owner) => (l.filter fun o => o.ctx == g.ctx && o.gid == g.gid && o.spilled).length
    let n := spilled s.ms.owners
    let s := s.mapMs fun ms => { ms with owners := os }
    some (if spilled os == n then s else s.logWrite (16 * n) ((List.range 16).map (Config.logByte [2, ha / 64])))
  | none => none

/-- Re-evaluates the team's own waits on a line it has written (R160, R239). -/
def State.wakeOwn (s : State) (line : Nat) : State :=
  let g := s.grid
  s.mapMs fun ms =>
    { ms with
      latches := ms.latches.map fun l =>
        match l.who with
        | .thread r =>
          if r.team == s.tm.ref && l.ownView && l.pa / 64 == line && l.outcome.isNone &&
              latchCond l.cc l.wide (ofBytes (viewRead s.ms g s.tm.log l.pa (if l.wide then 8 else 4))) l.operand.toNat then
            { l with outcome := some true }
          else l
        | .grid _ _ => l }

/-- A read of the team's view; none when the line finds no ownership record, or a record waits for its page. -/
def State.viewLoad (s : State) (die ha n : Nat) : Option (List Byte × State) :=
  match if s.lockedLog.isSome then none else s.touch die ha false with
  | some s => some (viewRead s.ms s.grid s.tm.log ha n, s)
  | none => none

/-- A write to the team's view; none when the log or the ownership records have no room, or a record waits for its page. -/
def State.viewStore (s : State) (die ha : Nat) (bs : List Byte) : Option State :=
  if s.lockedLog.isSome || s.tm.log.length + newRecords s.tm.log ha bs.length > logCapacity s.grid then none
  else
    match s.touch die ha false with
    | none => none
    | some s =>
      let log := if bs.length ≤ 16 then logStore s.tm.log ha bs
        else logStore (logStore s.tm.log ha (bs.take 16)) (ha + 16) (bs.drop 16)
      some (((s.mapTm fun t => { t with log := log }).spillLog s.tm.log).wakeOwn (ha / 64))

/-- A reduction in a deterministic launch takes a record of its own and is not applied to the view (R161, R406). It
is the reduction of a thread at a place in its program order (R325). -/
def State.viewRedOf (s : State) (tid stamp die ha n op : Nat) (v : DWord) : Option State :=
  if s.lockedLog.isSome || s.tm.log.length + 1 > logCapacity s.grid then none
  else
    match s.touch die ha true with
    | none => none
    | some s => some ((s.mapTm fun t => { t with log := t.log ++ [.red ha n op v tid stamp] }).spillLog s.tm.log)

/-- A reduction of the issuing thread. -/
def State.viewRed (s : State) (die ha n op : Nat) (v : DWord) : Option State := s.viewRedOf s.th.tid s.turns die ha n op v

end Sys2Proof.Machine
end

