-- ==== Sys2Proof/Machine/Access.lean ====
section
/-! DEFINITION. Loads, stores and synchronising actions of a thread at its scopes, in ordinary and in deterministic
launches (R132 to R148, R155, R157 to R160, R419). -/

namespace Sys2Proof.Machine

/-- The larger retention of two (R419). -/
def maxAlloc (a b : Alloc) : Alloc := if a < b then b else a

/-- A load at a home address under a leaf, at a retention. In a deterministic launch it reads the team's view;
a page with DT = 0 is read directly (R420). None: the deterministic-log trap. -/
def State.gload (s : State) (leaf ha n : Nat) (al : Alloc) : Option (List Byte × State) :=
  if s.det then
    if leafDT leaf then s.viewLoad (leafHome leaf) ha n else some (homeRead s.ms ha n, s)
  else
    let (bs, ms) := readMem s.ms s.th.bay (maxAlloc al (leafAlloc leaf)) ha n
    some (bs, { s with ms := ms })

/-- The pieces of some bytes by sectors, each with its address. -/
def sectorPieces (ha : Nat) (bs : List Byte) : List (Nat × List Byte) :=
  (sectorsOf ha bs.length).map fun q =>
    let a := max ha (16 * q)
    (a, (bs.drop (a - ha)).take (16 * q + 16 - a))

/-- A write of a thread; the sectors that its request does not reach are left out, each whole (R464). -/
def State.threadWrite (s : State) (al : Alloc) (ha : Nat) (bs : List Byte) : MemSys :=
  if s.th.lost.isEmpty then writeMem s.ms s.th.bay al ha bs
  else
    ((sectorPieces ha bs).filter fun p => !s.th.lost.contains (p.1 / 16)).foldl (fun ms p => writeMem ms s.th.bay al p.1 p.2) s.ms

/-- A store at a home address under a leaf. None: the deterministic-log trap. -/
def State.gstore (s : State) (leaf ha : Nat) (bs : List Byte) (al : Alloc) : Option State :=
  if s.det then s.viewStore (leafHome leaf) ha bs
  else some { s with ms := s.threadWrite (maxAlloc al (leafAlloc leaf)) ha bs }

/-- Release actions at a scope (R139). A deterministic launch orders its own accesses only (R160). -/
def State.release (s : State) (sc : Nat) : State :=
  if s.det then s else { s with ms := releaseCaches s.ms s.th.bay sc }

/-- Acquire actions at a scope (R139); beyond team scope what other teams have released may come with them (R136). -/
def State.acquire (s : State) (sc : Nat) : State :=
  if s.det then s
  else { s with ms := acquireCaches s.ms s.th.bay sc, tm := { s.tm with acquired := if sc == 0 then s.tm.acquired else s.turns } }

/-- Records a team- or cluster-scope release to a line at its home slice (R146). -/
def State.recordRelease (s : State) (leaf ha : Nat) : State :=
  if s.det then s
  else { s with ms := promRecord s.ms (homeSlice (leafHome leaf) ha) (ha / 64) (clusterOf s.th.bay) }

/-- Sends every dirty pod-tier sector to its peer; the local copies stay, clean. -/
def podSendDirty (ms : MemSys) (who : Option ThreadRef) : MemSys :=
  let dirty := ms.pod.filter (·.dirty)
  let ms := dirty.foldl (fun ms p => podSend ms who (16 * p.sec) 16 p.data.toNat false) ms
  { ms with pod := ms.pod.map fun p => { p with dirty := false } }

/-- The writes sent to peers and not yet acknowledged, by peer and number. -/
def MemSys.unacked (ms : MemSys) : List (Nat × Nat) := (ms.podOut.filter fun m => m.n != 0).map fun m => (m.peer, m.seq)

/-- After a write to a pod-tier line performed at the peer, the local copies it changed are as dirty as they were before it:
the bytes written are not still to be sent, and any others that were still are (R142, R157). -/
def podSettle (before ms : MemSys) (ha n : Nat) : MemSys :=
  let was := fun (q : Nat) => before.pod.any fun p => p.sec == q && p.dirty
  { ms with pod := ms.pod.map fun p => if (sectorsOf ha n).contains p.sec then { p with dirty := was p.sec } else p }

/-- The copies of the sectors of an access that a cluster holds go to their home slices. -/
def evictFor (ms : MemSys) (c ha n : Nat) : MemSys := (sectorsOf ha n).foldl (fun ms q => evict ms c q) ms

/-- A write from a bay to a pod-tier line that is performed at the peer, as the local home slice takes it (R142, R157): the
cluster's copies come first, and what of them the peer has not got stays to be sent. -/
def podWrite (ms : MemSys) (bay ha : Nat) (bs : List Byte) : MemSys :=
  let ms := evictFor ms (clusterOf bay) ha bs.length
  podSettle ms (writeMem ms bay 3 ha bs) ha bs.length

/-- Brings the sectors of a pod-tier access in from the peer anew (R124, R139, R157), where it is no part of a deterministic
launch: clean local copies are dropped, and with `all` dirty ones too, each sent to the peer first. -/
def State.podAnew (s : State) (who : ThreadRef) (all : Bool) (ha n : Nat) : State :=
  if !isPod ha then s
  else
    let mine := fun (p : PodSec) => (sectorsOf ha n).contains p.sec
    let ms := if all then
        (s.ms.pod.filter fun p => mine p && p.dirty).foldl (fun ms p => podSend ms (some who) (16 * p.sec) 16 p.data.toNat false) s.ms
      else s.ms
    podFillFor who { s with ms := { ms with pod := ms.pod.filter fun p => !mine p || (p.dirty && !all) } } ha n

/-- Before a system-scope load of a pod-tier line, clean local copies of its sectors are dropped, so that it is performed at
the peer; dirty ones no acquire drops (R139, R140). -/
def State.podFresh (s : State) (sc ha n : Nat) : State :=
  if sc == 3 && !s.det then s.podAnew (backRef s.tm.ref.ctx) false ha n else s

/-- Before a system-scope atomic or reduction on a pod-tier line no local copy is left, neither in the issuing cluster nor at the
home slice: it executes on the peer's value (R142). -/
def State.podTake (s : State) (sc ha n : Nat) : State :=
  if sc == 3 && isPod ha && !s.det then
    (s.mapMs fun ms => evictFor ms (clusterOf s.th.bay) ha n).podAnew (backRef s.tm.ref.ctx) true ha n
  else s

/-- Whether the thread still waits for an acknowledgement. -/
def State.podAwaits (s : State) : Bool :=
  match s.th.sent with
  | some w => s.ms.podOut.any fun m => w.msgs.contains (m.peer, m.seq)
  | none => false

/-- The thread waits for messages. -/
def State.awaiting (s : State) (stage : Nat) (msgs : List (Nat × Nat)) (val : Nat) : State :=
  s.mapTh fun t => { t with sent := some ⟨stage, msgs, [], val, s.time, s.refLost⟩ }

def State.awaitsNothing (s : State) : State := s.mapTh fun t => { t with sent := none }

/-- Sends a message of the thread's own to a pod-tier line, and blocks until it is acknowledged. -/
def State.podBlock (s : State) (stage ha n v val : Nat) : State :=
  let before := s.ms.unacked
  let s := s.mapMs fun ms => podSend ms (some s.self) ha n v true
  (s.awaiting stage (s.ms.unacked.filter fun m => !before.contains m) val).block .pod

/-- A system-scope release (R157): first every covered sector reaches its point, pod-tier sectors at their peers. What it
covers it cannot tell apart from the rest, whoever sent it (R140): the thread waits until every message then outstanding is
acknowledged, at stage 1, and performs `last`. -/
def State.sysRelease (s : State) (last : State → State) : State :=
  let s :=
    match s.th.sent with
    | some _ => s
    | none =>
      let s := (s.release 3).mapMs fun ms => podSendDirty ms (some s.self)
      s.awaiting 1 s.ms.unacked 0
  if s.podAwaits then s.block .pod else last s.awaitsNothing

/-- Performs `k` after the release actions of a scope: at system scope as R157 says. -/
def State.releasing (s : State) (sc : Nat) (k : State → State) : State :=
  if sc == 3 && !s.det then s.sysRelease k else k (s.release sc)

/-- The home address to which the thread has sent its own message and awaits its acknowledgement, at stage 2. -/
def State.flagSent (s : State) : Option Nat :=
  match s.th.sent with
  | some w => if w.stage == 2 then some w.val else none
  | none => none

/-- The deterministic-log trap (R406, R407); a locked page of the log sets the thread aside (R428). -/
def State.logTrap (s : State) (va : Nat) : State :=
  match s.lockedLog with
  | some a => s.setAside a
  | none => s.raise cDetLog va

end Sys2Proof.Machine
end

