-- ==== Sys2Proof/Machine/Integer.lean ====
section
/-! DEFINITION. Integer arithmetic, logic, shifts, fields, products, divisions, addresses and immediates (R192 to
R202). -/

namespace Sys2Proof.Machine

abbrev Out := Host.Outcome State Fault Refusal

def execIadd (o : RFmt) (s : State) : Out := .next (alu2 .short (fun _ a b => a + b) o s)
def execIsub (o : RFmt) (s : State) : Out := .next (alu2 .short (fun _ a b => a - b) o s)

/-- The smaller and larger, signed and unsigned (R192, R226, R256). -/
def sMin {n : Nat} (a b : BitVec n) : BitVec n := if a.toInt ≤ b.toInt then a else b
def sMax {n : Nat} (a b : BitVec n) : BitVec n := if a.toInt ≤ b.toInt then b else a
def uMin {n : Nat} (a b : BitVec n) : BitVec n := if a.toNat ≤ b.toNat then a else b
def uMax {n : Nat} (a b : BitVec n) : BitVec n := if a.toNat ≤ b.toNat then b else a

def execImin (o : RFmt) (s : State) : Out := .next (alu2 .short (fun _ => sMin) o s)
def execImax (o : RFmt) (s : State) : Out := .next (alu2 .short (fun _ => sMax) o s)
def execIminu (o : RFmt) (s : State) : Out := .next (alu2 .short (fun _ => uMin) o s)
def execImaxu (o : RFmt) (s : State) : Out := .next (alu2 .short (fun _ => uMax) o s)

def execIabs (o : RFmt) (s : State) : Out := .next (alu1 .short (fun _ a => if a.toInt < 0 then 0 - a else a) o s)
def execIneg (o : RFmt) (s : State) : Out := .next (alu1 .short (fun _ a => 0 - a) o s)

def execAnd (o : RFmt) (s : State) : Out := .next (alu2 .short (fun _ a b => a &&& b) o s)
def execOr (o : RFmt) (s : State) : Out := .next (alu2 .short (fun _ a b => a ||| b) o s)
def execXor (o : RFmt) (s : State) : Out := .next (alu2 .short (fun _ a b => a ^^^ b) o s)
def execAndn (o : RFmt) (s : State) : Out := .next (alu2 .short (fun _ a b => a &&& ~~~b) o s)
def execNot (o : RFmt) (s : State) : Out := .next (alu1 .short (fun _ a => ~~~a) o s)
def execMov (o : RFmt) (s : State) : Out := .next (alu1 .short (fun _ a => a) o s)

/-- SEL reads the predicate of the guard selection and is never guarded (R193). -/
def execSel (o : RFmt) (s : State) : Out := .next (alu2 .short (fun _ a b => if s.guardOn then a else b) o s)

def execPopc (o : RFmt) (s : State) : Out :=
  .next (alu1 .short (fun n a => BitVec.ofNat n (popCount n a.toNat)) o s)

/-- Shift amounts are taken modulo N (R194). -/
def execShl (o : RFmt) (s : State) : Out := .next (aluCtl .short (fun n a b _ => a <<< (b.toNat % n)) o s)
def execShr (o : RFmt) (s : State) : Out := .next (aluCtl .short (fun n a b _ => a >>> (b.toNat % n)) o s)
def execSar (o : RFmt) (s : State) : Out := .next (aluCtl .short (fun n a b _ => a.sshiftRight (b.toNat % n)) o s)

/-- Rotation left by k modulo N. -/
def rotl {n : Nat} (a : BitVec n) (k : Nat) : BitVec n := (a <<< (k % n)) ||| (a >>> (n - k % n))

def execRol (o : RFmt) (s : State) : Out := .next (aluCtl .short (fun n a b _ => rotl a (b.toNat % n)) o s)

def execClz (o : RFmt) (s : State) : Out :=
  .next (alu1 .short (fun n a => BitVec.ofNat n (n - bitLen a.toNat)) o s)

def execBrev (o : RFmt) (s : State) : Out :=
  .next (alu1 .short (fun n a => BitVec.ofNat n (reverseBits n a.toNat)) o s)

/-- BFX (R195): pos, len and SX from the control word. -/
def bfxV (n : Nat) (a : BitVec n) (ctl : Word) : BitVec n :=
  let pos := bits ctl.toNat 7 0
  let len := bits ctl.toNat 15 8
  let e := min (pos + len) n
  if len == 0 || pos ≥ n then 0
  else
    let m := e - pos
    let f := a.toNat / 2 ^ pos % 2 ^ m
    if ctl.getLsbD 16 then BitVec.ofInt n (sextN f m) else BitVec.ofNat n f

/-- BFI (R195). -/
def bfiV (n : Nat) (a : BitVec n) (ctl : Word) (d : BitVec n) : BitVec n :=
  let pos := bits ctl.toNat 7 0
  let len := bits ctl.toNat 15 8
  let e := min (pos + len) n
  if len == 0 || pos ≥ n then d
  else
    let m := e - pos
    let x := d.toNat
    BitVec.ofNat n (x % 2 ^ pos + a.toNat % 2 ^ m * 2 ^ pos + x / 2 ^ e * 2 ^ e)

def execBfx (o : RFmt) (s : State) : Out := .next (aluCtl .short (fun n a c _ => bfxV n a c) o s)
def execBfi (o : RFmt) (s : State) : Out := .next (aluCtl .short (fun n a c d => bfiV n a c d) o s)

def execImul (o : RFmt) (s : State) : Out := .next (alu2 .short (fun _ a b => a * b) o s)

/-- High halves of the exact products (R196). -/
def execImulh (o : RFmt) (s : State) : Out :=
  .next (alu2 .short (fun n a b => BitVec.ofInt n (a.toInt * b.toInt / ((2 ^ n : Nat) : Int))) o s)

def execImulhu (o : RFmt) (s : State) : Out :=
  .next (alu2 .short (fun n a b => BitVec.ofNat n (a.toNat * b.toNat / 2 ^ n)) o s)

def execImad (o : RFmt) (s : State) : Out := .next (alu3 .short (fun _ a b d => a * b + d) o s)

/-- The divisions with their two borderline cases (R197). -/
def sDiv (n : Nat) (a b : BitVec n) : BitVec n :=
  if b.toNat == 0 then BitVec.ofInt n (-1) else BitVec.ofInt n (Int.tdiv a.toInt b.toInt)
def sRem (n : Nat) (a b : BitVec n) : BitVec n :=
  if b.toNat == 0 then a else BitVec.ofInt n (Int.tmod a.toInt b.toInt)
def uDiv (n : Nat) (a b : BitVec n) : BitVec n :=
  if b.toNat == 0 then BitVec.ofInt n (-1) else BitVec.ofNat n (a.toNat / b.toNat)
def uRem (n : Nat) (a b : BitVec n) : BitVec n :=
  if b.toNat == 0 then a else BitVec.ofNat n (a.toNat % b.toNat)

def execIdiv (o : RFmt) (s : State) : Out := .next (alu2 .long sDiv o s)
def execIrem (o : RFmt) (s : State) : Out := .next (alu2 .long sRem o s)
def execIdivu (o : RFmt) (s : State) : Out := .next (alu2 .long uDiv o s)
def execIremu (o : RFmt) (s : State) : Out := .next (alu2 .long uRem o s)

/-- LEA with shift amount sc (R198): the 64-bit form adds a signed 32-bit index. -/
def lea (sc : Nat) (o : RFmt) (s : State) : State :=
  if s.active o.g then
    if o.w == 0 then s.puts o.d 1 (s.src o.a + (s.src o.b <<< sc)).toNat
    else s.puts o.d 2 (s.srcPair o.a + ((s.src o.b).signExtend 64 <<< sc)).toNat
  else s

def execLea (o : RFmt) (s : State) : Out := .next (lea 0 o s)
def execLeaX2 (o : RFmt) (s : State) : Out := .next (lea 1 o s)
def execLeaX4 (o : RFmt) (s : State) : Out := .next (lea 2 o s)
def execLeaX8 (o : RFmt) (s : State) : Out := .next (lea 3 o s)

/-- IADDC (R199): value and carry of a pair. -/
def execIaddc (o : RFmt) (s : State) : Out :=
  .next <|
    if s.active o.g then
      let cin : Nat := (s.srcs o.a 2 / 2 ^ 32) % 2
      let t := (s.src o.a).toNat + (s.src o.b).toNat + cin
      s.puts o.d 2 (t % 2 ^ 32 + 2 ^ 32 * (t / 2 ^ 32))
    else s

/-- ISUBB (R199): value and borrow of a pair. -/
def execIsubb (o : RFmt) (s : State) : Out :=
  .next <|
    if s.active o.g then
      let cin : Nat := (s.srcs o.a 2 / 2 ^ 32) % 2
      let a := (s.src o.a).toNat
      let b := (s.src o.b).toNat
      s.puts o.d 2 (wrapN ((a : Int) - b - cin) 32 + 2 ^ 32 * (if a < b + cin then 1 else 0))
    else s

def execIaddi (o : IFmt) (s : State) : Out := .next (aluImm (fun a i => a + i) o s)
def execAndi (o : IFmt) (s : State) : Out := .next (aluImm (fun a i => a &&& i) o s)
def execOri (o : IFmt) (s : State) : Out := .next (aluImm (fun a i => a ||| i) o s)
def execXori (o : IFmt) (s : State) : Out := .next (aluImm (fun a i => a ^^^ i) o s)
def execShli (o : IFmt) (s : State) : Out := .next (aluImm (fun a i => a <<< (i.toNat % 32)) o s)
def execShri (o : IFmt) (s : State) : Out := .next (aluImm (fun a i => a >>> (i.toNat % 32)) o s)
def execSari (o : IFmt) (s : State) : Out := .next (aluImm (fun a i => a.sshiftRight (i.toNat % 32)) o s)
def execMovi (o : IFmt) (s : State) : Out := .next (aluImm (fun _ i => i) o s)

/-- LUIH (R201). -/
def execLuih (o : UFmt) (s : State) : Out := .next (s.puts (o.d.setWidth 6) 1 (o.imm.toNat * 4096))

/-- ADRH (R202): relative to the word's own address. -/
def execAdrh (o : UFmt) (s : State) : Out :=
  .next (s.puts (o.d.setWidth 6) 2 (wrapN ((s.wordPc : Int) + sextN (o.imm.toNat * 4096) 32) 64))

end Sys2Proof.Machine
end

