-- ==== Sys2Proof/Machine/MemInstr.lean ====
section
/-! DEFINITION. Loads and stores: global memory, the typed stores, remote acquire, predicate bits (R247 to R254,
R265, R266). -/

namespace Sys2Proof.Machine

/-- O[2]: ordered; O[1:0]: policy or scope (R249). -/
def isOrdered (o : BitVec 3) : Bool := o.getLsbD 2
def scopeOf (o : BitVec 3) : Nat := o.toNat % 4

/-- An ordered load or store leaves its sectors in the L1 and the cluster cache, as a plain one of policy 00 does, whatever the
point at which it is performed (R249). -/
def State.allocate (s : State) (leaf ha n : Nat) : State :=
  if s.det || leafAlloc leaf ≥ 3 then s else { s with ms := (readMem s.ms s.th.bay (leafAlloc leaf) ha n).2 }

/-- A global load of n bytes (R250): policy or acquire scope, then what to do with the bytes. -/
def loadGlobal (s : State) (va n : Nat) (ord : Bool) (x : Nat) (k : List Byte → State → State) : State :=
  let al := if ord then (if s.effScope x ≥ 2 then 3 else 0) else x
  match s.checkGlobal va n .load al with
  | .stop s => s
  | .ok ha leaf s =>
    let sc := s.effScope x
    let s := if ord then s.podFresh sc ha n else s
    match s.gload leaf ha n al with
    | none => s.logTrap va
    | some (bs, s) => k bs (if ord then (s.acquire sc).allocate leaf ha n else s)

/-- A global store (R250). A team- or cluster-scope release, or a store after a release fence of such a scope, is
recorded at the home slice first (R146). A device-scope release store is performed at the home slice. At system scope a store
to a pod-tier line is sent to the peer, when every earlier message has been acknowledged, and the thread waits for it
(R157); the local home copy takes it with the acknowledgement. -/
def storeGlobal (s : State) (va : Nat) (bs : List Byte) (ord : Bool) (x : Nat) : State :=
  match s.flagSent with
  | some ha =>
    if s.podAwaits then s.block .pod
    else (podFillFor s.self s.awaitsNothing ha bs.length).mapMs fun ms => podWrite ms s.th.bay ha bs
  | none =>
    match s.checkGlobal va bs.length .store (if ord then scopeAlloc (s.effScope x) else x) with
    | .stop s => s
    | .ok ha leaf s =>
      let sc := s.effScope x
      let s := if (ord && sc < 2) || s.th.relFence != 0 then s.recordRelease leaf ha else s
      if ord then
        s.releasing sc fun s =>
          if sc == 3 && isPod ha && !s.det then s.podBlock 2 ha bs.length (ofBytes bs) ha
          else
            match s.gstore leaf ha bs (scopeAlloc sc) with
            | none => s.logTrap va
            | some s => s.allocate leaf ha bs.length
      else
        match s.gstore leaf ha bs x with
        | none => s.logTrap va
        | some s => s

def execLd (o : MFmt) (s : State) : Out :=
  .next <|
    if s.active o.g then
      loadGlobal s (s.eaM o) (memSize o.w) (isOrdered o.o) (scopeOf o.o) fun bs s => s.pendTo o.d (groupRegs o.w) (ofBytes bs)
    else s

def execSt (o : MFmt) (s : State) : Out :=
  .next <|
    if s.active o.g then
      storeGlobal s (s.eaM o) (toBytes (memSize o.w) (s.srcs o.d (groupRegs o.w))) (isOrdered o.o) (scopeOf o.o)
    else s

/-- LDRA (R254, R147): promotion at the home slice, then a device-scope acquire load. -/
def execLdra (o : MFmt) (s : State) : Out :=
  .next <|
    if s.active o.g then
      match s.checkGlobal (s.eaM o) (memSize o.w) .load 3 with
      | .stop s => s
      | .ok ha leaf s =>
        let s := if s.det then s else s.mapMs fun ms => promote ms (homeSlice (leafHome leaf) ha) (ha / 64)
        match s.gload leaf ha (memSize o.w) 3 with
        | none => s.logTrap (s.eaM o)
        | some (bs, s) => (s.acquire 2).pendTo o.d (groupRegs o.w) (ofBytes bs)
    else s

/-! ### Typed stores (R110 to R115, R251) -/

/-- The four typed stores by SPACE (R110): contents and the team's allocation. -/
def Team.store (t : Team) (sp : Nat) : Memory :=
  match sp with
  | 0 => t.lst
  | 1 => t.ast
  | 2 => t.wst
  | _ => t.cst

def Team.storeSize (t : Team) (sp : Nat) : Nat :=
  match sp with
  | 0 => t.decl.lstore
  | 1 => t.decl.astore
  | 2 => t.decl.wstore
  | _ => t.decl.cstore

def Team.setStore (t : Team) (sp : Nat) (m : Memory) : Team :=
  match sp with
  | 0 => { t with lst := m }
  | 1 => { t with ast := m }
  | 2 => { t with wst := m }
  | _ => { t with cst := m }

/-- The failed sectors of a typed store that n bytes at o touch (R446, R447). -/
def Team.badIn (t : Team) (sp o n : Nat) : Option Nat :=
  (rangeFrom (o / 16) ((o + n - 1) / 16 - o / 16 + 1)).find? fun q => t.badStore.contains (sp, q)

/-- The checks of R252 on a typed-store word: none when it passes. -/
def State.checkStore (s : State) (sp o n : Nat) (store : Bool) : Option State :=
  if s.th.migrated then some (s.raise cMigrated 0)
  else if o % n != 0 then some (s.raise cAlign o)
  else if o + n > s.tm.storeSize sp then some (s.raise cBounds o)
  else
    match s.tm.badIn sp o n with
    | some q => if store && n ≥ 16 then none else some (s.raise cDataError (16 * q))
    | none => none

/-- A typed-store load: performed at the store, with its ordering at the scope it names (R251). -/
def loadStore (sp : Nat) (o : MFmt) (s : State) : State :=
  if s.active o.g then
    let n := memSize o.w
    match s.checkStore sp (s.eaM o) n false with
    | some s => s
    | none =>
      let v := ofBytes ((s.tm.store sp).read (s.eaM o) n)
      let s := if isOrdered o.o then s.acquire (s.effScope (scopeOf o.o)) else s
      s.pendTo o.d (groupRegs o.w) v
  else s

/-- Bytes written to a typed store of the issuing team; whole sectors lose their failed marks (R447). -/
def State.storeWrite (s : State) (sp o : Nat) (bs : List Byte) : State :=
  s.mapTm fun t =>
    let t := t.setStore sp ((t.store sp).write o bs)
    if bs.length ≥ 16 then
      { t with badStore := t.badStore.filter fun b => !(b.1 == sp && o ≤ 16 * b.2 && 16 * b.2 + 16 ≤ o + bs.length) }
    else t

/-- What a notify release appends (R150, R282): the team's ring learns the count and its place in the order of the
cluster group. -/
def State.noteAppend (s : State) : State :=
  if s.tm.ring.size == 0 then s
  else
    let v := s.tm.lst.readNat 0 4
    { s with
      tm := { s.tm with ring := { s.tm.ring with appends := s.tm.ring.appends ++ [⟨BitVec.ofNat 32 v, s.turns, s.th.tid⟩] } }
      turns := s.turns + 1 }

/-- A typed-store store (R251). A release to the notify word of a ring appends cards (R282). -/
def storeStore (sp : Nat) (o : MFmt) (s : State) : State :=
  if s.active o.g then
    let n := memSize o.w
    let ea := s.eaM o
    match s.checkStore sp ea n true with
    | some s => s
    | none =>
      let bs := toBytes n (s.srcs o.d (groupRegs o.w))
      if isOrdered o.o then
        s.releasing (s.effScope (scopeOf o.o)) fun s =>
          let s := s.storeWrite sp ea bs
          if sp == 0 && ea == 0 then s.noteAppend else s
      else s.storeWrite sp ea bs
  else s

def execLdl (o : MFmt) (s : State) : Out := .next (loadStore 0 o s)
def execStl (o : MFmt) (s : State) : Out := .next (storeStore 0 o s)
def execLda (o : MFmt) (s : State) : Out := .next (loadStore 1 o s)
def execSta (o : MFmt) (s : State) : Out := .next (storeStore 1 o s)
def execLdw (o : MFmt) (s : State) : Out := .next (loadStore 2 o s)
def execLdc (o : MFmt) (s : State) : Out := .next (loadStore 3 o s)
def execStc (o : MFmt) (s : State) : Out := .next (storeStore 3 o s)

/-! ### Predicate bits (R265) -/

/-- The bit index within a unit of n bytes. -/
def pbitIndex (n : Nat) (b : Word) : Nat := b.toNat % (8 * n)

/-- PSTB: one read-modify-write of its unit, a team-scope reduction in the bay's L1; in a migrated thread at the
home slice (R266). -/
def execPstb (o : RFmt) (s : State) : Out :=
  .next <|
    if s.active o.g then
      let n := 2 ^ o.w.toNat
      let va := s.eaR o
      let al := if s.th.migrated then 3 else 0
      match s.checkGlobal va n .atomic al with
      | .stop s => s
      | .ok ha leaf s =>
        let s := if s.th.relFence != 0 then s.recordRelease leaf ha else s
        match s.gload leaf ha n al with
        | none => s.logTrap va
        | some (bs, s) =>
          let old := ofBytes bs
          let j := pbitIndex n (s.src o.b)
          let new := old - (if bitAt old j then 2 ^ j else 0) + (if s.srcPred o.d then 2 ^ j else 0)
          match s.gstore leaf ha (toBytes n new) al with
          | none => s.logTrap va
          | some s => s
    else s

/-- PLDB: a plain load of one bit; long result (R265). -/
def execPldb (o : RFmt) (s : State) : Out :=
  .next <|
    if s.active o.g then
      let n := 2 ^ o.w.toNat
      loadGlobal s (s.eaR o) n false 0 fun bs s =>
        s.pend [.pred o.d.toNat (bitAt (ofBytes bs) (pbitIndex n (s.src o.b)))]
    else s

end Sys2Proof.Machine
end

