-- ==== Sys2Proof/Machine/Atomics.lean ====
section
/-! DEFINITION. Returning atomics and reductions (R255 to R259). -/

namespace Sys2Proof.Machine

/-- Floating atomics and reductions round to nearest even, keep subnormals and set no flag (R258). -/
def atomFadd (f : Fmt) (a b : Nat) : Nat := (f.add .rne false (f.read a) (f.read b)).bits
def atomFmin (f : Fmt) (a b : Nat) : Nat := (f.minmax false false false a b).bits
def atomFmax (f : Fmt) (a b : Nat) : Nat := (f.minmax true false false a b).bits

/-- The integer functions of ATOM and RED (R256). -/
def atomInt (f : Nat) (old b : Word) : Word :=
  match f with
  | 0 => old + b
  | 1 => old &&& b
  | 2 => old ||| b
  | 3 => old ^^^ b
  | 4 => sMin old b
  | 5 => sMax old b
  | 6 => uMin old b
  | _ => uMax old b

/-- The functions of REDX (R259): operand bytes, and the new value. -/
def redxSize (f : Nat) : Nat := if f == 1 then 8 else 4

def redxFn (f old b : Nat) : Nat :=
  match f with
  | 0 => atomFadd fmt32 old b
  | 1 => atomFadd fmt64 old b
  | 2 =>
    atomFadd fmtB16 (old % 65536) (b % 65536) + 65536 * atomFadd fmtB16 (old / 65536 % 65536) (b / 65536 % 65536)
  | 3 => atomFmin fmt32 old b
  | _ => atomFmax fmt32 old b

/-- The functions of ATOMX (R257): operand bytes, and the value stored, none where a comparison fails. -/
def atomxSize (f : Nat) : Nat := if f == 2 || f == 3 || f == 5 then 8 else 4

def atomxFn (f old b d : Nat) : Option Nat :=
  match f with
  | 0 => some b
  | 1 => if old == d then some b else none
  | 2 => some b
  | 3 => if old == d then some b else none
  | 4 => some (atomFadd fmt32 old b)
  | 5 => some (atomFadd fmt64 old b)
  | 6 => some (atomFmin fmt32 old b)
  | _ => some (atomFmax fmt32 old b)

/-- A reduction by its operation number: 0 to 7 the integer functions, 8 on those of REDX. -/
def redFn (op old b : Nat) : Nat :=
  if op < 8 then (atomInt op (BitVec.ofNat 32 old) (BitVec.ofNat 32 b)).toNat else redxFn (op - 8) old b

/-- A returning atomic of n bytes at a scope (R142, R255): release, read and write in one act at the point of the
scope, acquire; the old value is a long result. Of team or cluster scope it is a release that an LDRA may promote (R148). At
system scope its write to a pod-tier line is sent to the peer, and the thread waits for it with the old value, at stage 3. -/
def returningAtomic (s : State) (va n sc : Nat) (d : BitVec 6) (f : Nat → Option Nat) : State :=
  match s.th.sent.bind fun w => if w.stage == 3 then some w.val else none with
  | some old => if s.podAwaits then s.block .pod else (s.awaitsNothing.acquire 3).pendTo d (n / 4) old
  | none =>
    match s.checkGlobal va n .atomic (scopeAlloc (s.effScope sc)) with
    | .stop s => s
    | .ok ha leaf s =>
      let sc := s.effScope sc
      let s := if sc < 2 || s.th.relFence != 0 then s.recordRelease leaf ha else s
      s.releasing sc fun s' =>
        let s := s'.podTake sc ha n
        let al := scopeAlloc sc
        match s.gload leaf ha n al with
        | none => s.logTrap va
        | some (bs, s) =>
          match f (ofBytes bs) with
          | none => (s.acquire sc).pendTo d (n / 4) (ofBytes bs)
          | some v =>
            match s.gstore leaf ha (toBytes n v) al with
            | none => s'.logTrap va
            | some s2 =>
              if sc == 3 && isPod ha && !s.det then
                (s.mapMs fun ms => podWrite ms s.th.bay ha (toBytes n v)).podBlock 3 ha n v (ofBytes bs)
              else (s2.acquire sc).pendTo d (n / 4) (ofBytes bs)

def execAtom (f : BitVec 3) (o : RFmt) (s : State) : Out :=
  .next <|
    if s.active o.g then
      returningAtomic s (s.eaR o) 4 o.w.toNat o.d fun old =>
        some (atomInt f.toNat (BitVec.ofNat 32 old) (s.src o.b)).toNat
    else s

def execAtomx (f : BitVec 3) (o : RFmt) (s : State) : Out :=
  .next <|
    if s.active o.g then
      let n := atomxSize f.toNat
      returningAtomic s (s.eaR o) n o.w.toNat o.d fun old =>
        atomxFn f.toNat old (s.srcs o.b (n / 4)) (s.srcs o.d (n / 4))
    else s

/-- A reduction (R259): applied at the point of its scope, unordered, nothing returned. In a deterministic launch it
is logged and replayed at commit (R161). -/
def reduction (s : State) (va n sc op b : Nat) : State :=
  match s.checkGlobal va n .atomic (scopeAlloc (s.effScope sc)) with
  | .stop s => s
  | .ok ha leaf s =>
    if s.det then
      match s.viewRed (leafHome leaf) ha n op (BitVec.ofNat 64 b) with
      | none => s.logTrap va
      | some s => s
    else
      let sc := s.effScope sc
      let s := if s.th.relFence != 0 then s.recordRelease leaf ha else s
      let s := s.podTake sc ha n
      let al := maxAlloc (scopeAlloc sc) (leafAlloc leaf)
      let (bs, ms) := readMem s.ms s.th.bay al ha n
      let v := redFn op (ofBytes bs) b
      if sc == 3 && isPod ha then
        { s with ms := podSend (podWrite ms s.th.bay ha (toBytes n v)) (some (backRef s.tm.ref.ctx)) ha n v true }
      else { s with ms := State.threadWrite { s with ms := ms } al ha (toBytes n v) }

def execRed (f : BitVec 3) (o : RFmt) (s : State) : Out :=
  .next (if s.active o.g then reduction s (s.eaR o) 4 o.w.toNat f.toNat (s.src o.b).toNat else s)

def execRedx (f : BitVec 3) (o : RFmt) (s : State) : Out :=
  .next <|
    if s.active o.g then
      let n := redxSize f.toNat
      reduction s (s.eaR o) n o.w.toNat (8 + f.toNat) (s.srcs o.b (n / 4))
    else s

end Sys2Proof.Machine
end

