-- ==== Sys2Proof/Machine/CacheCtl.lean ====
section
/-! DEFINITION. Fences, cache and fetch control, prefetch (R135, R139, R152, R260 to R264). -/

namespace Sys2Proof.Machine

/-- Whether count x lies before count y (both modulo 2^32). -/
def countBefore (x y : Word) : Bool := 0 < (y - x).toNat && (y - x).toNat < 2 ^ 31

/-- Every card appended before count n has retired; on a stopped ring those not accepted count as retired
(R152, R283). -/
def Ring.retiredTo (r : Ring) (n : Word) : Bool :=
  (r.stopped || !countBefore r.accepted n) && r.again.all (fun a => !countBefore (a.upto - 1) n) &&
    r.cards.all fun c => !countBefore (BitVec.ofNat 32 c.seq) n

/-- Every MXOP of the team executed before number k has completed (R152). -/
def Team.mxDoneTo (t : Team) (k : Nat) : Bool :=
  t.streams.all fun st =>
    st.queue.all (fun j => j.order ≥ k) && (match st.running with | some r => r.job.order ≥ k | none => true)

/-- The count of a ring up to which cards were appended before a turn, if any of them is left. -/
def Ring.appendedBy (r : Ring) (turn : Nat) : Option Word :=
  ((r.cards.filter fun c => c.place < turn).map (fun c => BitVec.ofNat 32 c.seq + 1) ++
    ((r.again ++ r.appends).filter fun a => a.place < turn).map (·.upto)).foldl
    (fun m n => if m.any fun k => !countBefore k n then m else some n) none

/-- The rings, other than the thread's own, whose cards a FENCE.engine awaits, each with its count: what other teams did can happen
before the fence only where a thread of the team has acquired since (R136), so that the cards appended before the team's last
acquire are awaited (log entry 90). -/
def State.otherRings (s : State) : List (TeamRef × Word) :=
  (s.teams.filter fun t => t.ref != s.tm.ref && t.ring.size != 0 && t.st != .retired).filterMap fun t =>
    (t.ring.appendedBy s.tm.acquired).map fun n => (t.ref, n)

/-- Whether a team's ring has retired every card before a count; a team that is gone has. -/
def State.ringRetired (s : State) (r : TeamRef) (n : Word) : Bool :=
  match (if r == s.tm.ref then some s.tm else s.teams.find? fun t => t.ref == r) with
  | some t => t.ring.size == 0 || t.ring.retiredTo n
  | none => true

/-- FENCE.engine (R152): what happens before it is fixed when it first issues. -/
def fenceEngine (s : State) (sc : Nat) : State :=
  let s :=
    match s.th.sent with
    | some _ => s
    | none =>
      let cards := (s.tm.ref, BitVec.ofNat 32 (s.tm.lst.readNat 0 4)) :: s.otherRings
      s.mapTh fun t => { t with sent := some ⟨0, [], cards, s.tm.mxOrder, s.time, false⟩ }
  match s.th.sent with
  | none => s
  | some w =>
    if (w.cards.all fun c => s.ringRetired c.1 c.2) && s.tm.mxDoneTo w.val then s.awaitsNothing.acquire sc
    else s.block .fence

/-- Marks that later stores act as stores of a release fence of team or cluster scope (R135, R146). -/
def State.markFence (s : State) (sc : Nat) : State :=
  if sc < 2 then s.mapTh fun t => { t with relFence := t.relFence ||| 2 ^ sc } else s

/-- FENCE (R261). -/
def execFence (o : RFmt) (s : State) : Out :=
  .next <|
    if s.active o.g then
      let sc := s.effScope o.w.toNat
      match o.b.toNat with
      | 0 => s.acquire sc
      | 1 => s.releasing sc fun s => s.markFence sc
      | 2 => s.releasing sc fun s => (s.markFence sc).acquire sc
      | _ => fenceEngine s sc
    else s

/-- What a range word finds of one page: its home range, nothing to do, or a lock. -/
inductive PageRes where
  | part (ha n : Nat)
  | skip
  | locked (va : Nat)

/-- The parts of [va, va + n) page by page, in steps of 64 KiB (R262): pages whose translation would fault are
skipped, a walk that finds V = 0 recorded (R442). -/
def rangeParts (s : State) (va n : Nat) : Nat → List PageRes × State
  | 0 => ([], s)
  | k + 1 =>
    if n == 0 then ([], s)
    else
      let len := min n (65536 - va % 65536)
      let (r, s) := translate s s.accessor .load va
      let (rest, s) := rangeParts s (va + len) (n - len) k
      match r with
      | .ok l sz => (.part (leafHa l (2 ^ sz) va) len :: rest, s)
      | .locked => (.locked va :: rest, s)
      | .unmapped lv => (.skip :: rest, faultRecord s s.accessor .load va lv)
      | _ => (.skip :: rest, s)

/-- The request of the walker for the first page of a range whose tables lie behind another die (R463). -/
def State.askRange (s : State) (va n : Nat) : LinkRes :=
  let pages := ((List.range (n / 65536 + 2)).map fun i => max va ((va / 65536 + i) * 65536)).filter (· < va + n)
  if !s.linkFree && pages.any (walkAway s s.tm.ref.ctx s.th.bay) then s.overLink true 0 else .go s

/-- A range word: the address check, then an act on each mapped part (R262). -/
def rangeWord (s : State) (va n : Nat) (act : State → Nat → Nat → State) : State :=
  if n == 0 then s
  else if va + n > 2 ^ 56 then s.raise cRange va
  else
    match s.askRange va n with
    | .stop s => s
    | .go s =>
      let (ps, s) := rangeParts s va n (n / 65536 + 2)
      match ps.findSome? fun p => match p with | .locked va => some va | _ => none with
      | some va => s.setAside va
      | none =>
        ps.foldl
          (fun s p =>
            match p with
            | .part ha n => (linesOf ha n).foldl (fun s ln => act s ln n) s
            | _ => s) s

/-- Writes back, and with `drop` drops, the cached sectors of a line at the levels inside a scope (R262). -/
def cacheLine (s : State) (sc ln : Nat) (drop : Bool) : State :=
  let bay := s.th.bay
  let c := clusterOf bay
  if sc == 1 then
    let qs := cachedInLine s.ms (fun w => w == bay) ln
    { s with ms := qs.foldl (fun ms q => let ms := pullUp ms c q; if drop then cacheDrop ms bay q else ms) s.ms }
  else if sc ≥ 2 then
    let qs := cachedInLine s.ms (ofCluster c) ln
    { s with ms := qs.foldl (fun ms q => if drop then evict ms c q else writeBack ms c q) s.ms }
  else s

/-- Sends the dirty pod-tier sectors of a line to the peer, and with `drop` drops local copies (R262). The thread awaits
every message of the line. -/
def podLine (s : State) (ln : Nat) (drop : Bool) : State :=
  let inLine := fun (p : PodSec) => p.sec / 4 == ln
  let ms := (s.ms.pod.filter fun p => inLine p && p.dirty).foldl
    (fun ms p => podSend ms (some s.self) (16 * p.sec) 16 p.data.toNat false) s.ms
  let ms := { ms with
    pod := (ms.pod.filter fun p => !(drop && inLine p)).map fun p => if inLine p then { p with dirty := false } else p }
  let mine := if isPod (64 * ln) then (ms.podOut.filter fun m => m.n != 0 && (m.peer + 1) * podBase + m.pa / 64 * 64 == 64 * ln % aliasBase).map fun m => (m.peer, m.seq)
    else []
  let had := match s.th.sent with | some w => w.msgs | none => []
  { s with ms := ms }.awaiting 1 (had ++ mine) 0

/-- CWB and CINV (R262). At system scope the thread waits until every peer has acknowledged. A host-tier line is written
back to the host as well. -/
def cacheRange (o : RFmt) (s : State) (drop : Bool) : State :=
  if s.active o.g then
    let sc := s.effScope o.w.toNat
    let s :=
      match s.th.sent with
      | some _ => s
      | none =>
        rangeWord s (s.eaR o) (s.src o.b).toNat fun s ln _ =>
          let s := cacheLine s sc ln drop
          if sc == 3 then podLine (s.mapMs fun ms => (rangeFrom (4 * ln) 4).foldl (fun ms q => l2WriteBack ms q drop) ms) ln drop else s
    if s.grp.stop.isSome then s else if s.podAwaits then s.block .flush else s.awaitsNothing
  else s

def execCwb (o : RFmt) (s : State) : Out := .next (cacheRange o s false)
def execCinv (o : RFmt) (s : State) : Out := .next (cacheRange o s true)

/-- The bays whose instruction caches a scope names (R263). -/
def iinvBay (sc bay b : Nat) : Bool :=
  if sc == 0 then b == bay else if sc == 1 then clusterOf b == clusterOf bay else true

/-- A thread of a bay may have fetched words of code lines before they are removed (R263, R351). -/
def Thread.keepFetched (x : Thread) (gone : List CodeLine) : Thread :=
  { x with fetched := (if x.status == .exited then [] else gone.filter fun c => c.bay == x.bay) ++ x.fetched }

/-- Code lines go from instruction caches. -/
def State.dropCode (s : State) (test : CodeLine → Bool) : State :=
  let gone := s.ms.icache.filter test
  if gone.isEmpty then s
  else
    (s.overTeams fun t => { t with threads := t.threads.map fun x => x.keepFetched gone }).mapMs fun ms =>
      { ms with icache := ms.icache.filter fun c => !test c }

/-- IINV (R263). A migrated thread's scopes name the bay where it runs (R266). -/
def execIinv (o : RFmt) (s : State) : Out :=
  .next <|
    if s.active o.g then
      rangeWord s (s.eaR o) (s.src o.b).toNat fun s ln _ => s.dropCode fun c => c.line == ln && iinvBay o.w.toNat s.th.bay c.bay
    else s

/-- FBAR (R263): every earlier cache-control word of the thread has completed when it issues; what the thread may have fetched is
discarded. -/
def execFbar (o : RFmt) (s : State) : Out := .next (if s.active o.g then s.mapTh fun t => { t with fetched := [] } else s)

/-- PREF (R264): brings the line toward the bay, to its L1, its cluster cache or its home slice; never a fault. On a die that has
lost the reference no request of it is answered (R463). -/
def execPref (o : RFmt) (s : State) : Out :=
  .next <|
    if s.active o.g then
      let va := s.eaR o
      if !addrOk56 va then s
      else
        if s.refLost && walkAway s s.tm.ref.ctx s.th.bay va then countLink s else
        match translate s s.accessor .load va with
        | (.ok l sz, s) =>
          if s.refLost && s.leavesDie l (leafHa l (2 ^ sz) va) 0 then countLink s else
          let qs := rangeFrom (leafHa l (2 ^ sz) va / 64 * 4) 4
          let s := qs.foldl (podFill s.self) s
          s.mapMs fun ms => qs.foldl
            (fun ms q =>
              if secFailed ms s.th.bay (maxAlloc (leafAlloc l) (if o.w == 0 then 0 else 2)) q then ms
              else if o.w.toNat ≥ 2 then (if leafBias l then ms else l2Fill ms q)
              else (readSec ms s.th.bay (maxAlloc (leafAlloc l) (if o.w == 0 then 0 else 2)) q).2) ms
        | (.unmapped lv, s) => faultRecord s s.accessor .load va lv
        | (_, s) => s
    else s

end Sys2Proof.Machine
end

