-- ==== Sys2Proof/Machine/Func.lean ====
section
/-! DEFINITION. The function lanes: table records, TRIG-A, horner, and the functions of R77 to R83 and R211. -/

namespace Sys2Proof.Machine

/-- A record with every field zero (R83). -/
def FRec.zero : FRec := ⟨0, 0, 0, List.replicate 13 0⟩

/-- TRIG-A (R83): each coefficient is the FP32 RNE rounding of its expression; those above a record's degree, which R83 does
not give, are zero: DESIGN CHOICE (log entry 83). -/
def trigA : List FRec :=
  [⟨3, 0x3F800000, 0, [0xBE2AAAAB, 0x3C088889, 0xB9500D01, 0x3638EF1D] ++ List.replicate 9 0⟩,
   ⟨4, 0x3F800000, 0, [0xBF000000, 0x3D2AAAAB, 0xBAB60B61, 0x37D00D01, 0xB493F27E] ++ List.replicate 8 0⟩,
   ⟨7, 0x3F800000, 0,
     [0x3F800000, 0x3F317218, 0x3E75FDF0, 0x3D635847, 0x3C1D955B, 0x3AAEC3FF, 0x39218489, 0x377FE5FE] ++
       List.replicate 5 0⟩,
   ⟨5, 0x3F800000, 0, [0x4038AA3B, 0x3F76384F, 0x3F13BB63, 0x3ED30BB1, 0x3EA4258A, 0x3E864D42] ++ List.replicate 7 0⟩] ++
  List.replicate 60 FRec.zero

/-- A table record from its 64 bytes (R75). -/
def FRec.ofBytes (r : List Byte) : FRec :=
  ⟨field r 0 1, BitVec.ofNat 32 (field r 4 4), BitVec.ofNat 32 (field r 8 4),
    (List.range 13).map fun i => BitVec.ofNat 32 (field r (12 + 4 * i) 4)⟩

/-- The 64 bytes of a record. -/
def FRec.toBytes (r : FRec) : List Byte :=
  Machine.toBytes 1 r.deg ++ [0, 0, 0] ++ Machine.toBytes 4 r.a.toNat ++ Machine.toBytes 4 r.b.toNat ++
    (List.range 13).flatMap fun i => Machine.toBytes 4 (nth r.c i 0).toNat

/-- A record is refused when DEG is above 12 or a reserved byte is not zero (R76). -/
def frecBytesOk (r : List Byte) : Bool := field r 0 1 ≤ 12 && zeroBytes r 1 3

/-- The 64 records of a table of 4 KiB, or none when R76 refuses it. -/
def ftabOfBytes (b : List Byte) : Option (List FRec) :=
  let recs := (List.range 64).map fun k => (b.drop (64 * k)).take 64
  if recs.all frecBytesOk then some (recs.map FRec.ofBytes) else none

def ftabRec (t : List FRec) (k : Nat) : FRec := nth t k FRec.zero

/-- The flags of a function-lane result: OF and UF of the final rounding, and NX with either (R77). -/
def laneFlags (fl : Nat) : Nat :=
  let k := fl &&& (flagOF + flagUF)
  if k == 0 then 0 else k + flagNX

/-- horner(k, t) of R77, the last step with its flags under FTZ. -/
def hornerFR (r : FRec) (ftz : Bool) (t : Nat) : FR :=
  let c := fun i => (nth r.c i 0).toNat
  match r.deg with
  | 0 =>
    match fmt32.read (c 0) with
    | .nan _ => fmt32.nanFR false
    | _ => fmt32.flushBits ftz (c 0) 0
  | d + 1 =>
    let y := (List.range d).foldl (fun y i => f32fma y t (c (d - i))) (c (d + 1))
    fmt32.fma .rne ftz (fmt32.read y) (fmt32.read t) (fmt32.read (c 0))

/-- horner(k, t) (R77). -/
def horner (r : FRec) (t : Nat) : Nat := (hornerFR r false t).bits

/-- Applies a function to an input read with DAZ; a NaN gives NaN, IV when it is signalling (R77). -/
def lane1 (daz : Bool) (x : Nat) (f : Nat → FR) : FR :=
  match fmt32.read x with
  | .nan s => fmt32.nanFR s
  | _ => f (fmt32.dazBits daz x)

/-- 1/A (R211). -/
def frcpF (daz ftz : Bool) (x : Nat) : FR :=
  let r := fmt32.rcp ftz (fmt32.readDaz daz x)
  ⟨r.bits, (r.fl &&& (flagIV + flagDZ)) + laneFlags r.fl⟩

/-- 1/√A (R211). -/
def frsqF (daz ftz : Bool) (x : Nat) : FR :=
  let r := fmt32.rsq ftz (fmt32.readDaz daz x)
  ⟨r.bits, (r.fl &&& (flagIV + flagDZ)) + laneFlags r.fl⟩

/-- π/2 × 2^400, truncated. It stands for the stored expansion of R78: the rounded result is the same. -/
def halfPi400 : Nat :=
  0x1921fb54442d18469898cc51701b839a252049c1114cf98e804177d4c76273644a29410f31c6809bbdf2a33679a7486366056

/-- FRRED: r with its flags, and q (R78). -/
def frredF (daz ftz : Bool) (x : Nat) : FR × Nat :=
  match fmt32.readDaz daz x with
  | .nan s => (fmt32.nanFR s, 0)
  | .inf _ => (fmt32.nanFR true, 0)
  | .fin neg m e =>
    let big := m * 2 ^ (e + 400).toNat
    let k := (2 * big + halfPi400) / (2 * halfPi400)
    if k == 0 then (fmt32.flushBits ftz (fmt32.dazBits daz x) 0, 0)
    else
      let d : Int := (big : Int) - (k * halfPi400 : Nat)
      let r := fmt32.round .rne false ftz (if d < 0 then !neg else neg) d.natAbs (-400) true
      (⟨r.bits, laneFlags r.fl⟩, wrapN (signedN neg k) 2)

/-- The kernels of R79, final step with flags. -/
def sinKernel (t : List FRec) (ftz : Bool) (r : Nat) : FR :=
  let s := f32mul r r
  fmt32.fma .rne ftz (fmt32.read (f32mul s r)) (fmt32.read (horner (ftabRec t 0) s)) (fmt32.read r)

def cosKernel (t : List FRec) (ftz : Bool) (r : Nat) : FR :=
  let s := f32mul r r
  fmt32.fma .rne ftz (fmt32.read s) (fmt32.read (horner (ftabRec t 1) s)) (fmt32.read 0x3F800000)

/-- The exact sign change of R79; a NaN stays canonical. -/
def negFR (r : FR) : FR := ⟨if f32isNan r.bits then r.bits else f32neg r.bits, r.fl⟩

def withLaneFlags (r : FR) : FR := ⟨r.bits, laneFlags r.fl⟩

/-- FSINR (R79), by its steps also where the error after FRRED exceeds R84's bound: DESIGN CHOICE (log entry 82). -/
def fsinrF (t : List FRec) (daz ftz : Bool) (r q : Nat) : FR :=
  lane1 daz r fun r =>
    withLaneFlags <|
      match q % 4 with
      | 0 => sinKernel t ftz r
      | 1 => cosKernel t ftz r
      | 2 => negFR (sinKernel t ftz r)
      | _ => negFR (cosKernel t ftz r)

/-- FCOSR (R79), by its steps also where the error after FRRED exceeds R84's bound: DESIGN CHOICE (log entry 82). -/
def fcosrF (t : List FRec) (daz ftz : Bool) (r q : Nat) : FR :=
  lane1 daz r fun r =>
    withLaneFlags <|
      match q % 4 with
      | 0 => cosKernel t ftz r
      | 1 => negFR (sinKernel t ftz r)
      | 2 => negFR (cosKernel t ftz r)
      | _ => sinKernel t ftz r

/-- FEXP2 through record 2 (R80). -/
def fexp2F (rec2 : FRec) (daz ftz : Bool) (x : Nat) : FR :=
  match fmt32.readDaz daz x with
  | .nan s => fmt32.nanFR s
  | .inf n => ⟨if n then 0 else fmt32.infBits false, 0⟩
  | .fin neg m e =>
    let k := rneInt neg m e
    let f := f32sub (fmt32.dazBits daz x) (f32ofInt k)
    let n := clampI k (-200) 200
    match fmt32.read (horner rec2 f) with
    | .nan _ => fmt32.nanFR false
    | .inf p => ⟨fmt32.infBits p, 0⟩
    | .fin p pm pe => withLaneFlags (fmt32.round .rne false ftz p pm (pe + n) false)

/-- FLOG2 through record 3, step by step (R81), also where R84's bound is exceeded: DESIGN CHOICE (log entry 82). -/
def flog2F (rec3 : FRec) (daz ftz : Bool) (x : Nat) : FR :=
  match fmt32.readDaz daz x with
  | .nan s => fmt32.nanFR s
  | .inf n => if n then fmt32.nanFR true else ⟨fmt32.infBits false, 0⟩
  | .fin neg m e =>
    if m == 0 then ⟨fmt32.infBits true, flagDZ⟩
    else if neg then fmt32.nanFR true
    else
      -- m × 2^(24 - bitLen m) has 24 bits: a value in [1, 2); from 1.5 on it is halved into [0.75, 1)
      let n := m * 2 ^ (24 - bitLen m)
      let e1 : Int := e + bitLen m - 1
      let e2 := if n < 0xC00000 then e1 else e1 + 1
      let mant := (fmt32.round .rne false false false n (if n < 0xC00000 then -23 else -24) false).bits
      let a := f32sub mant 0x3F800000
      let b := f32add mant 0x3F800000
      let z := f32div a b
      let w := f32mul z z
      withLaneFlags
        (fmt32.fma .rne ftz (fmt32.read z) (fmt32.read (horner rec3 w)) (fmt32.read (f32ofInt e2)))

/-- FEVAL (R82). -/
def fevalF (r : FRec) (daz ftz : Bool) (x : Nat) : FR :=
  lane1 daz x fun x => withLaneFlags (hornerFR r ftz (f32fma x r.a.toNat r.b.toNat))

end Sys2Proof.Machine
end

