-- ==== Sys2Proof/Machine/Constraints.lean ====
section
/-! DEFINITION. The codes and field constraints of R165, R166, R171, R175 to R183 and of the instruction chapters
(R184 steps 2 and 3), instruction by instruction. WellFormed.lean names their conjunction. -/

namespace Sys2Proof.Machine

/-- A register field meets the alignment of a group of 2^k registers (R166). -/
def alignedTo (k : Nat) (r : BitVec 6) : Bool := r.toNat % 2 ^ k == 0

/-- A predicate field names p0 to p47 (R165). -/
def predOk (p : BitVec 6) : Bool := p.toNat < 48

/-- W is 00 or 01 and every register field is aligned for it (R190). -/
def aluOk (o : RFmt) : Bool :=
  o.w.toNat < 2 && alignedTo o.w.toNat o.d && alignedTo o.w.toNat o.a && alignedTo o.w.toNat o.b

/-- As `aluOk`, with B reserved (R192 to R194). -/
def aluUnaryOk (o : RFmt) : Bool := aluOk o && o.b == 0

/-- LEA: W 00 all single; W 01 D and A pairs, B single (R190). -/
def leaOk (o : RFmt) : Bool := o.w.toNat < 2 && alignedTo o.w.toNat o.d && alignedTo o.w.toNat o.a

/-- IADDC and ISUBB: W 01, every field a pair (R190). -/
def carryOk (o : RFmt) : Bool := o.w == 1 && aluOk o

/-- Floating-point majors: the one width of the major (R179, R206). -/
def fpOk (w : BitVec 2) (o : RFmt) : Bool := o.w == w && aluOk o

def fpUnaryOk (w : BitVec 2) (o : RFmt) : Bool := fpOk w o && o.b == 0

/-- Registers named by D and A of a conversion, as powers of two (R183). -/
def cvtShape (code : Nat) : Option (Nat × Nat) :=
  if code == 0x00 then some (1, 0)
  else if code == 0x01 then some (0, 1)
  else if code ≤ 0x0C then some (0, 0)
  else if code ≤ 0x10 then some (0, 1)
  else if code == 0x11 then some (0, 0)
  else if code < 0x20 then none
  else if code ≤ 0x27 then some (code / 2 % 2, code / 4 % 2)
  else if code ≤ 0x2F then some (code / 4 % 2, code / 2 % 2)
  else if code ≤ 0x31 then some (0, 2)
  else if code ≤ 0x33 then some (0, 3)
  else none

/-- The codes that accept rounding control 6 (R183). -/
def cvtStoch (code : Nat) : Bool :=
  code == 0x02 || code == 0x04 || code == 0x06 || code == 0x08 || (0x0D ≤ code && code ≤ 0x10)

def cvtOk (f : BitVec 3) (o : RFmt) : Bool :=
  match cvtShape o.b.toNat with
  | none => true
  | some (kd, ka) =>
    o.w == 0 && alignedTo kd o.d && alignedTo ka o.a && (f != 6 || cvtStoch o.b.toNat) &&
      (o.b.toNat < 0x30 || f == 0)

/-- Cross-lane words: W 00 or 01 with D and A aligned (R223). -/
def laneOk (o : RFmt) : Bool := leaOk o

/-- VOTE: modes 0, 1 and 3 at W 00 name a predicate in D, mode 2 at W 01 an even register (R225). -/
def voteOk (o : RFmt) : Bool :=
  predOk o.a && (if o.b == 2 then o.w == 1 && alignedTo 1 o.d else o.w == 0 && predOk o.d)

/-- M format: A even, D aligned to W (R182, R248). -/
def memOk (o : MFmt) : Bool := alignedTo 1 o.a && alignedTo o.w.toNat o.d

/-- Typed-store words: plain only with O[1:0] = 00 (R182). -/
def storeOk (o : MFmt) : Bool := memOk o && (o.o.getLsbD 2 || o.o == 0)

/-- Words whose A names the address pair (R255, R259, R265). -/
def addrOk (o : RFmt) : Bool := alignedTo 1 o.a

/-- Cache-control words with a range (R260). -/
def rangeOk (o : RFmt) : Bool := o.d == 0 && addrOk o

/-- Terminators never chain: they stand in slot 2 (R171, R175). Fields of 0x3E: G, W, D and B zero (R219). -/
def ctlOk (o : RFmt) : Bool := !o.g && o.w == 0 && o.d == 0 && o.b == 0

/-- 32-bit special registers of R188. -/
def sr32 : List Nat := [0, 1, 2, 3, 4, 5, 6, 7, 8, 9, 0x10, 0x11, 0x14, 0x15, 0x16, 0x17, 0x1A, 0x22, 0x2A, 0x2B]

/-- 64-bit special registers of R188. -/
def sr64 : List Nat := [0x18, 0x20, 0x24, 0x26, 0x28]

/-- Writable special registers of R188. -/
def srRw : List Nat := [0x10, 0x11, 0x18, 0x1A, 0x20, 0x26, 0x2A, 0x2B]

def srListed (n : Nat) : Bool := sr32.contains n || sr64.contains n

/-- 32-bit privileged registers of R373. -/
def pr32 : List Nat := [0, 6, 0x0A, 0x0B, 0x0C, 0x10, 0x11, 0x12, 0x13, 0x24]

/-- 64-bit privileged registers of R373. -/
def pr64 : List Nat := [2, 4, 8, 0x14, 0x16, 0x18, 0x1A, 0x20, 0x22]

def prListed (n : Nat) : Bool := pr32.contains n || pr64.contains n

/-- A register named beside a special register: even when the register has 64 bits (R188, R367). -/
def wideOk (l64 : List Nat) (n : Nat) (r : BitVec 6) : Bool := !l64.contains n || alignedTo 1 r

/-- Phaser operand: kind 11 is illegal (R228). -/
def phOk (o : EFmt) : Bool := o.a == 0 && o.arg.toNat / 32 != 3

/-- R184 step 2 beyond major, F, SUB and P-format selection: reserved codes in operand fields. -/
def reservedCode : Instr → Bool
  | .cvt _ o => (cvtShape o.b.toNat).isNone
  | .icmp f _ => f.toNat % 16 ≥ 10
  | .fcmp32 f _ | .fcmp64 f _ => f.toNat % 16 ≥ 14
  | .vote o => o.b.toNat ≥ 4
  | .lred o | .lscan o | .tred o => o.b.toNat ≥ 11
  | .ld o | .st o | .ldra o => o.o == 3
  | .fence o => o.b.toNat ≥ 4
  | .redx f _ => f.toNat ≥ 5
  | .rdsr o | .wrsr o => !srListed o.arg.toNat
  | .rdpr o | .wrpr o => !prListed o.arg.toNat
  | _ => false

/-- R184 step 3 for one word: every field constraint. The events carry no fields of an encoding. -/
def fieldsOk : Instr → Bool
  | .iadd o | .isub o | .imin o | .imax o | .iminu o | .imaxu o => aluOk o
  | .iabs o | .ineg o => aluUnaryOk o
  | .and o | .or o | .xor o | .andn o => aluOk o
  | .sel o => aluOk o && !o.g
  | .not o | .mov o | .popc o => aluUnaryOk o
  | .shl o | .shr o | .sar o | .rol o | .bfx o | .bfi o => aluOk o
  | .clz o | .brev o => aluUnaryOk o
  | .imul o | .imulh o | .imulhu o | .imad o | .idiv o | .irem o | .idivu o | .iremu o => aluOk o
  | .lea o | .leaX2 o | .leaX4 o | .leaX8 o => leaOk o
  | .iaddc o | .isubb o => carryOk o
  | .iaddi _ | .andi _ | .ori _ | .xori _ => true
  | .shli o | .shri o | .sari o => o.imm.toNat < 32
  | .movi o => o.a == 0
  | .luih _ => true
  | .adrh o => o.d.toNat % 2 == 0
  | .fadd o | .fsub o | .fmul o | .fma o | .fmin o | .fmax o | .fdiv o => fpOk 0 o
  | .fsqrt o => fpUnaryOk 0 o
  | .fadd64 o | .fsub64 o | .fmul64 o | .fma64 o | .fmin64 o | .fmax64 o | .fdiv64 o => fpOk 1 o
  | .fsqrt64 o => fpUnaryOk 1 o
  | .faddH2 o | .fsubH2 o | .fmulH2 o | .fmaH2 o | .fminH2 o | .fmaxH2 o | .fdivH2 o => fpOk 0 o
  | .fsqrtH2 o => fpUnaryOk 0 o
  | .faddB2 o | .fsubB2 o | .fmulB2 o | .fmaB2 o | .fminB2 o | .fmaxB2 o | .fdivB2 o => fpOk 0 o
  | .fsqrtB2 o => fpUnaryOk 0 o
  | .frcp o | .frsq o | .fexp2 o | .flog2 o => fpUnaryOk 0 o
  | .frred o => fpUnaryOk 0 o && alignedTo 1 o.d
  | .fsinr o | .fcosr o | .feval o => fpOk 0 o
  | .cvt f o => cvtOk f o
  | .icmp f o => predOk o.pd && (!f.getLsbD 4 || (alignedTo 1 o.a && alignedTo 1 o.b))
  | .fcmp32 f o => predOk o.pd && !f.getLsbD 4
  | .fcmp64 f o => predOk o.pd && !f.getLsbD 4 && alignedTo 1 o.a && alignedTo 1 o.b
  | .pand o | .por o | .pxor o => predOk o.pd && predOk o.a && predOk o.b
  | .pnot o | .pmov o => predOk o.pd && predOk o.a && o.b == 0
  | .pset o => predOk o.pd && o.a.toNat < 2 && o.b == 0
  | .pfrom o => predOk o.pd && o.b.toNat < 32
  | .pto o => predOk o.a && o.b == 0
  | .shfl o | .shflx o | .lbcst o => laneOk o
  | .lswap o => laneOk o && o.b.toNat < 4
  | .vote o => voteOk o
  | .lred o | .lscan o | .tred o => laneOk o
  | .next o | .call o => !o.c && o.d == 0
  | .nextp o | .nextn o => !o.c && predOk o.p
  | .nexti o | .calli o => !o.c && ctlOk o && alignedTo 1 o.a
  | .ret o | .exit o => !o.c && ctlOk o && o.a == 0
  | .rcv o | .yield o | .nop o => ctlOk o && o.a == 0
  | .ld o | .st o => memOk o
  | .ldl o | .stl o | .lda o | .sta o | .ldc o | .stc o => storeOk o
  | .ldw o => memOk o && o.o == 0
  | .ldra o => memOk o && o.o == 6 && o.w != 3
  | .atom _ o => addrOk o
  | .atomx f o =>
    addrOk o && (!(f == 2 || f == 3 || f == 5) || (alignedTo 1 o.d && alignedTo 1 o.b))
  | .red _ o => addrOk o && o.d == 0
  | .redx f o => addrOk o && o.d == 0 && (f != 1 || alignedTo 1 o.b)
  | .fence o => o.d == 0 && o.a == 0
  | .cwb o | .cinv o | .iinv o => rangeOk o
  | .fbar o => o.w == 0 && o.d == 0 && o.a == 0 && o.b == 0
  | .pref o => rangeOk o && o.b == 0 && o.w != 3
  | .pstb o | .pldb o => addrOk o && predOk o.d
  | .mxop o => o.arg.toNat < 4
  | .mxwait o => o.arg.toNat < 4 && o.d == 0 && o.a == 0
  | .enq o => o.arg == 0 && alignedTo 3 o.a
  | .hsetBind o => o.arg.toNat < 64 && o.d == 0 && alignedTo 2 o.a
  | .hsetFull o => o.arg.toNat < 64 && o.d == 1 && o.a == 0
  | .hsetFree o => o.arg.toNat < 64 && o.d == 2 && o.a == 0
  | .hwait o => o.arg.toNat < 64 && o.d.toNat < 4 && o.a == 0
  | .hq o => o.arg.toNat < 64 && o.a == 0
  | .ftld o => o.arg == 0 && o.d == 0 && alignedTo 1 o.a
  | .launch o => o.arg == 0 && alignedTo 1 o.a
  | .chwait o => o.arg == 0 && o.d == 0
  | .chwaitAll o => o.arg == 1 && o.d == 0 && o.a == 0
  | .twinit o => o.arg == 0 && o.d == 0
  | .twstep o => o.arg.toNat < 2 && alignedTo 2 o.d && (o.arg == 1 || o.a == 0)
  | .twgetVal o => o.arg == 0 && alignedTo 2 o.d && o.a == 0
  | .twgetSt o => o.arg == 1 && o.a == 0
  | .twend o => o.arg == 0 && o.d == 0 && o.a == 0
  | .phreg o => phOk o && o.d.toNat < 4
  | .pharr o | .phwait o | .phaw o => phOk o && o.d == 0
  | .phq o => phOk o
  | .waitu o => predOk o.d && alignedTo 3 o.a && o.arg.toNat % 4 == 0
  | .setw o =>
    o.d == 0 && o.a == 0 && (o.arg == 8 || o.arg == 16 || o.arg == 32 || o.arg == 64)
  | .migr o => o.d == 0 && alignedTo 1 o.a && o.arg == 0
  | .migrh o => o.d == 0 && o.a == 0 && o.arg == 0
  | .rdsr o => o.a == 0 && wideOk sr64 o.arg.toNat o.d
  | .wrsr o => o.d == 0 && wideOk sr64 o.arg.toNat o.a && (!srListed o.arg.toNat || srRw.contains o.arg.toNat)
  | .gsel o => !o.g && o.d == 0 && predOk o.a && o.arg == 0
  | .rdtime o => alignedTo 1 o.d && o.a == 0 && o.arg == 0
  | .rand o => o.a == 0 && o.arg == 0
  | .trap o | .brk o | .sysc o => o.d == 0 && o.a == 0
  | .eret o => !o.g && o.d == 0 && o.a == 0 && o.arg == 0
  | .rdpr o => !o.g && o.a == 0 && wideOk pr64 o.arg.toNat o.d
  | .wrpr o => !o.g && o.d == 0 && wideOk pr64 o.arg.toNat o.a
  | .ctxfl o => !o.g && o.arg == 0
  | .halt o => !o.g && o.d == 0 && o.a == 0
  | _ => true

end Sys2Proof.Machine
end

