-- ==== Sys2Proof/WellFormed.lean ====
section
/-! DEFINITION. When an instruction is well formed: it carries no reserved code (R184 step 2) and meets every
field constraint (R184 step 3). The constraints themselves stand in Machine/Constraints.lean. -/

namespace Sys2Proof

/-- The checks of R184 that one word can fail on its own, all passed. -/
def Instr.wellFormed (i : Instr) : Bool := !Machine.reservedCode i && Machine.fieldsOk i

end Sys2Proof
end

