-- ==== Sys2Proof/Decode.lean ====
section
/-! DEFINITION. Decoding a word (R164, R179 to R184, R269, R305, R367) and, after it, encoding an instruction. -/

namespace Sys2Proof

/-- Why a word is no instruction: the steps of R184 that one word fails on its own. -/
inductive Reject where
  /-- step 1: major 0x00 or 0x3F -/
  | badMajor
  /-- step 2: reserved major, F, SUB, P-format, CVT or other operand code, cache policy 11 -/
  | undefinedCode
  /-- step 3: a field constraint -/
  | badField
  deriving DecidableEq, Repr

/-- The major opcode, bits 29:24 (R164). -/
def majorOf (w : Word) : BitVec 6 := w.extractLsb' 24 6

/-- F of the R format, bits 2:0. -/
def fnR (w : Word) : BitVec 3 := w.extractLsb' 0 3

/-- F of the P format, bits 4:0. -/
def fnP (w : Word) : BitVec 5 := w.extractLsb' 0 5

/-- SUB of the E format, bits 11:8. -/
def subE (w : Word) : BitVec 4 := w.extractLsb' 8 4

/-- C, bit 31, and S, bit 30. -/
def chainBit (w : Word) : Bool := w.getLsbD 31
def switchBit (w : Word) : Bool := w.getLsbD 30

def parseR (w : Word) : RFmt :=
  ⟨w.getLsbD 31, w.getLsbD 30, w.getLsbD 23, w.extractLsb' 21 2, w.extractLsb' 15 6, w.extractLsb' 9 6, w.extractLsb' 3 6⟩

def parseI (w : Word) : IFmt :=
  ⟨w.getLsbD 31, w.getLsbD 30, w.extractLsb' 18 6, w.extractLsb' 12 6, w.extractLsb' 0 12⟩

def parseM (w : Word) : MFmt :=
  ⟨w.getLsbD 31, w.getLsbD 30, w.getLsbD 23, w.extractLsb' 21 2, w.extractLsb' 15 6, w.extractLsb' 9 6, w.extractLsb' 6 3,
    w.extractLsb' 0 6⟩

def parseP (w : Word) : PFmt :=
  ⟨w.getLsbD 31, w.getLsbD 30, w.getLsbD 23, w.extractLsb' 17 6, w.extractLsb' 11 6, w.extractLsb' 5 6⟩

def parseU (w : Word) : UFmt := ⟨w.getLsbD 31, w.getLsbD 30, w.extractLsb' 20 4, w.extractLsb' 0 20⟩

def parseX (w : Word) : XFmt := ⟨w.getLsbD 31, w.getLsbD 30, w.extractLsb' 18 6, w.extractLsb' 0 18⟩

def parseE (w : Word) : EFmt :=
  ⟨w.getLsbD 31, w.getLsbD 30, w.getLsbD 7, w.extractLsb' 18 6, w.extractLsb' 12 6, w.extractLsb' 0 7⟩

def decode01 (w : Word) : Except Reject Instr :=
  match (fnR w).toNat with
  | 0 => .ok (.iadd (parseR w))
  | 1 => .ok (.isub (parseR w))
  | 2 => .ok (.imin (parseR w))
  | 3 => .ok (.imax (parseR w))
  | 4 => .ok (.iminu (parseR w))
  | 5 => .ok (.imaxu (parseR w))
  | 6 => .ok (.iabs (parseR w))
  | _ => .ok (.ineg (parseR w))

def decode02 (w : Word) : Except Reject Instr :=
  match (fnR w).toNat with
  | 0 => .ok (.and (parseR w))
  | 1 => .ok (.or (parseR w))
  | 2 => .ok (.xor (parseR w))
  | 3 => .ok (.andn (parseR w))
  | 4 => .ok (.not (parseR w))
  | 5 => .ok (.sel (parseR w))
  | 6 => .ok (.mov (parseR w))
  | _ => .ok (.popc (parseR w))

def decode03 (w : Word) : Except Reject Instr :=
  match (fnR w).toNat with
  | 0 => .ok (.shl (parseR w))
  | 1 => .ok (.shr (parseR w))
  | 2 => .ok (.sar (parseR w))
  | 3 => .ok (.rol (parseR w))
  | 4 => .ok (.clz (parseR w))
  | 5 => .ok (.brev (parseR w))
  | 6 => .ok (.bfx (parseR w))
  | _ => .ok (.bfi (parseR w))

def decode04 (w : Word) : Except Reject Instr :=
  match (fnR w).toNat with
  | 0 => .ok (.imul (parseR w))
  | 1 => .ok (.imulh (parseR w))
  | 2 => .ok (.imulhu (parseR w))
  | 3 => .ok (.imad (parseR w))
  | 4 => .ok (.idiv (parseR w))
  | 5 => .ok (.irem (parseR w))
  | 6 => .ok (.idivu (parseR w))
  | _ => .ok (.iremu (parseR w))

def decode05 (w : Word) : Except Reject Instr :=
  match (fnR w).toNat with
  | 0 => .ok (.lea (parseR w))
  | 1 => .ok (.leaX2 (parseR w))
  | 2 => .ok (.leaX4 (parseR w))
  | 3 => .ok (.leaX8 (parseR w))
  | 4 => .ok (.iaddc (parseR w))
  | 5 => .ok (.isubb (parseR w))
  | _ => .error .undefinedCode

def decode10 (w : Word) : Except Reject Instr :=
  match (fnR w).toNat with
  | 0 => .ok (.fadd (parseR w))
  | 1 => .ok (.fsub (parseR w))
  | 2 => .ok (.fmul (parseR w))
  | 3 => .ok (.fma (parseR w))
  | 4 => .ok (.fmin (parseR w))
  | 5 => .ok (.fmax (parseR w))
  | 6 => .ok (.fdiv (parseR w))
  | _ => .ok (.fsqrt (parseR w))

def decode11 (w : Word) : Except Reject Instr :=
  match (fnR w).toNat with
  | 0 => .ok (.fadd64 (parseR w))
  | 1 => .ok (.fsub64 (parseR w))
  | 2 => .ok (.fmul64 (parseR w))
  | 3 => .ok (.fma64 (parseR w))
  | 4 => .ok (.fmin64 (parseR w))
  | 5 => .ok (.fmax64 (parseR w))
  | 6 => .ok (.fdiv64 (parseR w))
  | _ => .ok (.fsqrt64 (parseR w))

def decode12 (w : Word) : Except Reject Instr :=
  match (fnR w).toNat with
  | 0 => .ok (.faddH2 (parseR w))
  | 1 => .ok (.fsubH2 (parseR w))
  | 2 => .ok (.fmulH2 (parseR w))
  | 3 => .ok (.fmaH2 (parseR w))
  | 4 => .ok (.fminH2 (parseR w))
  | 5 => .ok (.fmaxH2 (parseR w))
  | 6 => .ok (.fdivH2 (parseR w))
  | _ => .ok (.fsqrtH2 (parseR w))

def decode13 (w : Word) : Except Reject Instr :=
  match (fnR w).toNat with
  | 0 => .ok (.faddB2 (parseR w))
  | 1 => .ok (.fsubB2 (parseR w))
  | 2 => .ok (.fmulB2 (parseR w))
  | 3 => .ok (.fmaB2 (parseR w))
  | 4 => .ok (.fminB2 (parseR w))
  | 5 => .ok (.fmaxB2 (parseR w))
  | 6 => .ok (.fdivB2 (parseR w))
  | _ => .ok (.fsqrtB2 (parseR w))

def decode14 (w : Word) : Except Reject Instr :=
  match (fnR w).toNat with
  | 0 => .ok (.frcp (parseR w))
  | 1 => .ok (.frsq (parseR w))
  | 2 => .ok (.frred (parseR w))
  | 3 => .ok (.fsinr (parseR w))
  | 4 => .ok (.fcosr (parseR w))
  | 5 => .ok (.fexp2 (parseR w))
  | 6 => .ok (.flog2 (parseR w))
  | _ => .ok (.feval (parseR w))

def decode16 (w : Word) : Except Reject Instr :=
  match (fnR w).toNat with
  | 0 => .ok (.shfl (parseR w))
  | 1 => .ok (.shflx (parseR w))
  | 2 => .ok (.lswap (parseR w))
  | 3 => .ok (.vote (parseR w))
  | 4 => .ok (.lred (parseR w))
  | 5 => .ok (.lscan (parseR w))
  | 6 => .ok (.tred (parseR w))
  | _ => .ok (.lbcst (parseR w))

def decode1B (w : Word) : Except Reject Instr :=
  match (fnP w).toNat with
  | 0 => .ok (.pand (parseP w))
  | 1 => .ok (.por (parseP w))
  | 2 => .ok (.pxor (parseP w))
  | 3 => .ok (.pnot (parseP w))
  | 4 => .ok (.pmov (parseP w))
  | 5 => .ok (.pset (parseP w))
  | 6 => .ok (.pfrom (parseP w))
  | 7 => .ok (.pto (parseP w))
  | _ => .error .undefinedCode

def decode2D (w : Word) : Except Reject Instr :=
  match (fnR w).toNat with
  | 0 => .ok (.fence (parseR w))
  | 1 => .ok (.cwb (parseR w))
  | 2 => .ok (.cinv (parseR w))
  | 3 => .ok (.iinv (parseR w))
  | 4 => .ok (.fbar (parseR w))
  | 5 => .ok (.pref (parseR w))
  | _ => .error .undefinedCode

def decode2F (w : Word) : Except Reject Instr :=
  match (fnR w).toNat with
  | 0 => .ok (.pstb (parseR w))
  | 1 => .ok (.pldb (parseR w))
  | _ => .error .undefinedCode

def decode30 (w : Word) : Except Reject Instr :=
  match (subE w).toNat with
  | 0 => .ok (.mxop (parseE w))
  | 1 => .ok (.mxwait (parseE w))
  | 2 => .ok (.enq (parseE w))
  | 3 =>
    match (parseE w).d.toNat with
    | 0 => .ok (.hsetBind (parseE w))
    | 1 => .ok (.hsetFull (parseE w))
    | 2 => .ok (.hsetFree (parseE w))
    | _ => .error .badField
  | 4 => .ok (.hwait (parseE w))
  | 5 => .ok (.hq (parseE w))
  | 6 => .ok (.ftld (parseE w))
  | 7 => .ok (.launch (parseE w))
  | 8 =>
    match (parseE w).arg.toNat with
    | 0 => .ok (.chwait (parseE w))
    | 1 => .ok (.chwaitAll (parseE w))
    | _ => .error .badField
  | _ => .error .undefinedCode

def decode31 (w : Word) : Except Reject Instr :=
  match (subE w).toNat with
  | 0 => .ok (.twinit (parseE w))
  | 1 => .ok (.twstep (parseE w))
  | 2 =>
    match (parseE w).arg.toNat with
    | 0 => .ok (.twgetVal (parseE w))
    | 1 => .ok (.twgetSt (parseE w))
    | _ => .error .badField
  | 3 => .ok (.twend (parseE w))
  | _ => .error .undefinedCode

def decode32 (w : Word) : Except Reject Instr :=
  match (subE w).toNat with
  | 0 => .ok (.phreg (parseE w))
  | 1 => .ok (.pharr (parseE w))
  | 2 => .ok (.phwait (parseE w))
  | 3 => .ok (.phaw (parseE w))
  | 4 => .ok (.phq (parseE w))
  | 5 => .ok (.waitu (parseE w))
  | _ => .error .undefinedCode

def decode33 (w : Word) : Except Reject Instr :=
  match (subE w).toNat with
  | 0 => .ok (.setw (parseE w))
  | 1 => .ok (.migr (parseE w))
  | 2 => .ok (.migrh (parseE w))
  | 3 => .ok (.rdsr (parseE w))
  | 4 => .ok (.wrsr (parseE w))
  | 5 => .ok (.gsel (parseE w))
  | 6 => .ok (.rdtime (parseE w))
  | 7 => .ok (.rand (parseE w))
  | _ => .error .undefinedCode

def decode34 (w : Word) : Except Reject Instr :=
  match (subE w).toNat with
  | 0 => .ok (.trap (parseE w))
  | 1 => .ok (.brk (parseE w))
  | 2 => .ok (.sysc (parseE w))
  | 3 => .ok (.eret (parseE w))
  | 4 => .ok (.rdpr (parseE w))
  | 5 => .ok (.wrpr (parseE w))
  | 6 => .ok (.ctxfl (parseE w))
  | 7 => .ok (.halt (parseE w))
  | _ => .error .undefinedCode

def decode3E (w : Word) : Except Reject Instr :=
  match (fnR w).toNat with
  | 0 => .ok (.nexti (parseR w))
  | 1 => .ok (.calli (parseR w))
  | 2 => .ok (.ret (parseR w))
  | 3 => .ok (.exit (parseR w))
  | 4 => .ok (.rcv (parseR w))
  | 5 => .ok (.yield (parseR w))
  | 6 => .ok (.nop (parseR w))
  | _ => .error .undefinedCode

/-- The instruction a word selects by major, F, SUB and P-format code (R179 to R181). -/
def select (w : Word) : Except Reject Instr :=
  match (majorOf w).toNat with
  | 0x00 => .error .badMajor
  | 0x1 => decode01 w
  | 0x2 => decode02 w
  | 0x3 => decode03 w
  | 0x4 => decode04 w
  | 0x5 => decode05 w
  | 0x8 => .ok (.iaddi (parseI w))
  | 0x9 => .ok (.andi (parseI w))
  | 0xa => .ok (.ori (parseI w))
  | 0xb => .ok (.xori (parseI w))
  | 0xc => .ok (.shli (parseI w))
  | 0xd => .ok (.shri (parseI w))
  | 0xe => .ok (.sari (parseI w))
  | 0xf => .ok (.movi (parseI w))
  | 0x10 => decode10 w
  | 0x11 => decode11 w
  | 0x12 => decode12 w
  | 0x13 => decode13 w
  | 0x14 => decode14 w
  | 0x15 => .ok (.cvt (fnR w) (parseR w))
  | 0x16 => decode16 w
  | 0x18 => .ok (.icmp (fnP w) (parseP w))
  | 0x19 => .ok (.fcmp32 (fnP w) (parseP w))
  | 0x1a => .ok (.fcmp64 (fnP w) (parseP w))
  | 0x1b => decode1B w
  | 0x20 => .ok (.ld (parseM w))
  | 0x21 => .ok (.st (parseM w))
  | 0x22 => .ok (.ldl (parseM w))
  | 0x23 => .ok (.stl (parseM w))
  | 0x24 => .ok (.lda (parseM w))
  | 0x25 => .ok (.sta (parseM w))
  | 0x26 => .ok (.ldw (parseM w))
  | 0x27 => .ok (.ldc (parseM w))
  | 0x28 => .ok (.stc (parseM w))
  | 0x29 => .ok (.atom (fnR w) (parseR w))
  | 0x2a => .ok (.atomx (fnR w) (parseR w))
  | 0x2b => .ok (.red (fnR w) (parseR w))
  | 0x2c => if (fnR w).toNat < 5 then .ok (.redx (fnR w) (parseR w)) else .error .undefinedCode
  | 0x2d => decode2D w
  | 0x2e => .ok (.ldra (parseM w))
  | 0x2f => decode2F w
  | 0x30 => decode30 w
  | 0x31 => decode31 w
  | 0x32 => decode32 w
  | 0x33 => decode33 w
  | 0x34 => decode34 w
  | 0x38 => .ok (.luih (parseU w))
  | 0x39 => .ok (.adrh (parseU w))
  | 0x3a => .ok (.next (parseU w))
  | 0x3b => .ok (.call (parseU w))
  | 0x3c => .ok (.nextp (parseX w))
  | 0x3d => .ok (.nextn (parseX w))
  | 0x3e => decode3E w
  | 0x3f => .error .badMajor
  | _ => .error .undefinedCode

/-- Decoding: total on every word, rejecting by name. -/
def decode (w : Word) : Except Reject Instr :=
  match select w with
  | .error r => .error r
  | .ok i =>
    if Machine.reservedCode i then .error .undefinedCode
    else if Machine.fieldsOk i then .ok i
    else .error .badField

/-- One bit as a vector. -/
def bit1 (b : Bool) : BitVec 1 := BitVec.ofBool b

/-- C and S above the major opcode. -/
def headBits (c s : Bool) (m : BitVec 6) : BitVec 8 := bit1 c ++ bit1 s ++ m

def buildR (m : BitVec 6) (f : BitVec 3) (o : RFmt) : Word :=
  headBits o.c o.s m ++ bit1 o.g ++ o.w ++ o.d ++ o.a ++ o.b ++ f

def buildI (m : BitVec 6) (o : IFmt) : Word := headBits o.c o.s m ++ o.d ++ o.a ++ o.imm

def buildM (m : BitVec 6) (o : MFmt) : Word :=
  headBits o.c o.s m ++ bit1 o.g ++ o.w ++ o.d ++ o.a ++ o.o ++ o.imm

def buildP (m : BitVec 6) (f : BitVec 5) (o : PFmt) : Word :=
  headBits o.c o.s m ++ bit1 o.g ++ o.pd ++ o.a ++ o.b ++ f

def buildU (m : BitVec 6) (o : UFmt) : Word := headBits o.c o.s m ++ o.d ++ o.imm

def buildX (m : BitVec 6) (o : XFmt) : Word := headBits o.c o.s m ++ o.p ++ o.off

def buildE (m : BitVec 6) (sub : BitVec 4) (o : EFmt) : Word :=
  headBits o.c o.s m ++ o.d ++ o.a ++ sub ++ bit1 o.g ++ o.arg

/-- The word of an instruction (R164, R179 to R183). The operations and events that have no word give the
permanently undefined word 0. -/
def encode : Instr → Word
  | .iadd o => buildR 0x1 0 o
  | .isub o => buildR 0x1 1 o
  | .imin o => buildR 0x1 2 o
  | .imax o => buildR 0x1 3 o
  | .iminu o => buildR 0x1 4 o
  | .imaxu o => buildR 0x1 5 o
  | .iabs o => buildR 0x1 6 o
  | .ineg o => buildR 0x1 7 o
  | .and o => buildR 0x2 0 o
  | .or o => buildR 0x2 1 o
  | .xor o => buildR 0x2 2 o
  | .andn o => buildR 0x2 3 o
  | .not o => buildR 0x2 4 o
  | .sel o => buildR 0x2 5 o
  | .mov o => buildR 0x2 6 o
  | .popc o => buildR 0x2 7 o
  | .shl o => buildR 0x3 0 o
  | .shr o => buildR 0x3 1 o
  | .sar o => buildR 0x3 2 o
  | .rol o => buildR 0x3 3 o
  | .clz o => buildR 0x3 4 o
  | .brev o => buildR 0x3 5 o
  | .bfx o => buildR 0x3 6 o
  | .bfi o => buildR 0x3 7 o
  | .imul o => buildR 0x4 0 o
  | .imulh o => buildR 0x4 1 o
  | .imulhu o => buildR 0x4 2 o
  | .imad o => buildR 0x4 3 o
  | .idiv o => buildR 0x4 4 o
  | .irem o => buildR 0x4 5 o
  | .idivu o => buildR 0x4 6 o
  | .iremu o => buildR 0x4 7 o
  | .lea o => buildR 0x5 0 o
  | .leaX2 o => buildR 0x5 1 o
  | .leaX4 o => buildR 0x5 2 o
  | .leaX8 o => buildR 0x5 3 o
  | .iaddc o => buildR 0x5 4 o
  | .isubb o => buildR 0x5 5 o
  | .iaddi o => buildI 0x8 o
  | .andi o => buildI 0x9 o
  | .ori o => buildI 0xa o
  | .xori o => buildI 0xb o
  | .shli o => buildI 0xc o
  | .shri o => buildI 0xd o
  | .sari o => buildI 0xe o
  | .movi o => buildI 0xf o
  | .fadd o => buildR 0x10 0 o
  | .fsub o => buildR 0x10 1 o
  | .fmul o => buildR 0x10 2 o
  | .fma o => buildR 0x10 3 o
  | .fmin o => buildR 0x10 4 o
  | .fmax o => buildR 0x10 5 o
  | .fdiv o => buildR 0x10 6 o
  | .fsqrt o => buildR 0x10 7 o
  | .fadd64 o => buildR 0x11 0 o
  | .fsub64 o => buildR 0x11 1 o
  | .fmul64 o => buildR 0x11 2 o
  | .fma64 o => buildR 0x11 3 o
  | .fmin64 o => buildR 0x11 4 o
  | .fmax64 o => buildR 0x11 5 o
  | .fdiv64 o => buildR 0x11 6 o
  | .fsqrt64 o => buildR 0x11 7 o
  | .faddH2 o => buildR 0x12 0 o
  | .fsubH2 o => buildR 0x12 1 o
  | .fmulH2 o => buildR 0x12 2 o
  | .fmaH2 o => buildR 0x12 3 o
  | .fminH2 o => buildR 0x12 4 o
  | .fmaxH2 o => buildR 0x12 5 o
  | .fdivH2 o => buildR 0x12 6 o
  | .fsqrtH2 o => buildR 0x12 7 o
  | .faddB2 o => buildR 0x13 0 o
  | .fsubB2 o => buildR 0x13 1 o
  | .fmulB2 o => buildR 0x13 2 o
  | .fmaB2 o => buildR 0x13 3 o
  | .fminB2 o => buildR 0x13 4 o
  | .fmaxB2 o => buildR 0x13 5 o
  | .fdivB2 o => buildR 0x13 6 o
  | .fsqrtB2 o => buildR 0x13 7 o
  | .frcp o => buildR 0x14 0 o
  | .frsq o => buildR 0x14 1 o
  | .frred o => buildR 0x14 2 o
  | .fsinr o => buildR 0x14 3 o
  | .fcosr o => buildR 0x14 4 o
  | .fexp2 o => buildR 0x14 5 o
  | .flog2 o => buildR 0x14 6 o
  | .feval o => buildR 0x14 7 o
  | .cvt f o => buildR 0x15 f o
  | .shfl o => buildR 0x16 0 o
  | .shflx o => buildR 0x16 1 o
  | .lswap o => buildR 0x16 2 o
  | .vote o => buildR 0x16 3 o
  | .lred o => buildR 0x16 4 o
  | .lscan o => buildR 0x16 5 o
  | .tred o => buildR 0x16 6 o
  | .lbcst o => buildR 0x16 7 o
  | .icmp f o => buildP 0x18 f o
  | .fcmp32 f o => buildP 0x19 f o
  | .fcmp64 f o => buildP 0x1a f o
  | .pand o => buildP 0x1b 0 o
  | .por o => buildP 0x1b 1 o
  | .pxor o => buildP 0x1b 2 o
  | .pnot o => buildP 0x1b 3 o
  | .pmov o => buildP 0x1b 4 o
  | .pset o => buildP 0x1b 5 o
  | .pfrom o => buildP 0x1b 6 o
  | .pto o => buildP 0x1b 7 o
  | .ld o => buildM 0x20 o
  | .st o => buildM 0x21 o
  | .ldl o => buildM 0x22 o
  | .stl o => buildM 0x23 o
  | .lda o => buildM 0x24 o
  | .sta o => buildM 0x25 o
  | .ldw o => buildM 0x26 o
  | .ldc o => buildM 0x27 o
  | .stc o => buildM 0x28 o
  | .atom f o => buildR 0x29 f o
  | .atomx f o => buildR 0x2a f o
  | .red f o => buildR 0x2b f o
  | .redx f o => buildR 0x2c f o
  | .fence o => buildR 0x2d 0 o
  | .cwb o => buildR 0x2d 1 o
  | .cinv o => buildR 0x2d 2 o
  | .iinv o => buildR 0x2d 3 o
  | .fbar o => buildR 0x2d 4 o
  | .pref o => buildR 0x2d 5 o
  | .ldra o => buildM 0x2e o
  | .pstb o => buildR 0x2f 0 o
  | .pldb o => buildR 0x2f 1 o
  | .mxop o => buildE 0x30 0 o
  | .mxwait o => buildE 0x30 1 o
  | .enq o => buildE 0x30 2 o
  | .hsetBind o => buildE 0x30 3 o
  | .hsetFull o => buildE 0x30 3 o
  | .hsetFree o => buildE 0x30 3 o
  | .hwait o => buildE 0x30 4 o
  | .hq o => buildE 0x30 5 o
  | .ftld o => buildE 0x30 6 o
  | .launch o => buildE 0x30 7 o
  | .chwait o => buildE 0x30 8 o
  | .chwaitAll o => buildE 0x30 8 o
  | .twinit o => buildE 0x31 0 o
  | .twstep o => buildE 0x31 1 o
  | .twgetVal o => buildE 0x31 2 o
  | .twgetSt o => buildE 0x31 2 o
  | .twend o => buildE 0x31 3 o
  | .phreg o => buildE 0x32 0 o
  | .pharr o => buildE 0x32 1 o
  | .phwait o => buildE 0x32 2 o
  | .phaw o => buildE 0x32 3 o
  | .phq o => buildE 0x32 4 o
  | .waitu o => buildE 0x32 5 o
  | .setw o => buildE 0x33 0 o
  | .migr o => buildE 0x33 1 o
  | .migrh o => buildE 0x33 2 o
  | .rdsr o => buildE 0x33 3 o
  | .wrsr o => buildE 0x33 4 o
  | .gsel o => buildE 0x33 5 o
  | .rdtime o => buildE 0x33 6 o
  | .rand o => buildE 0x33 7 o
  | .trap o => buildE 0x34 0 o
  | .brk o => buildE 0x34 1 o
  | .sysc o => buildE 0x34 2 o
  | .eret o => buildE 0x34 3 o
  | .rdpr o => buildE 0x34 4 o
  | .wrpr o => buildE 0x34 5 o
  | .ctxfl o => buildE 0x34 6 o
  | .halt o => buildE 0x34 7 o
  | .luih o => buildU 0x38 o
  | .adrh o => buildU 0x39 o
  | .next o => buildU 0x3a o
  | .call o => buildU 0x3b o
  | .nextp o => buildX 0x3c o
  | .nextn o => buildX 0x3d o
  | .nexti o => buildR 0x3e 0 o
  | .calli o => buildR 0x3e 1 o
  | .ret o => buildR 0x3e 2 o
  | .exit o => buildR 0x3e 3 o
  | .rcv o => buildR 0x3e 4 o
  | .yield o => buildR 0x3e 5 o
  | .nop o => buildR 0x3e 6 o
  | _ => 0

/-- Whether an instruction has a word: the first 180 rows of the opcode table. -/
def Instr.hasWord (i : Instr) : Bool := encode i != 0

/-- The instruction of a table row's word: the first `nbits` bits are `w`, the rest 0. -/
def decodeTableWord (nbits w : Nat) : Option Instr :=
  if nbits == 0 then none
  else
    match decode (BitVec.ofNat 32 w) with
    | .ok i => some i
    | .error _ => none

end Sys2Proof
end

