-- ==== Sys2Proof/Machine/Groups.lean ====
section
/-! DEFINITION. Issue groups: their words, and how a thread passes one (R13, R167, R173, R175, R177). -/

namespace Sys2Proof.Machine

/-- The words chained from the first on (R175). -/
def chainGroup : List Word → List Word
  | [] => []
  | w :: rest => if chainBit w then w :: chainGroup rest else [w]

/-- The group that starts at a byte offset of a line: words of its packet from its slot on. -/
def groupWords (line : List Word) (off : Nat) : List Word :=
  let i := off / 4
  chainGroup ((line.drop i).take (3 - i % 3))

/-- The address after n words, over the lintel (R13, R168). -/
def nextAddr (pc n : Nat) : Nat :=
  let a := pc + 4 * n
  (if a % 64 == 60 then a + 4 else a) % 2 ^ 64

/-- A thread passes a group it has performed: the next word, a packet more where it stands at slot 0 (R173), and the
long results written when a word of the group carries S (R177). -/
def Thread.passGroup (t : Thread) (ws : List Word) : Thread :=
  let t := if ws.any switchBit then t.drain else t
  let a := nextAddr t.pc.toNat ws.length
  { t with
    pc := BitVec.ofNat 64 a, seg := if packetOffset a then t.seg + 1 else t.seg, status := .within
    fin := false, woke := none, sent := none, issued := [], copy := none, step := none, conv := none
    entering := false, asked := none, lost := [] }

/-- The index of the word of a group that a thread stands at, and the word's byte address. -/
def Thread.standAddr (t : Thread) (here : Word → Bool) : Nat := (t.pc.toNat + 4 * (t.issued.findIdx? here).getD 0) % 2 ^ 64

/-- The group at a thread's PC, if its line can be fetched; a walk that finds V = 0 is recorded (R442). -/
def groupAt (s : State) (t : TeamRef) (th : Thread) : List Word × State :=
  let w : Accessor := ⟨t.ctx, th.bay, th.sup, false, t.gid, t.team, false⟩
  match fetchLine s w th.pc.toNat with
  | (.line ws, s) => (groupWords ws (th.pc.toNat % 64), s)
  | (.stop (.unmapped lv), s) => ([], faultRecord s w .fetch th.pc.toNat lv)
  | (.stop _, s) => ([], s)

/-- Words that stand for a group whose line could not be fetched: their number and contents are free. -/
def unfetched (n : Nat) : List Word :=
  (List.range (1 + Config.choice n % 3)).map fun i => BitVec.ofNat 32 (Config.choice (n + 1 + i))

/-- What names such a group in every run of a deterministic launch: its thread and its address. -/
def State.fetchKey (s : State) : Nat := (s.th.pc.toNat * 2 ^ 32 + s.tm.ref.team) * 2 ^ 32 + s.th.tid

/-- The focus with such a group: in a deterministic launch the same in every run (R410). -/
def State.withUnfetched (s : State) : State :=
  { s with grp := ⟨unfetched (s.openKey s.fetchKey), 0, s.th, s.tm, none⟩, draws := if s.det then s.draws else s.draws + 4 }

/-- The words of the group a thread is in: those it has issued, or else those at its PC. -/
def groupOfThread (s : State) (t : TeamRef) (th : Thread) : List Word × State :=
  if th.issued.isEmpty then groupAt s t th else (th.issued, s)

end Sys2Proof.Machine
end

