-- ==== Sys2Proof/Machine/Phaser.lean ====
section
/-! DEFINITION. Phasers (R228 to R231). -/

namespace Sys2Proof.Machine

/-- x > y on counts modulo 2^32 (R229). -/
def countGt (x y : Word) : Bool := 1 ≤ (x - y).toNat && (x - y).toNat ≤ 2 ^ 31 - 1

/-- Kinds of phaser (R228). -/
inductive PhKind where
  | team | cluster | grid
  deriving DecidableEq, Repr

def phKindOf (arg : BitVec 7) : PhKind :=
  match arg.toNat / 32 with
  | 0 => .team
  | 1 => .cluster
  | _ => .grid

def phIndex (arg : BitVec 7) : Nat := arg.toNat % 32

/-- Place of a phaser among a thread's records (R379). -/
def phSlot (k : PhKind) (i : Nat) : Nat :=
  match k with
  | .team => i
  | .cluster => 16 + i
  | .grid => 24 + i

/-- The scope of a phaser's ordering (R136). -/
def phScope (k : PhKind) : Nat :=
  match k with
  | .team => 0
  | .cluster => 1
  | .grid => 2

def PhRec.none : PhRec := ⟨false, false, 0, 0⟩

def Thread.phRec (t : Thread) (slot : Nat) : PhRec := t.ph.getD slot PhRec.none
def Thread.setPh (t : Thread) (slot : Nat) (r : PhRec) : Thread := { t with ph := t.ph.set slot r }

/-- The cluster group of a team (R32). -/
def groupOf (g : Grid) (team : Nat) : Nat := team / (if g.group == 0 then 1 else g.group)

/-- The completed-phase count that a phaser holds. -/
def State.phHeld (s : State) (k : PhKind) (i : Nat) : Word :=
  match k with
  | .team => s.tm.tph.getD i 0
  | .cluster => ((s.grid.cph.getD (groupOf s.grid s.tm.ref.team) []).getD i 0)
  | .grid => s.grid.gph.getD i 0

/-- The completed-phase count of a phaser, as the team's threads see it. No signaller of the team has arrived in a phase that is not
complete without it, so that this is the count the phaser holds, except for a deterministic team that is run anew: it arrives up
to that count as it did before (R409). -/
def State.phPc (s : State) (k : PhKind) (i : Nat) : Word :=
  if s.det && k == .cluster then
    (s.syncTm.threads.filter fun x => x.status != .exited && (x.phRec (phSlot k i)).sig).foldl
      (fun pc x => if countGt pc (x.phRec (phSlot k i)).arr then (x.phRec (phSlot k i)).arr else pc) (s.phHeld k i)
  else s.phHeld k i

def State.setPhPc (s : State) (k : PhKind) (i : Nat) (v : Word) : State :=
  match k with
  | .team => s.mapTm fun t => { t with tph := t.tph.set i v }
  | .cluster =>
    let g := s.grid
    s.setGrid { g with cph := updAt g.cph (groupOf g s.tm.ref.team) fun l => l.set i v }
  | .grid =>
    let g := s.grid
    s.setGrid { g with gph := g.gph.set i v }

/-- Whether a team's threads take part in the issuing team's phaser of a kind (R229). -/
def State.phTeam (s : State) (k : PhKind) (t : Team) : Bool :=
  match k with
  | .team => t.ref == s.tm.ref
  | .cluster =>
    t.ref.ctx == s.tm.ref.ctx && t.ref.gid == s.tm.ref.gid && groupOf s.grid t.ref.team == groupOf s.grid s.tm.ref.team
  | .grid => t.ref.ctx == s.tm.ref.ctx && t.ref.gid == s.tm.ref.gid

/-- The participants of a phaser that have not exited. -/
def State.phParts (s : State) (k : PhKind) : List Thread :=
  let here := s.syncTm.threads.filter fun t => t.status != .exited
  match k with
  | .team => here
  | _ =>
    here ++ (s.teams.filter fun t => t.ref != s.tm.ref && s.phTeam k t).flatMap fun t =>
      t.threads.filter fun x => x.status != .exited

/-- Every team of the group is there: none is about to be run anew (R32, R409). -/
def State.groupHere (s : State) (k : PhKind) : Bool :=
  let g := s.grid
  let n := if g.group == 0 then 1 else g.group
  !(s.det && k == .cluster) ||
    (rangeFrom (groupOf g s.tm.ref.team * n) n).all fun i =>
      i ≥ g.nteams || i == s.tm.ref.team || s.teams.any fun t => t.ref == { s.tm.ref with team := i }

/-- One phase completes: Pc rises by 1, and a waiter too far behind is raised (R229). -/
def State.phAdvance (s : State) (k : PhKind) (i : Nat) : State :=
  let pc := s.phHeld k i + 1
  let slot := phSlot k i
  let lag : Word := BitVec.ofNat 32 (2 ^ 31 - 1)
  let raise := fun (t : Thread) =>
    let r := t.phRec slot
    if r.wait && pc - r.wai == lag then t.setPh slot { r with wai := pc - (lag - 1) } else t
  let s := s.setPhPc k i pc
  if (s.phParts k).any fun t => (t.phRec slot).wait && pc - (t.phRec slot).wai == lag then
    s.overTeams fun t => if s.phTeam k t then { t with threads := t.threads.map raise } else t
  else s

/-- Phases complete while every signaller has arrived (R229); a signaller is at most one phase ahead. -/
def State.phSettle (s : State) (k : PhKind) (i : Nat) : State :=
  let slot := phSlot k i
  let sigs := (s.phParts k).filter fun t => (t.phRec slot).sig
  if !sigs.isEmpty && s.groupHere k && sigs.all (fun t => countGt (t.phRec slot).arr (s.phHeld k i)) then s.phAdvance k i else s

/-- R228: the phaser is declared and available. -/
def State.phOk (s : State) (k : PhKind) (i : Nat) : Bool :=
  match k with
  | .team => i < s.tm.decl.phasers
  | .cluster => i < s.tm.decl.cphasers
  | .grid => i < 4 && s.grid.cores

/-- The checks every phaser word makes, then its effect. -/
def phWord (o : EFmt) (s : State) (k : PhKind → Nat → State → State) : State :=
  if s.active o.g then
    if s.th.migrated then s.raise cMigrated 0
    else if !s.phOk (phKindOf o.arg) (phIndex o.arg) then s.raise cPhRange 0
    else k (phKindOf o.arg) (phIndex o.arg) s
  else s

/-- The thread's arrival: a release at the phaser's scope (R136, R230). -/
def State.arrive (s : State) (k : PhKind) (i : Nat) : State :=
  let slot := phSlot k i
  let s := s.release (phScope k)
  let s := s.mapTh fun t => t.setPh slot { t.phRec slot with arr := (t.phRec slot).arr + 1 }
  s.phSettle k i

/-- PHARR: block until a_t ≤ Pc, then arrive. -/
def State.phArr (s : State) (k : PhKind) (i : Nat) (next : State → State) : State :=
  if countGt (s.th.phRec (phSlot k i)).arr (s.phPc k i) then s.block (.phaser (phSlot k i) true) else next (s.arrive k i)

/-- PHWAIT: block until Pc > w_t, then count and acquire (R136). -/
def State.phWai (s : State) (k : PhKind) (i : Nat) : State :=
  let slot := phSlot k i
  if countGt (s.phPc k i) (s.th.phRec slot).wai then
    (s.mapTh fun t => { t.setPh slot { t.phRec slot with wai := (t.phRec slot).wai + 1 } with conv := none }).acquire (phScope k)
  else s.block (.phaser slot false)

def execPharr (o : EFmt) (s : State) : Out :=
  .next <| phWord o s fun k i s =>
    if !(s.th.phRec (phSlot k i)).sig then s.raise cPhRole 0 else s.phArr k i id

def execPhwait (o : EFmt) (s : State) : Out :=
  .next <| phWord o s fun k i s =>
    if !(s.th.phRec (phSlot k i)).wait then s.raise cPhRole 0 else s.phWai k i

/-- PHAW arrives once, then waits (R230); th.conv says that it has arrived. -/
def execPhaw (o : EFmt) (s : State) : Out :=
  .next <| phWord o s fun k i s =>
    let r := s.th.phRec (phSlot k i)
    if s.th.conv.isSome then s.phWai k i
    else if !(r.sig && r.wait) then s.raise cPhRole 0
    else s.phArr k i fun s => (s.mapTh fun t => { t with conv := some [] }).phWai k i

def execPhq (o : EFmt) (s : State) : Out :=
  .next <| phWord o s fun k i s => s.pendTo o.d 1 (s.phPc k i).toNat

/-- PHREG (R231). A gained or dropped signaller role lets the completion check be made anew (R229). DESIGN CHOICE (log entry 80):
where the signaller role is dropped and the waiter role gained at once, w_t is set from Pc as the arrival left it. -/
def execPhreg (o : EFmt) (s : State) : Out :=
  .next <| phWord o s fun k i s =>
    let slot := phSlot k i
    let sig := o.d.getLsbD 0
    let wait := o.d.getLsbD 1
    let r := s.th.phRec slot
    -- dropping the signaller role performs the arrival first
    let s := if r.sig && !sig && !countGt r.arr (s.phPc k i) then s.arrive k i else s
    let pc := s.phPc k i
    let s := s.mapTh fun t =>
      let r := t.phRec slot
      t.setPh slot
        ⟨sig, wait, if sig && !r.sig then pc + 1 else r.arr, if wait && !r.wait then pc + 1 else r.wai⟩
    if sig != r.sig then s.phSettle k i else s

/-- A thread that exits loses its role in one phaser; a phase that waited only for it completes (R229). -/
def State.phLeave (s : State) (k : PhKind) (i : Nat) : State :=
  let slot := phSlot k i
  let r := s.th.phRec slot
  let s := s.mapTh fun t => t.setPh slot { r with sig := false, wait := false }
  if !r.sig then s
  else if (s.phParts k).any fun t => (t.phRec slot).sig then s.phSettle k i
  else if s.groupHere k && !countGt (s.phHeld k i) r.arr then s.phAdvance k i
  else s

/-- Leaves every phaser available to the thread (R220). -/
def State.phLeaveAll (s : State) : State :=
  let s := (List.range s.tm.decl.phasers).foldl (fun s i => s.phLeave .team i) s
  let s := (List.range s.tm.decl.cphasers).foldl (fun s i => s.phLeave .cluster i) s
  if s.grid.cores then (List.range 4).foldl (fun s i => s.phLeave .grid i) s else s

end Sys2Proof.Machine
end

