-- ==== Sys2Proof/Machine/Control.lean ====
section
/-! DEFINITION. Terminators and control words (R219 to R222). -/

namespace Sys2Proof.Machine

/-- The packet address at an offset from the terminator's packet (R168). -/
def State.packetTarget (s : State) (off : Int) : Nat := packetAddr ((packetOf s.wordPc : Int) + off)

/-- The return address: the packet after the terminator's (R186). -/
def State.returnAddr (s : State) : Nat := s.packetTarget 1

/-- Writes the return address to v62:63. -/
def State.link (s : State) : State := s.puts 62 2 s.returnAddr

def execNext (o : UFmt) (s : State) : Out := .next (s.transfer (s.packetTarget o.imm.toInt) id)
def execCall (o : UFmt) (s : State) : Out := .next (s.transfer (s.packetTarget o.imm.toInt) State.link)

/-- A two-way terminator (R14, R219). -/
def twoWay (s : State) (taken : Bool) (off : BitVec 18) : State :=
  s.transfer (s.packetTarget (if taken then off.toInt else 1)) id

def execNextp (o : XFmt) (s : State) : Out := .next (twoWay s (s.srcPred o.p) o.off)
def execNextn (o : XFmt) (s : State) : Out := .next (twoWay s (!s.srcPred o.p) o.off)

def execNexti (o : RFmt) (s : State) : Out := .next (s.transfer (s.srcPair o.a).toNat id)
def execCalli (o : RFmt) (s : State) : Out := .next (s.transfer (s.srcPair o.a).toNat State.link)
def execRet (_ : RFmt) (s : State) : Out := .next (s.transfer (s.srcPair 62).toNat id)

/-- When the last thread of a cohort exits, its slot positions, its vestibule slot and its return reservation are freed
with it (R42, R220): no thread of it holds them any longer. -/
def execExit (_ : RFmt) (s : State) : Out :=
  .next <|
    let s := s.mapTh Thread.drain
    let s := s.phLeaveAll
    s.mapTh fun t => { t.clearWaits with status := .exited, walk := none, migrated := false }

/-- An RCV word. -/
def rcvWord (w : Word) : Bool :=
  match decode w with
  | .ok (.rcv _) => true
  | _ => false

/-- A thread stands at the RCV word at byte address `a` of the group at `pc`: held there, or about to issue a group that
leads to it. One at a segment boundary is not about to issue where it is held there or its team is not running. -/
def Thread.atRcv (t : Thread) (run : Bool) (pc a : Nat) : Bool :=
  match t.status with
  | .within => pc ≤ t.pc.toNat && t.pc.toNat ≤ a
  | .boundary => run && !t.held && pc ≤ t.pc.toNat && t.pc.toNat ≤ a
  | .blocked .rcv => t.standAddr rcvWord == a
  | _ => false

/-- Whether another thread of the cohort lets a hold at RCV end: it stands at the same word, is at a segment boundary, or
has exited, or is blocked; one that is parked, that is held at another RCV word, or whose convergent word has been performed and
is about to leave it, is neither (R221). -/
def rcvMet (pc a : Nat) (t : Thread) : Bool :=
  match t.status with
  | .boundary | .exited => true
  | .blocked .rcv | .within => t.atRcv true pc a
  | .blocked .convergent | .blocked .teamConv => t.conv.isNone
  | .blocked _ => true
  | .parked _ _ | .aside _ => false

/-- Every thread of a cohort that stands at an RCV word joins one gang and passes the word. -/
def rcvMerge (ts : List Thread) (mate : Thread → Bool) (run : Bool) (pc a gang : Nat) : List Thread :=
  ts.map fun t => if mate t && t.atRcv run pc a then { t with conv := some [], gang := gang } else t

/-- RCV (R221): held until the cohort's other threads come, then every gang at the word merges. -/
def execRcv (_ : RFmt) (s : State) : Out :=
  .next <|
    if s.th.conv.isSome then s.mapTh fun t => { t with conv := none }
    else
      let mate := fun (t : Thread) => t.tid != s.th.tid && t.tid / s.tm.grant == s.cohort && t.bay == s.th.bay
      let pc := s.th.pc.toNat
      if s.tm.threads.all fun t => !mate t || rcvMet pc s.wordPc t then
        s.mapTm fun tm => { tm with threads := rcvMerge tm.threads mate (tm.st == .running) pc s.wordPc s.th.gang }
      else
        let since := if s.grp.view.status == .blocked .rcv then s.th.since else s.cycle
        (s.mapTh fun t => { t with since := since }).block .rcv

/-- YIELD (R222): only the choice of the next gang is affected. -/
def execYield (_ : RFmt) (s : State) : Out := .next (s.mapTh fun t => { t with yielded := true, passed := false, since := s.cycle })

def execNop (_ : RFmt) (s : State) : Out := .next s

end Sys2Proof.Machine
end

