-- ==== Sys2Proof/Machine/CrossLane.lean ====
section
/-! DEFINITION. Cross-lane words and convergence (R27, R28, R223 to R227). -/

namespace Sys2Proof.Machine

/-- guard(t) of a standing thread, as it stood before the group. -/
def Thread.guarded (t : Thread) (g : Bool) : Bool := !g || t.pred t.gsel

/-- The threads a convergent word waits for: the non-exited threads of the cohort, or of the team (R27, R28). -/
def State.convMembers (s : State) (team : Bool) : List Thread :=
  s.tm.threads.filter fun t => t.status != .exited && (team || t.tid / s.tm.grant == s.cohort)

/-- Whether a thread stands blocked at a convergent word. -/
def Status.standing (t : Status) : Bool :=
  match t with
  | .blocked .convergent | .blocked .teamConv => true
  | _ => false

/-- A word at which threads converge: the cross-lane words, MIGR and MIGRH. -/
def convergentWord (w : Word) : Bool :=
  match decode w with
  | .ok (.shfl _) | .ok (.shflx _) | .ok (.lswap _) | .ok (.vote _) | .ok (.lred _) | .ok (.lscan _) | .ok (.tred _) |
    .ok (.lbcst _) | .ok (.migr _) | .ok (.migrh _) => true
  | _ => false

/-- Every member stands at the issuing thread's word: at the same byte address, from whatever group it came there. -/
def State.allStand (s : State) (ms : List Thread) : Bool :=
  ms.all fun t => t.tid == s.th.tid || (t.status.standing && t.standAddr convergentWord == s.wordPc && t.conv.isNone)

/-- A convergent word (R27): the thread stands at it until every member stands there; the results of all active
lanes are then fixed at once, each from the sources as they stood before the group. -/
def convergent (s : State) (team g : Bool) (f : List Thread → Thread → List Pending) : State :=
  match s.th.conv with
  | some ps => (s.pend ps).mapTh fun t => { t with conv := none }
  | none =>
    let ms := s.convMembers team
    if s.allStand ms then
      let act := ms.filter fun t => t.guarded g
      let res := fun (t : Thread) => if t.guarded g then f act t else []
      let s := s.mapTm fun tm =>
        { tm with
          threads := tm.threads.map fun t =>
            if t.tid != s.th.tid && ms.any (fun m => m.tid == t.tid) then { t with conv := some (res t) } else t }
      s.pend (res s.grp.view)
    else s.block (if team then .teamConv else .convergent)

/-- A lane of a thread under a grant (R22). -/
def Thread.lane (t : Thread) (grant : Nat) : Nat := t.tid % grant

/-- The active thread in a lane. -/
def laneThread (act : List Thread) (grant l : Nat) : Option Thread := act.find? fun t => t.lane grant == l

/-- Registers moved at width W. -/
def laneRegs (o : RFmt) : Nat := if o.w == 0 then 1 else 2

/-- A movement word (R224): `src` names the source lane for a lane's own registers. -/
def moveLanes (o : RFmt) (s : State) (src : Thread → Nat) (tweak : Nat → Nat → Nat) : State :=
  let w := s.tm.grant
  let k := laneRegs o
  convergent s false o.g fun act t =>
    let l := src t
    let v :=
      if l < w then
        match laneThread act w l with
        | some u => tweak (t.lane w) (u.regsNat o.a.toNat k)
        | none => t.regsNat o.a.toNat k
      else t.regsNat o.a.toNat k
    pendRegs o.d.toNat v k

def execShfl (o : RFmt) (s : State) : Out := .next (moveLanes o s (fun t => (t.reg o.b.toNat).toNat % 64) fun _ v => v)
def execShflx (o : RFmt) (s : State) : Out :=
  .next (moveLanes o s (fun t => t.lane s.tm.grant ^^^ o.b.toNat) fun _ v => v)
def execLbcst (o : RFmt) (s : State) : Out := .next (moveLanes o s (fun _ => o.b.toNat) fun _ v => v)

/-- LSWAP (R224): the top bit is inverted in the lanes m names, never when a lane keeps its own value. -/
def execLswap (o : RFmt) (s : State) : Out :=
  .next <|
    moveLanes o s (fun t => t.lane s.tm.grant ^^^ 1) fun l v =>
      if (l % 2 == 0 && o.b.getLsbD 0) || (l % 2 == 1 && o.b.getLsbD 1) then v ^^^ 2 ^ (32 * laneRegs o - 1) else v

/-- VOTE (R225). -/
def execVote (o : RFmt) (s : State) : Out :=
  .next <|
    convergent s false o.g fun act _ =>
      let ps := act.map fun t => t.pred o.a.toNat
      match o.b.toNat with
      | 0 => [.pred o.d.toNat (ps.any id)]
      | 1 => [.pred o.d.toNat (ps.all id)]
      | 2 =>
        pendRegs o.d.toNat
          ((act.map fun t => if t.pred o.a.toNat then 2 ^ t.lane s.tm.grant else 0).foldl (· + ·) 0) 2
      | _ => [.pred o.d.toNat (ps.all id || ps.all not)]

/-- comb of R226 on values of N bits. -/
def combVal (op : Nat) (wide : Bool) (a b : Nat) : Nat :=
  let n := if wide then 64 else 32
  let x := BitVec.ofNat n a
  let y := BitVec.ofNat n b
  let f := if wide then fmt64 else fmt32
  match op with
  | 0 => (x + y).toNat
  | 1 => (sMin x y).toNat
  | 2 => (sMax x y).toNat
  | 3 => (uMin x y).toNat
  | 4 => (uMax x y).toNat
  | 5 => (x &&& y).toNat
  | 6 => (x ||| y).toNat
  | 7 => (x ^^^ y).toNat
  | 8 => atomFadd f a b
  | 9 => atomFmin f a b
  | _ => atomFmax f a b

/-- comb with positions that hold no value. -/
def combOpt (op : Nat) (wide : Bool) (a b : Option Nat) : Option Nat :=
  match a, b with
  | some x, some y => some (combVal op wide x y)
  | some x, none => some x
  | none, b => b

/-- One level of the tree: neighbours combine. -/
def treeLevel {α : Type} (f : α → α → α) : List α → List α
  | a :: b :: t => f a b :: treeLevel f t
  | l => l

/-- k levels of the tree of LRED over 2^k positions. -/
def treeReduce {α : Type} (f : α → α → α) : Nat → List α → List α
  | 0, l => l
  | k + 1, l => treeReduce f k (treeLevel f l)

/-- One stage of LSCAN: position i takes in position i − d. -/
def scanStage {α : Type} (f : α → α → α) (d : Nat) (l : List α) : List α :=
  l.take d ++ (l.zip (l.drop d)).map fun p => f p.1 p.2

/-- The stages of LSCAN from 2^st on. -/
def scanAll {α : Type} (f : α → α → α) : Nat → Nat → List α → List α
  | 0, _, l => l
  | k + 1, st, l => scanAll f k (st + 1) (scanStage f (2 ^ st) l)

/-- The values of W positions, one per lane or thread index. -/
def positions (act : List Thread) (n : Nat) (idx : Thread → Nat) (reg k : Nat) : List (Option Nat) :=
  (List.range n).map fun i => (act.find? fun t => idx t == i).map fun t => t.regsNat reg k

def execLred (o : RFmt) (s : State) : Out :=
  .next <|
    convergent s false o.g fun act _ =>
      let w := s.tm.grant
      let k := laneRegs o
      let x := treeReduce (combOpt o.b.toNat (k == 2)) (Nat.log2 w) (positions act w (fun t => t.lane w) o.a.toNat k)
      pendRegs o.d.toNat ((x.head?.getD none).getD 0) k

def execLscan (o : RFmt) (s : State) : Out :=
  .next <|
    convergent s false o.g fun act t =>
      let w := s.tm.grant
      let k := laneRegs o
      let x := scanAll (combOpt o.b.toNat (k == 2)) (Nat.log2 w) 0 (positions act w (fun t => t.lane w) o.a.toNat k)
      pendRegs o.d.toNat ((x.getD (t.lane w) none).getD 0) k

/-- TRED (R227): 1,024 positions, one per team thread index. -/
def execTred (o : RFmt) (s : State) : Out :=
  .next <|
    if s.active o.g && s.th.migrated then s.raise cMigrated 0
    else
      convergent s true o.g fun act _ =>
        let k := laneRegs o
        let x := treeReduce (combOpt o.b.toNat (k == 2)) 10 (positions act 1024 (fun t => t.tid) o.a.toNat k)
        pendRegs o.d.toNat ((x.head?.getD none).getD 0) k

end Sys2Proof.Machine
end

