-- ==== Sys2Proof/Machine/Pred.lean ====
section
/-! DEFINITION. Comparisons and predicate logic (R203 to R205). -/

namespace Sys2Proof.Machine

/-- The conditions of ICMP (R180). -/
def icmpCond {n : Nat} (cc : Nat) (a b : BitVec n) : Bool :=
  match cc with
  | 0 => a == b
  | 1 => a != b
  | 2 => a.toInt < b.toInt
  | 3 => a.toInt ≤ b.toInt
  | 4 => a.toInt > b.toInt
  | 5 => a.toInt ≥ b.toInt
  | 6 => a.toNat < b.toNat
  | 7 => a.toNat ≤ b.toNat
  | 8 => a.toNat > b.toNat
  | _ => a.toNat ≥ b.toNat

def execIcmp (f : BitVec 5) (o : PFmt) (s : State) : Out :=
  .next <|
    if s.active o.g then
      let cc := f.toNat % 16
      s.putPred o.pd
        (if f.getLsbD 4 then icmpCond cc (s.srcPair o.a) (s.srcPair o.b) else icmpCond cc (s.src o.a) (s.src o.b))
    else s

/-- The relations in which a condition of FCMP is true (R204). -/
def fcmpCond (cc : Nat) (r : Option Ordering) : Bool :=
  match r with
  | some .lt => [1, 2, 3, 6, 9, 10, 11].contains cc
  | some .eq => [0, 3, 5, 6, 8, 11, 13].contains cc
  | some .gt => [1, 4, 5, 6, 9, 12, 13].contains cc
  | none => [7, 8, 9, 10, 11, 12, 13].contains cc

/-- The conditions that set IV on a quiet NaN (R204). -/
def fcmpQuietIV (cc : Nat) : Bool := 2 ≤ cc && cc ≤ 5

/-- FCMP's condition and flags. -/
def fcmpF (f : Fmt) (daz : Bool) (cc a b : Nat) : Bool × Nat :=
  let x := f.readDaz daz a
  let y := f.readDaz daz b
  let nan := x.isNan || y.isNan
  let iv := x.isSnan || y.isSnan || (nan && fcmpQuietIV cc)
  (fcmpCond cc (x.cmp y), if iv then flagIV else 0)

/-- A compare of two operands of a format, k registers each. -/
def fcmp (f : Fmt) (fam : Family) (k : Nat) (cc : Nat) (o : PFmt) (s : State) : State :=
  if s.active o.g then
    let r := fcmpF f (s.daz fam) cc (s.srcs o.a k) (s.srcs o.b k)
    (s.putPred o.pd r.1).mapTh fun t => t.orFps r.2
  else s

def execFcmp32 (f : BitVec 5) (o : PFmt) (s : State) : Out := .next (fcmp fmt32 .f32 1 (f.toNat % 16) o s)
def execFcmp64 (f : BitVec 5) (o : PFmt) (s : State) : Out := .next (fcmp fmt64 .f64 2 (f.toNat % 16) o s)

/-- Predicate logic of two predicates. -/
def plog (f : Bool → Bool → Bool) (o : PFmt) (s : State) : State :=
  if s.active o.g then s.putPred o.pd (f (s.srcPred o.a) (s.srcPred o.b)) else s

def execPand (o : PFmt) (s : State) : Out := .next (plog (fun a b => a && b) o s)
def execPor (o : PFmt) (s : State) : Out := .next (plog (fun a b => a || b) o s)
def execPxor (o : PFmt) (s : State) : Out := .next (plog (fun a b => a != b) o s)
def execPnot (o : PFmt) (s : State) : Out := .next (plog (fun a _ => !a) o s)
def execPmov (o : PFmt) (s : State) : Out := .next (plog (fun a _ => a) o s)
def execPset (o : PFmt) (s : State) : Out := .next (plog (fun _ _ => o.a == 1) o s)

def execPfrom (o : PFmt) (s : State) : Out :=
  .next (if s.active o.g then s.putPred o.pd ((s.src o.a).getLsbD o.b.toNat) else s)

/-- PTO writes the general register that PD names (R180). -/
def execPto (o : PFmt) (s : State) : Out :=
  .next (if s.active o.g then s.puts o.pd 1 (if s.srcPred o.a then 1 else 0) else s)

end Sys2Proof.Machine
end

