-- ==== Sys2Proof/Machine/FpArith.lean ====
section
/-! DEFINITION. Floating-point arithmetic, function lanes and conversions as instructions (R206 to R217), and the
keyed sign generator (R67 to R69). -/

namespace Sys2Proof.Machine

/-! ### The keyed sign generator -/

/-- One round of ksg. -/
def ksgRound (k x r : Nat) : Nat :=
  let x := ((x ^^^ rotl64 k (16 * r)) * 0x9E3779B97F4A7C15) % 2 ^ 64
  x ^^^ (x / 2 ^ 29)

/-- ksg(K, x) (R67). -/
def ksg (k x : Nat) : Nat := bits ((List.range 4).foldl (ksgRound k) x) 63 32

/-- The draw a thread makes next (R68): RNGK and RNGC as they stood before the group. -/
def State.draw (s : State) : Nat :=
  ksg s.grp.view.rngk.toNat ((s.linear * 2 ^ 24 + s.grp.view.rngc.toNat) % 2 ^ 64)

/-- Each draw advances RNGC by 1 modulo 2^24. Two draws of a group, or a WRSR of RNGC beside one, advance it in slot order and
draw with the count before the group: DESIGN CHOICE (log entry 15). -/
def State.advanceRng (s : State) : State :=
  s.mapTh fun t => { t with rngc := BitVec.ofNat 32 ((t.rngc.toNat + 1) % 2 ^ 24) }

/-! ### The shared operations of majors 0x10 to 0x13 -/

/-- A major of R206: its format, family, element count per register and register count. -/
structure FpKind where
  fmt : Fmt
  fam : Family
  elems : Nat
  regs : Nat

def kind32 : FpKind := ⟨fmt32, .f32, 1, 1⟩
def kind64 : FpKind := ⟨fmt64, .f64, 1, 2⟩
def kindH2 : FpKind := ⟨fmt16, .f16, 2, 1⟩
def kindB2 : FpKind := ⟨fmtB16, .bf16, 2, 1⟩

/-- Element i of a register value (R44). -/
def elem (k : FpKind) (x i : Nat) : Nat := if k.elems == 1 then x else x / 2 ^ (16 * i) % 2 ^ 16

/-- Joins the two elements of a paired format; their flags are ORed (R209). -/
def joinElems (k : FpKind) (f : Nat → FR) : FR :=
  if k.elems == 1 then f 0
  else ⟨(f 0).bits + 2 ^ 16 * (f 1).bits, (f 0).fl ||| (f 1).fl⟩

/-- The controls of an operation: rounding mode, DAZ and FTZ of its family. -/
structure FpCtl where
  rm : Rnd
  daz : Bool
  ftz : Bool

def State.fpCtl (s : State) (k : FpKind) : FpCtl := ⟨s.rm, s.daz k.fam, s.ftz k.fam⟩

/-- A floating-point word: one function of the elements of A, B and D. -/
def fpWord (c : Class) (k : FpKind) (f : FpCtl → Fmt → Nat → Nat → Nat → FR) (o : RFmt) (s : State) : State :=
  if s.active o.g then
    let a := s.srcs o.a k.regs
    let b := s.srcs o.b k.regs
    let d := s.srcs o.d k.regs
    s.fpResult c o.d k.regs (joinElems k fun i => f (s.fpCtl k) k.fmt (elem k a i) (elem k b i) (elem k d i))
  else s

def opAdd (c : FpCtl) (f : Fmt) (a b _d : Nat) : FR := f.add c.rm c.ftz (f.readDaz c.daz a) (f.readDaz c.daz b)
def opSub (c : FpCtl) (f : Fmt) (a b _d : Nat) : FR := f.add c.rm c.ftz (f.readDaz c.daz a) (f.readDaz c.daz b).neg
def opMul (c : FpCtl) (f : Fmt) (a b _d : Nat) : FR := f.mul c.rm c.ftz (f.readDaz c.daz a) (f.readDaz c.daz b)
def opFma (c : FpCtl) (f : Fmt) (a b d : Nat) : FR :=
  f.fma c.rm c.ftz (f.readDaz c.daz a) (f.readDaz c.daz b) (f.readDaz c.daz d)
def opMin (c : FpCtl) (f : Fmt) (a b _d : Nat) : FR := f.minmax false c.daz c.ftz a b
def opMax (c : FpCtl) (f : Fmt) (a b _d : Nat) : FR := f.minmax true c.daz c.ftz a b
def opDiv (c : FpCtl) (f : Fmt) (a b _d : Nat) : FR := f.div c.rm c.ftz (f.readDaz c.daz a) (f.readDaz c.daz b)
def opSqrt (c : FpCtl) (f : Fmt) (a _b _d : Nat) : FR := f.sqrt c.rm c.ftz (f.readDaz c.daz a)

def execFadd (o : RFmt) (s : State) : Out := .next (fpWord .short kind32 opAdd o s)
def execFsub (o : RFmt) (s : State) : Out := .next (fpWord .short kind32 opSub o s)
def execFmul (o : RFmt) (s : State) : Out := .next (fpWord .short kind32 opMul o s)
def execFma (o : RFmt) (s : State) : Out := .next (fpWord .short kind32 opFma o s)
def execFmin (o : RFmt) (s : State) : Out := .next (fpWord .short kind32 opMin o s)
def execFmax (o : RFmt) (s : State) : Out := .next (fpWord .short kind32 opMax o s)
def execFdiv (o : RFmt) (s : State) : Out := .next (fpWord .long kind32 opDiv o s)
def execFsqrt (o : RFmt) (s : State) : Out := .next (fpWord .long kind32 opSqrt o s)

def execFadd64 (o : RFmt) (s : State) : Out := .next (fpWord .long kind64 opAdd o s)
def execFsub64 (o : RFmt) (s : State) : Out := .next (fpWord .long kind64 opSub o s)
def execFmul64 (o : RFmt) (s : State) : Out := .next (fpWord .long kind64 opMul o s)
def execFma64 (o : RFmt) (s : State) : Out := .next (fpWord .long kind64 opFma o s)
def execFmin64 (o : RFmt) (s : State) : Out := .next (fpWord .long kind64 opMin o s)
def execFmax64 (o : RFmt) (s : State) : Out := .next (fpWord .long kind64 opMax o s)
def execFdiv64 (o : RFmt) (s : State) : Out := .next (fpWord .long kind64 opDiv o s)
def execFsqrt64 (o : RFmt) (s : State) : Out := .next (fpWord .long kind64 opSqrt o s)

def execFaddH2 (o : RFmt) (s : State) : Out := .next (fpWord .short kindH2 opAdd o s)
def execFsubH2 (o : RFmt) (s : State) : Out := .next (fpWord .short kindH2 opSub o s)
def execFmulH2 (o : RFmt) (s : State) : Out := .next (fpWord .short kindH2 opMul o s)
def execFmaH2 (o : RFmt) (s : State) : Out := .next (fpWord .short kindH2 opFma o s)
def execFminH2 (o : RFmt) (s : State) : Out := .next (fpWord .short kindH2 opMin o s)
def execFmaxH2 (o : RFmt) (s : State) : Out := .next (fpWord .short kindH2 opMax o s)
def execFdivH2 (o : RFmt) (s : State) : Out := .next (fpWord .long kindH2 opDiv o s)
def execFsqrtH2 (o : RFmt) (s : State) : Out := .next (fpWord .long kindH2 opSqrt o s)

def execFaddB2 (o : RFmt) (s : State) : Out := .next (fpWord .short kindB2 opAdd o s)
def execFsubB2 (o : RFmt) (s : State) : Out := .next (fpWord .short kindB2 opSub o s)
def execFmulB2 (o : RFmt) (s : State) : Out := .next (fpWord .short kindB2 opMul o s)
def execFmaB2 (o : RFmt) (s : State) : Out := .next (fpWord .short kindB2 opFma o s)
def execFminB2 (o : RFmt) (s : State) : Out := .next (fpWord .short kindB2 opMin o s)
def execFmaxB2 (o : RFmt) (s : State) : Out := .next (fpWord .short kindB2 opMax o s)
def execFdivB2 (o : RFmt) (s : State) : Out := .next (fpWord .long kindB2 opDiv o s)
def execFsqrtB2 (o : RFmt) (s : State) : Out := .next (fpWord .long kindB2 opSqrt o s)

/-! ### Function lanes (R210, R77 to R82) -/

/-- A function-lane word: one FP32 result of A and B, with the team's table as it stands when the word is performed; chained
with an FTLD that is the new one where the FTLD has been performed: DESIGN CHOICE (log entry 47). -/
def laneWord (f : List FRec → Bool → Bool → Nat → Nat → FR) (o : RFmt) (s : State) : State :=
  if s.active o.g then
    s.fpResult .long o.d 1 (f s.tm.ftab (s.daz .f32) (s.ftz .f32) (s.src o.a).toNat (s.src o.b).toNat)
  else s

def execFrcp (o : RFmt) (s : State) : Out := .next (laneWord (fun _ d f a _ => frcpF d f a) o s)
def execFrsq (o : RFmt) (s : State) : Out := .next (laneWord (fun _ d f a _ => frsqF d f a) o s)

/-- FRRED writes r and q to a pair (R210). -/
def execFrred (o : RFmt) (s : State) : Out :=
  .next <|
    if s.active o.g then
      let r := frredF (s.daz .f32) (s.ftz .f32) (s.src o.a).toNat
      s.fpResult .long o.d 2 ⟨r.1.bits + 2 ^ 32 * r.2, r.1.fl⟩
    else s

def execFsinr (o : RFmt) (s : State) : Out := .next (laneWord fsinrF o s)
def execFcosr (o : RFmt) (s : State) : Out := .next (laneWord fcosrF o s)
def execFexp2 (o : RFmt) (s : State) : Out := .next (laneWord (fun t d f a _ => fexp2F (ftabRec t 2) d f a) o s)
def execFlog2 (o : RFmt) (s : State) : Out := .next (laneWord (fun t d f a _ => flog2F (ftabRec t 3) d f a) o s)

/-- FEVAL's record number is its B field (R210). -/
def execFeval (o : RFmt) (s : State) : Out :=
  .next (laneWord (fun t d f a _ => fevalF (ftabRec t o.b.toNat) d f a) o s)

/-! ### Conversions (R212 to R217) -/

/-- The rounding and saturation that control F selects (R212). -/
def cvtControl (f : Nat) (rm : Rnd) (sat : Bool) (u : Nat) : Rnd × Bool :=
  match f with
  | 0 => (rm, sat)
  | 1 => (.rne, sat)
  | 2 => (.rz, sat)
  | 3 => (.rd, sat)
  | 4 => (.ru, sat)
  | 5 => (.rna, sat)
  | 6 => (.stoch u, sat)
  | _ => (.rne, true)

/-- What FPC gives a conversion: DAZ and FTZ by family. -/
structure CvtCtl where
  daz : Family → Bool
  ftz : Family → Bool

/-- The family of a format for DAZ and FTZ; TF19 belongs to FP32 (R58, R213). The narrow formats keep their
subnormals whatever is passed. -/
def famOf (f : Fmt) : Family :=
  if f == fmt64 then .f64 else if f == fmt16 then .f16 else if f == fmtB16 then .bf16 else .f32

/-- Source and destination of the float-to-float codes (R183). -/
def cvtFormats (code : Nat) : Fmt × Fmt :=
  match code with
  | 0x00 => (fmt32, fmt64)
  | 0x01 => (fmt64, fmt32)
  | 0x02 => (fmt32, fmt16)
  | 0x03 => (fmt16, fmt32)
  | 0x04 => (fmt32, fmtB16)
  | 0x05 => (fmtB16, fmt32)
  | 0x06 => (fmt32, fmtE4m3)
  | 0x07 => (fmtE4m3, fmt32)
  | 0x08 => (fmt32, fmtE5m2)
  | 0x09 => (fmtE5m2, fmt32)
  | 0x0A => (fmt32, fmtE2m1)
  | 0x0B => (fmtE2m1, fmt32)
  | 0x0C => (fmt32, fmtTf19)
  | 0x0D => (fmt64, fmt16)
  | 0x0E => (fmt64, fmtB16)
  | 0x0F => (fmt64, fmtE4m3)
  | 0x10 => (fmt64, fmtE5m2)
  | _ => (fmtTf19, fmt32)

/-- The exact widenings (R213). -/
def cvtWidens (code : Nat) : Bool := [0x00, 0x03, 0x05, 0x07, 0x09, 0x0B, 0x11].contains code

/-- The range of an integer format: INT32, UINT32, INT64, UINT64 (R43). -/
def intRange (k : Nat) : Int × Int :=
  match k with
  | 0 => (-(2 ^ 31), 2 ^ 31 - 1)
  | 1 => (0, 2 ^ 32 - 1)
  | 2 => (-(2 ^ 63), 2 ^ 63 - 1)
  | _ => (0, 2 ^ 64 - 1)

/-- Packs n elements of w bits, each clamped to a range (R216). -/
def packClamped (x lo hi : Int) (w : Nat) : Nat := wrapN (clampI x lo hi) w

def cvtPack (src : Nat) (n w : Nat) (lo hi : Int) : Nat :=
  (List.range n).foldl (fun acc k => acc + packClamped (sextN (src / 2 ^ (32 * k)) 32) lo hi w * 2 ^ (w * k)) 0

/-- The result of a conversion code from the joined source registers (R183, R213 to R216). -/
def cvtF (code : Nat) (r : Rnd) (sat : Bool) (c : CvtCtl) (x : Nat) : FR :=
  if code ≤ 0x11 then
    let (a, b) := cvtFormats code
    let narrow := !(a.kind == .ieee)
    convertF a b r sat (!narrow && c.daz (famOf a)) (c.ftz (famOf b)) (cvtWidens code) x
  else if code < 0x28 then
    let a := if code < 0x24 then fmt32 else fmt64
    let (lo, hi) := intRange (code % 4)
    let (v, fl) := toIntF r lo hi (a.readDaz (c.daz (famOf a)) x)
    ⟨wrapN v (if code % 4 < 2 then 32 else 64), fl⟩
  else if code < 0x30 then
    let b := if code < 0x2C then fmt32 else fmt64
    b.ofInt r (if code % 4 == 0 then sextN x 32 else if code % 4 == 1 then (x % 2 ^ 32 : Nat) else if code % 4 == 2 then sextN x 64 else (x % 2 ^ 64 : Nat))
  else if code == 0x30 then ⟨cvtPack x 4 8 (-128) 127, 0⟩
  else if code == 0x31 then ⟨cvtPack x 4 8 0 255, 0⟩
  else if code == 0x32 then ⟨cvtPack x 8 4 (-8) 7, 0⟩
  else ⟨cvtPack x 8 4 0 15, 0⟩

/-- CVT (R212 to R217). Control 6 draws once and advances RNGC. -/
def execCvt (f : BitVec 3) (o : RFmt) (s : State) : Out :=
  .next <|
    if s.active o.g then
      let code := o.b.toNat
      let (kd, ka) := (cvtShape code).getD (0, 0)
      let (r, sat) := cvtControl f.toNat s.rm s.sat s.draw
      let x := cvtF code r sat ⟨s.daz, s.ftz⟩ (s.srcs o.a (2 ^ ka))
      let s := s.fpResult .long o.d (2 ^ kd) x
      if f == 6 then s.advanceRng else s
    else s

end Sys2Proof.Machine
end

