-- ==== Sys2Proof/Machine/ThreadInstr.lean ====
section
/-! DEFINITION. The THRD words but the waits: width, migration, special registers, guard selection, time and draws
(R25, R40 to R42, R188, R240 to R245). -/

namespace Sys2Proof.Machine

/-! ### Width (R20, R25, R26, R241) -/

/-- The grant a team's request yields on its bay under the pressure cap of its last placement. -/
def State.wouldGrant (s : State) (t : Team) (req : Nat) : Nat := grantFor req (bayCap s t.bay) t.pcap

/-- Threads held for a re-slice go on (R25). -/
def Team.unhold (t : Team) : Team := { t with hold := none, threads := t.threads.map fun x => { x with held := false } }

/-- SETW (R241): the request replaces the last; a hold begins when it yields another grant (R25), and threads an older
request holds stay held for it, or go on where nothing is pending any longer (log entry 89). In a deterministic
launch it records nothing (R26). -/
def execSetw (o : EFmt) (s : State) : Out :=
  .next <|
    if s.active o.g && !s.det then
      let w := o.arg.toNat
      let new := s.wouldGrant s.tm w != s.tm.grant
      s.mapTm fun t =>
        let t := { t with widthReq := w, reqPending := new, setwBy := s.th.tid }
        if new then { t with hold := some s.cycle } else t.unhold
    else s

/-! ### Migration (R40 to R42) -/

/-- MIGR, MIGRH and resumption each take longer than 16 ns (R460). -/
def migrationNs : Nat := 17

/-- The threads of the issuing thread's cohort that have not exited, changed by one rule; the other threads of it pass the
word at which they stand when they issue it again. -/
def State.mapCohort (s : State) (f : Thread → Thread) (pass : Bool) : State :=
  let w := s.tm.grant
  let co := s.cohort
  let s := s.mapTm fun tm =>
    { tm with
      threads := tm.threads.map fun t =>
        if t.tid != s.th.tid && t.tid / w == co && t.status != .exited then
          let t := f t
          if pass then { t with conv := some [] } else t
        else t }
  s.mapTh f

/-- Steps 1 and 2 of R40: the cohort's long results are written and its stores released at device scope. -/
def State.migrateOut (s : State) : State := (s.mapCohort Thread.drain false).release 2

/-- The rest of R40 on a bay: the threads there, and device-scope acquire (steps 4 to 7). -/
def State.migrateIn (s : State) (bay : Nat) (away : Bool) : State :=
  let s := s.mapCohort (fun t => { t.drain with bay := bay, migrated := away }) true
  State.acquire { s with time := s.time + migrationNs } 2

/-- A cohort leaves a migration word for a bay (R40, R42). -/
def State.migrateCohort (s : State) (bay : Nat) (away : Bool) : State := s.migrateOut.migrateIn bay away

/-- No lane of the cohort takes part: every thread passes the word (R40). -/
def State.passCohort (s : State) : State := s.mapCohort id true

/-- A cohort-convergent word without register results: performed in the lowest-numbered active lane once every
non-exited thread of the cohort stands at it (R27, R40). -/
def cohortWord (s : State) (g : Bool) (k : State → State) : State :=
  match s.th.conv with
  | some _ => s.mapTh fun t => { t with conv := none }
  | none =>
    let ms := s.convMembers false
    if s.allStand ms then
      match (ms.filter fun t => t.guarded g).map (·.tid) with
      | [] => s.passCohort
      | i :: rest => if rest.foldl min i == s.th.tid then k s else s.block .convergent
    else s.block .convergent

/-- The bays of a die whose caps admit the team's grant. -/
def State.baysFor (s : State) (die : Nat) : List Nat := (baysOfDie s die).filter fun b => s.tm.grant ≤ bayCap s b

/-- A cohort whose steps 1 and 2 are done goes to a bay of a die, as soon as one has a free vestibule slot; until then
it stays blocked at the word. -/
def State.migrateTo (s : State) (die : Nat) : State :=
  match s.pick ((s.baysFor die).filter (vestibuleFree s)) with
  | some (b, s) => s.migrateIn b true
  | none => s.block (.migr (some die))

/-- MIGR (R40). -/
def execMigr (o : EFmt) (s : State) : Out :=
  .next <|
    match s.grp.view.status with
    | .blocked (.migr (some die)) => s.migrateTo die
    | _ =>
      cohortWord s o.g fun s =>
        let va := (s.srcPair o.a).toNat
        if !addrOk56 va then s.raise cRange va
        else
          match translate s s.accessor .load va with
          | (.ok l _, s) =>
            let die := leafHome l
            if die == s.th.bay / 96 || (s.baysFor die).isEmpty then s.migrateCohort s.th.bay s.th.migrated
            else s.migrateOut.migrateTo die
          | (r, s) => s.xstop r va .load

/-- MIGRH (R42): back to the return reservation on the team's bay. -/
def execMigrh (o : EFmt) (s : State) : Out :=
  .next <| cohortWord s o.g fun s => s.migrateCohort (if s.th.migrated then s.tm.bay else s.th.bay) false

/-! ### Special registers (R188, R242) -/

/-- The value a special register reads: the registers of the thread and of its team as they stood before the group (R176). -/
def State.sr (s : State) (n : Nat) : Nat :=
  let t := s.grp.view
  let tm := s.grp.team
  match n with
  | 0x00 => t.tid
  | 0x01 => tm.ref.team
  | 0x02 => tm.decl.dim
  | 0x03 => tm.ref.gid
  | 0x04 => tm.grant
  | 0x05 => s.lane
  | 0x06 => s.cohort
  | 0x07 => t.bay / 96
  | 0x08 => t.bay % 96
  | 0x09 => s.grid.depth
  | 0x10 => t.fpc.toNat
  | 0x11 => t.fps.toNat
  | 0x14 => ((tm.streams[0]?).map fun x => x.mxs.toNat).getD 0
  | 0x15 => ((tm.streams[1]?).map fun x => x.mxs.toNat).getD 0
  | 0x16 => ((tm.streams[2]?).map fun x => x.mxs.toNat).getD 0
  | 0x17 => ((tm.streams[3]?).map fun x => x.mxs.toNat).getD 0
  | 0x18 => t.rngk.toNat
  | 0x1A => t.rngc.toNat
  | 0x20 => tm.trapv.toNat
  | 0x22 => t.trapc.toNat
  | 0x24 => t.trapa.toNat
  | 0x26 => t.trappc.toNat
  | 0x28 => tm.ftb.toNat
  | 0x2A => t.timeout.toNat
  | 0x2B => tm.hstat.toNat
  | _ => 0

/-- RDSR (R242). -/
def execRdsr (o : EFmt) (s : State) : Out :=
  .next (if s.active o.g then s.puts o.d (if sr64.contains o.arg.toNat then 2 else 1) (s.sr o.arg.toNat) else s)

/-- The bits of HSTAT that are not reserved (R120). -/
def hstatMask : Word := 0x803FFF0F

/-- The bits of MXS (R103) and of TRAPC (R436) that are not reserved. -/
def mxsMask : Word := 0x000F1FFF
def trapcMask : Word := 0x0007FFFF

/-- A write of a special register marked rw in R188; reserved fields are ignored (R4). -/
def State.setSr (s : State) (n : Nat) (v : DWord) : State :=
  let w := v.setWidth 32
  match n with
  | 0x10 => s.mapTh fun t => { t with fpc := fpcWrite w }
  | 0x11 => s.mapTh fun t => { t with fps := w &&& 0x1F }
  | 0x18 => s.mapTh fun t => { t with rngk := v }
  | 0x1A => s.mapTh fun t => { t with rngc := w &&& 0xFFFFFF }
  | 0x20 => s.mapTm fun t => { t with trapv := v }
  | 0x26 => s.mapTh fun t => { t with trappc := v }
  | 0x2A => s.mapTh fun t => { t with timeout := w }
  | 0x2B => s.mapTm fun t => { t with hstat := w &&& hstatMask }
  | _ => s

/-- WRSR (R242). A register marked r is refused by the field checks (R184). -/
def execWrsr (o : EFmt) (s : State) : Out :=
  .next <|
    if s.active o.g then s.setSr o.arg.toNat (if sr64.contains o.arg.toNat then s.srcPair o.a else (s.src o.a).setWidth 64)
    else s

/-- GSEL (R243): never guarded. -/
def execGsel (o : EFmt) (s : State) : Out := .next (s.mapTh fun t => { t with gsel := o.a.toNat })

/-- The result of an RDTIME whose reply comes n ticks after its request, where the IOD has sampled c (R460); never below the
largest value the die has returned. -/
def timeResult (c n last : Nat) : Nat := max last (c + 5 * n)

/-- The IOD count as a die returns it when the reply comes: the ticks of the round trip are free, and the sample is the count half
of it ago, but for an error of at most 8 ns (R244). -/
def State.readTime (s : State) : Nat × State :=
  let die := s.th.bay / 96
  let last := ((s.iod.dies[die]?).map (·.lastTime)).getD 0
  let n := Config.roundTrip s.draws % (s.time / 5 + 1)
  let v := timeResult (s.time + Config.halfTrip s.draws % 9 - 5 * n) n last
  (v, { s with
    draws := s.draws + 1, iod := { s.iod with dies := updAt s.iod.dies die fun d => { d with lastTime := v, heard := s.time } } })

/-- RDTIME (R244). -/
def execRdtime (o : EFmt) (s : State) : Out :=
  .next <|
    if s.active o.g then
      match s.overLink false 0 with
      | .stop s => s
      | .go s =>
        let (v, s) := s.readTime
        s.pendTo o.d 2 v
    else s

/-- RAND (R245, R68). -/
def execRand (o : EFmt) (s : State) : Out :=
  .next (if s.active o.g then (s.pendTo o.d 1 s.draw).advanceRng else s)

end Sys2Proof.Machine
end

