-- ==== Sys2Proof/Machine/Wait.lean ====
section
/-! DEFINITION. WAITU, the latch tables of the home slices and their overflow region (R232 to R239, R375). -/

namespace Sys2Proof.Machine

/-- The address hash of R123, of a line. -/
def lineHash (ha : Nat) : Nat :=
  let pa := ha % podBase
  (bits pa 21 6 ^^^ bits pa 37 22) ^^^ bits pa 51 38

/-- What threads of one gang share to share an entry (R234). -/
def Latch.key (l : Latch) : Waiter × Nat × Nat × Nat × Bool × DWord :=
  ((match l.who with
    | .thread r => .thread ⟨r.team, 0⟩
    | .grid c g => .grid c g), l.gang, l.pa, l.cc, l.wide, l.operand)

/-- Entries that stand at a place and satisfy a test, shared ones counted once. -/
def entryCount (ms : MemSys) (f : Latch → Bool) : Nat := ((ms.latches.filter f).map Latch.key).eraseDups.length

/-- Where a new entry goes (R237): the slice's table of 64, else its bucket of the overflow region, else the bay. -/
def latchPlace (s : State) (l : Latch) : LatchAt :=
  let shared := s.ms.latches.find? fun x => x.key == l.key
  match shared with
  | some x => x.place
  | none =>
    if entryCount s.ms (fun x => x.place == .table && x.slice == l.slice) < 64 then .table
    else
      let bucket := fun (ha : Nat) => lineHash ha % 2 ^ s.iod.lovs
      if s.iod.lovb != 0 && entryCount s.ms (fun x => x.place == .overflow && bucket x.pa == bucket l.pa) < 63 then .overflow
      else .bay

/-- The entry of a thread, if it holds one. -/
def State.myLatch (s : State) : Option Latch := s.ms.latches.find? fun l => l.who == .thread s.self

/-- Removes the entry of a thread. -/
def State.dropLatch (s : State) (r : ThreadRef) : State :=
  s.mapMs fun ms => { ms with latches := ms.latches.filter fun l => l.who != .thread r }

/-- A wait ends (R233): satisfied, with a device-scope acquire; expired; or expired with the wait-timeout trap. -/
def waitEnds (o : EFmt) (s : State) (sat : Bool) : State :=
  if sat then (s.acquire 2).pend [.pred o.d.toNat true]
  else if o.arg.getLsbD 2 then s.raise cTimeout (s.srcPair o.a).toNat
  else s.pend [.pred o.d.toNat false]

/-- A new entry is held at its place; in the overflow region its line's tag gains the spill bit (R237). -/
def State.register (s : State) (l : Latch) : State :=
  s.mapMs fun ms =>
    { ms with
      latches := ms.latches ++ [l]
      spill := if l.place == .overflow && !ms.spill.contains (l.pa / 64) then ms.spill ++ [l.pa / 64] else ms.spill }

/-- The spill bits of lines of which no entry is left anywhere are cleared (R237). -/
def settleSpill (ms : MemSys) : MemSys :=
  { ms with spill := ms.spill.filter fun ln => ms.latches.any fun l => l.pa / 64 == ln && l.outcome.isNone }

/-- The check and registration of R233 on a checked address: one act with respect to every write to the line. A pod-tier
line's value is that of its peer (R239). -/
def waitStarts (o : EFmt) (s : State) (ha leaf : Nat) : State :=
  let wide := o.arg.getLsbD 3
  let n := if wide then 8 else 4
  let cc := o.arg.toNat / 16
  let x : DWord := BitVec.ofNat 64 (s.srcs (o.a + 2) (n / 4))
  let own := s.det && leafDT leaf
  let s := s.podTake 3 ha n
  match (if own then s.viewLoad (leafHome leaf) ha n else some (homeRead s.ms ha n, s)) with
  | none => s.logTrap (s.srcPair o.a).toNat
  | some (bs, s) =>
    if latchCond cc wide (ofBytes bs) x.toNat then waitEnds o s true
    else
      let v4 := (s.src (o.a + 4)).toNat
      let d := if v4 == 0 then s.grp.view.timeout.toNat else v4
      let l : Latch :=
        { who := .thread s.self, cohort := s.cohort, gang := s.th.gang, slice := homeSlice (leafHome leaf) ha, pa := ha,
          cc := cc, wide := wide, operand := x, deadline := if d == 0 then none else some (s.time + d), place := .table,
          ownView := own, lapsed := false, reread := s.time, outcome := none }
      (s.register { l with place := if isPod ha then .peer else latchPlace s l }).block .waitu

/-- WAITU (R232, R233). -/
def execWaitu (o : EFmt) (s : State) : Out :=
  .next <|
    if s.active o.g then
      match s.myLatch with
      | some l =>
        match l.outcome with
        | some b => waitEnds o (s.dropLatch s.self) b
        | none => s.block .waitu
      | none =>
        let n := if o.arg.getLsbD 3 then 8 else 4
        match s.checkGlobal (s.srcPair o.a).toNat n .load 3 with
        | .stop s => s
        | .ok ha leaf s =>
          if s.ms.lost (ha / 16) then s.dataError ha else waitStarts o s ha leaf
    else s

/-- Changes the latch entry of a thread. -/
def State.mapLatch (s : State) (r : ThreadRef) (f : Latch → Latch) : State :=
  s.mapMs fun ms => { ms with latches := ms.latches.map fun l => if l.who == .thread r then f l else l }

/-- A deadline passes (R236): the thread is removed from its entry, its wait not satisfied. The outcome is kept for
the thread, resident or not (R238, R454). What is written at the same instant is judged first: the removal counts when time
has moved on. -/
def execWaituExpiry (r : ThreadRef) (s : State) : Out :=
  .next <|
    s.mapLatch r fun l =>
      match l.deadline with
      | some d => if l.outcome.isNone && d ≤ s.time then { l with lapsed := true } else l
      | none => l

/-- What becomes of an entry when time moves on to an instant: a removal of the instant gone by counts, and one is made of a
wait whose deadline would lie more than 1 µs back (R236). -/
def Latch.expire (l : Latch) (now : Nat) : Latch :=
  if l.outcome.isSome then l
  else
    match l.deadline with
    | some d => if l.lapsed || d + 1000 < now then { l with outcome := some false } else l
    | none => l

/-- The line of an entry is read again. -/
def Latch.read (l : Latch) (ms : MemSys) (now : Nat) : Latch :=
  if l.outcome.isNone && !l.ownView then
    { l with reread := now, outcome := if latchHolds ms l then some true else none }
  else l

/-- The home slice obtains a host-tier line anew (R239): a clean copy it keeps goes. -/
def dropHostLine (line : Nat) (ms : MemSys) : MemSys :=
  if isHost (64 * line) then { ms with l2 := ms.l2.filter fun p => p.dirty || p.sec / 4 != line } else ms

/-- The bay that re-reads the line of an entry for a thread; none for the front end. -/
def State.waiterBay (s : State) (who : Waiter) : Option Nat :=
  match who with
  | .thread r => s.teams.findSome? fun t => if t.ref == r.team then (t.threads.find? fun x => x.tid == r.tid).map (·.bay) else none
  | .grid _ _ => none

/-- The re-read of the line of an entry held by the issuing bay (R237): a device-scope acquire of that bay. -/
def bayReread (who : Waiter) (s : State) : State :=
  match s.ms.latches.find? fun l => l.who == who && l.place == .bay && l.outcome.isNone with
  | none => s
  | some x =>
    let s := match s.waiterBay who with | some b => s.mapMs fun ms => acquireCaches ms b 2 | none => s
    let s := s.mapMs (dropHostLine (x.pa / 64))
    s.mapMs fun ms => { ms with latches := ms.latches.map fun l => if l.who == who && l.place == .bay then l.read ms s.time else l }

/-- LATCH_BAY_REREAD. -/
def execLatchBayReread (r : ThreadRef) (s : State) : Out := .next (bayReread (.thread r) s)

/-- The home slice reads a host-tier line from the host again while an entry for it is held (R239). -/
def hostReread (line : Nat) (s : State) : State :=
  if isHost (64 * line) then
    s.mapMs fun ms =>
      let ms := dropHostLine line ms
      { ms with latches := ms.latches.map fun l => if l.pa / 64 == line && (l.place == .table || l.place == .overflow) then l.read ms s.time else l }
  else s

/-- HOST_LINE_REREAD. -/
def execHostLineReread (line : Nat) (s : State) : Out := .next (hostReread line s)

/-- The re-reads due when time moves on: every entry that the rules have read again at least once per microsecond (R237,
R239) and that would not have been for longer. -/
def rereadsDue (now : Nat) (s : State) : State :=
  (s.ms.latches.filter fun l => l.outcome.isNone && l.reread + 1000 < now).foldl
    (fun s l =>
      if l.place == .bay then bayReread l.who s
      else if isHost l.pa && l.place != .peer then hostReread (l.pa / 64) s
      else s) s

/-- What the latch entries do as time moves on to an instant. -/
def latchTime (now : Nat) (s : State) : State :=
  if now == s.time then s.mapMs settleSpill
  else (rereadsDue now s).mapMs fun ms => settleSpill { ms with latches := ms.latches.map fun l => l.expire now }

end Sys2Proof.Machine
end

