-- ==== Sys2Proof/Machine/Image.lean ====
section
/-! DEFINITION. Reads and writes of the I/O die and the engines at home slices, and the memory image of a team (R376
to R383). -/

namespace Sys2Proof.Machine

/-! ### Writes longer than a sector -/

def homeWriteGo (ms : MemSys) (ha : Nat) (bs : List Byte) : Nat → MemSys
  | 0 => ms
  | k + 1 =>
    if bs.isEmpty then ms
    else
      let n := 16 - ha % 16
      homeWriteGo (homeWrite ms ha (bs.take n)) (ha + n) (bs.drop n) k

/-- Writes bytes at their home slices, sector by sector. -/
def homeWriteAll (ms : MemSys) (ha : Nat) (bs : List Byte) : MemSys := homeWriteGo ms ha bs (bs.length / 16 + 2)

/-- Writes bytes of the device's own with a system-scope release (R442, R468). -/
def sysWrite (ms : MemSys) (ha : Nat) (bs : List Byte) : MemSys := toHost (homeWriteAll ms ha bs) ha bs.length

/-- Adds n to a word at its home slice (the adds of R286, R400). -/
def homeAdd (ms : MemSys) (ha n k : Nat) : MemSys := homeWriteAll ms ha (toBytes n ((homeNat ms ha n + k) % 256 ^ n))

/-! ### Layout (R378, R379) -/

/-- Offsets of the twelve regions of an image, in the header's order. -/
structure ImageMap where
  handles : Nat
  threads : Nat
  preds : Nat
  regs : Nat
  phasers : Nat
  walks : Nat
  queues : Nat
  ftab : Nat
  stores : List Nat
  deriving DecidableEq, Repr

/-- Lines of one register of the team: ⌈T/16⌉. -/
def regLines (dim : Nat) : Nat := ceilDiv dim 16

def imageMap (d : Decl) : ImageMap :=
  let t := d.dim
  let handles := 512
  let threads := handles + 1024
  let preds := threads + 64 * t
  let regs := preds + roundUp (8 * t) 64
  let phasers := regs + 64 * 64 * regLines t
  let walks := phasers + 256 * t
  let queues := walks + 128 * t
  let ftab := queues + 4096
  let l := roundUp (ftab + 4096) 4096
  let a := l + roundUp d.lstore 4096
  let w := a + roundUp d.astore 4096
  ⟨handles, threads, preds, regs, phasers, walks, queues, ftab, [l, a, w, w + roundUp d.wstore 4096]⟩

/-- Bytes of an image. -/
def imageSize (d : Decl) : Nat := nth (imageMap d).stores 3 0 + roundUp d.cstore 4096

/-- Offset of vn of thread t in the register region. -/
def regOffset (dim n t : Nat) : Nat := 64 * (n * regLines dim + t / 16) + 4 * (t % 16)

def hcode : HState → Nat
  | .free => 0
  | .filling => 1
  | .full => 2
  | .draining => 3

def hstateOf (n : Nat) : HState :=
  match n with
  | 0 => .free
  | 1 => .filling
  | 2 => .full
  | _ => .draining

/-- STATUS (R380): a wait without a code of its own is saved within the segment, to be issued again. -/
def statusCode (s : Status) : Nat × Nat :=
  match s with
  | .boundary => (0, 0)
  | .within => (1, 0)
  | .blocked (.phaser _ _) => (2, 1)
  | .blocked .handle => (2, 2)
  | .blocked .waitu => (2, 3)
  | .blocked .stream => (2, 4)
  | .blocked .childGrid => (2, 5)
  | .blocked .convergent | .blocked .teamConv => (2, 6)
  | .blocked (.migr _) => (2, 7)
  | .blocked _ => (1, 0)
  | .parked _ _ | .aside _ => (3, 0)
  | .exited => (4, 0)

/-- A saved STATUS and BLOCK as a thread resumes them; what the image does not hold is kept. -/
def statusOf (old : Status) (pc st bl : Nat) : Status :=
  if statusCode old == (st, bl) then old
  else
    match st, bl with
    | 0, _ => .boundary
    | 1, _ => .within
    | 2, 1 => .blocked (.phaser 0 false)
    | 2, 2 => .blocked .handle
    | 2, 3 => .blocked .waitu
    | 2, 4 => .blocked .stream
    | 2, 5 => .blocked .childGrid
    | 2, 6 => .blocked .convergent
    | 2, 7 => .blocked (.migr none)
    | 3, _ => .parked pc 3
    | 4, _ => .exited
    | _, _ => .within

/-- A thread record (R380). -/
def threadRecord (t : Thread) : List Byte :=
  let (st, bl) := statusCode t.status
  toBytes 8 t.pc.toNat ++ toBytes 1 t.gsel ++ toBytes 1 (st + if t.migrated then 8 else 0) ++ toBytes 1 bl ++ toBytes 1 0 ++
    toBytes 4 t.fpc.toNat ++ toBytes 4 t.fps.toNat ++ toBytes 4 t.rngc.toNat ++ toBytes 8 t.rngk.toNat ++
    toBytes 4 t.timeout.toNat ++ toBytes 4 t.trapc.toNat ++ toBytes 8 t.trapa.toNat ++ toBytes 8 t.trappc.toNat ++ toBytes 8 0

def predBits : List Bool → Nat
  | [] => 0
  | b :: t => (if b then 1 else 0) + 2 * predBits t

/-- A phaser record: 28 counts pairs, then the roles, bit 0 signaller and bit 1 waiter. -/
def phaserRecord (t : Thread) : List Byte :=
  let rs := (List.range 28).map fun i => t.phRec i
  (rs.flatMap fun r => toBytes 4 r.arr.toNat ++ toBytes 4 r.wai.toNat) ++
    toBytes 7 (predBits (rs.flatMap fun r => [r.sig, r.wait])) ++ toBytes 25 0

def walkRecord (t : Thread) : List Byte :=
  match t.walk with
  | none => toBytes 128 0
  | some w =>
    w.blk ++ w.desc ++ toBytes 4 w.area ++ toBytes 1 w.depth ++ toBytes 1 (1 + if w.failed then 2 else 0) ++ toBytes 2 0 ++
      toBytes 4 w.tmax.toNat ++ ((List.range 4).flatMap fun i => toBytes 4 (nth w.vals i 0).toNat) ++ toBytes 4 w.status.toNat

def handleRecord (h : Handle) : List Byte :=
  toBytes 8 h.region.toNat ++ toBytes 4 h.len.toNat ++ toBytes 1 (hcode h.st) ++ toBytes 3 0

def queueSlot (j : MxJob) : List Byte := j.blk ++ toBytes 4 j.tick.toNat ++ toBytes 60 0

/-- STATE of a team (R378). -/
def teamCode : TeamState → Nat
  | .running => 0
  | .shuttered => 1
  | .saved => 2
  | .retired => 3

/-- Cards of the ring that have started, in the order of the ring: the count the header holds (R451). -/
def Ring.startedCount (r : Ring) : Nat :=
  (r.accepted.toNat + 2 ^ 32 - (r.cards.filter fun c => c.phase == .waiting).length - r.again.length) % 2 ^ 32

/-- The team header (R378); `first` marks the team that holds its group's counts. -/
def headerBytes (s : State) (t : Team) (st : TeamState) : List Byte :=
  let m := imageMap t.decl
  let g := s.gridOf t.ref.ctx t.ref.gid
  let size := if g.group == 0 then 1 else g.group
  let cph := if t.ref.team % size == 0 then g.cph.getD (t.ref.team / size) [] else []
  let gph := if t.ref.team == 0 then g.gph else []
  toBytes 4 t.ref.team ++ toBytes 4 t.ref.gid ++ toBytes 2 t.decl.dim ++ toBytes 1 t.grant ++ toBytes 1 t.widthReq ++
    toBytes 1 (teamCode st) ++
    toBytes 1 ((if t.decl.det != 0 then 1 else 0) + if t.threads.any (fun x => x.migrated && x.status != .exited) then 2 else 0) ++ toBytes 2 0 ++
    ((List.range 4).flatMap fun i => toBytes 4 (((t.streams[i]?).map fun x => x.mxs.toNat).getD 0)) ++
    toBytes 4 t.hstat.toNat ++ toBytes 4 0 ++ toBytes 8 t.trapv.toNat ++ toBytes 8 t.ftb.toNat ++ toBytes 8 0 ++
    ((List.range 16).flatMap fun i => toBytes 4 (nth t.tph i 0).toNat) ++
    ((List.range 8).flatMap fun i => toBytes 4 (nth cph i 0).toNat) ++
    ((List.range 4).flatMap fun i => toBytes 4 (nth gph i 0).toNat) ++
    toBytes 4 t.ring.startedCount ++ toBytes 1 (if t.ring.stopped then 1 else 0) ++ toBytes 3 0 ++
    ((List.range 4).flatMap fun i => toBytes 4 (((t.streams[i]?).map fun x => x.tick.toNat).getD 0)) ++ toBytes 56 0 ++
    (([m.handles, m.threads, m.preds, m.regs, m.phasers, m.walks, m.queues, m.ftab] ++ m.stores).flatMap fun o => toBytes 8 o) ++
    toBytes 160 0

/-! ### Writing and loading -/

def pieceList (base step : Nat) : List (List Byte) → List (Nat × List Byte)
  | [] => []
  | b :: t => (base, b) :: pieceList (base + step) step t

/-- The 64 bytes of a line of predicates, eight threads; of one of registers, sixteen threads. Places of threads that are none
hold zero. -/
def predLine (t : Team) (i : Nat) : List Byte :=
  (rangeFrom (8 * i) 8).flatMap fun k => toBytes 8 (match t.threads.find? fun x => x.tid == k with | some x => predBits x.preds | none => 0)

def regLine (t : Team) (n i : Nat) : List Byte :=
  (rangeFrom (16 * i) 16).flatMap fun k => toBytes 4 (match t.threads.find? fun x => x.tid == k with | some x => (x.reg n).toNat | none => 0)

/-- What saving writes: every region but registers and typed stores (R450 step 6). -/
def savePieces (t : Team) : List (Nat × List Byte) :=
  let m := imageMap t.decl
  pieceList m.handles 16 (t.handles.map handleRecord) ++
    (t.threads.flatMap fun x =>
      [(m.threads + 64 * x.tid, threadRecord x), (m.phasers + 256 * x.tid, phaserRecord x), (m.walks + 128 * x.tid, walkRecord x)]) ++
    ((List.range (ceilDiv t.decl.dim 8)).map fun i => (m.preds + 64 * i, predLine t i)) ++
    ((List.range 4).flatMap fun i =>
      match t.streams[i]? with
      | some st => pieceList (m.queues + 1024 * i) 128 (st.queue.map queueSlot)
      | none => []) ++
    pieceList m.ftab 64 (t.ftab.map FRec.toBytes)

/-- The typed store with a contents, and its declared size. -/
def Team.storeOf (t : Team) (i : Nat) : Memory × Nat :=
  match i with
  | 0 => (t.lst, t.decl.lstore)
  | 1 => (t.ast, t.decl.astore)
  | 2 => (t.wst, t.decl.wstore)
  | _ => (t.cst, t.decl.cstore)

/-- What a bay may hold of an image apart from its own state (R381): a line of predicates or of a register, or a unit of a
typed store. -/
inductive ImageLine where
  | preds (i : Nat)
  | regs (n i : Nat)
  | unit (store i : Nat)
  deriving DecidableEq, Repr

/-- The line or unit at an offset in units of 64 bytes. -/
def imageLine (d : Decl) (key : Nat) : Option ImageLine :=
  let m := imageMap d
  let o := 64 * key
  if m.preds ≤ o && o < m.regs then some (.preds ((o - m.preds) / 64))
  else if m.regs ≤ o && o < m.phasers then some (.regs ((o - m.regs) / 64 / regLines d.dim) ((o - m.regs) / 64 % regLines d.dim))
  else
    ((m.stores.zip [d.lstore, d.astore, d.wstore, d.cstore]).zipIdx.find? fun p => p.1.1 ≤ o && o < p.1.1 + p.1.2).map fun p =>
      .unit p.2 ((o - p.1.1) / 4096)

/-- Its offset in the image, and its bytes as the bay holds them. -/
def Team.lineBytes (t : Team) (l : ImageLine) : Nat × List Byte :=
  let m := imageMap t.decl
  match l with
  | .preds i => (m.preds + 64 * i, predLine t i)
  | .regs n i => (m.regs + 64 * (n * regLines t.decl.dim + i), regLine t n i)
  | .unit sp i => (nth m.stores sp 0 + 4096 * i, (t.storeOf sp).1.read (4096 * i) (min 4096 ((t.storeOf sp).2 - 4096 * i)))

/-- Every predicate line, register line and typed-store unit of a team (R381). -/
def Team.lines (t : Team) : List ImageLine :=
  ((List.range (ceilDiv t.decl.dim 8)).map ImageLine.preds) ++ ((List.range 64).flatMap fun n => (List.range (regLines t.decl.dim)).map fun i => ImageLine.regs n i) ++
    ((List.range 4).flatMap fun sp => (List.range (ceilDiv (t.storeOf sp).2 4096)).map fun i => ImageLine.unit sp i)

/-- The offset of a line in units of 64 bytes. -/
def Team.lineKey (t : Team) (l : ImageLine) : Nat := (t.lineBytes l).1 / 64

def writePieces (ms : MemSys) (base : Nat) (ps : List (Nat × List Byte)) : MemSys :=
  ps.foldl (fun ms p => homeWriteAll ms (base + p.1) p.2) ms

/-- A memory from bytes at offset 0. -/
def Memory.ofBytes (bs : List Byte) : Memory := (⟨[]⟩ : Memory).write 0 bs

def bitsOf (v : Nat) : Nat → List Bool
  | 0 => []
  | k + 1 => (v % 2 == 1) :: bitsOf (v / 2) k

/-- A thread as its records in the image give it. -/
def loadThread (m : ImageMap) (rd : Nat → Nat → List Byte) (x : Thread) : Thread :=
  let r := rd (m.threads + 64 * x.tid) 64
  let p := rd (m.phasers + 256 * x.tid) 256
  let w := rd (m.walks + 128 * x.tid) 128
  let pr := ofBytes (rd (m.preds + 8 * x.tid) 8)
  { x with
    pc := BitVec.ofNat 64 (field r 0 8)
    gsel := field r 8 1 % 64
    status := statusOf x.status (field r 0 8) (field r 9 1 % 8) (field r 10 1)
    migrated := bitAt (field r 9 1) 3
    fpc := fpcWrite (BitVec.ofNat 32 (field r 12 4))
    fps := BitVec.ofNat 32 (field r 16 4) &&& 0x1F
    rngc := BitVec.ofNat 32 (field r 20 4) &&& 0xFFFFFF
    rngk := BitVec.ofNat 64 (field r 24 8)
    timeout := BitVec.ofNat 32 (field r 32 4)
    trapc := BitVec.ofNat 32 (field r 36 4) &&& trapcMask
    trapa := BitVec.ofNat 64 (field r 40 8)
    trappc := BitVec.ofNat 64 (field r 48 8)
    preds := true :: (bitsOf pr 48).drop 1
    ph := (List.range 28).map fun i =>
      let roles := field p 224 7 / 4 ^ i
      ⟨roles % 2 == 1, roles / 2 % 2 == 1, BitVec.ofNat 32 (field p (8 * i) 4), BitVec.ofNat 32 (field p (8 * i + 4) 4)⟩
    walk :=
      if field w 101 1 % 2 == 1 then
        some ⟨w.take 64, (w.drop 64).take 32, field w 96 4, field w 100 1, BitVec.ofNat 32 (field w 104 4),
          (List.range 4).map fun i => BitVec.ofNat 32 (field w (108 + 4 * i) 4), BitVec.ofNat 32 (field w 124 4),
          bitAt (field w 101 1) 1⟩
      else none }

/-- A line or unit as the image gives it. -/
def loadLine (rd : Nat → Nat → List Byte) (t : Team) (l : ImageLine) : Team :=
  let (o, old) := t.lineBytes l
  let bs := rd o old.length
  match l with
  | .preds i =>
    { t with threads := t.threads.map fun x => if x.tid / 8 == i then { x with preds := true :: (bitsOf (field bs (8 * (x.tid % 8)) 8) 48).drop 1 } else x }
  | .regs n i =>
    { t with threads := t.threads.map fun x => if x.tid / 16 == i then x.setReg n (BitVec.ofNat 32 (field bs (4 * (x.tid % 16)) 4)) else x }
  | .unit sp i =>
    match sp with
    | 0 => { t with lst := t.lst.write (4096 * i) bs }
    | 1 => { t with ast := t.ast.write (4096 * i) bs }
    | 2 => { t with wst := t.wst.write (4096 * i) bs }
    | _ => { t with cst := t.cst.write (4096 * i) bs }

/-- The lines a bay does not hold are filled from the image (R381). -/
def fillAway (ms : MemSys) (t : Team) : Team :=
  if t.away.isEmpty then t
  else
    { (t.away.filterMap (imageLine t.decl)).foldl (loadLine fun o n => homeRead ms (t.image + o) n) t with away := [] }

/-- A line is written back to the image; it may be dropped (R381, R383). -/
def evictLine (s : State) (t : Team) (l : ImageLine) (drop : Bool) : State :=
  let (o, bs) := t.lineBytes l
  if t.away.contains (o / 64) || t.image == 0 then s
  else
    { s with
      ms := writePieces s.ms t.image [(o, bs)]
      teams := s.teams.map fun x => if x.ref == t.ref && drop then { x with away := o / 64 :: x.away } else x }

/-- A stream as the header and the stream-queue region give it. -/
def loadStream (m : ImageMap) (rd : Nat → Nat → List Byte) (hd : List Byte) (p : Stream × Nat) : Stream :=
  let job := fun (q : MxJob × Nat) =>
    let r := rd (m.queues + 1024 * p.2 + 128 * q.2) 68
    { q.1 with blk := r.take 64, tick := BitVec.ofNat 32 (field r 64 4) }
  { p.1 with
    mxs := BitVec.ofNat 32 (field hd (16 + 4 * p.2) 4) &&& mxsMask
    tick := BitVec.ofNat 32 (field hd (184 + 4 * p.2) 4)
    queue := p.1.queue.zipIdx.map job }

/-- A handle as its entry gives it. -/
def loadHandle (m : ImageMap) (rd : Nat → Nat → List Byte) (p : Handle × Nat) : Handle :=
  let r := rd (m.handles + 16 * p.2) 16
  { p.1 with region := BitVec.ofNat 64 (field r 0 8), len := BitVec.ofNat 32 (field r 8 4), st := hstateOf (field r 12 1 % 4) }

/-- A team as its image gives it (R453 step 3); lines still held by a bay are not read from memory. -/
def loadTeam (ms : MemSys) (t : Team) : Team :=
  if t.image == 0 then t
  else
    let rd := fun o n => homeRead ms (t.image + o) n
    let m := imageMap t.decl
    let hd := rd 0 512
    let t :=
      { t with
        grant := field hd 10 1
        widthReq := field hd 11 1
        hstat := BitVec.ofNat 32 (field hd 32 4) &&& hstatMask
        trapv := BitVec.ofNat 64 (field hd 40 8)
        ftb := BitVec.ofNat 64 (field hd 48 8)
        tph := (List.range 16).map fun i => BitVec.ofNat 32 (field hd (64 + 4 * i) 4)
        ring := { t.ring with accepted := BitVec.ofNat 32 (field hd 176 4 + t.ring.again.length), stopped := bitAt (field hd 180 1) 0 }
        streams := t.streams.zipIdx.map (loadStream m rd hd)
        handles := t.handles.zipIdx.map (loadHandle m rd)
        ftab := (List.range 64).map fun k => FRec.ofBytes (rd (m.ftab + 64 * k) 64)
        threads := t.threads.map (loadThread m rd) }
    fillAway ms t

/-- The counts of cluster and grid phasers as the image of the lowest-numbered team of the group, or of the grid, holds them:
loaded with it where no other team that has a part in them is placed (R378, R381). -/
def loadPhasers (s : State) (t : Team) : State :=
  let g := s.gridOf t.ref.ctx t.ref.gid
  let size := if g.group == 0 then 1 else g.group
  let rd := fun (o : Nat) => BitVec.ofNat 32 (ofBytes (homeRead s.ms (t.image + o) 4))
  let others := s.teams.filter fun x =>
    x.ref.ctx == t.ref.ctx && x.ref.gid == t.ref.gid && x.ref != t.ref && (x.st == .running || x.st == .shuttered)
  if t.image == 0 then s
  else
    let s :=
      if t.ref.team % size == 0 && g.decl.cphasers != 0 && !(others.any fun x => x.ref.team / size == t.ref.team / size) then
        s.setGrid { g with cph := updAt g.cph (t.ref.team / size) fun l => (List.range l.length).map fun i => rd (128 + 4 * i) }
      else s
    if t.ref.team == 0 && others.isEmpty then
      let g := s.gridOf t.ref.ctx t.ref.gid
      s.setGrid { g with gph := (List.range 4).map fun i => rd (160 + 4 * i) }
    else s

/-- The counts of cluster and grid phasers in the images that hold them, after a team that has a part in them is saved. -/
def savePhasers (s : State) (r : TeamRef) : State :=
  let g := s.gridOf r.ctx r.gid
  let size := if g.group == 0 then 1 else g.group
  let holders := s.teams.filter fun x =>
    x.ref.ctx == r.ctx && x.ref.gid == r.gid && x.st == .saved && x.image != 0 && (x.ref.team == r.team / size * size || x.ref.team == 0)
  s.mapMs fun ms => holders.foldl (fun ms x => homeWriteAll ms (x.image + 128) (((headerBytes s x x.st).drop 128).take 48)) ms

end Sys2Proof.Machine
end

