-- ==== Sys2Proof/Machine/Handles.lean ====
section
/-! DEFINITION. Handles: their transitions, HSTAT, and the words HSET, HWAIT and HQ (R110, R112, R116 to R120, R270 to
R272). -/

namespace Sys2Proof.Machine

/-! ### Region words (R110) -/

/-- STORE bit, SPACE and OFFSET of a region word. -/
def regionIsStore (r : DWord) : Bool := r.getLsbD 63
def regionSpace (r : DWord) : Nat := bits r.toNat 62 60
def regionOffset (r : DWord) : Nat := bits r.toNat 31 0

/-- A region word that R110 and R106 admit: a store below 4 and no reserved bit, or a 56-bit global address. -/
def regionOk (r : DWord) : Bool :=
  if regionIsStore r then regionSpace r < 4 && bits r.toNat 59 32 == 0 else bits r.toNat 62 56 == 0

/-- A typed-store region lies within the team's allocation (R112); a global region always does. -/
def Team.regionFits (t : Team) (r : DWord) (len : Nat) : Bool :=
  !regionIsStore r || regionOffset r + len ≤ t.storeSize (regionSpace r)

/-! ### State changes -/

def Team.handle (t : Team) (h : Nat) : Handle := nth t.handles h ⟨0, 0, .free, 0⟩

/-- The state a handle counts as: full while a reader without release is in progress (R117). -/
def Handle.counts (x : Handle) : HState := if x.readers > 0 then .full else x.st

/-- A waiting HSET whose handle is in the state it waits for (R117): to free only once no reader holds it. -/
def HWait.due (w : HWait) (x : Handle) (h : Nat) : Bool :=
  w.h == h && w.sets.isSome && !w.done && x.counts == w.st && (w.st != .full || x.readers == 0)

/-- A handle is in a state: every HWAIT for that state completes (R272), and the HSET that has waited longest for it makes
its transition, which may complete others in turn. Another HSET that waits for the same state waits on: DESIGN CHOICE (log entry 128). -/
def Team.handleIn (h : Nat) : Nat → Team → Team
  | 0, t => t
  | fuel + 1, t =>
    let x := t.handle h
    let t := { t with hwaits := t.hwaits.map fun (w : HWait) => if w.h == h && w.sets.isNone && w.st == x.st then { w with done := true } else w }
    match t.hwaits.find? fun w => w.due x h with
    | none => t
    | some w =>
      Team.handleIn h fuel { t with
        handles := updAt t.handles h fun y => { y with st := w.sets.getD y.st }
        hwaits := t.hwaits.map fun (v : HWait) => if v.tid == w.tid then { v with done := true } else v }

/-- Puts a handle into a state. -/
def Team.enterHandle (t : Team) (h : Nat) (st : HState) : Team :=
  Team.handleIn h (t.hwaits.length + 1) { t with handles := updAt t.handles h fun x => { x with st := st } }

/-- Whether an engine's start is admitted (R117). -/
def Team.admitsStart (t : Team) (h : Nat) (writing : Bool) : Bool :=
  (t.handle h).counts == if writing then .free else .full

/-- The start transition: a writer fills, a releasing reader drains, another reader holds it full. -/
def Team.startHandle (t : Team) (h : Nat) (writing release : Bool) : Team :=
  if writing then t.enterHandle h .filling
  else if release then t.enterHandle h .draining
  else { t with handles := updAt t.handles h fun x => { x with readers := x.readers + 1 } }

/-- The reads of a reading engine are complete. -/
def Team.readsDoneHandle (t : Team) (h : Nat) (release : Bool) : Team :=
  if release then t.enterHandle h .free
  else Team.handleIn h (t.hwaits.length + 1) { t with handles := updAt t.handles h fun x => { x with readers := x.readers - 1 } }

/-! ### HSTAT (R120) -/

/-- HSTAT after a handle-state trap or handle-range fault. -/
def hstatAfter (old : Word) (h want seen : Nat) : Word :=
  let cnt := bits old.toNat 15 8
  BitVec.ofNat 32 (2 ^ 31 + h % 64 * 65536 + (if cnt == 255 then 255 else cnt + 1) * 256 + want % 4 * 4 + seen % 4)

/-- The handle-state trap. -/
def State.handleTrap (s : State) (h : Nat) (want : HState) : State :=
  let seen := hcode (s.tm.handle h).counts
  (s.mapTm fun t => { t with hstat := hstatAfter t.hstat h (hcode want) seen }).raise cHandleState 0

/-- The handle-range fault at a word (R116, R120). -/
def State.handleRange (s : State) (h : Nat) (want : Option HState) : State :=
  let key := 2 * (((s.tm.ref.team * 1024 + s.th.tid) * 2 ^ 64 + s.wordPc) * 64 + h)
  let w := match want with | some x => hcode x | none => Config.handleField (s.openKey key)
  let s := { s with draws := s.draws + 1 }
  let seen := Config.handleField (s.openKey (key + 1))
  let s := { s with draws := s.draws + 1 }
  (s.mapTm fun t => { t with hstat := hstatAfter t.hstat h w seen }).raise cHandleRange 0

/-- The checks every handle word makes: migration (R270), then the handle number (R116). -/
def handleWord (o : EFmt) (s : State) (want : Option HState) (k : Nat → State → State) : State :=
  if s.active o.g then
    let h := o.arg.toNat % 64
    if s.th.migrated then s.raise cMigrated 0
    else if h ≥ s.tm.decl.handles then s.handleRange h want
    else k h s
  else s

/-! ### The words -/

/-- HSET.bind (R271). -/
def execHsetBind (o : EFmt) (s : State) : Out :=
  .next <|
    handleWord o s (some .free) fun h s =>
      let r := s.srcPair o.a
      let len := s.src (o.a + 2)
      if (s.tm.handle h).counts != .free then s.handleTrap h .free
      else if !regionOk r then s.raise cRange r.toNat
      else if !s.tm.regionFits r len.toNat then s.raise cBounds (regionOffset r)
      else s.mapTm fun t => { t with handles := updAt t.handles h fun x => { x with region := r, len := len } }

/-- The wait of a thread at a handle word, if it has one. -/
def State.myHWait (s : State) : Option HWait := s.tm.hwaits.find? fun w => w.tid == s.th.tid

/-- A handle word that waits for a state blocks until that has come about, then is performed. -/
def handleWait (s : State) (w : HWait) (k : State → State) : State :=
  if w.done then k (s.mapTm fun t => { t with hwaits := t.hwaits.filter fun v => v.tid != s.th.tid }) else s.block .handle

/-- A handle word begins to wait: for `st`, and for HSET then to make the transition to `sets`. -/
def State.startHWait (s : State) (h : Nat) (st : HState) (sets : Option HState) : State :=
  (s.mapTm fun t => { t with hwaits := t.hwaits ++ [⟨s.th.tid, h, st, sets, false⟩] }).block .handle

/-- HSET.full (R117, R271): a team-scope release. Where it waits, the transition is made when the handle becomes free. -/
def execHsetFull (o : EFmt) (s : State) : Out :=
  .next <|
    handleWord o s (some .free) fun h s =>
      match s.myHWait with
      | some w => handleWait s w id
      | none =>
        match (s.tm.handle h).counts with
        | .free => (s.release 0).mapTm fun t => t.enterHandle h .full
        | .filling | .full => s.handleTrap h .free
        | .draining => (s.release 0).startHWait h .free (some .full)

/-- HSET.free (R117, R271): waits for readers that hold the handle full, and while it fills. -/
def execHsetFree (o : EFmt) (s : State) : Out :=
  .next <|
    handleWord o s (some .full) fun h s =>
      match s.myHWait with
      | some w => handleWait s w id
      | none =>
        match (s.tm.handle h).counts with
        | .full =>
          if (s.tm.handle h).readers == 0 then s.mapTm fun t => t.enterHandle h .free else s.startHWait h .full (some .free)
        | .filling => s.startHWait h .full (some .free)
        | .free | .draining => s.handleTrap h .full

/-- HWAIT (R272): completes when the handle is in the state, or has entered it since the word's issue. -/
def execHwait (o : EFmt) (s : State) : Out :=
  .next <|
    let st := hstateOf o.d.toNat
    handleWord o s (some st) fun h s =>
      match s.myHWait with
      | some w => handleWait s w fun s => s.acquire 0
      | none => if (s.tm.handle h).st == st then s.acquire 0 else s.startHWait h st none

/-- HQ (R272). -/
def execHq (o : EFmt) (s : State) : Out :=
  .next <| handleWord o s none fun h s => s.pendTo o.d 1 (hcode (s.tm.handle h).st)

end Sys2Proof.Machine
end

