-- ==== Sys2Proof/Machine/Matrix.lean ====
section
/-! DEFINITION. Sliced matrix arithmetic (chapter 03, R85 to R105): every element and the status word of an MXOP, as
functions of the operand bytes. -/

namespace Sys2Proof.Machine

/-! ### The parameter block (R273) and formats (R55, R86 to R88) -/

/-- A matrix operation's parameter block. -/
structure MxBlk where
  opn : Nat
  fa : Nat
  fb : Nat
  fc : Nat
  m : Nat
  n : Nat
  k : Nat
  slc : Nat
  rm : Nat
  hsh : Nat
  flags : Nat
  ha : Nat
  hb : Nat
  hc : Nat
  hga : Nat
  hgb : Nat
  hk : Nat
  aoff : Nat
  boff : Nat
  coff : Nat
  astr : Nat
  bstr : Nat
  cstr : Nat
  gaoff : Nat
  gboff : Nat
  gastr : Nat
  gbstr : Nat
  deriving DecidableEq, Repr

def MxBlk.ofBytes (r : List Byte) : MxBlk where
  opn := field r 0 1
  fa := field r 1 1
  fb := field r 2 1
  fc := field r 3 1
  m := field r 4 2
  n := field r 6 2
  k := field r 8 2
  slc := field r 10 1
  rm := field r 11 1
  hsh := field r 12 1
  flags := field r 13 1
  ha := field r 14 1
  hb := field r 15 1
  hc := field r 16 1
  hga := field r 17 1
  hgb := field r 18 1
  hk := field r 19 1
  aoff := field r 20 4
  boff := field r 24 4
  coff := field r 28 4
  astr := field r 32 4
  bstr := field r 36 4
  cstr := field r 40 4
  gaoff := field r 44 4
  gboff := field r 48 4
  gastr := field r 52 4
  gbstr := field r 56 4

/-- The paths of R86. -/
inductive MxPath where
  | floating | coded | asym
  deriving DecidableEq, Repr

def mxPath (code : Nat) : Option MxPath :=
  match code with
  | 0x08 | 0x09 | 0x0A | 0x0B | 0x0C | 0x10 | 0x11 => some .floating
  | 0x01 | 0x03 | 0x12 | 0x13 => some .coded
  | 0x18 | 0x19 => some .asym
  | _ => none

/-- Bits of an element of a format (R45 to R47, R55). -/
def fmtBits (code : Nat) : Nat :=
  match code with
  | 0x08 => 64
  | 0x06 | 0x09 | 0x0C => 32
  | 0x05 | 0x0A | 0x0B => 16
  | 0x03 | 0x04 | 0x12 | 0x19 => 4
  | _ => 8

/-- MX formats have E8M0 block scales. -/
def isMx (code : Nat) : Bool := code == 0x10 || code == 0x11 || code == 0x12 || code == 0x13

/-- The floating format of a code. -/
def fmtOf (code : Nat) : Fmt :=
  match code with
  | 0x08 => fmt64
  | 0x09 => fmt32
  | 0x0A => fmt16
  | 0x0B => fmtB16
  | 0x0C => fmtTf19
  | 0x10 => fmtE4m3
  | 0x11 => fmtE5m2
  | _ => fmtE2m1

/-- Slice range and default: (least, most, default) (R86). -/
def sliceRange (code : Nat) : Nat × Nat × Nat :=
  match code with
  | 0x08 => (2, 8, 7)
  | 0x09 => (1, 4, 4)
  | 0x0A | 0x0B | 0x0C => (1, 3, 2)
  | 0x10 | 0x11 => (2, 3, 2)
  | _ => (1, 1, 1)

/-- The slice count used (R87); none when the field is refused. -/
def MxBlk.slices (b : MxBlk) : Option Nat :=
  match mxPath b.fa with
  | some .floating =>
    let (la, ma, da) := sliceRange b.fa
    let (lb, mb, db) := sliceRange b.fb
    if b.slc == 0 then some (max da db)
    else if max la lb ≤ b.slc && b.slc ≤ max ma mb then some b.slc
    else none
  | _ => if b.slc ≤ 1 then some 1 else none

/-- F of R86 and R90. -/
def mxAlignF (code s : Nat) : Nat :=
  match mxPath code with
  | some .floating => 8 * s - 3
  | _ => if code == 0x12 then 1 else if code == 0x13 then 6 else 0

/-- The pairing, output format and shift that R87 and R88 admit. -/
def MxBlk.formatsOk (b : MxBlk) : Bool :=
  match mxPath b.fa, mxPath b.fb with
  | some .floating, some .floating => (b.fc == 8 || b.fc == 9 || b.fc == 0xA || b.fc == 0xB) && b.hsh == 0
  | some .coded, some .coded =>
    b.fa == b.fb && b.hsh == 0 &&
      (if b.fa == 1 || b.fa == 3 then b.fc == 6 || b.fc == 9 else b.fc == 9 || b.fc == 0xA || b.fc == 0xB)
  | some .asym, some .asym => (b.fc == 9 || b.fc == 0xA || b.fc == 0xB) && b.hsh ≤ 7
  | _, _ => false

/-! ### Lanes: a row of A or a column of B -/

/-- A K-block of a lane: its exponent, none under a scale of 0xFF, and its digits, one list per digit index. -/
structure MxBlock where
  exp : Option Int
  digits : List (List Int)
  deriving DecidableEq, Repr

/-- A lane: its K-blocks, its values (floating path), and whether alignment lost a bit. -/
structure MxLane where
  blocks : List MxBlock
  vals : List FVal
  nan : Bool
  inf : Bool
  lost : Bool
  deriving DecidableEq, Repr

/-- Cuts a list into pieces of n elements. -/
def chunksGo {α : Type} (n : Nat) : Nat → List α → List (List α)
  | 0, _ => []
  | k + 1, l => if l.isEmpty then [] else l.take n :: chunksGo n k (l.drop n)

def chunks {α : Type} (n : Nat) (l : List α) : List (List α) := chunksGo n l.length l

/-- The element codes of a row of bytes (R44). -/
def elemCodes (bits : Nat) (bs : List Byte) : List Nat :=
  if bits == 4 then bs.flatMap fun b => [b.toNat % 16, b.toNat / 16] else (chunks (bits / 8) bs).map ofBytes

/-- A value times 2^k. -/
def FVal.scale (x : FVal) (k : Int) : FVal :=
  match x with
  | .fin n m e => .fin n m (e + k)
  | v => v

/-- exp(a) of R89 under a scale exponent. -/
def expOf (f : Fmt) (x : FVal) : Option Int :=
  match x with
  | .fin _ m e => if m == 0 then none else some (e + f.mb)
  | _ => none

/-- The block exponent over the finite nonzero elements (R89). -/
def blockExp (f : Fmt) (sc : Int) (xs : List FVal) : Int :=
  let es := xs.filterMap (expOf f)
  match es with
  | [] => f.qmin + f.mb + sc
  | e :: t => t.foldl max e

/-- trunc(a × 2^(F − E)), and whether a nonzero bit was discarded (R90). -/
def alignElem (sh : Int) (x : FVal) : Int × Bool :=
  match x with
  | .fin n m e =>
    let k := sh + e
    if k ≥ 0 then (signedN n (m * 2 ^ k.toNat), false)
    else (signedN n (m / 2 ^ (-k).toNat), m % 2 ^ (-k).toNat != 0)
  | _ => (0, false)

/-- recode of R91, most significant digit first. -/
def recode : Nat → Int → List Int → List Int
  | 0, _, acc => acc
  | s + 1, x, acc =>
    let t := x % 256
    let d := if t ≥ 128 then t - 256 else t
    recode s ((x - d) / 256) (d :: acc)

/-- The digits of a block's aligned integers, by digit index. -/
def digitRows (s : Nat) (xs : List Int) : List (List Int) :=
  let ds := xs.map fun x => recode s x []
  (List.range s).map fun p => ds.map fun d => nth d p 0

/-- A lane of the floating path; `scales` holds E8M0 codes for MX formats. -/
def floatLane (code s : Nat) (codes scales : List Nat) : MxLane :=
  let f := fmtOf code
  let F : Int := mxAlignF code s
  let one := fun (cs : List Nat) (sc : Nat) =>
    if isMx code && sc == 0xFF then (⟨none, digitRows s (cs.map fun _ => 0)⟩, cs.map (fun _ => FVal.nan false), false)
    else
      let k : Int := if isMx code then (sc : Int) - 127 else 0
      let xs := cs.map fun c => (f.read c).scale k
      let e := blockExp f k xs
      let al := xs.map (alignElem (F - e))
      ((⟨some e, digitRows s (al.map (·.1))⟩ : MxBlock), xs, al.any (·.2))
  let bs := (chunks 32 codes).zipIdx.map fun p => one p.1 (nth scales p.2 127)
  let xs := bs.flatMap fun b => b.2.1
  let nan := xs.any FVal.isNan
  let inf := xs.any fun x => match x with | .inf _ => true | _ => false
  ⟨bs.map (·.1), xs, nan, inf, bs.any (·.2.2)⟩

/-- The exact aligned integer of an integer-coded element (R97). -/
def codedX (code c : Nat) : Int :=
  match code with
  | 0x03 => sextN c 4
  | 0x12 =>
    match fmtE2m1.read c with
    | .fin n m e => signedN n (m * 2 ^ (e + 1).toNat)
    | _ => 0
  | _ => sextN c 8

/-- A lane of the integer-coded path. -/
def codedLane (code : Nat) (codes scales : List Nat) : MxLane :=
  let one := fun (cs : List Nat) (sc : Nat) =>
    if isMx code && sc == 0xFF then (⟨none, [cs.map fun _ => 0]⟩ : MxBlock)
    else ⟨some (if isMx code then (sc : Int) - 127 else 0), [cs.map (codedX code)]⟩
  let bs := (chunks 32 codes).zipIdx.map fun p => one p.1 (nth scales p.2 127)
  ⟨bs, [], bs.any fun b => b.exp.isNone, false, false⟩

/-! ### Recombination (R92 to R96) -/

def dotInt (a b : List Int) : Int := (List.zipWith (· * ·) a b).foldl (· + ·) 0

/-- P(kb) (R93): the kept pairs (R92). -/
def blockInt (s : Nat) (a b : MxBlock) : Int :=
  ((List.range s).flatMap fun p =>
    (List.range (s - p)).map fun q => 2 ^ (8 * (2 * s - 2 - p - q)) * dotInt (nth a.digits p []) (nth b.digits q [])).foldl (· + ·) 0

/-- The exponent sum of a pair of blocks. -/
def pairExp (a b : MxBlock) : Int := a.exp.getD 0 + b.exp.getD 0

/-- acc, the anchor, and whether an anchor shift discarded a nonzero bit (R94). -/
def recombine (s : Nat) (a b : MxLane) : Int × Int × Bool :=
  let prs := List.zip a.blocks b.blocks
  match prs with
  | [] => (0, 0, false)
  | p :: t =>
    let anchor := t.foldl (fun acc q => max acc (pairExp q.1 q.2)) (pairExp p.1 p.2)
    let step := fun (acc : Int × Bool) (q : MxBlock × MxBlock) =>
      let x := blockInt s q.1 q.2
      let d : Int := 2 ^ (anchor - pairExp q.1 q.2).toNat
      (acc.1 + x / d, acc.2 || x % d != 0)
    let r := prs.foldl step (0, false)
    (r.1, anchor, r.2)

/-- One result element and what it adds to the status word. -/
structure MxElem where
  bits : Nat
  ovf : Bool
  nan : Bool
  inf : Bool
  counted : Bool
  lost : Bool
  deriving DecidableEq, Repr

def mxNan (f : Fmt) : MxElem := ⟨f.nanBits, false, true, false, false, false⟩
def mxInf (f : Fmt) (neg : Bool) : MxElem := ⟨f.infBits neg, false, false, true, false, false⟩

/-- The rounding modes of RM (R273). -/
def mxRnd (n : Nat) : Rnd :=
  match n with
  | 1 => .rz
  | 2 => .rd
  | 3 => .ru
  | 4 => .rna
  | _ => .rne

/-- m × 2^e plus the prior element, exactly (R95). -/
def plusC (m : Int) (e : Int) (c : Option FVal) : Int × Int :=
  match c with
  | some (.fin n k g) =>
    let lo := if e ≤ g then e else g
    (m * 2 ^ (e - lo).toNat + signedN n (k * 2 ^ (g - lo).toNat), lo)
  | _ => (m, e)

/-- The final rounding of a finite V = m × 2^e (R95). -/
def roundV (f : Fmt) (r : Rnd) (m e : Int) (lost : Bool) : MxElem :=
  let x : FR := if m == 0 then ⟨f.signBit (r == .rd), 0⟩ else f.round r false false (m < 0) m.natAbs e false
  let inf := match f.read x.bits with | .inf _ => true | _ => false
  ⟨x.bits, x.fl &&& flagOF != 0, false, inf, true, lost⟩

/-- INT32 output (R95). -/
def roundInt32 (v : Int) : MxElem :=
  let c := clampI v (-(2 ^ 31)) (2 ^ 31 - 1)
  ⟨wrapN c 32, c != v, false, false, true, false⟩

/-- The sign of an infinite product, none where it is no infinity; `bad` for an infinity times a zero (R96). -/
def infTerm (x y : FVal) : Option Bool × Bool :=
  match x, y with
  | .inf p, .inf q => (some (p != q), false)
  | .inf p, .fin q m _ => if m == 0 then (none, true) else (some (p != q), false)
  | .fin p m _, .inf q => if m == 0 then (none, true) else (some (p != q), false)
  | _, _ => (none, false)

/-- The special result of an element's terms (R96), if there is one. -/
def specialOf (f : Fmt) (a b : MxLane) (c : Option FVal) : Option MxElem :=
  let cnan := match c with | some x => x.isNan | none => false
  if a.nan || b.nan || cnan then some (mxNan f)
  else
    let ts := if a.inf || b.inf then List.zipWith infTerm a.vals b.vals else []
    let signs := (ts.filterMap (·.1)) ++ (match c with | some (.inf n) => [n] | _ => [])
    if ts.any (·.2) then some (mxNan f)
    else if signs.contains true && signs.contains false then some (mxNan f)
    else match signs with
      | n :: _ => some (mxInf f n)
      | [] => none

/-- An element of the floating and integer-coded paths (R93 to R97). -/
def slicedElem (b : MxBlk) (s : Nat) (x y : MxLane) (c : Option Nat) : MxElem :=
  let (acc, anchor, shiftLost) := recombine s x y
  let lost := x.lost || y.lost || shiftLost
  let L := anchor - (mxAlignF b.fa s : Int) - (mxAlignF b.fb s : Int)
  if b.fc == 6 then roundInt32 (acc + match c with | some v => sextN v 32 | none => 0)
  else
    let f := fmtOf b.fc
    let cv := c.map f.read
    match specialOf f x y cv with
    | some e => e
    | none =>
      let (m, e) := plusC acc L cv
      roundV f (mxRnd b.rm) m e lost

/-! ### The asymmetric path (R52 to R54, R98) -/

/-- A group of a lane: recentred codes, recentred zero point, and scale, none where the group is poisoned. -/
structure AqGroup where
  codes : List Int
  z : Int
  scale : Option FVal
  deriving DecidableEq, Repr

/-- Bytes of a header by kind: 1 G16, 2 G8, 3 E8M0 (R56). -/
def headerBytes' (kind : Nat) : Nat := if kind == 1 then 4 else if kind == 2 then 2 else 1

/-- Elements of a group by group size code (R56). -/
def groupElems (code : Nat) : Nat := 16 * 2 ^ code

/-- A G16 header with a nonzero reserved byte (R53). -/
def headerFaulty (kind h : Nat) : Bool := kind == 1 && h / 2 ^ 24 != 0

/-- The scale of a header (R53, R54). -/
def headerScale (kind h : Nat) : Option FVal :=
  if kind == 1 then
    match fmt16.read (h % 65536) with
    | .fin n m e => some (.fin n m e)
    | _ => none
  else if h % 256 == 0xFF then none
  else some (.fin false 1 ((h % 256 : Nat) - 127))

def headerZero (kind h : Nat) : Int := if kind == 1 then sextN (h / 65536) 8 else sextN (h / 256) 8

/-- A lane's groups from its codes and headers. -/
def aqLane (code kind gsize : Nat) (codes headers : List Nat) : List AqGroup :=
  let mid : Int := if code == 0x18 then 128 else 8
  (chunks (groupElems gsize) codes).zipIdx.map fun p =>
    let h := nth headers p.2 0
    ⟨p.1.map fun (c : Nat) => (c : Int) - mid, headerZero kind h - mid, headerScale kind h⟩

def sumInt (l : List Int) : Int := l.foldl (· + ·) 0

/-- One group step of R98 in FP32: the accumulator and whether a step overflowed. An infinite scale product times a zero sum is
NaN: DESIGN CHOICE (log entry 84). -/
def aqStep (n : Nat) (acc : Nat × Bool) (p : AqGroup × AqGroup) : Nat × Bool :=
  let t := dotInt p.1.codes p.2.codes - p.2.z * sumInt p.1.codes - p.1.z * sumInt p.2.codes + n * p.1.z * p.2.z
  let tf := fmt32.ofInt .rne t
  let sc := fmt32.mul .rne false (p.1.scale.getD (.nan false)) (p.2.scale.getD (.nan false))
  let pr := fmt32.mul .rne false (fmt32.read sc.bits) (fmt32.read tf.bits)
  let su := fmt32.add .rne false (fmt32.read acc.1) (fmt32.read pr.bits)
  (su.bits, acc.2 || (sc.fl ||| pr.fl ||| su.fl) &&& flagOF != 0)

/-- An element of the asymmetric path (R98). A special element runs no FP32 step, so that none overflows: DESIGN CHOICE (log
entry 85). -/
def aqElem (b : MxBlk) (x y : List AqGroup) (c : Option Nat) : MxElem :=
  let f := fmtOf b.fc
  let cv := c.map f.read
  let poisoned := x.any (·.scale.isNone) || y.any (·.scale.isNone)
  let cnan := match cv with | some v => v.isNan | none => false
  if poisoned || cnan then mxNan f
  else
    match cv with
    | some (.inf n) => mxInf f n
    | _ =>
      let (acc, ovf) := (List.zip x y).foldl (aqStep (groupElems (b.hk / 16 % 4))) (0, false)
      match fmt32.read acc with
      | .nan _ => { mxNan f with ovf := ovf, counted := true }
      | .inf n => { mxInf f n with ovf := ovf, counted := true }
      | .fin n m e =>
        let (m, e) := plusC (signedN n m) (e - b.hsh) cv
        let r := roundV f (mxRnd b.rm) m e false
        { r with ovf := r.ovf || ovf }

/-! ### The bound and the status word (R99 to R103) -/

/-- β(s, K) of R99: the largest β with K × (2^(F+2) + D(s)) at most 2^(2F − β). -/
def mxBeta (s k : Nat) : Int :=
  let F := 8 * s - 3
  let d := ((List.range (s - 1)).map fun m => (m + 1) * 2 ^ (14 + 8 * m)).foldl (· + ·) 0
  let n := k * (2 ^ (F + 2) + d)
  2 * (F : Int) - (if n ≤ 1 then 0 else bitLen (n - 1))

/-- BND (R101). -/
def mxBnd (b : MxBlk) (s : Nat) (counted trunc : Bool) : Int :=
  match mxPath b.fa with
  | some .asym => -128
  | some .floating => if !counted then 127 else if s ≥ 2 then mxBeta s b.k else if trunc then mxBeta 1 b.k else 127
  | _ =>
    if !counted || !trunc || !isMx b.fa then 127
    else 2 * (mxAlignF b.fa 1 : Int) - (if b.k ≤ 32 then 0 else bitLen ((b.k - 1) / 32))

/-- The status word of an operation (R103); ORDSER is the caller's. -/
def mxStatus (b : MxBlk) (s : Nat) (es : List MxElem) (ser : Bool) : Word :=
  let trunc := es.any fun e => e.counted && e.lost
  let flag := fun (k : Nat) (x : Bool) => if x then 2 ^ k else 0
  BitVec.ofNat 32
    (s * 65536 + flag 12 ser + flag 11 (es.any (·.ovf)) + flag 10 trunc + flag 9 (es.any (·.inf)) + flag 8 (es.any (·.nan)) +
      wrapN (mxBnd b s (es.any (·.counted)) trunc) 8)

/-! ### The whole operation -/

/-- Header kinds of A and B, and the group size code (R273). -/
def MxBlk.kindA (b : MxBlk) : Nat := b.hk % 4
def MxBlk.kindB (b : MxBlk) : Nat := b.hk / 4 % 4
def MxBlk.gcode (b : MxBlk) : Nat := b.hk / 16 % 4

/-- Groups along K. -/
def MxBlk.groups (b : MxBlk) : Nat := if b.gcode == 0 then 0 else b.k / groupElems b.gcode

/-- Bytes of one row of each operand (R274). -/
def MxBlk.rowA (b : MxBlk) : Nat := b.k * fmtBits b.fa / 8
def MxBlk.rowB (b : MxBlk) : Nat := b.k * fmtBits b.fb / 8
def MxBlk.rowC (b : MxBlk) : Nat := b.n * fmtBits b.fc / 8
def MxBlk.hdrA (b : MxBlk) : Nat := if b.kindA == 0 then 0 else b.groups * headerBytes' b.kindA
def MxBlk.hdrB (b : MxBlk) : Nat := if b.kindB == 0 then 0 else b.groups * headerBytes' b.kindB

/-- The header values of a row. -/
def headerVals (kind : Nat) (bs : List Byte) : List Nat := (chunks (headerBytes' kind) bs).map ofBytes

/-- Some group header of the operands is faulty (R53, R481). -/
def mxHeadersFaulty (b : MxBlk) (o : MxOperands) : Bool :=
  (b.kindA == 1 && o.ga.any fun r => (headerVals 1 r).any (headerFaulty 1)) ||
    (b.kindB == 1 && o.gb.any fun r => (headerVals 1 r).any (headerFaulty 1))

/-- Every element, row by row, for the lanes and prior C rows. -/
def eachElem {α : Type} (rows cols : List α) (cs : List (List (Option Nat))) (f : α → α → Option Nat → MxElem) :
    List (List MxElem) :=
  rows.zipIdx.map fun p => cols.zipIdx.map fun q => f p.1 q.1 (nth (nth cs p.2 []) q.2 none)

/-- The elements of C from the operand bytes and, in accumulate mode, the prior rows of C. -/
def mxElems (b : MxBlk) (s : Nat) (o : MxOperands) (prior : List (List Byte)) : List (List MxElem) :=
  let cs : List (List (Option Nat)) :=
    if b.opn == 1 then prior.map fun r => (elemCodes (fmtBits b.fc) r).map some else []
  let row := fun (code : Nat) (r : List Byte) => elemCodes (fmtBits code) r
  match mxPath b.fa with
  | some .asym =>
    let lane := fun (code kind : Nat) (d h : List (List Byte)) =>
      d.zipIdx.map fun p => aqLane code kind b.gcode (row code p.1) (headerVals kind (nth h p.2 []))
    eachElem (lane b.fa b.kindA o.a o.ga) (lane b.fb b.kindB o.b o.gb) cs (aqElem b)
  | some .floating =>
    let lane := fun (code : Nat) (d h : List (List Byte)) =>
      d.zipIdx.map fun p => floatLane code s (row code p.1) (headerVals 3 (nth h p.2 []))
    eachElem (lane b.fa o.a o.ga) (lane b.fb o.b o.gb) cs (slicedElem b s)
  | _ =>
    let lane := fun (code : Nat) (d h : List (List Byte)) =>
      d.zipIdx.map fun p => codedLane code (row code p.1) (headerVals 3 (nth h p.2 []))
    eachElem (lane b.fa o.a o.ga) (lane b.fb o.b o.gb) cs (slicedElem b s)

/-- The rows of C and the status word. -/
def mxResult (b : MxBlk) (o : MxOperands) (prior : List (List Byte)) (ser : Bool) : List (List Byte) × Word :=
  let s := b.slices.getD 1
  let es := mxElems b s o prior
  (es.map fun r => r.flatMap fun e => toBytes (fmtBits b.fc / 8) e.bits, mxStatus b s (es.flatMap id) ser)

end Sys2Proof.Machine
end

