-- ==== Sys2Proof/Machine/MxOps.lean ====
section
/-! DEFINITION. Matrix operations as words and as operations of a stream (R152 to R154, R273 to R279, R481). -/

namespace Sys2Proof.Machine

/-! ### Teams outside the focus, as events see them -/

def State.team? (s : State) (r : TeamRef) : Option Team := s.teams.find? fun t => t.ref == r

def State.setTeam (s : State) (t : Team) : State :=
  { s with teams := s.teams.map fun x => if x.ref == t.ref then t else x }

/-- Whether the context of a team is neither killed nor being killed (R455). -/
def State.alive (s : State) (ctx : Nat) : Bool :=
  match (s.ctxOf ctx).st with
  | .killing | .killed => false
  | _ => true

/-- A placed team of a live context whose engines may start work (R450 step 1). -/
def State.runningTeam (s : State) (r : TeamRef) : Option Team :=
  match s.team? r with
  | some t => if t.st == .running && s.alive r.ctx then some t else none
  | none => none

/-- A placed team of a live context: what it has started runs on (R450 step 3). -/
def State.placedTeam (s : State) (r : TeamRef) : Option Team :=
  match s.team? r with
  | some t => if t.placedHere && s.alive r.ctx then some t else none
  | none => none

/-- The failed sectors of a typed store within a range. -/
def Team.badRange (t : Team) (sp off len : Nat) : Bool := len != 0 && (t.badIn sp off len).isSome

/-! ### The checks of a parameter block (R275) -/

/-- A strided footprint: store, offset, stride, rows, bytes of a row. -/
structure Footprint where
  space : Nat
  off : Nat
  stride : Nat
  rows : Nat
  len : Nat
  deriving DecidableEq, Repr

/-- One past its last byte; 0 when it has none. -/
def Footprint.stop (f : Footprint) : Nat := if f.rows == 0 || f.len == 0 then 0 else f.off + (f.rows - 1) * f.stride + f.len

/-- Byte ranges of the rows. -/
def Footprint.ranges (f : Footprint) : List (Nat × Nat) :=
  if f.len == 0 then [] else (List.range f.rows).map fun i => (f.off + i * f.stride, f.off + i * f.stride + f.len)

/-- Two footprints of one store share a byte. -/
def Footprint.meets (f g : Footprint) : Bool :=
  f.space == g.space && f.ranges.any fun x => g.ranges.any fun y => x.1 < y.2 && y.1 < x.2

def MxBlk.fpA (b : MxBlk) : Footprint := ⟨1, b.aoff, b.astr, b.m, b.rowA⟩
def MxBlk.fpB (b : MxBlk) : Footprint := ⟨2, b.boff, b.bstr, b.n, b.rowB⟩
def MxBlk.fpC (b : MxBlk) : Footprint := ⟨3, b.coff, b.cstr, b.m, b.rowC⟩
def MxBlk.fpGA (b : MxBlk) : Footprint := ⟨1, b.gaoff, b.gastr, b.m, b.hdrA⟩
def MxBlk.fpGB (b : MxBlk) : Footprint := ⟨2, b.gboff, b.gbstr, b.n, b.hdrB⟩

/-- The named handles with their footprints: number, footprint, whether HC. -/
def MxBlk.named (b : MxBlk) : List (Nat × Footprint × Bool) :=
  [(b.ha, b.fpA, false), (b.hb, b.fpB, false), (b.hc, b.fpC, true), (b.hga, b.fpGA, false), (b.hgb, b.fpGB, false)].filter
    fun h => h.1 != 0xFF

/-- The footprints that the formats fix. -/
def MxBlk.footprints (b : MxBlk) : List Footprint :=
  (if (mxPath b.fa).isSome then [b.fpA, b.fpGA] else []) ++ (if (mxPath b.fb).isSome then [b.fpB, b.fpGB] else []) ++
    (if b.fc == 6 || b.fc == 8 || b.fc == 9 || b.fc == 0xA || b.fc == 0xB then [b.fpC] else [])

/-- Header kind and fields of one operand (R275). -/
def headerFieldsOk (code kind gcode off stride h k : Nat) : Bool :=
  let asym := mxPath code == some .asym
  let kindOk := if asym then kind == 1 || kind == 2 else if isMx code then kind == 3 && gcode == 1 else kind == 0
  kindOk &&
    (if kind == 0 then off == 0 && stride == 0 && h == 0xFF
     else gcode != 0 && k % groupElems gcode == 0 && off % headerBytes' kind == 0 && stride % headerBytes' kind == 0 &&
       k / groupElems gcode * headerBytes' kind ≤ stride)

/-- The rules of R275 beyond handle numbers and allocations. -/
def mxParamOk (t : Team) (blk : List Byte) : Bool :=
  let b := MxBlk.ofBytes blk
  b.opn < 2 && b.formatsOk && b.slices.isSome && b.rm < 5 && b.hsh < 8 &&
    16 ≤ b.m && b.m ≤ 256 && b.m % 16 == 0 && 16 ≤ b.n && b.n ≤ 256 && b.n % 16 == 0 &&
    32 ≤ b.k && b.k ≤ 4096 && b.k % 32 == 0 &&
    b.flags < 16 && b.hk < 64 && zeroBytes blk 60 4 &&
    headerFieldsOk b.fa b.kindA b.gcode b.gaoff b.gastr b.hga b.k &&
    headerFieldsOk b.fb b.kindB b.gcode b.gboff b.gbstr b.hgb b.k &&
    (b.gcode == 0 || b.kindA != 0 || b.kindB != 0) &&
    b.aoff % 16 == 0 && b.boff % 16 == 0 && b.coff % 16 == 0 && b.astr % 16 == 0 && b.bstr % 16 == 0 && b.cstr % 16 == 0 &&
    b.rowA ≤ b.astr && b.rowB ≤ b.bstr && b.rowC ≤ b.cstr &&
    !b.fpGA.meets b.fpA && !b.fpGB.meets b.fpB &&
    (b.opn == 0 || b.hc == 0xFF) &&
    b.named.all fun h =>
      let x := t.handle h.1
      regionIsStore x.region && regionSpace x.region == h.2.1.space && regionOffset x.region ≤ h.2.1.off &&
        h.2.1.stop ≤ regionOffset x.region + x.len.toNat

/-- The check of a block in R275's order of causes, then what to do with it. DESIGN CHOICE (log entry 127): of an operand that leaves
its store, TRAPA holds the block's own offset. -/
def checkMxBlk (s : State) (off : Nat) (blk : List Byte) (k : State → State) : State :=
  let b := MxBlk.ofBytes blk
  match b.named.find? fun h => h.1 ≥ s.tm.decl.handles with
  | some h => s.handleRange h.1 (some (if h.2.2 then .free else .full))
  | none =>
    match b.footprints.find? fun f => f.stop > s.tm.storeSize f.space with
    | some _ => s.raise cBounds off
    | none => if mxParamOk s.tm blk then k s else s.raise cMatrix off

/-! ### MXOP and MXWAIT (R276, R279) -/

/-- Operations appended and not completed. -/
def Stream.jobs (st : Stream) : List MxJob := (match st.running with | some r => [r.job] | none => []) ++ st.queue

/-- The C region of an operation meets another's (R154). -/
def MxJob.meets (x y : MxJob) : Bool := (MxBlk.ofBytes x.blk).fpC.meets (MxBlk.ofBytes y.blk).fpC

/-- The operations of the other streams. -/
def Team.otherJobs (t : Team) (n : Nat) : List MxJob :=
  (t.streams.zipIdx.filter fun p => p.2 != n).flatMap fun p => p.1.jobs

/-- Appends a checked block to a stream, or waits while eight are pending. -/
def mxAppend (o : EFmt) (s : State) (n off : Nat) (blk : List Byte) : State :=
  let st := nth s.tm.streams n ⟨0, 0, [], none⟩
  if st.jobs.length ≥ 8 then (s.mapTh fun t => { t with copy := some blk }).block .stream
  else
    let tick := st.tick + 1
    let j : MxJob := ⟨blk, tick, off, false, s.tm.mxOrder⟩
    let j := { j with ser := s.det && (s.tm.otherJobs n).any (·.meets j) }
    let s := s.mapTm fun t =>
      { t with streams := updAt t.streams n fun x => { x with tick := tick, queue := x.queue ++ [j] }, mxOrder := t.mxOrder + 1 }
    (s.mapTh fun t => { t with copy := none }).pendTo o.d 1 tick.toNat

/-- MXOP (R276). -/
def execMxop (o : EFmt) (s : State) : Out :=
  .next <|
    if s.active o.g then
      let n := o.arg.toNat % 4
      let off := (s.src o.a).toNat
      if s.th.migrated then s.raise cMigrated 0
      else if n ≥ s.tm.decl.streams then s.raise cStreamRange 0
      else
        match s.th.copy with
        | some blk => mxAppend o s n off blk
        | none =>
          if off % 64 != 0 then s.raise cAlign off
          else if off + 64 > s.tm.decl.lstore then s.raise cBounds off
          else
            match s.tm.badIn 0 off 64 with
            | some q => s.raise cDataError (16 * q)
            | none =>
              let blk := s.tm.lst.read off 64
              checkMxBlk s off blk fun s => mxAppend o s n off blk
    else s

/-- MXWAIT (R279): what it waits for is fixed when it first issues. -/
def execMxwait (o : EFmt) (s : State) : Out :=
  .next <|
    if s.active o.g then
      let n := o.arg.toNat % 4
      if s.th.migrated then s.raise cMigrated 0
      else if n ≥ s.tm.decl.streams then s.raise cStreamRange 0
      else
        let st := nth s.tm.streams n ⟨0, 0, [], none⟩
        let upto : Word := match s.th.woke with | some w => w.setWidth 32 | none => st.tick
        if st.jobs.all fun j => countBefore upto j.tick then (s.mapTh fun t => { t with woke := none }).acquire 0
        else (s.mapTh fun t => { t with woke := some (upto.setWidth 64) }).block .stream
    else s

/-! ### A stream's operations (R277) -/

/-- The distinct reading handles of a block, each with its release flag (R275, R277). -/
def MxBlk.readers (b : MxBlk) : List (Nat × Bool) :=
  let one := fun (h g : Nat) (rh rg : Bool) =>
    if h != 0xFF && h == g then [(h, rh || rg)]
    else (if h != 0xFF then [(h, rh)] else []) ++ (if g != 0xFF then [(g, rg)] else [])
  one b.ha b.hga (bitAt b.flags 0) (bitAt b.flags 2) ++ one b.hb b.hgb (bitAt b.flags 1) (bitAt b.flags 3)

/-- Changes stream n of a team. -/
def Team.setStream (t : Team) (n : Nat) (f : Stream → Stream) : Team := { t with streams := updAt t.streams n f }

/-- Of each aligned 4-byte word of a range at address a, the earlier or the later bytes by a free choice (R115). -/
def mixBytes (pick a : Nat) (old new : List Byte) : List Byte :=
  new.zipIdx.map fun p => if bitAt pick ((a + p.2) / 4) then p.1 else nth old p.2 p.1

/-- Rows of a footprint, each word as read early or late. -/
def Footprint.mix (f : Footprint) (pick : Nat) (old new : List (List Byte)) : List (List Byte) :=
  new.zipIdx.map fun p => mixBytes pick (f.off + p.2 * f.stride) (nth old p.2 p.1) p.1

/-- MXOP_START (R277 step 1, R154): the head of the queue starts when its handles admit it. -/
def execMxopStart (r : TeamRef) (n : Nat) (s : State) : Out :=
  .next <|
    match s.runningTeam r with
    | none => s
    | some t =>
      match t.streams[n]? with
      | some ⟨_, _, j :: rest, none⟩ =>
        let b := MxBlk.ofBytes j.blk
        let held := t.decl.det != 0 && (t.otherJobs n).any fun x => x.order < j.order && x.meets j
        let starts := b.readers.all (fun h => t.admitsStart h.1 false) && (b.hc == 0xFF || t.admitsStart b.hc true)
        if held || !starts then s
        else
          let t := b.readers.foldl (fun t h => t.startHandle h.1 false h.2) t
          let t := if b.hc == 0xFF then t else t.startHandle b.hc true false
          s.setTeam (t.setStream n fun st => { st with queue := rest, running := some ⟨j, none, none, []⟩ })
      | _ => s

/-- The bytes of a footprint's rows. -/
def Footprint.read (f : Footprint) (m : Memory) : List (List Byte) := (List.range f.rows).map fun i => m.read (f.off + i * f.stride) f.len

/-- The operand bytes as the stores hold them (R274, R278). -/
def readOperands (t : Team) (b : MxBlk) : MxOperands := ⟨b.fpA.read t.ast, b.fpB.read t.wst, b.fpGA.read t.ast, b.fpGB.read t.wst⟩

/-- The operands of a running operation as it has read them: its early reads and those of now, word by word (R278). -/
def MxRun.operands (x : MxRun) (pick : Nat) (t : Team) : MxOperands :=
  let b := MxBlk.ofBytes x.job.blk
  let o := readOperands t b
  match x.early with
  | none => o
  | some e => ⟨b.fpA.mix pick e.a o.a, b.fpB.mix pick e.b o.b, b.fpGA.mix pick e.ga o.ga, b.fpGB.mix pick e.gb o.gb⟩

/-- The choice of an operation between early and late words, fixed once it has read early. -/
def mxPick (x : MxRun) : Nat := Config.choice (2 * x.job.order + 1)

/-- A running operation reads its operands before its other reads (R278). -/
def mxEarly (r : TeamRef) (n : Nat) (s : State) : State :=
  match s.placedTeam r with
  | none => s
  | some t =>
    match (t.streams[n]?).bind (·.running) with
    | some ⟨j, none, none, ts⟩ =>
      s.setTeam (t.setStream n fun st => { st with running := some ⟨j, none, some (readOperands t (MxBlk.ofBytes j.blk)), ts⟩ })
    | _ => s

/-- A failed sector under a footprint (R447). -/
def Team.badFoot (t : Team) (f : Footprint) : Bool := f.ranges.any fun x => t.badRange f.space x.1 (x.2 - x.1)

/-- MXOP_READS_COMPLETE (R277 step 3): never with a faulty header. -/
def execMxopReadsComplete (r : TeamRef) (n : Nat) (s : State) : Out :=
  .next <|
    match s.placedTeam r with
    | none => s
    | some t =>
      match (t.streams[n]?).bind (·.running) with
      | some ⟨j, none, early, ts⟩ =>
        let b := MxBlk.ofBytes j.blk
        let ops := MxRun.operands ⟨j, none, early, ts⟩ (mxPick ⟨j, none, early, ts⟩) t
        if t.badFoot b.fpA || t.badFoot b.fpB || t.badFoot b.fpGA || t.badFoot b.fpGB then s.killContext r.ctx 0x40 0
        else if mxHeadersFaulty b ops then s
        else
          let t := b.readers.foldl (fun t h => t.readsDoneHandle h.1 h.2) t
          s.setTeam (t.setStream n fun st => { st with running := some ⟨j, some ops, early, ts⟩ })
      | _ => s

/-- Writes rows of bytes at a footprint. -/
def Footprint.write (f : Footprint) (m : Memory) (rows : List (List Byte)) : Memory :=
  rows.zipIdx.foldl (fun m p => m.write (f.off + p.2 * f.stride) p.1) m

/-- The footprint of 8×8 sub-tile i of C, numbered row by row. -/
def MxBlk.fpTile (b : MxBlk) (i : Nat) : Footprint :=
  let e := fmtBits b.fc / 8
  ⟨3, b.coff + 8 * (i / (b.n / 8)) * b.cstr + 8 * (i % (b.n / 8)) * e, b.cstr, 8, 8 * e⟩

/-- The bytes of sub-tile i of whole rows of C. -/
def MxBlk.tileOf (b : MxBlk) (i : Nat) (rows : List (List Byte)) : List (List Byte) :=
  let w := 8 * (fmtBits b.fc / 8)
  ((rows.drop (8 * (i / (b.n / 8)))).take 8).map fun r => (r.drop (w * (i % (b.n / 8)))).take w

/-- A typed store with sub-tiles of C written in it. -/
def MxBlk.putTiles (b : MxBlk) (m : Memory) (ts : List (Nat × List (List Byte))) : Memory :=
  ts.foldl (fun m p => (b.fpTile p.1).write m p.2) m

/-- What an operation whose reads are complete leaves in C, and its status: each sub-tile from the C that it found, those already
written from the rows they found then (R153, R278). -/
def MxRun.result (x : MxRun) (ops : MxOperands) (c : Memory) : List (List Byte) × Word :=
  let b := MxBlk.ofBytes x.job.blk
  mxResult b ops (b.fpC.read (b.putTiles c x.tiles)) x.job.ser

/-- Sectors of a typed store that a footprint writes whole lose their failed marks, but those that other footprints wrote before
(R447). -/
def Team.clearFoot (t : Team) (f : Footprint) (old : List Footprint) : Team :=
  let whole := fun (q : Nat) => f.ranges.any fun x => x.1 ≤ 16 * q && 16 * q + 16 ≤ x.2
  let before := fun (q : Nat) => old.any fun g => g.ranges.any fun x => x.1 < 16 * q + 16 && 16 * q < x.2
  { t with badStore := t.badStore.filter fun b => !(b.1 == f.space && whole b.2) || before b.2 }

/-- A sub-tile of C is written before the others (R153). -/
def mxTile (r : TeamRef) (n i : Nat) (s : State) : State :=
  match s.placedTeam r with
  | none => s
  | some t =>
    match (t.streams[n]?).bind (·.running) with
    | some ⟨j, some ops, early, ts⟩ =>
      let b := MxBlk.ofBytes j.blk
      let x : MxRun := ⟨j, some ops, early, ts⟩
      if i ≥ b.m / 8 * (b.n / 8) || (ts.any fun p => p.1 == i) || (b.opn == 1 && t.badFoot (b.fpTile i)) then s
      else
        let t' := Team.clearFoot { t with cst := b.putTiles t.cst [(i, b.tileOf i (x.result ops t.cst).1)] } (b.fpTile i) []
        let ts' := ts ++ [(i, (b.fpTile i).read t.cst)]
        s.setTeam (t'.setStream n fun st => { st with running := some ⟨j, some ops, early, ts'⟩ })
    | _ => s

/-- MXOP_COMPLETE (R277 step 4): the rest of C and MXSn are written, and HC becomes full. -/
def execMxopComplete (r : TeamRef) (n : Nat) (s : State) : Out :=
  .next <|
    match s.placedTeam r with
    | none => s
    | some t =>
      match (t.streams[n]?).bind (·.running) with
      | some ⟨j, some ops, early, ts⟩ =>
        let b := MxBlk.ofBytes j.blk
        if b.opn == 1 && t.badFoot b.fpC then s.killContext r.ctx 0x40 0
        else
          let (rows, mxs) := MxRun.result ⟨j, some ops, early, ts⟩ ops t.cst
          let done := ts.map fun p => (p.1, (b.fpTile p.1).read t.cst)
          let t := Team.clearFoot { t with cst := b.putTiles (b.fpC.write t.cst rows) done } b.fpC (ts.map fun p => b.fpTile p.1)
          let t := t.setStream n fun st => { st with mxs := mxs, running := none }
          s.setTeam (if b.hc == 0xFF then t else t.enterHandle b.hc .full)
      | _ => s

/-- MXOP_ABANDON (R481). -/
def execMxopAbandon (r : TeamRef) (n : Nat) (s : State) : Out :=
  .next <|
    match s.placedTeam r with
    | none => s
    | some t =>
      match (t.streams[n]?).bind (·.running) with
      | some ⟨j, none, early, ts⟩ =>
        let b := MxBlk.ofBytes j.blk
        if mxHeadersFaulty b (MxRun.operands ⟨j, none, early, ts⟩ (mxPick ⟨j, none, early, ts⟩) t) then
          let t := b.readers.foldl (fun t h => t.readsDoneHandle h.1 h.2) t
          let t := if b.hc == 0xFF then t else t.enterHandle b.hc .free
          let t := t.setStream n fun st => { st with running := none }
          s.setTeam { t with imprecise := t.imprecise ++ [(cTensor, j.off)] }
        else s
      | _ => s

end Sys2Proof.Machine
end

