-- ==== Sys2Proof/Machine/Engine.lean ====
section
/-! DEFINITION. Engine accesses: regions of cards, global memory through the cluster's cache, retries and kills (R107,
R109 to R111, R151, R286, R447). -/

namespace Sys2Proof.Machine

/-- How an engine's work stops short: it waits for a translation or a lock, its state then changed only by the fault
record, or its context is killed with cause 0x40 (R286), by an error of a link too (R462), at once or when no reply comes (R463). -/
inductive EngStop where
  | wait (fault : Option (Nat × Nat × Bool))
  | kill
  | link
  | noReply
  deriving DecidableEq, Repr

/-- The result of an engine's work. -/
abbrev Eng (α : Type) : Type := Except EngStop (α × State)

/-- The team of an engine in the focus, with no thread. -/
def State.asTeam (s : State) (t : Team) : State := { s with tm := t, th := { Thread.blank with bay := t.bay, tid := 2 ^ 32 } }

/-- The engines of a team as the maker of an access. -/
def State.engine (s : State) (outside : Bool) : Accessor :=
  ⟨s.tm.ref.ctx, s.tm.bay, false, s.det, s.tm.ref.gid, s.tm.ref.team, outside⟩

/-- The name under which a card's pod messages are sent. -/
def cardRef (r : TeamRef) (seq : Nat) : ThreadRef := ⟨r, 2 ^ 32 + seq⟩

/-- A request to another die from a die that has lost the reference, which will end with the link-timeout error
(R463). -/
def lostRequest (s : State) (bay leaf : Nat) : Bool :=
  leafHome leaf != bay / 96 && (match s.iod.dies[bay / 96]? with | some d => d.refLost | none => false)

/-- A read of a lost sector (R431, R447). -/
def engLost (s : State) (q : Nat) : EngStop := if portDown s.ms (16 * q) then .link else .kill

/-- Reads at most 16 bytes of one sector at a global address. -/
def engPieceRead (s : State) (out : Bool) (va n : Nat) : Eng (List Byte) :=
  if !addrOk56 va then .error .kill
  else
    match translate s (s.engine out) .engineRead va with
    | (.ok l sz, s) =>
      let ha := leafHa l (2 ^ sz) va
      match failedIn s.ms s.tm.bay (s.soundAt l 2) ha n false with
      | some q => .error (engLost s q)
      | none =>
        if lostRequest s s.tm.bay l then .error .noReply else
        match (podFillFor (backRef s.tm.ref.ctx) s ha n).gload l ha n 2 with
        | some r => .ok r
        | none => .error (if s.lockedLog.isSome then .wait none else .kill)
    | (.failed q, s) => .error (engLost s q)
    | (.unmapped lv, _) => .error (.wait (some (va, lv, false)))
    | (.locked, _) => .error (.wait none)
    | (_, _) => .error .kill

/-- Writes at most 16 bytes of one sector at a global address. -/
def engPieceWrite (s : State) (out : Bool) (seq va : Nat) (al : Alloc) (bs : List Byte) : Eng Unit :=
  if !addrOk56 va then .error .kill
  else
    match translate s (s.engine out) .engineWrite va with
    | (.ok l sz, s) =>
      let ha := leafHa l (2 ^ sz) va
      match failedIn s.ms s.tm.bay (s.soundAt l al) ha bs.length true with
      | some q => .error (engLost s q)
      | none =>
        if lostRequest s s.tm.bay l then .error .noReply else
        let s := podFillFor (backRef s.tm.ref.ctx) s ha bs.length
        -- a write to a pod-tier line is performed at the peer, and the card waits for its acknowledgement
        if isPod ha && !s.det then
          .ok ((), s.mapMs fun ms => podSend (podWrite ms s.th.bay ha bs) (some (cardRef s.tm.ref seq)) ha bs.length (ofBytes bs) true)
        else
          match s.gstore l ha bs al with
          | none => .error (if s.lockedLog.isSome then .wait none else .kill)
          | some s => .ok ((), s)
    | (.failed q, s) => .error (engLost s q)
    | (.unmapped lv, _) => .error (.wait (some (va, lv, true)))
    | (.locked, _) => .error (.wait none)
    | (_, _) => .error .kill

/-- Global reads of any length, sector by sector. -/
def engReadGo (out : Bool) : Nat → State → Nat → Nat → Eng (List Byte)
  | 0, s, _, _ => .ok ([], s)
  | k + 1, s, va, n =>
    if n == 0 then .ok ([], s)
    else
      let m := min n (16 - va % 16)
      match engPieceRead s out va m with
      | .error e => .error e
      | .ok (bs, s) =>
        match engReadGo out k s (va + m) (n - m) with
        | .error e => .error e
        | .ok (cs, s) => .ok (bs ++ cs, s)

def engRead (s : State) (out : Bool) (va n : Nat) : Eng (List Byte) := engReadGo out (n / 16 + 2) s va n

/-- Global writes of any length. -/
def engWriteGo (out : Bool) (seq : Nat) (al : Alloc) : Nat → State → Nat → List Byte → Eng Unit
  | 0, s, _, _ => .ok ((), s)
  | k + 1, s, va, bs =>
    if bs.isEmpty then .ok ((), s)
    else
      let m := 16 - va % 16
      match engPieceWrite s out seq va al (bs.take m) with
      | .error e => .error e
      | .ok (_, s) => engWriteGo out seq al k s (va + m) (bs.drop m)

def engWrite (s : State) (out : Bool) (seq va : Nat) (al : Alloc) (bs : List Byte) : Eng Unit :=
  engWriteGo out seq al (bs.length / 16 + 2) s va bs

/-- Reads n bytes at offset o of a region (R110); o may lie below the region's base. -/
def regionRead (s : State) (r : DWord) (o : Int) (n : Nat) : Eng (List Byte) :=
  if regionIsStore r then
    let a := ((regionOffset r : Int) + o).toNat
    if s.tm.badRange (regionSpace r) a n then .error .kill
    else .ok ((s.tm.store (regionSpace r)).read a n, s)
  else engRead s false (wrapN ((r.toNat : Int) + o) 64) n

/-- Writes bytes at offset o of a region; global writes are performed in the cluster cache (R151). -/
def regionWrite (s : State) (seq : Nat) (r : DWord) (o : Int) (bs : List Byte) : Eng Unit :=
  if regionIsStore r then .ok ((), s.storeWrite (regionSpace r) ((regionOffset r : Int) + o).toNat bs)
  else engWrite s false seq (wrapN ((r.toNat : Int) + o) 64) 2 bs

/-- What becomes of the machine when an engine of a team has worked: done, waiting with its fault record, or
killed. -/
def engDone (s : State) (t : Team) (out : Bool) (r : Eng Unit) : State :=
  match r with
  | .ok (_, s') => { (s'.setTeam s'.tm) with th := s.th, tm := s.tm }
  | .error (.wait none) | .error .noReply => s
  | .error (.wait (some (va, lv, wr))) =>
    let s' := faultRecord s ((s.asTeam t).engine out) (if wr then .engineWrite else .engineRead) va lv
    s'
  | .error .kill => s.killContext t.ref.ctx 0x40 0
  | .error .link => (countLink s).killContext t.ref.ctx 0x40 0

/-- One piece of work after another. -/
def engThen {α β : Type} (x : Eng α) (f : α → State → Eng β) : Eng β :=
  match x with
  | .error e => .error e
  | .ok (a, s) => f a s

/-- Runs an engine's work over a list, in order. -/
def engEach {α : Type} (f : State → α → Eng Unit) : List α → State → Eng Unit
  | [], s => .ok ((), s)
  | x :: rest, s =>
    match f s x with
    | .error e => .error e
    | .ok (_, s) => engEach f rest s

end Sys2Proof.Machine
end

