-- ==== Sys2Proof/Machine/Cards.lean ====
section
/-! DEFINITION. Job cards and the command ring: layout, checks, ENQ, acceptance, edges, starts and retirement (R149 to
R151, R280 to R288, R312, R314, R318). -/

namespace Sys2Proof.Machine

/-! ### Layout (R284) -/

def cardType (c : List Byte) : Nat := field c 0 1
def cardFlags (c : List Byte) : Nat := field c 1 1
def cardHandle (c : List Byte) : Nat := field c 2 1
def cardParam (c : List Byte) : Nat := field c 4 4
def cardRbase (c : List Byte) : DWord := BitVec.ofNat 64 (field c 8 8)
def cardRlen (c : List Byte) : Nat := field c 16 4
def cardWlen (c : List Byte) : Nat := field c 20 4
def cardWbase (c : List Byte) : DWord := BitVec.ofNat 64 (field c 24 8)

def cardTimed (c : List Byte) : Bool := bitAt (cardFlags c) 0
def cardGroup (c : List Byte) : Bool := bitAt (cardFlags c) 1
def cardNoRelease (c : List Byte) : Bool := bitAt (cardFlags c) 2

/-- What names a card in every run of a deterministic launch: its bytes, its block, its team and its number. -/
def State.cardKey (s : State) (k : Card) : Nat := (ofBytes (k.bytes ++ k.blk) * 2 ^ 32 + s.tm.ref.team) * 2 ^ 32 + k.seq

/-- The types of R288. -/
def cardTypeOk (ty : Nat) : Bool := (1 ≤ ty && ty ≤ 6) || (0x10 ≤ ty && ty ≤ 0x13)

/-- The types of reduced service (R472). -/
def cardTypeReduced (ty : Nat) : Bool := 1 ≤ ty && ty ≤ 3

/-- Bytes of a type's parameter block (R288, R312). -/
def paramSize (ty : Nat) : Nat := if ty == 5 || ty == 0x10 then 128 else 64

/-- Two regions share a byte of one space (R149). -/
def regionsMeet (a : DWord) (n : Nat) (b : DWord) (m : Nat) : Bool :=
  if regionIsStore a != regionIsStore b then false
  else if regionIsStore a then
    regionSpace a == regionSpace b && regionOffset a < regionOffset b + m && regionOffset b < regionOffset a + n && n != 0 && m != 0
  else a.toNat < b.toNat + m && b.toNat < a.toNat + n && n != 0 && m != 0

/-! ### The checks of R285 -/

/-- The first failing check: its cause. -/
inductive CardErr where
  | format
  | handle (h : Nat)
  | permission
  | bounds (off : Nat)
  | tensor (off : Nat)
  deriving DecidableEq, Repr

/-- Whether a region of a type may name its space: global, or the stores listed (R111, R288). -/
def spaceOk (r : DWord) (len : Nat) (stores : List Nat) (global : Bool) : Bool :=
  len == 0 || (if regionIsStore r then stores.contains (regionSpace r) else global)

/-- Step 4. -/
def cardSpacesOk (c : List Byte) : Bool :=
  let rd := spaceOk (cardRbase c) (cardRlen c)
  let wr := spaceOk (cardWbase c) (cardWlen c)
  match cardType c with
  | 1 | 2 | 3 => rd [0, 1, 3] true && wr [0, 1, 2, 3] true
  | 4 => rd [0] true && wr [] false
  | 5 => rd [] true && wr [1, 2] false
  | 6 => rd [] true && wr [3] false
  | _ => rd [] true && wr [] true

/-- A field within limits. -/
def within (x lo hi : Nat) : Bool := lo ≤ x && x ≤ hi

/-- Lowest and highest end of a strided extent: y steps of sy and z steps of sz about offset 0. -/
def extentLow (ys zs : Nat) (sy sz : Int) : Int := min 0 ((ys - 1 : Nat) * sy) + min 0 ((zs - 1 : Nat) * sz)
def extentHigh (ys zs : Nat) (sy sz : Int) : Int := max 0 ((ys - 1 : Nat) * sy) + max 0 ((zs - 1 : Nat) * sz)

/-- COPY (R289). -/
def copyParamOk (c b : List Byte) : Bool :=
  let x := field b 8 4
  let y := field b 12 4
  let z := field b 16 4
  let st := fun o => sextN (field b o 4) 32
  within x 4 (2 ^ 24) && x % 4 == 0 && within y 1 65536 && within z 1 65536 && zeroBytes b 20 4 && zeroBytes b 40 24 &&
    st 24 % 4 == 0 && st 28 % 4 == 0 && st 32 % 4 == 0 && st 36 % 4 == 0 &&
    (cardRbase c).toNat % 4 == 0 && (cardWbase c).toNat % 4 == 0 &&
    extentLow y z (st 24) (st 28) ≥ 0 && extentHigh y z (st 24) (st 28) + x ≤ (cardRlen c : Int) &&
    extentLow y z (st 32) (st 36) ≥ 0 && extentHigh y z (st 32) (st 36) + x ≤ (cardWlen c : Int) &&
    !regionsMeet (cardRbase c) (cardRlen c) (cardWbase c) (cardWlen c)

/-- GATHER and SCATTER (R290). Their strides are taken as unsigned: DESIGN CHOICE (log entry 88). -/
def indexedParamOk (t : Team) (c b : List Byte) : Bool :=
  let row := field b 8 4
  let n := field b 12 4
  let idx := field b 16 4
  let ss := field b 20 4
  let ds := field b 24 4
  let stat := field b 28 4
  within row 4 65536 && row % 4 == 0 && within n 1 65536 && idx % 4 == 0 && ss % 4 == 0 && ds % 4 == 0 &&
    (stat == 0xFFFFFFFF || (stat % 4 == 0 && stat + 4 ≤ t.decl.lstore)) && zeroBytes b 32 32 &&
    idx + 4 * n ≤ t.decl.lstore &&
    (if cardType c == 2 then (n - 1) * ds + row ≤ cardWlen c else (n - 1) * ss + row ≤ cardRlen c)

/-- XPOSE (R291). -/
def xposeParamOk (t : Team) (c b : List Byte) : Bool :=
  let blk := field b 8 4
  let p := field b 12 2
  let ss := field b 16 4
  let peer := field b 20 4
  within blk 16 (2 ^ 20) && blk % 16 == 0 && within p 1 4096 && field b 14 2 < p && blk ≤ ss && ss % 16 == 0 &&
    peer % 8 == 0 && peer + 8 * p ≤ t.decl.lstore && zeroBytes b 24 40 && (p - 1) * ss + blk ≤ cardRlen c

/-- The conditions of R57 on a tensor header record. -/
def tensorOk (r : List Byte) : Bool :=
  let fmt := field r 0 1
  let kind := field r 1 1
  let gs := field r 2 1
  let hs := field r 3 1
  let asym := fmt == 0x18 || fmt == 0x19
  let h := headerBytes' kind
  let row := field r 8 4 * fmtBits fmt / 8
  [0x01, 0x02, 0x03, 0x04, 0x05, 0x06, 0x08, 0x09, 0x0A, 0x0B, 0x0C, 0x10, 0x11, 0x12, 0x13, 0x18, 0x19].contains fmt &&
    (if asym then (kind == 1 || kind == 2) && within gs 1 3
     else if isMx fmt then kind == 3 && gs == 1
     else kind == 0 && gs == 0 && hs == 0) &&
    (hs == 0 || (asym && hs ≤ gs)) &&
    within (field r 8 4) 1 (2 ^ 31) && within (field r 12 4) 1 (2 ^ 31) &&
    (gs == 0 || field r 8 4 % groupElems gs == 0) && (fmtBits fmt != 4 || field r 8 4 % 2 == 0) &&
    row ≤ field r 16 8 && field r 16 8 % 16 == 0 && field r 24 8 % 16 == 0 &&
    (kind == 0 || (field r 32 8 % h == 0 && field r 40 8 % h == 0)) && zeroBytes r 4 4 && zeroBytes r 56 8

/-- n bytes at a region word lie in the write region. -/
def inWrite (c : List Byte) (r : DWord) (n : Nat) : Bool :=
  regionOk r && regionIsStore r && regionSpace r == regionSpace (cardWbase c) && regionOffset (cardWbase c) ≤ regionOffset r &&
    regionOffset r + n ≤ regionOffset (cardWbase c) + cardWlen c

/-- QUANT beyond R57 (R292). -/
def quantParamOk (c b : List Byte) : Bool :=
  let r := b.drop 64
  let fmt := field r 0 1
  let sf := field b 8 1
  let d0 := field r 8 4
  let d1 := field r 12 4
  let g := groupElems (field r 2 1)
  (sf == 8 || sf == 9 || sf == 0xA || sf == 0xB) && zeroBytes b 9 7 && field b 16 8 % 16 == 0 && zeroBytes b 24 40 &&
    (fmt == 0x18 || fmt == 0x19) && cardWlen c != 0 && regionIsStore (cardWbase c) &&
    inWrite c (BitVec.ofNat 64 (field r 24 8)) ((d1 - 1) * field r 16 8 + d0 * fmtBits fmt / 8) &&
    inWrite c (BitVec.ofNat 64 (field r 32 8)) ((d1 - 1) * field r 40 8 + d0 / g * headerBytes' (field r 1 1)) &&
    (d1 - 1) * field b 16 8 + d0 * fmtBits sf / 8 ≤ cardRlen c

/-- MXPRE (R293). -/
def mxpreParamOk (c b : List Byte) : Bool :=
  let sf := field b 8 1
  let df := field b 9 1
  let rows := field b 12 2
  let cols := field b 14 2
  let ss := field b 16 4
  let ds := field b 20 4
  (df == 8 || df == 9 || df == 0xA || df == 0xB || df == 6) && (sf == df || (df == 9 && (sf == 0xA || sf == 0xB)) || (df == 8 && sf == 9)) &&
    zeroBytes b 10 2 && within rows 1 256 && within cols 1 256 && ss % 4 == 0 && ds % 16 == 0 && zeroBytes b 24 40 &&
    (rows - 1) * ds + cols * fmtBits df / 8 ≤ cardWlen c &&
    (cardRlen c == 0 || (rows - 1) * ss + cols * fmtBits sf / 8 ≤ cardRlen c)

/-- Arrays of a compositor card: offset and length in bytes from their region's base. -/
structure CompArrays where
  reads : List (Nat × Nat)
  writes : List (Nat × Nat)
  deriving DecidableEq, Repr

/-- The arrays of a compositor card's block (R314, R318). -/
def compArrays (ty : Nat) (det : Bool) (b : List Byte) : CompArrays :=
  let o := fun k => 64 * field b k 4
  let n := field b 8 4
  let w := field b 12 2
  let h := field b 14 2
  let tiles := ceilDiv w 16 * ceilDiv h 16
  let pairs := 8 * field b 28 4
  match ty with
  | 0x10 => ⟨[(o 84, 64 * n)], [(o 88, 48 * n)]⟩
  | 0x11 => ⟨[(o 16, 48 * n)], [(o 20, pairs), (o 24, 8 * tiles), (o 32, 4)]⟩
  | 0x12 => ⟨[(o 16, 48 * n), (o 20, pairs), (o 24, 8 * tiles)], [(o 32, 32 * w * h), (o 36, 16 * w * h)]⟩
  | _ =>
    ⟨[(o 16, 48 * n), (o 20, pairs), (o 24, 8 * tiles), (o 32, 32 * w * h), (o 36, 16 * w * h), (o 40, 16 * w * h)],
      (o 44, 48 * n) :: if det then [(o 60, 48 * field b 28 4)] else []⟩

/-- No two of the ranges share a byte. -/
def disjointRanges : List (Nat × Nat) → Bool
  | [] => true
  | x :: rest => rest.all (fun y => x.1 + x.2 ≤ y.1 || y.1 + y.2 ≤ x.1) && disjointRanges rest

/-- Reserved bytes and limits of a compositor card's block. -/
def compFieldsOk (ty : Nat) (b : List Byte) : Bool :=
  let fin := fun k => f32finite (field b k 4)
  let zero32 := fun k => field b k 4 % 2 ^ 31 == 0
  within (field b 8 4) 1 (2 ^ 24) && within (field b 12 2) 1 8192 && within (field b 14 2) 1 8192 &&
    (match ty with
     | 0x10 =>
       fin 64 && fin 68 && fin 72 && fin 76 && !zero32 64 && !zero32 68 && fin 80 && f32lt 0 (field b 80 4) && zeroBytes b 92 36
     | 0x11 => within (field b 28 4) 1 (2 ^ 28) && zeroBytes b 36 28
     | 0x12 => within (field b 28 4) 1 (2 ^ 28) && zeroBytes b 40 8 && zeroBytes b 60 4
     | _ => within (field b 28 4) 1 (2 ^ 28))

/-- A compositor card (R312). -/
def compParamOk (det : Bool) (c b : List Byte) : Bool :=
  let a := compArrays (cardType c) det b
  let base := (cardWbase c).toNat
  compFieldsOk (cardType c) b && a.reads.all (fun x => x.1 + x.2 ≤ cardRlen c) && a.writes.all (fun x => x.1 + x.2 ≤ cardWlen c) &&
    disjointRanges a.writes && a.writes.all fun x => !regionsMeet (BitVec.ofNat 64 (base + x.1)) x.2 (cardRbase c) (cardRlen c)

/-- Step 6 but for R57. -/
def cardParamOk (t : Team) (c b : List Byte) : Bool :=
  match cardType c with
  | 1 => copyParamOk c b
  | 2 | 3 => indexedParamOk t c b
  | 4 => xposeParamOk t c b
  | 5 => quantParamOk c b
  | 6 => mxpreParamOk c b
  | _ => compParamOk (t.decl.det != 0) c b

/-- The binding of a handle equals a region. -/
def bindingIs (h : Handle) (r : DWord) (len : Nat) : Bool := h.region == r && h.len.toNat == len

/-- The checks of R285 from step 2 on. Of the parameter rules of QUANT, R57's are taken before R292's: DESIGN CHOICE (log entry
117). -/
def cardCheck (reduced : Bool) (t : Team) (c : List Byte) : Option CardErr :=
  let p := cardParam c
  let h := cardHandle c
  if t.ring.size == 0 || t.ring.stopped || !cardTypeOk (cardType c) || (reduced && !cardTypeReduced (cardType c)) ||
      cardFlags c ≥ 8 || !zeroBytes c 3 1 || !regionOk (cardRbase c) || !regionOk (cardWbase c) || p % 64 != 0 then
    some .format
  else if h != 0xFF && h ≥ t.decl.handles then some (.handle h)
  else if !cardSpacesOk c then some .permission
  else if cardRlen c != 0 && !t.regionFits (cardRbase c) (cardRlen c) then some (.bounds (regionOffset (cardRbase c)))
  else if cardWlen c != 0 && !t.regionFits (cardWbase c) (cardWlen c) then some (.bounds (regionOffset (cardWbase c)))
  else if p + paramSize (cardType c) > t.decl.lstore then some (.bounds p)
  else
    let b := t.lst.read p (paramSize (cardType c))
    if cardType c == 5 && !tensorOk (b.drop 64) then some (.tensor (p + 64))
    else if !cardParamOk t c b then some .format
    else if h != 0xFF && !bindingIs (t.handle h) (cardRbase c) (cardRlen c) && !bindingIs (t.handle h) (cardWbase c) (cardWlen c) then
      some .format
    else none

/-! ### ENQ (R281) -/

/-- Appended cards that have not retired; on a stopped ring those not accepted count as retired (R283). -/
def Team.unretired (t : Team) : Nat :=
  t.ring.cards.length + t.ring.again.length + if t.ring.stopped then 0 else (BitVec.ofNat 32 (t.lst.readNat 0 4) - t.ring.accepted).toNat

/-- The card is stored and NOTIFY released, or the thread waits while the ring is full, also where the ring stops meanwhile:
DESIGN CHOICE (log entry 87). -/
def enqAppend (o : EFmt) (c : List Byte) (s : State) : State :=
  let e := s.tm.ring.size
  if s.tm.unretired ≥ e then (s.mapTh fun t => { t with copy := some c }).block .ring
  else
    let n := s.tm.lst.readNat 0 4
    let s := s.storeWrite 0 (32 + 32 * (n % e)) c
    let s := ((s.release 0).storeWrite 0 0 (toBytes 4 ((n + 1) % 2 ^ 32))).noteAppend
    (s.mapTh fun t => { t with copy := none }).pendTo o.d 1 n

/-- What a failing check raises at the ENQ. -/
def State.cardTrap (s : State) (e : CardErr) : State :=
  match e with
  | .format => s.raise cCardFormat 0
  | .handle h => s.handleRange h none
  | .permission => s.raise cEnginePerm 0
  | .bounds o => s.raise cBounds o
  | .tensor o => s.raise cTensor o

def execEnq (o : EFmt) (s : State) : Out :=
  .next <|
    if s.active o.g then
      if s.th.migrated then s.raise cMigrated 0
      else
        match s.th.copy with
        | some c => enqAppend o c s
        | none =>
          let c := toBytes 32 (s.srcs o.a 8)
          match cardCheck (s.iod.service == .reduced) s.tm c with
          | some e => s.cardTrap e
          | none =>
            match s.tm.badIn 0 (cardParam c) (paramSize (cardType c)) with
            | some q => s.raise cDataError (16 * q)
            | none => enqAppend o c s
    else s

/-! ### Acceptance (R283) -/

/-- The append that a card belongs to: the first whose count lies beyond it (R150). -/
def Ring.appendOf (r : Ring) (n : Word) : Option Append := r.appends.find? fun a => countBefore n a.upto

/-- The append of the card that the sequencer accepts next: one that had been accepted before the team was saved, whether or not
the ring has stopped since (R283, R451); else the card at the count. -/
def Ring.nextCard (r : Ring) (notify : Word) (turn : Nat) : Option Append :=
  let ahead := (notify - r.accepted).toNat
  if r.size == 0 || r.cards.length ≥ r.size then none
  else if !r.again.isEmpty then r.again.head?
  else if r.stopped || ahead < 1 || ahead > r.size then none
  else some { (r.appendOf r.accepted).getD ⟨0, turn, 0⟩ with upto := r.accepted + 1 }

/-- The ring once its next card is accepted. -/
def Ring.takeNext (r : Ring) (k : Card) : Ring :=
  if !r.again.isEmpty then { r with cards := r.cards ++ [k], again := r.again.tail }
  else { r with
    accepted := r.accepted + 1, cards := r.cards ++ [k], appends := r.appends.filter fun x => countBefore (r.accepted + 1) x.upto }

/-- CARD_ACCEPT: the sequencer acquires NOTIFY, reads the next card and checks it. With a refused card stop those after it. -/
def execCardAccept (r : TeamRef) (s : State) : Out :=
  .next <|
    match s.runningTeam r with
    | none => s
    | some t =>
      match t.ring.nextCard (BitVec.ofNat 32 (t.lst.readNat 0 4)) s.turns with
      | none => s
      | some a =>
        let n := a.upto - 1
        let at' := 32 + 32 * (n.toNat % t.ring.size)
        let c := t.lst.read at' 32
        if t.badRange 0 at' 32 then s.killContext r.ctx 0x40 0
        else
          match cardCheck (s.iod.service == .reduced) { t with ring := { t.ring with stopped := false } } c with
          | some _ =>
            s.setTeam { t with ring := { t.ring with stopped := true, again := [] }, imprecise := t.imprecise ++ [(cEngineCard, at')] }
          | none =>
            if t.badRange 0 (cardParam c) (paramSize (cardType c)) then s.killContext r.ctx 0x40 0
            else
              let h := cardHandle c
              let k : Card :=
                { seq := n.toNat, bytes := c, blk := t.lst.read (cardParam c) (paramSize (cardType c)), tid := a.tid, place := a.place
                  phase := .waiting
                  writing := h != 0xFF && bindingIs (t.handle h) (cardWbase c) (cardWlen c)
                  exp2 := BitVec.ofNat 32 (ftabRec t.ftab 2).deg :: (ftabRec t.ftab 2).c, early := none
                  since := s.time }
              { s with turns := s.turns + 1 }.setTeam { t with ring := t.ring.takeNext k }

/-! ### Edges and starts (R149, R150, R286, R287) -/

/-- Whether a card in a phase still holds back a later one: RAW and WAW until it retires, WAR until its reads are
complete. -/
def edgeHolds (later earlier : List Byte) (ph : CardPhase) : Bool :=
  regionsMeet (cardRbase later) (cardRlen later) (cardWbase earlier) (cardWlen earlier) ||
    regionsMeet (cardWbase later) (cardWlen later) (cardWbase earlier) (cardWlen earlier) ||
    (ph != .readsDone && regionsMeet (cardWbase later) (cardWlen later) (cardRbase earlier) (cardRlen earlier))

/-- Appended cards that the sequencer has not accepted, with their places (R150). -/
def Team.pendingCards (t : Team) : List (Nat × List Byte) :=
  let cardAt := fun (m : Word) => t.lst.read (32 + 32 * (m.toNat % t.ring.size)) 32
  (t.ring.again.map fun a => (a.place, cardAt (a.upto - 1))) ++
  if t.ring.size == 0 || t.ring.stopped then []
  else
    let n := t.ring.accepted
    let ahead := min (BitVec.ofNat 32 (t.lst.readNat 0 4) - n).toNat t.ring.size
    (List.range ahead).filterMap fun i =>
      let m := n + BitVec.ofNat 32 i
      (t.ring.appendOf m).map fun a => (a.place, cardAt m)

/-- Group-flagged cards of the other teams of the cluster group that hold earlier places (R150). -/
def groupHolds (s : State) (t : Team) (k : Card) : Bool :=
  let g := s.gridOf t.ref.ctx t.ref.gid
  let mates := s.teams.filter fun x =>
    x.ref.ctx == t.ref.ctx && x.ref.gid == t.ref.gid && x.ref.team != t.ref.team && groupOf g x.ref.team == groupOf g t.ref.team
  cardGroup k.bytes &&
    mates.any fun x =>
      x.ring.cards.any (fun e => e.place < k.place && cardGroup e.bytes && edgeHolds k.bytes e.bytes e.phase) ||
        x.pendingCards.any fun e => e.1 < k.place && cardGroup e.2 && edgeHolds k.bytes e.2 .waiting

/-- A card may start (R286): edges, handle, time. -/
def cardReady (s : State) (t : Team) (k : Card) : Bool :=
  let earlier := t.ring.cards.takeWhile fun e => e.seq != k.seq
  let h := cardHandle k.bytes
  k.phase == .waiting && !(earlier.any fun e => edgeHolds k.bytes e.bytes e.phase) && !groupHolds s t k &&
    (h == 0xFF || t.admitsStart h k.writing) && (!cardTimed k.bytes || field k.blk 0 8 ≤ s.time)

def Team.mapCard (t : Team) (seq : Nat) (f : Card → Card) : Team :=
  { t with ring := { t.ring with cards := t.ring.cards.map fun c => if c.seq == seq then f c else c } }

def Team.card? (t : Team) (seq : Nat) : Option Card := t.ring.cards.find? fun c => c.seq == seq

/-- The start transition of a card's handle (R117). -/
def Team.startCard (t : Team) (k : Card) : Team :=
  let h := cardHandle k.bytes
  if h == 0xFF then t else t.startHandle h k.writing (!k.writing && !cardNoRelease k.bytes)

def Team.phaseCard (t : Team) (seq : Nat) (p : CardPhase) (now : Nat) : Team := t.mapCard seq fun c => { c with phase := p, since := now }

/-- A started card performs its reads and writes as one act: all of it, or, while an access waits for a translation or a
lock, nothing but the fault record (R107, R286). A request to which no reply comes kills the context, when the backup oscillator has
counted its time (R463). -/
def workCard (t : Team) (k : Card) (work : Card → State → Eng Unit) (s : State) : State :=
  let since := if k.phase == .started then k.since else s.time
  match work k (s.asTeam (t.phaseCard k.seq .moved s.time)) with
  | .error .noReply =>
    if askedEnd s.iod.lto ⟨since, true, false, 0, 0⟩ < s.time then (countLink s).killContext t.ref.ctx 0x40 0
    else s.setTeam (t.phaseCard k.seq .started since)
  | r => engDone (s.setTeam (t.phaseCard k.seq .started since)) t (cardType k.bytes ≥ 0x10) r

/-- A card of one type starts: its handle makes the start transition, and its accesses follow. -/
def runCard (ty : Nat) (r : TeamRef) (seq : Nat) (work : Card → State → Eng Unit) (s : State) : State :=
  match s.runningTeam r with
  | none => s
  | some t =>
    match t.card? seq with
    | none => s
    | some k =>
      if cardType k.bytes != ty || !cardReady s t k then s
      else workCard (t.startCard k) k work s

/-- A card starts and reads a typed store of its read region before the rest of its work, which ENGINE_FAULT_RETRY then performs
(R115). -/
def cardEarly (r : TeamRef) (seq : Nat) (s : State) : State :=
  match s.runningTeam r with
  | none => s
  | some t =>
    match t.card? seq with
    | none => s
    | some k =>
      if !regionIsStore (cardRbase k.bytes) || !cardReady s t k then s
      else
        s.setTeam ((t.startCard k).mapCard seq fun c =>
          { c with phase := .started, since := s.time, early := some (t.store (regionSpace (cardRbase k.bytes))) })

/-- What a card reads at an offset of its read region: of a typed store each aligned 4-byte word as it is, or as an earlier read
found it (R115). -/
def cardRead (k : Card) (s : State) (o : Int) (n : Nat) : Eng (List Byte) :=
  let r := cardRbase k.bytes
  engThen (regionRead s r o n) fun bs s =>
    match k.early with
    | some m =>
      let a := ((regionOffset r : Int) + o).toNat
      .ok (mixBytes (Config.choice (s.openKey (s.cardKey k))) a (m.read a n) bs, s)
    | none => .ok (bs, s)

/-! ### Completion (R117, R286) -/

/-- CARD_READS_COMPLETE: a reading card's handle makes its transition, and write-after-read edges are met. -/
def execCardReadsComplete (r : TeamRef) (seq : Nat) (s : State) : Out :=
  .next <|
    match s.placedTeam r with
    | none => s
    | some t =>
      match t.card? seq with
      | none => s
      | some k =>
        if k.phase != .moved then s
        else
          let h := cardHandle k.bytes
          let t := if h == 0xFF || k.writing then t else t.readsDoneHandle h (!cardNoRelease k.bytes)
          s.setTeam (t.phaseCard seq .readsDone s.time)

/-- CARD_RETIRE: every write is performed, at a peer acknowledged (R151), and a written handle becomes full. -/
def execCardRetire (r : TeamRef) (seq : Nat) (s : State) : Out :=
  .next <|
    match s.placedTeam r with
    | none => s
    | some t =>
      match t.card? seq with
      | none => s
      | some k =>
        if k.phase != .readsDone || s.ms.podOut.any (fun m => m.n != 0 && m.who == some (cardRef r seq)) then s
        else
          let h := cardHandle k.bytes
          let t := if h == 0xFF || !k.writing then t else t.enterHandle h .full
          s.setTeam { t with ring := { t.ring with cards := t.ring.cards.filter fun c => c.seq != seq } }

end Sys2Proof.Machine
end

