-- ==== Sys2Proof/Machine/Children.lean ====
section
/-! DEFINITION. The engine words of the function table and of child grids: FTLD, LAUNCH, CHWAIT (R294 to R296). -/

namespace Sys2Proof.Machine

/-! ### FTLD (R74, R294) -/

/-- Reads k sectors from an address at device scope, each after the checks of R252; the outcome of the first that
stops. -/
def tableRead (s : State) (va : Nat) : Nat → Except State (List Byte × State)
  | 0 => .ok ([], s)
  | k + 1 =>
    match s.checkGlobal va 16 .load 3 with
    | .stop s => .error s
    | .ok ha leaf s =>
      match s.gload leaf ha 16 3 with
      | none => .error (s.logTrap va)
      | some (bs, s) =>
        match tableRead s (va + 16) k with
        | .error s => .error s
        | .ok (cs, s) => .ok (bs ++ cs, s)

/-- FTLD: the table is read whole, checked, and put in force at one instant. -/
def execFtld (o : EFmt) (s : State) : Out :=
  .next <|
    if s.active o.g then
      let va := (s.srcPair o.a).toNat
      if !addrOk56 va then s.raise cRange va
      else if va % 4096 != 0 then s.raise cAlign va
      else
        match tableRead s va 256 with
        | .error s => s
        | .ok (bs, s) =>
          let s := s.acquire 2
          match ftabOfBytes bs with
          | none => s.raise cFuncTable va
          | some tab => s.mapTm fun t => { t with ftb := BitVec.ofNat 64 va, ftab := tab }
    else s

/-! ### LAUNCH (R34, R295) -/

/-- Whether a grid has retired. -/
def gridRetired (s : State) (ctx gid : Nat) : Bool := (s.gridOf ctx gid).st == .retired

/-- Child grids of the issuing team that have not retired. -/
def unretiredChildren (s : State) : Nat := (s.tm.children.filter fun g => !gridRetired s s.tm.ref.ctx g).length

/-- The descriptor is handed to the front end; the verdict comes back in `woke`: 0 refused, else the GRIDID. -/
def execLaunch (o : EFmt) (s : State) : Out :=
  .next <|
    if s.active o.g then
      let va := (s.srcPair o.a).toNat
      match s.th.woke with
      | some v =>
        let s := s.mapTh fun t => { t with woke := none }
        if v == 0 then s.raise cLDesc va else s.pendTo o.d 1 v.toNat
      | none =>
        if s.iod.launches.any (fun l => l.who == s.self) then s.block .launch
        else if s.th.migrated then s.raise cMigrated 0
        else if s.th.tid != 0 then s.raise cLLeader va
        else if s.grid.depth == 10 then s.raise cLDepth va
        else if !addrOk56 va then s.raise cRange va
        else if va % 64 != 0 then s.raise cAlign va
        else
          match leafFor s s.tm.ref.ctx s.th.bay va with
          | (.invalid lv, s) => s.xstop (.unmapped lv) va .load
          | (.format, s) => s.raise cPageFormat va
          | (.partition, s) => s.raise cPartition va
          | (.failed q, s) => s.xstop (.failed q) va .load
          | (.leaf _ _ _, s) =>
            if unretiredChildren s ≥ 256 then s.block .launch
            else
              let s := s.release 2
              State.block { s with iod := { s.iod with launches := s.iod.launches ++ [⟨s.self, va⟩] } } .launch
    else s

/-! ### CHWAIT (R296) -/

/-- Completion is the acquire of R136. -/
def execChwait (o : EFmt) (s : State) : Out :=
  .next <|
    if s.active o.g then
      let g := (s.src o.a).toNat
      if !s.tm.children.contains g then s.raise cChild 0
      else if gridRetired s s.tm.ref.ctx g then s.acquire 2
      else s.block .childGrid
    else s

/-- Which children it waits for is fixed when it first issues. -/
def execChwaitAll (o : EFmt) (s : State) : Out :=
  .next <|
    if s.active o.g then
      let n := match s.th.woke with | some w => w.toNat | none => s.tm.children.length
      if (s.tm.children.take n).all fun g => gridRetired s s.tm.ref.ctx g then
        (s.mapTh fun t => { t with woke := none }).acquire 2
      else (s.mapTh fun t => { t with woke := some (BitVec.ofNat 64 n) }).block .childGrid
    else s

end Sys2Proof.Machine
end

