-- ==== Sys2Proof/Machine/Sys.lean ====
section
/-! DEFINITION. The SYS words (R366 to R375) and words that are no instruction (R184). -/

namespace Sys2Proof.Machine

/-- TRAP, BRK and SYSC: a trap precisely at the word, with its code (R368). -/
def softTrap (cause : Nat) (o : EFmt) (s : State) : State :=
  if s.active o.g then s.raiseCode cause 0 o.arg.toNat else s

def execTrap (o : EFmt) (s : State) : Out := .next (softTrap cTrap o s)
def execBrk (o : EFmt) (s : State) : Out := .next (softTrap cBrk o s)
def execSysc (o : EFmt) (s : State) : Out := .next (softTrap cSysc o s)

/-- What a privileged word does: at user level the privileged-instruction trap (R181, R184 step 4). -/
def privileged (s : State) (k : State → State) : State := if s.th.sup then k s else s.raise cPrivileged 0

/-- ERET (R369). -/
def execEret (_ : EFmt) (s : State) : Out := .next (privileged s State.eret)

/-- The value of a privileged register (R373). -/
def State.pr (s : State) (n : Nat) : Nat :=
  let t := s.grp.view
  let c := s.ctxOf s.tm.ref.ctx
  match n with
  | 0x00 => (if t.sup then 1 else 0) + (if t.tl then 2 else 0)
  | 0x02 => c.svec.toNat
  | 0x04 => t.spc.toNat
  | 0x06 => t.scause.toNat
  | 0x08 => t.saddr.toNat
  | 0x0A => (nth t.sgrp 0 0).toNat
  | 0x0B => (nth t.sgrp 1 0).toNat
  | 0x0C => (nth t.sgrp 2 0).toNat
  | 0x10 => c.asid
  | 0x11 => c.id
  | 0x12 => c.part
  | 0x13 => c.fairk
  | 0x14 => (nth t.sscr 0 0).toNat
  | 0x16 => (nth t.sscr 1 0).toNat
  | 0x18 => (nth t.sscr 2 0).toNat
  | 0x1A => (nth t.sscr 3 0).toNat
  | 0x20 => s.iod.ctxtb
  | 0x22 => s.iod.lovb
  | 0x24 => s.iod.lovs
  | _ => 0

/-- RDPR (R370): a long result. -/
def execRdpr (o : EFmt) (s : State) : Out :=
  .next <| privileged s fun s => s.pendTo o.d (if pr64.contains o.arg.toNat then 2 else 1) (s.pr o.arg.toNat)

/-- The value FAIRIV stores (R374). -/
def fairValue (v : Nat) : Nat := if 8 ≤ v % 32 && v % 32 ≤ 16 then v % 32 else 11

/-- A write of a privileged register; one marked r ignores it (R370). A register held per context is written for
every thread of the context. -/
def State.setPr (s : State) (n : Nat) (v : DWord) : State :=
  let c := s.ctxOf s.tm.ref.ctx
  match n with
  | 0x02 => s.setCtx { c with svec := v }
  | 0x04 => s.mapTh fun t => { t with spc := v }
  | 0x13 => s.setCtx { c with fairk := fairValue v.toNat }
  | 0x14 => s.mapTh fun t => { t with sscr := t.sscr.set 0 v }
  | 0x16 => s.mapTh fun t => { t with sscr := t.sscr.set 1 v }
  | 0x18 => s.mapTh fun t => { t with sscr := t.sscr.set 2 v }
  | 0x1A => s.mapTh fun t => { t with sscr := t.sscr.set 3 v }
  | _ => s

/-- WRPR (R370). -/
def execWrpr (o : EFmt) (s : State) : Out :=
  .next <| privileged s fun s =>
    s.setPr o.arg.toNat (if pr64.contains o.arg.toNat then s.srcPair o.a else (s.src o.a).setWidth 64)

/-- Whether a context identifier belongs to a partition (R384). -/
def ctxInPart (s : State) (part id : Nat) : Bool :=
  let p := nth s.iod.parts part Part.unused
  p.ctxBase ≤ id && id < p.ctxBase + p.ctxCnt

/-- Writes back and drops the lines that bays still hold of a saved team's image (R371, R383), and brings all of it to its
system-scope point. -/
def flushTeam (s : State) (t : Team) : State :=
  if t.st == .saved && t.image != 0 then
    (t.lines.foldl (fun s l => match s.teams.find? fun x => x.ref == t.ref with | some x => evictLine s x l true | none => s) s).mapMs fun ms =>
      toHost ms t.image (imageSize t.decl)
  else s

/-- CTXFL (R371): waits for a shutter in progress, then writes back and reports. -/
def execCtxfl (o : EFmt) (s : State) : Out :=
  .next <| privileged s fun s =>
    let id := (s.src o.a).toNat
    if id ≥ 4096 || !ctxInPart s (s.ctxOf s.tm.ref.ctx).part id then s.pendTo o.d 1 2
    else
      let ts := s.teams.filter fun t => t.ref.ctx == id
      if ts.any (fun t => t.st == .running) || id == s.tm.ref.ctx then s.pendTo o.d 1 1
      else if ts.any (fun t => t.st == .shuttered) then s.block .flush
      else (ts.foldl flushTeam s).pendTo o.d 1 0

/-- HALT (R372): kills the context with its reason. -/
def execHalt (o : EFmt) (s : State) : Out :=
  .next <| privileged s fun s => s.killContext s.tm.ref.ctx 0x45 o.arg.toNat

/-- A word that is no instruction (R184 steps 1 to 3); a word that is one does nothing here. -/
def execNonInstructionWord (w : Word) (s : State) : Out :=
  .next <|
    match decode w with
    | .error .badMajor => s.raise cIllegal 0
    | .error .undefinedCode => s.raise cUndefined 0
    | .error .badField => s.raise cIllegal 0
    | .ok _ => s

end Sys2Proof.Machine
end

