-- ==== Sys2Proof/Machine/FrontEnd.lean ====
section
/-! DEFINITION. The launch front end: its accesses, descriptors, host queues, dependences and timed starts (R74, R376, R377,
R384, R389 to R398). -/

namespace Sys2Proof.Machine

/-! ### Front-end accesses (R129, R400, R442, R447) -/

/-- The place from which the front end translates: die 14, outside every bay. -/
def frontBay : Nat := 14 * 96

def frontAccessor (ctx gid : Nat) : Accessor := ⟨ctx, frontBay, false, false, gid, 2 ^ 32 - 1, true⟩

/-- Why a front-end access is not performed: a translation fault, a lock, another fault, or a failed sector. -/
inductive FeStop where
  | unmapped (va level : Nat)
  | locked
  | fault
  | failed (sec : Nat)
  deriving DecidableEq, Repr

abbrev Fe (α : Type) : Type := Except FeStop (α × State)

/-- The home address of n bytes of one sector. -/
def feHome (s : State) (ctx gid va n : Nat) (wr : Bool) : Fe Nat :=
  if !addrOk56 va then .error .fault
  else
    match translate s (frontAccessor ctx gid) (if wr then .engineWrite else .unit) va with
    | (.ok l sz, s) =>
      let ha := leafHa l (2 ^ sz) va
      if (!wr || n < 16) && s.ms.lost (ha / 16) then .error (.failed (ha / 16))
      else .ok (ha, s.podAnew (backRef ctx) false ha n)
    | (.unmapped lv, _) => .error (.unmapped va lv)
    | (.locked, _) => .error .locked
    | (.failed q, _) | (.lost q, _) => .error (.failed q)
    | (.fault _, _) => .error .fault

/-- Reads at home slices, a system-scope acquire (R391). -/
def feReadGo (ctx gid : Nat) : Nat → State → Nat → Nat → Fe (List Byte)
  | 0, s, _, _ => .ok ([], s)
  | k + 1, s, va, n =>
    if n == 0 then .ok ([], s)
    else
      let m := min n (16 - va % 16)
      match feHome s ctx gid va m false with
      | .error e => .error e
      | .ok (ha, s) =>
        match feReadGo ctx gid k s (va + m) (n - m) with
        | .error e => .error e
        | .ok (bs, s) => .ok (homeRead s.ms ha m ++ bs, s)

def feRead (s : State) (ctx gid va n : Nat) : Fe (List Byte) := feReadGo ctx gid (n / 16 + 2) s va n

/-- A write of at most 16 bytes of one sector at its system-scope point (R400): of a pod-tier line at the peer, of a host-tier
line in the host's memory. -/
def feStore (s : State) (ctx ha : Nat) (b : List Byte) : State :=
  s.mapMs fun ms =>
    let ms' := homeWrite ms ha b
    if isPod ha then podSend (podSettle ms ms' ha b.length) (some (backRef ctx)) ha b.length (ofBytes b) true
    else toHost ms' ha b.length

/-- Writes at the system-scope point. -/
def feWriteGo (ctx gid : Nat) : Nat → State → Nat → List Byte → Fe Unit
  | 0, s, _, _ => .ok ((), s)
  | k + 1, s, va, bs =>
    if bs.isEmpty then .ok ((), s)
    else
      let m := 16 - va % 16
      match feHome s ctx gid va (min m bs.length) true with
      | .error e => .error e
      | .ok (ha, s) =>
        let b := bs.take m
        feWriteGo ctx gid k (feStore s ctx ha b) (va + m) (bs.drop m)

def feWrite (s : State) (ctx gid va : Nat) (bs : List Byte) : Fe Unit := feWriteGo ctx gid (bs.length / 16 + 2) s va bs

/-- What a stop leaves of the state: a fault record for a translation fault (R442), a kill for a failed sector
(R447), and for any other fault what the caller says. -/
def feStopped (s : State) (ctx gid : Nat) (e : FeStop) (other : State → State) : State :=
  match e with
  | .unmapped va lv => faultRecord s (frontAccessor ctx gid) .unit va lv
  | .locked => s
  | .failed q => s.killLost ctx q
  | .fault => other s

/-- A front-end fault of its own kills the context (R400). -/
def feKill (ctx : Nat) (s : State) : State := s.killContext ctx 0x40 0

/-! ### Contexts and the context table (R376, R377, R384) -/

def ctxEntryAt (s : State) (id : Nat) : Nat := s.iod.ctxtb + 64 * id

/-- Writes STATE of a context's entry; without a table there is none (R470). -/
def setCtxState (s : State) (id code : Nat) : State :=
  if s.iod.ctxtb == 0 then s else s.mapMs fun ms => homeWrite ms (ctxEntryAt s id) (toBytes 1 code)

/-- Reserved fields of a context's entry are zero (R4, R376). -/
def ctxEntryOk (e : List Byte) : Bool := zeroBytes e 5 3 && zeroBytes e 32 32

/-- A context as its entry gives it; the low five bits of FAIRK are taken as a write of FAIRIV takes them: DESIGN CHOICE (log entry
118). -/
def ctxOfEntry (id : Nat) (e : List Byte) (next : Nat) : Ctx where
  id := id
  st := .saved
  part := field e 1 1
  asid := field e 2 2
  fairk := fairValue (field e 4 1)
  ptroot := BitVec.ofNat 64 (field e 8 8)
  svec := BitVec.ofNat 64 (field e 16 8)
  nextGid := next
  killn := 0

/-- Puts a context into the module's list. -/
def putCtx (s : State) (c : Ctx) : State := { s with ctxs := c :: s.ctxs.filter fun x => x.id != c.id }

/-- Whether another resident context holds an ASID. -/
def asidTaken (s : State) (id asid : Nat) : Bool := s.ctxs.any fun c => c.id != id && c.asid == asid && (c.st == .resident || c.st == .killing)

/-- Whether a context lies in a partition with its ASID. -/
def ctxFits (s : State) (part : Nat) (c : Ctx) : Bool :=
  let p := nth s.iod.parts part Part.unused
  c.part == part && p.valid && ctxInPart s part c.id && p.asidBase ≤ c.asid && c.asid < p.asidBase + p.asidCnt

/-- What a launch finds of its context. -/
inductive CtxRes where
  | ok (c : Ctx) (s : State)
  | wait
  | refuse

/-- A context as the module would hold it if a team of it were placed now: as it stands while resident, else as its entry gives
it, none where that breaks R4, R377 or R384, or where there is no context table (R470). -/
def ctxNow (s : State) (id : Nat) : Option Ctx :=
  let c := s.ctxOf id
  if c.st == .resident then some c
  else if s.iod.ctxtb == 0 then none
  else
    let e := homeRead s.ms (ctxEntryAt s id) 64
    let d := ctxOfEntry id e c.nextGid
    if ctxEntryOk e && ctxFits s d.part d && !asidTaken s id d.asid then some d else none

/-- A resident context as the module holds it; another one as its entry gives it. GRIDIDs start afresh when the entry
has been free and no grid of the context is left (R395). -/
def ctxFor (s : State) (part id : Nat) : CtxRes :=
  let e := homeRead s.ms (ctxEntryAt s id) 64
  let live := s.grids.any fun g => g.ctx == id && g.st != .retired
  let take := fun (next : Nat) =>
    let c := ctxOfEntry id e next
    if !ctxEntryOk e || !ctxFits s part c then .refuse else if asidTaken s id c.asid then .wait else .ok c (putCtx s c)
  match s.ctx? id with
  | some c =>
    match c.st with
    | .resident => if ctxFits s part c then .ok c s else .refuse
    | .killing => .wait
    | .killed => if field e 0 1 == 0 then take 1 else .wait
    | _ => if field e 0 1 == 3 then .wait else take (if field e 0 1 == 0 && !live then 1 else c.nextGid)
  | none => if field e 0 1 == 3 then .wait else take 1

/-! ### Descriptors (R389, R390, R342, R388) -/

def descOk (d : List Byte) (child : Bool) : Bool :=
  let kind := field d 0 1
  let fl := field d 1 1
  kind < 2 && fl < 4 && field d 2 1 ≤ 8 && (!child || field d 3 1 < 8) && 1 ≤ field d 4 4 && field d 4 4 ≤ 2 ^ 24 &&
    field d 8 8 % 64 == 0 && field d 32 8 % 4 == 0 && zeroBytes d 44 4 && field d 48 8 % 4 == 0 && field d 56 8 % 64 == 0 &&
    (field d 56 8 != 0 || (kind == 0 && !bitAt fl 1))

def extOk (d x : List Byte) : Bool :=
  field x 8 8 % 4 == 0 && (field x 8 8 != 0) == (field d 0 1 == 1) && field x 16 8 % 4096 == 0 && field x 24 8 % 4096 == 0 &&
    field x 32 8 % 64 == 0 && zeroBytes x 40 24

/-- A kernel record's fields, with the units of R335. -/
def krecOk (k : List Byte) : Bool :=
  let e := field k 32 2
  1 ≤ field k 8 2 && field k 8 2 ≤ 1024 && [8, 16, 32, 64].contains (field k 10 1) && field k 12 4 % 4096 == 0 &&
    field k 16 4 % 4096 == 0 && field k 20 4 % 16384 == 0 && field k 24 4 % 4096 == 0 && (e == 0 || (e == pow2Floor e && 4 ≤ e)) &&
    zeroBytes k 34 2 && field k 36 4 ≤ 65536 && zeroBytes k 44 4 && packetOffset (field k 48 8) && addrOk56 (field k 48 8) &&
    field k 56 8 % 4096 == 0

def declOf (k : List Byte) : Decl where
  dim := field k 8 2
  width := field k 10 1
  cls := field k 11 1
  lstore := field k 12 4
  astore := field k 16 4
  wstore := field k 20 4
  cstore := field k 24 4
  handles := field k 28 1
  streams := field k 29 1
  phasers := field k 30 1
  cphasers := field k 31 1
  ring := field k 32 2
  det := field k 36 4
  entry := BitVec.ofNat 64 (field k 48 8)
  ftab := BitVec.ofNat 64 (field k 56 8)

/-- Limits of R37 and F1 (R348): the four stores, handles, streams, phasers, cluster phasers, ring. -/
def declWithin (d : Decl) (l a w c h st p cp r : Nat) : Bool :=
  d.lstore ≤ l && d.astore ≤ a && d.wstore ≤ w && d.cstore ≤ c && d.handles ≤ h && d.streams ≤ st && d.phasers ≤ p &&
    d.cphasers ≤ cp && d.ring ≤ r

def declOk (d : Decl) : Bool :=
  declWithin d 262144 524288 524288 262144 64 4 16 8 1024 && (d.ring == 0 || 32 * (d.ring + 1) ≤ d.lstore) &&
    (d.cls == 1 || (d.cls == 0 && declWithin d 131072 262144 262144 131072 32 2 8 4 64))

/-- Bays of a partition that are not fused off and whose die has not failed. -/
def partBays (s : State) (part : Nat) : List Nat :=
  let p := nth s.iod.parts part Part.unused
  (List.range 768).filter fun b =>
    bitAt p.cdmask (b / 96) && bayCap s b != 0 && (nth s.iod.dies (b / 96) { Die.none with st := .failed }).st != .failed

/-- Teams of one declaration that an empty bay of a cap holds under R402, counting from what stands there. -/
def bayCapacity (cap : Nat) (d : Decl) : Nat → Nat → Nat → Nat
  | 0, _, n => n
  | fuel + 1, used, n =>
    let room := fun (f : Decl → Nat) (lim : Nat) => (n + 1) * f d ≤ lim
    let w := grantFor d.width cap 64
    let pcap := if used + slotsFor d.dim w > 36 then 32 else 64
    let w := grantFor d.width cap pcap
    if room Decl.lstore 262144 && room Decl.astore 524288 && room Decl.wstore 524288 && room Decl.cstore 262144 &&
        room Decl.handles 64 && room Decl.streams 4 && room Decl.phasers 16 && used + slotsFor d.dim w ≤ 48 then
      bayCapacity cap d fuel (used + slotsFor d.dim w) (n + 1)
    else n

/-- Whether a co-resident launch fits an empty partition (R33): whole cluster groups, each on one cluster. -/
def coResidentFits (s : State) (part : Nat) (d : Decl) (nteams group : Nat) : Bool :=
  let bays := partBays s part
  let groups := ceilDiv nteams group
  let short := nteams - (groups - 1) * group
  let caps := (List.range 96).map fun c => sumBy (bays.filter fun b => clusterOf b == c) fun b => bayCapacity (bayCap s b) d 48 0 0
  let lim := fun (n : Nat) => if d.cphasers == 0 then n else min n (8 / d.cphasers)
  let full := sumBy caps fun n => lim (n / group)
  -- the last group may be short: it fits where a whole one does, or in what a cluster has left
  full ≥ groups ||
    (full + 1 == groups && short < group &&
      caps.any fun n => n % group ≥ short && (d.cphasers == 0 || n / group < 8 / d.cphasers))

/-! ### Acceptance (R391, R395) -/

/-- What the front end makes of a descriptor. -/
inductive AccOut where
  | stall (e : FeStop)
  | refused (reason cmpl : Nat) (s : State)
  | ok (gid : Nat) (s : State)

/-- Grids accepted and not retired in a partition (R395). -/
def partGrids (s : State) (part : Nat) : Nat := (s.grids.filter fun g => g.st != .retired && (s.ctxOf g.ctx).part == part).length

/-- The next GRIDID: not 0 and not held by an unretired grid. -/
def nextGridId (s : State) (ctx : Nat) : Nat → Nat → Nat
  | 0, g => g
  | k + 1, g =>
    let g := if g % 2 ^ 32 == 0 then 1 else g % 2 ^ 32
    if s.grids.any fun x => x.ctx == ctx && x.gid == g && x.st != .retired then nextGridId s ctx k (g + 1) else g

/-- A read at acceptance: a lock stalls it, a memory fault refuses with a reason. -/
def accRead (s : State) (ctx va n cmpl : Nat) (k : List Byte → State → AccOut) : AccOut :=
  match feRead s ctx 0 va n with
  | .ok (bs, s) => k bs s
  | .error .locked => .stall .locked
  | .error (.failed q) => .stall (.failed q)
  | .error (.unmapped va lv) => .refused 6 cmpl (faultRecord s (frontAccessor ctx 0) .unit va lv)
  | .error .fault => .refused 6 cmpl s

/-- Checks 9 to 11, then the grid enters the front end. -/
def acceptGrid (s : State) (c : Ctx) (d x : List Byte) (decl : Decl) (tab : List FRec) (prio depth : Nat) (parent : Option TeamRef)
    (cmpl : Nat) : AccOut :=
  let cores := bitAt (field d 1 1) 0
  let group := if field d 2 1 == 0 then 1 else field d 2 1
  let n := field d 4 4
  let fromDet := match parent with | some r => (s.gridOf r.ctx r.gid).decl.det != 0 | none => false
  if !declOk decl then .refused 3 cmpl s
  else if fromDet ||
      (decl.det != 0 && (cores || decl.det % group != 0 || !(partBays s c.part).any fun b => decl.width ≤ bayCap s b)) then
    .refused 5 cmpl s
  else if cores && !coResidentFits s c.part decl n group then .refused 4 cmpl s
  else
    let gid := nextGridId s c.id (s.grids.length + 2) c.nextGid
    let g : Grid :=
      { Grid.blank c.id gid with
        st := .waiting
        cond := field d 0 1 == 1
        cores := cores
        timed := bitAt (field d 1 1) 1
        group := group
        prio := prio
        nteams := n
        decl := decl
        ftab := tab
        args := BitVec.ofNat 64 (field d 16 8)
        rngkey := BitVec.ofNat 64 (field d 24 8)
        depaddr := field d 32 8
        depval := field d 40 4
        sigaddr := field d 48 8
        tstart := field x 0 8
        predaddr := field x 8 8
        logbase := field x 16 8
        logsize := if field x 16 8 == 0 then 0 else field x 24 8
        cmpl := cmpl
        depth := depth
        parent := parent
        order := s.iod.accepted
        waitSince := s.time
        cph := if decl.cphasers == 0 then [] else List.replicate (ceilDiv n group) (List.replicate 8 0) }
    let s := { s with
      grids := s.grids.filter (fun (y : Grid) => !(y.ctx == c.id && y.gid == gid)) ++ [g]
      iod := { s.iod with accepted := s.iod.accepted + 1 } }
    .ok gid (s.setCtx { (s.ctxOf c.id) with nextGid := (gid + 1) % 2 ^ 32 })

/-- Whether the packet at an address stands in a line that marks it an entry packet (R169, R388). -/
def entryMarked (s : State) (ctx entry cmpl : Nat) (k : Bool → State → AccOut) : AccOut :=
  match feRead s ctx 0 (entry / 64 * 64 + 60) 4 with
  | .ok (b, s) => k (bitAt (ofBytes b) (entry % 64 / 12)) s
  | .error .locked => .stall .locked
  | .error (.failed q) => .stall (.failed q)
  | .error (.unmapped va lv) => .refused 2 cmpl (faultRecord s (frontAccessor ctx 0) .unit va lv)
  | .error .fault => k false s

/-- R391 from check 2 on. -/
def acceptDesc (s : State) (c : Ctx) (d : List Byte) (prio depth : Nat) (parent : Option TeamRef) : AccOut :=
  if !descOk d parent.isSome then .refused 1 0 s
  else
    let afterExt := fun (x : List Byte) (s : State) =>
      let cmpl := field x 32 8
      if field d 56 8 != 0 && !extOk d x then .refused 1 (if cmpl % 64 == 0 then cmpl else 0) s
      else
        accRead s c.id (field d 8 8) 64 cmpl fun k s =>
          if !krecOk k then .refused 2 cmpl s
          else entryMarked s c.id (field k 48 8) cmpl fun marked s =>
            let decl := declOf k
            if !marked then .refused 2 cmpl s
            else if decl.ftab == 0 then acceptGrid s c d x decl trigA prio depth parent cmpl
            else
              accRead s c.id decl.ftab.toNat 4096 cmpl fun t s =>
                match ftabOfBytes t with
                | none => .refused 7 cmpl s
                | some tab => acceptGrid s c d x decl tab prio depth parent cmpl
    if field d 56 8 == 0 then afterExt (List.replicate 64 0) s else accRead s c.id (field d 56 8) 64 0 afterExt

/-! ### Dependences (R396, R397) -/

/-- The predicate of a conditional grid, read once its dependence is met; the grid is then ready, or skipped. -/
def resolvePred (s : State) (g : Grid) : State :=
  if !g.cond then s.setGrid { g with st := .ready, waitSince := s.time }
  else
    match feRead s g.ctx g.gid g.predaddr 4 with
    | .ok (bs, s) =>
      if ofBytes bs == 0 then s.setGrid { g with st := .ready, status := 2 }
      else s.setGrid { g with st := .ready, waitSince := s.time }
    | .error e => feStopped (s.setGrid g) g.ctx g.gid e (feKill g.ctx)

/-- The entry of a grid, if it holds one. -/
def gridLatch (s : State) (g : Grid) : Option Latch := s.ms.latches.find? fun l => l.who == .grid g.ctx g.gid

/-- The event word is checked at its home slice and an entry registered if it does not hold, as one act; an event word
that holds, or none, meets the dependence. -/
def registerDep (s : State) (g : Grid) : State :=
  if g.depaddr == 0 then resolvePred s g
  else
    match feHome s g.ctx g.gid g.depaddr 4 false with
    | .error e => feStopped s g.ctx g.gid e (feKill g.ctx)
    | .ok (ha, s) =>
      let die := match leafFor s g.ctx frontBay g.depaddr with | (.leaf l _ _, _) => leafHome l | _ => 0
      let l : Latch :=
        ⟨.grid g.ctx g.gid, 0, 0, homeSlice die ha, ha, 5, false, BitVec.ofNat 64 g.depval, none, .table, false, false, s.time, none⟩
      if latchHolds s.ms l then resolvePred s { g with depaddr := 0 }
      else s.register { l with place := if isPod ha then .peer else latchPlace s l }

/-- DEPENDENCE_MET. A grid whose event word or predicate could not be read before is tried again. -/
def execDependenceMet (ctx gid : Nat) (s : State) : Out :=
  .next <|
    let g := s.gridOf ctx gid
    if g.st != .waiting || !s.alive ctx then s
    else
      match gridLatch s g with
      | none => registerDep s g
      | some l =>
        if l.outcome == some true || (l.place == .bay && latchHolds s.ms l) then
          resolvePred (s.mapMs fun ms => { ms with latches := ms.latches.filter fun x => x.who != .grid ctx gid }) { g with depaddr := 0 }
        else s

/-- GRID_TIMED_START (R398). -/
def execGridTimedStart (ctx gid : Nat) (s : State) : Out :=
  .next <|
    let g := s.gridOf ctx gid
    if g.st != .retired && g.timed && g.tstart ≤ s.time then s.setGrid { g with timed := false } else s

/-! ### Completion records (R399) -/

def completionRecord (status reason gid phases tbegin tend reruns killn : Nat) : List Byte :=
  toBytes 4 status ++ toBytes 4 reason ++ toBytes 4 gid ++ toBytes 4 phases ++ toBytes 8 tbegin ++ toBytes 8 tend ++ toBytes 4 reruns ++
    toBytes 4 killn ++ toBytes 24 0

/-- Bytes 16 to 63 first, then 0 to 15. -/
def writeCompletion (s : State) (ctx gid cmpl : Nat) (r : List Byte) : Fe Unit :=
  if cmpl == 0 then .ok ((), s)
  else
    match feWrite s ctx gid (cmpl + 16) (r.drop 16) with
    | .error e => .error e
    | .ok (_, s) => feWrite s ctx gid cmpl (r.take 16)

/-! ### Host queues (R392 to R394) -/

/-- The partition that owns a queue. -/
def queuePart (s : State) (q : Nat) : Option Nat := (List.range 8).find? fun i =>
  match s.iod.parts[i]? with | some p => p.valid && bitAt p.qmask q | none => false

def queueAt (s : State) (q : Nat) : Nat := s.iod.lqtb + 32 * q

/-- A queue's descriptor; while LQTB is 0 every queue reads as disabled (R470), and one with a reserved field that is not zero
is refused as a disabled one is (R4, which names no fault for it; log entry 91). -/
def queueDesc (s : State) (q : Nat) : List Byte :=
  let d := homeRead s.ms (queueAt s q) 32
  if s.iod.lqtb == 0 || !zeroBytes d 22 10 then List.replicate 32 0 else d

/-- Reduced service is available once compute die 0 and memory stack 0 are trained, and full service serves every die
(R472, R473). -/
def State.inService (s : State) : Bool :=
  match s.iod.service with
  | .full => true
  | .reduced => (match s.iod.dies[0]? with | some d => d.st == .ready || d.st == .degraded | none => false)
  | _ => false

/-- Sets a STATUS bit of a queue descriptor. -/
def setQueueStatus (s : State) (q bit : Nat) : State :=
  let at' := queueAt s q + 21
  s.mapMs fun ms => homeWrite ms at' (toBytes 1 (homeNat ms at' 1 ||| 2 ^ bit))

def setQueue (s : State) (q : Nat) (f : HostQueue → HostQueue) : State := { s with iod := { s.iod with queues := updAt s.iod.queues q f } }

/-- LQDB_WRITE (R393). -/
def execLqdbWrite (v : BitVec 64) (s : State) : Out :=
  .next <|
    let q := v.toNat % 64
    let tail := v.toNat / 2 ^ 32
    let h := nth s.iod.queues q ⟨0, 0⟩
    let qd := queueDesc s q
    if !bitAt (field qd 20 1) 0 then s
    else if (BitVec.ofNat 32 tail - h.head).toNat > 2 ^ field qd 19 1 then setQueueStatus s q 1
    else setQueue s q fun h => { h with tail := BitVec.ofNat 32 tail }

/-- A slot is judged: it counts as accepted, and what is still to be done before the queue goes on is noted. -/
def judgeSlot (s : State) (p : QueuePass) : State :=
  let s := setQueue s p.queue fun h => { h with head := h.head + 1 }
  { s with iod := { s.iod with passes := s.iod.passes ++ [p] } }

/-- The queue has passed its slot. -/
def passed (s : State) (q : Nat) : State := { s with iod := { s.iod with passes := s.iod.passes.filter fun p => p.queue != q } }

/-- The head count is written; a locked page stalls the write, and a fault stops the queue (R394). -/
def passSlot (s : State) (p : QueuePass) : State :=
  match feWrite s p.ctx 0 p.headAddr (toBytes 4 (nth s.iod.queues p.queue ⟨0, 0⟩).head.toNat) with
  | .ok (_, s) => passed s p.queue
  | .error .locked => s
  | .error e => passed (setQueueStatus (feStopped s p.ctx 0 e id) p.queue 0) p.queue

/-- What is left of a slot: the completion record of a refused launch, which waits for its translation or kills the context
(R400), then the head count. -/
def goOnPass (s : State) (p : QueuePass) : State :=
  match writeCompletion s p.ctx 0 p.cmpl (completionRecord 3 p.reason 0 0 0 s.time 0 0) with
  | .ok (_, s) => passSlot { s with iod := { s.iod with passes := s.iod.passes.map fun x => if x.queue == p.queue then { x with cmpl := 0 } else x } } p
  | .error .locked => s
  | .error (.unmapped va lv) => feStopped s p.ctx 0 (.unmapped va lv) id
  | .error e => passSlot (feStopped s p.ctx 0 e (feKill p.ctx)) p

/-- The next slot of a host queue. PRIO is taken modulo 8 and LOG2N as it stands: DESIGN CHOICE (log entry 119). A slot or head count that lies where the queue's context cannot be used is a fault that stops
the queue. -/
def nextSlot (s : State) (q : Nat) (qd : List Byte) (h : HostQueue) (part : Nat) : State :=
  let id := field qd 16 2
  match ctxFor s part id with
  | .wait => s
  | .refuse => setQueueStatus (setQueue s q fun h => { h with head := h.head + 1 }) q 0
  | .ok c s1 =>
    let pass := fun (cmpl reason : Nat) => (⟨q, id, cmpl, reason, field qd 8 8⟩ : QueuePass)
    match feRead s1 id 0 (field qd 0 8 + 64 * (h.head.toNat % 2 ^ field qd 19 1)) 64 with
    | .error .locked => s
    | .error e => setQueueStatus (feStopped s1 id 0 e (fun s => s)) q 0
    | .ok (d, s1) =>
      match acceptDesc s1 c d (field qd 18 1 % 8) 0 none with
      | .stall (.failed q) => s1.killLost id q
      | .stall _ => s
      | .refused reason cmpl s2 => let p := pass cmpl reason; goOnPass (judgeSlot s2 p) p
      | .ok gid s2 => let p := pass 0 0; passSlot (judgeSlot (registerDep s2 (s2.gridOf id gid)) p) p

/-- A host queue goes on: with what is left of the slot it has judged, or with its next slot. -/
def acceptQueue (s : State) (q : Nat) : State :=
  let qd := queueDesc s q
  let h := nth s.iod.queues q ⟨0, 0⟩
  if s.iod.ctxtb == 0 || !s.inService then s
  else
    match s.iod.passes.find? fun p => p.queue == q with
    | some p => if p.cmpl == 0 then passSlot s p else goOnPass s p
    | none =>
      if !bitAt (field qd 20 1) 0 || bitAt (field qd 21 1) 0 || h.head == h.tail then s
      else
        match queuePart s q with
        | none => s
        | some part => if partGrids s part ≥ 16384 then s else nextSlot s q qd h part

/-- A LAUNCH that waits: its verdict, and on acceptance the team's new child (R295, R296). -/
def acceptChild (s : State) (r : ThreadRef) : State :=
  match s.iod.launches.find? fun l => l.who == r, s.runningTeam r.team with
  | some l, some t =>
    let c := s.ctxOf r.team.ctx
    if partGrids s c.part ≥ 16384 then s
    else
      let g := s.gridOf r.team.ctx r.team.gid
      let verdict := fun (s : State) (v : Nat) =>
        let s := { s with iod := { s.iod with launches := s.iod.launches.filter fun l => l.who != r } }
        match s.team? r.team with
        | none => s
        | some t =>
          s.setTeam { t with
            children := if v == 0 then t.children else t.children ++ [v]
            threads := t.threads.map fun x => if x.tid == r.tid then { x with woke := some (BitVec.ofNat 64 v) } else x }
      match accRead s c.id l.desc 64 0 (fun d s => acceptDesc s c d (field d 3 1) (g.depth + 1) (some t.ref)) with
      | .stall (.failed q) => s.killLost c.id q
      | .stall _ => s
      | .refused _ _ s => verdict s 0
      | .ok gid s => verdict (registerDep s (s.gridOf c.id gid)) gid
  | _, _ => s

/-- LAUNCH_ACCEPT (R391). -/
def execLaunchAccept (src : LaunchSrc) (s : State) : Out :=
  .next <|
    match src with
    | .queue q => acceptQueue s q
    | .child r => acceptChild s r

end Sys2Proof.Machine
end

