-- ==== Sys2Proof/Machine/Place.lean ====
section
/-! DEFINITION. Placement, shuttering, saving, resumption and retirement of teams (R20 to R42, R401 to R404, R440, R450 to
R454). -/

namespace Sys2Proof.Machine

/-! ### What is offered (R401, R405, R454) -/

/-- The teams of a grid the module knows. -/
def gridTeams (s : State) (g : Grid) : List Team := s.teams.filter fun t => t.ref.ctx == g.ctx && t.ref.gid == g.gid

/-- The next team of a grid to start: the lowest-numbered that has none yet, within the phase of a deterministic
launch. -/
def nextTeam (s : State) (g : Grid) : Option Nat :=
  let ts := gridTeams s g
  ((List.range (g.placed + 1)).find? fun i => i < g.nteams && !(ts.any fun t => t.ref.team == i)).filter fun i =>
    g.decl.det == 0 || i / g.decl.det ≤ g.phases

/-- Whether placement may offer teams of a grid. -/
def gridOffers (s : State) (g : Grid) : Bool :=
  g.st == .ready && g.status == 0 && !g.timed && s.alive g.ctx && (ctxNow s g.ctx).isSome

/-- A child grid that the CHWAIT of a thread awaits has retired; for one whose word cannot be fetched, any child (R296, R454). -/
def childMet (s : State) (t : Team) (x : Thread) : Bool :=
  let gone := fun (g : Nat) => gridRetired s t.ref.ctx g
  match (groupOfThread s t.ref x).1 with
  | [] => t.children.any gone
  | ws => ws.any fun w =>
    match decode w with
    | .ok (.chwait o) => gone (x.reg o.a.toNat).toNat
    | .ok (.chwaitAll _) => (match x.woke with | some n => t.children.take n.toNat | none => t.children).all gone
    | _ => false

/-- Whether a blocked thread's wait has ended while its team was saved; none for a wait that only its own team can
end. -/
def outsideWait (s : State) (t : Team) (x : Thread) : Option Bool :=
  match x.status with
  | .blocked .waitu =>
    some (match s.ms.latches.find? fun l => l.who == .thread ⟨t.ref, x.tid⟩ with | some l => l.outcome.isSome | none => true)
  | .blocked .childGrid => some (childMet s t x)
  | .blocked (.phaser slot arr) =>
    if slot < 16 then none
    else
      let g := s.gridOf t.ref.ctx t.ref.gid
      let pc := if slot < 24 then (g.cph.getD (groupOf g t.ref.team) []).getD (slot - 16) 0 else g.gph.getD (slot - 24) 0
      let r := x.phRec slot
      some (if arr then !countGt r.arr pc else countGt pc r.wai)
  | _ => none

/-- A saved team does not rejoin placement yet: the SHUTTER that names it is not answered (R478), or it belongs to a co-resident
grid, which is shuttered whole, and a team of that stands so (R403, R452). -/
def heldBack (s : State) (t : Team) : Bool :=
  let g := s.gridOf t.ref.ctx t.ref.gid
  t.shutMb || (g.cores && (gridTeams s g).any fun x => x.st == .shuttered || x.shutMb)

/-- A saved team may be offered unless it is dormant (R454). -/
def teamOffered (s : State) (t : Team) : Bool :=
  t.st == .saved && !heldBack s t && s.alive t.ref.ctx && (ctxNow s t.ref.ctx).isSome &&
    t.threads.any fun x => x.status != .exited && outsideWait s t x != some false

/-- The saved teams that resume with a team: of a co-resident grid or of a group all of whose teams are saved, all of
them (R32, R403). -/
def resumeUnit (s : State) (t : Team) : List Team :=
  let g := s.gridOf t.ref.ctx t.ref.gid
  let mates := (gridTeams s g).filter fun x => groupOf g x.ref.team == groupOf g t.ref.team
  let saved := fun (l : List Team) => l.filter fun x => x.st == .saved
  if g.cores then saved (gridTeams s g)
  else if g.group > 1 && !mates.any Team.placedHere then saved mates
  else [t]

/-! ### Fitting (R25, R26, R32, R402) -/

/-- The hardware cluster that a team's group stands on, if any of it is placed. -/
def groupCluster (s : State) (r : TeamRef) : Option Nat :=
  let g := s.gridOf r.ctx r.gid
  if g.group ≤ 1 then none
  else ((gridTeams s g).find? fun x => x.placedHere && groupOf g x.ref.team == groupOf g r.team).map fun x => clusterOf x.bay

/-- The partition in which a context is placed (R384). -/
def ctxPart (s : State) (ctx : Nat) : Part := match ctxNow s ctx with | some c => nth s.iod.parts c.part Part.unused | none => Part.unused

/-- Grant and pressure cap of a team of a grid on a bay. -/
def fitsTeam (s : State) (r : TeamRef) (d : Decl) (bay req : Nat) (fixed : Option Nat) : Option (Nat × Nat) :=
  let g := s.gridOf r.ctx r.gid
  let p := ctxPart s r.ctx
  let clusterOk := match groupCluster s r with | some c => c == clusterOf bay | none => true
  let cphOk := d.cphasers == 0 ||
    cphasersUsed s (clusterOf bay) r.ctx r.gid (groupOf g r.team) (fun t => groupOf (s.gridOf t.ref.ctx t.ref.gid) t.ref.team) + d.cphasers ≤ 8
  if bitAt p.cdmask (bay / 96) && clusterOk && cphOk then fitsBay s bay d req fixed else none

/-- A new team: its declared width, fixed in a deterministic launch. -/
def fitsNew (s : State) (g : Grid) (i bay : Nat) : Option (Nat × Nat) :=
  fitsTeam s ⟨g.ctx, g.gid, i⟩ g.decl bay g.decl.width (if g.decl.det != 0 then some g.decl.width else none)

/-- Every thread was saved at a boundary and no cohort is migrated (R25). -/
def Team.atBoundary (t : Team) : Bool :=
  t.threads.all fun x => x.status == .exited || (x.status == .boundary && !x.migrated)

/-- The width a team asks for (R25). -/
def Team.request (t : Team) : Nat := if t.widthReq == 0 then t.decl.width else t.widthReq

/-- The migrated cohorts of a team, each with the die it stands on (R42). -/
def Team.awayCohorts (t : Team) : List (Nat × Nat) :=
  ((t.threads.filter fun x => x.migrated && x.status != .exited).map fun x => (x.tid / t.grant, x.bay / 96)).eraseDups

/-- Bays of a die with a free vestibule slot and a cap for a grant, in the partition of a context (R42, R384). -/
def vestibuleBays (s : State) (ctx die grant : Nat) : List Nat :=
  (baysOfDie s die).filter fun b => grant ≤ bayCap s b && vestibuleFree s b && bitAt (ctxPart s ctx).cdmask die

/-- A saved team on a bay. -/
def fitsSaved (s : State) (t : Team) (bay : Nat) : Option (Nat × Nat) :=
  if t.awayCohorts.all fun c => !(vestibuleBays s t.ref.ctx c.2 t.grant).isEmpty then
    fitsTeam s t.ref t.decl bay t.request
      (if t.decl.det != 0 then some t.decl.width else if t.atBoundary then none else some t.grant)
  else none

/-- A thread at team start (R11, R188). -/
def startThread (g : Grid) (bay grant tid : Nat) : Thread :=
  { Thread.blank with
    tid := tid
    pc := g.decl.entry
    seg := 1
    regs := BitVec.ofNat 32 g.args.toNat :: BitVec.ofNat 32 (g.args.toNat / 2 ^ 32) :: List.replicate 62 0
    rngk := g.rngkey
    status := .boundary
    bay := bay
    gang := tid / grant }

/-- A team at its start. -/
def startTeam (g : Grid) (i bay grant pcap image at' : Nat) : Team :=
  { Team.blank with
    ref := ⟨g.ctx, g.gid, i⟩
    decl := g.decl
    st := .running
    bay := bay
    grant := grant
    pcap := pcap
    ftb := g.decl.ftab
    ftab := g.ftab
    handles := List.replicate g.decl.handles ⟨0, 0, .free, 0⟩
    streams := List.replicate g.decl.streams ⟨0, 0, [], none⟩
    ring := ⟨g.decl.ring, 0, false, [], [], []⟩
    convAcc := List.replicate (ceilDiv g.decl.dim grant + 1) 0
    gangs := ceilDiv g.decl.dim grant
    placedAt := at'
    image := image
    threads := (List.range g.decl.dim).map (startThread g bay grant) }

/-- The teams that start with team i: of a co-resident grid all, of a cluster group its teams (R32, R33). -/
def placeUnit (s : State) (g : Grid) (i : Nat) : List Nat :=
  let here := (gridTeams s g).map (·.ref.team)
  let unit := if g.cores then List.range g.nteams else rangeFrom (i / g.group * g.group) g.group
  unit.filter fun j => j != i && j < g.nteams && !here.contains j

/-- A team that waits to be placed: a new one of a grid, or a saved one. -/
inductive Cand where
  | new (g : Grid) (team : Nat)
  | saved (t : Team)

/-- The team as it would stand on one of some bays, to ask what still fits beside it: on the first that fits. -/
def Cand.trial (s : State) (c : Cand) (bays : List Nat) : Option State :=
  bays.findSome? fun b =>
    match c with
    | .new g i => (fitsNew s g i b).map fun f => { s with teams := s.teams ++ [(startTeam g i b f.1 f.2 0 0).seat s] }
    | .saved t => (fitsSaved s t b).map fun f =>
        s.setTeam { t with st := .running, bay := b, grant := f.1, pcap := f.2, quads := quadsFor (teamsOn s b) (slotsFor t.decl.dim f.1) [] }

/-- Several teams as they would stand on bays of one cluster: as many on each bay as fit. -/
def trialGroup (s : State) (cs : List Cand) : Option State :=
  (List.range 96).findSome? fun c => cs.foldlM (fun s x => x.trial s (rangeFrom (8 * c) 8)) s

/-- Whether a unit of teams, by cluster groups, finds room whole (R32, R33, R401). -/
def trialUnit (s : State) (groups : List (List Cand)) : Bool := (groups.foldlM trialGroup s).isSome

/-- A unit of teams by their cluster groups: one team alone may stand anywhere, so that its group is itself. -/
def byGroup (size : Nat) (team : Cand → Nat) (cs : List Cand) : List (List Cand) :=
  ((cs.map fun c => team c / size).eraseDups).map fun k => cs.filter fun c => team c / size == k

/-- One offer: priority, order of acceptance, and a team that is new (none) or saved. -/
structure Offer where
  prio : Nat
  order : Nat
  team : Nat
  grid : Grid
  saved : Option Team

/-- Everything placement offers. -/
def offers (s : State) : List Offer :=
  (s.grids.filter (gridOffers s)).filterMap (fun g => (nextTeam s g).map fun i => ⟨g.prio, g.order, i, g, none⟩) ++
    (s.teams.filter (teamOffered s)).map fun t =>
      let g := s.gridOf t.ref.ctx t.ref.gid
      ⟨g.prio, g.order, t.ref.team, g, some t⟩

/-- The teams placed with an offer: its unit. -/
def Offer.unit (s : State) (o : Offer) : List Cand :=
  match o.saved with
  | none => (o.team :: placeUnit s o.grid o.team).map (Cand.new o.grid)
  | some t => (resumeUnit s t).map Cand.saved

/-- The team of a candidate. -/
def Cand.team (c : Cand) : Nat := match c with | .new _ i => i | .saved t => t.ref.team

/-- An offer finds bays: its unit is placed whole or not at all. -/
def Offer.fits (s : State) (o : Offer) : Bool :=
  trialUnit s (byGroup (if o.grid.group == 0 then 1 else o.grid.group) Cand.team (o.unit s))

/-- No offer that comes earlier finds a bay (R401). -/
def noEarlier (s : State) (prio order team : Nat) : Bool :=
  (offers s).all fun o =>
    !(o.prio < prio || (o.prio == prio && (o.order < order || (o.order == order && o.team < team)))) || !o.fits s

/-- Placement is at work: the module is in service and training has not stopped it (R473). -/
def placing (s : State) : Bool := s.inService && !s.iod.trained

/-! ### Starting a team (R11, R30, R36, R376) -/

/-- The context becomes resident: its entry supplies ASID, root and initial settings, and STATE is written. -/
def makeResident (s : State) (id : Nat) : State :=
  let c := s.ctxOf id
  if c.st == .resident then s
  else
    let s := putCtx s { (ctxNow s id).getD c with st := .resident }
    setCtxState { s with iod := { s.iod with everResident := true } } id 1

/-- No team of a context is placed any longer: it is saved (R376), also where its last team has retired and none is saved: DESIGN
CHOICE (log entry 120). -/
def settleResident (s : State) (id : Nat) : State :=
  let c := s.ctxOf id
  if c.st == .resident && !(s.teams.any fun t => t.ref.ctx == id && t.placedHere) then setCtxState (s.setCtx { c with st := .saved }) id 2
  else s

/-- The image of a new team: the first entry of the team directory that no other team of the context uses (R376). -/
def freeImage (s : State) (id : Nat) : Nat :=
  let dir := homeNat s.ms (ctxEntryAt s id + 24) 8
  let used := (s.teams.filter fun t => t.ref.ctx == id && t.st != .retired && t.image != 0).map (·.image)
  let es := ((List.range (used.length + 1)).map fun i => homeNat s.ms (dir + 8 * i) 8).takeWhile (· != 0)
  if dir == 0 then 0 else (es.find? fun a => !used.contains a).getD 0

/-- Writes STATE in the header of a team's image (R378): with the whole sector that holds it (R382). -/
def writeTeamState (s : State) (t : Team) : State :=
  if t.image == 0 then s else s.mapMs fun ms => homeWrite ms t.image ((headerBytes s t t.st).take 16)

/-- Places team i of a grid on a bay, or not at all. -/
def placeOne (s : State) (g : Grid) (i bay : Nat) : Option State :=
  (fitsNew s g i bay).map fun f =>
    let s := makeResident s g.ctx
    let t := (startTeam g i bay f.1 f.2 (freeImage s g.ctx) s.turns).seat s
    let s := writeTeamState { s with teams := s.teams ++ [t], turns := s.turns + 1 } t
    -- what happens before the launch is acquired where the team starts (R136, R396)
    let s := s.mapMs fun ms => acquireCaches ms bay 2
    let g := s.gridOf g.ctx g.gid
    s.setGrid { g with placed := max g.placed (i + 1), waitSince := s.time, tbegin := if g.placed == 0 then s.time else g.tbegin }

/-- Places the other teams of a unit on bays the device chooses. -/
def placeRest (g : Grid) : List Nat → State → Option State
  | [], s => some s
  | i :: rest, s =>
    match s.pick ((List.range 768).filter fun b => (fitsNew s g i b).isSome) with
    | none => none
    | some (b, s) => (placeOne s g i b).bind (placeRest g rest)

/-- TEAM_PLACE (R401, R402). -/
def execTeamPlace (t : TeamRef) (bay : Nat) (s : State) : Out :=
  .next <|
    let g := s.gridOf t.ctx t.gid
    if placing s && gridOffers s g && nextTeam s g == some t.team && noEarlier s g.prio g.order t.team then
      match (placeOne s g t.team bay).bind (placeRest g (placeUnit s g t.team)) with
      | some s => s
      | none => if (fitsNew s g t.team bay).isSome then { s with draws := s.draws + 1 } else s
    else s

/-! ### Shuttering and saving (R450 to R452) -/

/-- The threads of a gang that have finished a blocking word before the others leave it, as one gang (R16), to stop like running
threads. -/
def Team.releaseGang (t : Team) (g : Nat) : Team :=
  { t with
    gangs := t.gangs + 1
    threads := t.threads.map fun y => if y.gang == g && y.fin && y.status != .exited then { y.passGroup y.issued with gang := t.gangs } else y }

/-- So of every gang of a team. -/
def releaseFin (s : State) (r : TeamRef) : State :=
  match s.team? r with
  | none => s
  | some t => s.setTeam ((((t.threads.filter fun x => x.fin && x.status != .exited).map (·.gang)).eraseDups).foldl Team.releaseGang t)

/-- A request to shutter a team. -/
def shutterTeam (mb : Bool) (s : State) (r : TeamRef) : State :=
  match s.team? r with
  | none => s
  | some t =>
    if t.st == .running then
      let t := { t.unhold with st := .shuttered, shutMb := mb, threads := t.unhold.threads.map fun x => { x with entering := false } }
      releaseFin (writeTeamState (s.setTeam t) t) r
    else if mb then s.setTeam { t with shutMb := true }
    else s

/-- A wait that is over before a team is saved: a traversal step runs to completion (R299), what waits for peers is performed,
and a fence completes (R450 step 4). -/
def BlockOn.goesOn (b : BlockOn) : Bool :=
  match b with
  | .walk _ | .pod | .flush | .fence | .link => true
  | _ => false

/-- A convergent word has been performed for the thread, which has only to leave it (R28). -/
def Thread.converged (x : Thread) : Bool :=
  x.conv.isSome && match x.status with | .blocked .convergent | .blocked .teamConv => true | _ => false

/-- A thread has stopped (R450 step 2): none at supervisor level before its ERET, none at the entry of its handler for a trap taken
since, none within a traversal step, and none whose convergent word has been performed. -/
def threadStopped (x : Thread) : Bool :=
  match x.status with
  | .exited => true
  | .boundary => !x.sup && !x.entering
  | .within => false
  | .parked _ _ | .aside _ => !x.sup && x.step.isNone
  | .blocked b => !x.sup && (b == .fence || !b.goesOn) && !x.converged

/-- A FENCE.engine cannot complete before its team is saved: what it awaits has not started, here or in a team that does not run
(DESIGN CHOICE, log entry 121). -/
def fenceStays (s : State) (t : Team) (x : Thread) : Bool :=
  match x.sent with
  | none => false
  | some w =>
    !t.mxDoneTo w.val ||
      w.cards.any fun c =>
        match s.teams.find? fun u => u.ref == c.1 with
        | some u => u.st != .running && u.ring.size != 0 && !u.ring.retiredTo c.2
        | none => false

/-- Nothing of the team that has started is unfinished (R450 steps 3 to 5). -/
def enginesStopped (s : State) (t : Team) : Bool :=
  t.ring.cards.all (fun c => c.phase == .waiting) && t.streams.all (fun x => x.running.isNone) &&
    !s.ms.podOut.any fun m => m.n != 0 && (match m.who with | some w => w.team == t.ref || w == backRef t.ref.ctx | none => false)

/-- Cards that have not started go back to the ring, with their places (R451). -/
def Ring.unaccept (r : Ring) : Ring :=
  { r with cards := [], again := r.cards.map (fun c => (⟨BitVec.ofNat 32 c.seq + 1, c.place, c.tid⟩ : Append)) ++ r.again }

/-- The team as it is saved: long results written, holds and convergence counts over. -/
def Team.saveState (t : Team) : Team :=
  { t with
    st := .saved
    hold := none
    convAcc := t.convAcc.map fun _ => 0
    ring := t.ring.unaccept
    threads := t.threads.map fun x => { x.drain with held := false, issued := [] } }

/-- Writes the image of a team (R450 steps 6 and 7). -/
def writeImage (s : State) (t : Team) : State :=
  if t.image == 0 then s
  else
    let s := s.mapMs fun ms => writePieces ms t.image (savePieces t)
    s.mapMs fun ms => toHost (homeWriteAll ms t.image (headerBytes s t t.st)) t.image (imageSize t.decl)

/-- TEAM_SAVED. -/
def execTeamSaved (r : TeamRef) (s : State) : Out :=
  .next <|
    match s.team? r with
    | none => s
    | some t =>
      if t.st != .shuttered || !s.alive r.ctx || !t.threads.all threadStopped || !enginesStopped s t ||
          t.threads.any (fun x => x.status == .blocked .fence && !fenceStays s t x) then s
      else
        let bays := (t.bay :: (t.threads.map (·.bay))).eraseDups
        let s := s.mapMs fun ms => bays.foldl (fun ms b => releaseCaches ms b 2) ms
        let t := t.saveState
        let g := s.gridOf r.ctx r.gid
        -- the grid waits again to place a team (R403)
        let g := if (offers s).any fun o => o.grid.ctx == g.ctx && o.grid.gid == g.gid then g else { g with waitSince := s.time }
        settleResident (savePhasers (writeImage ((s.setGrid g).setTeam t) t) r) r.ctx

/-! ### Resumption (R453) -/

/-- Cohorts and gangs formed afresh under a grant (R16, R22, R25): threads of one cohort at one PC share a gang. -/
def Team.regroup (t : Team) (grant : Nat) : Team :=
  let key := fun (x : Thread) => (x.tid / grant, x.pc, x.bay)
  { t with
    grant := grant
    gangs := t.threads.length
    convAcc := List.replicate (ceilDiv t.decl.dim grant + 1) 0
    threads := t.threads.map fun x => { x with gang := ((t.threads.find? fun y => key y == key x).map (·.tid)).getD x.tid } }

/-- The migrated cohorts go back to vestibules on the dies they left. -/
def restoreAway (r : TeamRef) : List (Nat × Nat) → State → Option State
  | [], s => some s
  | (co, die) :: rest, s =>
    match s.team? r with
    | none => none
    | some t =>
      match s.pick (vestibuleBays s r.ctx die t.grant) with
      | none => none
      | some (b, s) =>
        restoreAway r rest ((s.mapMs fun ms => acquireCaches ms b 2).setTeam { t with
          threads := t.threads.map fun x => if x.migrated && x.tid / t.grant == co && x.status != .exited then { x with bay := b } else x })

/-- Resumes a saved team on a bay, or not at all. -/
def resumeOne (s : State) (t : Team) (bay : Nat) : Option State :=
  match fitsSaved s t bay with
  | none => none
  | some (grant, pcap) =>
    let s := makeResident s t.ref.ctx
    let away := t.awayCohorts
    let fresh := t.atBoundary && t.decl.det == 0
    let t := loadTeam s.ms t
    let t :=
      { t with
        st := .running
        bay := bay
        pcap := pcap
        placedAt := s.turns
        resumed := !t.imprecise.isEmpty
        -- a thread that was saved parked walks again (R428, R441)
        threads := t.threads.map fun (x : Thread) =>
          { x with bay := if x.migrated then 2 ^ 20 else bay, since := match x.status with | .parked _ _ | .aside _ => 0 | _ => x.since } }
    let t := (if fresh then t.regroup grant else t).seat s
    let t := { t with reqPending := t.widthReq != 0 && grantFor t.widthReq (bayCap s bay) pcap != t.grant }
    let s := writeTeamState (State.setTeam { s with turns := s.turns + 1, time := s.time + migrationNs } t) t
    let s := (loadPhasers s t).mapMs fun ms => acquireCaches ms bay 2
    let g := s.gridOf t.ref.ctx t.ref.gid
    restoreAway t.ref away (s.setGrid { g with waitSince := s.time })

/-- Delivers the team's oldest imprecise cause to a thread, as its next group (R440). -/
def deliverImprecise (s : State) (t : Team) (x : Thread) : State :=
  match t.imprecise with
  | [] => s
  | (c, a) :: rest =>
    let (ws, s) := groupOfThread s t.ref x
    let s := (s.setTeam { t with imprecise := rest, resumed := t.resumed && !rest.isEmpty }).focus ⟨t.ref, x.tid⟩
    let s := { s with grp := ⟨ws, 0, s.th, s.tm, none⟩ }
    let s := s.deliver c a 0 0 0
    -- a thread that is parked or set aside before its handler takes the cause when it issues again
    (if s.grp.stop.isSome then { s with tm := { s.tm with imprecise := (c, a) :: rest, resumed := t.resumed } } else s).flush

/-- The thread that takes an imprecise cause: the leader, or the lowest-indexed live thread. -/
def Team.causeThread (t : Team) : Option Thread := t.threads.find? fun x => x.status != .exited

/-- A resumed team's pending causes are delivered in turn before anything of it issues. A leader saved blocked takes them before it
re-enters its word (R453); one that is parked when it has been replayed, its team waiting for that (R440). -/
def deliverResumed (r : TeamRef) : Nat → State → State
  | 0, s => s
  | n + 1, s =>
    match s.team? r with
    | none => s
    | some t =>
      match t.causeThread with
      | none => s
      | some x =>
        match x.status with
        | .parked _ _ | .aside _ => s
        | _ => if t.imprecise.isEmpty then s else deliverResumed r n (deliverImprecise s t x)

/-- So of a team that has just been resumed. -/
def resumeCauses (s : State) (t : Team) : State := deliverResumed t.ref t.imprecise.length s

/-- The causes that a thread takes in place of its next group: the oldest, or after a resumption all of them in turn. -/
def deliverCauses (s : State) (t : Team) (x : Thread) : State := if t.resumed then resumeCauses s t else deliverImprecise s t x

/-- Resumes the other teams of a unit. -/
def resumeRest : List Team → State → Option State
  | [], s => some s
  | t :: rest, s =>
    match s.pick ((List.range 768).filter fun b => (fitsSaved s t b).isSome) with
    | none => none
    | some (b, s) => (resumeOne s t b).bind (resumeRest rest)

/-- TEAM_RESUME. -/
def execTeamResume (r : TeamRef) (bay : Nat) (s : State) : Out :=
  .next <|
    match s.team? r with
    | none => s
    | some t =>
      let g := s.gridOf r.ctx r.gid
      let unit := resumeUnit s t
      if placing s && t.st == .saved && unit.any (teamOffered s) && unit.all (fun x => !x.shutMb) &&
          noEarlier s g.prio g.order t.ref.team then
        match (resumeOne s t bay).bind (resumeRest (unit.filter fun x => x.ref != r)) with
        | some s => unit.foldl resumeCauses s
        | none => if (fitsSaved s t bay).isSome then { s with draws := s.draws + 1 } else s
      else s

/-! ### Priority pre-emption (R403) -/

/-- The state with the lower-priority teams of a bay taken off it, to ask what would fit. -/
def without (s : State) (bay prio : Nat) : State :=
  { s with teams := s.teams.filter fun t => !(t.bay == bay && t.st == .running && (s.gridOf t.ref.ctx t.ref.gid).prio > prio) }

/-- The most recently placed running team of the lowest priority on a bay. -/
def victim (s : State) (bay prio : Nat) : Option Team :=
  let p := fun (t : Team) => (s.gridOf t.ref.ctx t.ref.gid).prio
  let ts := (teamsOn s bay).filter fun t => t.st == .running && p t > prio
  ts.foldl
    (fun a t =>
      match a with
      | none => some t
      | some b => if p t > p b || (p t == p b && t.placedAt > b.placedAt) then some t else a)
    none

/-- Drops a deterministic team: its log, its marks and its stores are gone, and it is started anew (R409). The phasers of its cluster
group keep their counts, up to which it arrives and waits again without effect on its mates (State.phPc).  -/
def abortTeam (s : State) (t : Team) : State :=
  let g := s.gridOf t.ref.ctx t.ref.gid
  let mine := fun (o : Owner) => o.ctx == t.ref.ctx && o.gid == t.ref.gid
  let owners := (s.ms.owners.map fun o => if mine o then { o with teams := o.teams.filter (· != t.ref.team) } else o).filter fun o =>
    !mine o || !o.teams.isEmpty
  let latches := s.ms.latches.filter fun l => match l.who with | .thread r => r.team != t.ref | .grid _ _ => true
  let s := { s with
    teams := s.teams.filter fun x => x.ref != t.ref
    ms := { s.ms with owners := owners, latches := latches }
    iod := { s.iod with launches := s.iod.launches.filter fun l => l.who.team != t.ref } }
  settleResident (s.setGrid { g with reruns := g.reruns + 1, waitSince := s.time }) t.ref.ctx

/-- Removes a team at the request of placement. -/
def removeTeam (s : State) (t : Team) : State :=
  let g := s.gridOf t.ref.ctx t.ref.gid
  if t.decl.det != 0 then abortTeam s t
  else if g.cores then (gridTeams s g).foldl (fun s x => shutterTeam false s x.ref) s
  else shutterTeam false s t.ref

/-- The team a grid waits to place next: the lowest-numbered of those placement may offer, a new or a saved one. -/
def nextOffer (s : State) (g : Grid) : Option Offer :=
  ((offers s).filter fun o => o.grid.ctx == g.ctx && o.grid.gid == g.gid).foldl
    (fun a o => match a with | none => some o | some b => if o.team < b.team then some o else some b) none

/-- PRIORITY_PREEMPT. -/
def execPriorityPreempt (ctx gid : Nat) (s : State) : Out :=
  .next <|
    let g := s.gridOf ctx gid
    match nextOffer s g with
    | none => s
    | some o =>
      let on := fun (s : State) (b : Nat) => match o.saved with | none => (fitsNew s g o.team b).isSome | some t => (fitsSaved s t b).isSome
      if !placing s || s.time - g.waitSince ≤ s.iod.priwt || o.fits s then s
      else
        let bays := (List.range 768).filter fun b => (victim s b g.prio).isSome && on (without s b g.prio) b
        match s.pick bays with
        | none => s
        | some (b, s) =>
          match victim s b g.prio with
          | some t => removeTeam s t
          | none => s

/-! ### Retirement of a team (R35, R408) -/

/-- Early commit of the lines that only this team has touched: their phase-start images are kept. -/
def commitPrivate (s : State) (t : Team) : State :=
  let lines := (s.ms.owners.filter fun o =>
    o.ctx == t.ref.ctx && o.gid == t.ref.gid && o.teams == [t.ref.team] && !o.shared).map (·.line)
  let g := s.gridOf t.ref.ctx t.ref.gid
  let g := lines.foldl
    (fun g ln =>
      if g.phaseHeld.contains ln then g
      else { g with phaseHeld := g.phaseHeld ++ [ln], phaseImg := g.phaseImg.write (64 * ln) (homeRead s.ms (64 * ln) 16 ++
        homeRead s.ms (64 * ln + 16) 16 ++ homeRead s.ms (64 * ln + 32) 16 ++ homeRead s.ms (64 * ln + 48) 16) })
    g
  let put := fun (ms : MemSys) (r : LogRec) =>
    match r with
    | .store q d m =>
      if lines.contains (q / 4) then
        let old := homeRead ms (16 * q) 16
        homeWrite ms (16 * q) ((List.range 16).map fun i => if m.getLsbD i then BitVec.ofNat 8 (ofBytes (secBytes d i 1)) else nth old i 0)
      else ms
    | .red _ _ _ _ _ _ => ms
  (s.mapMs fun ms => t.log.foldl put ms).setGrid g

/-- TEAM_RETIRE. -/
def execTeamRetire (r : TeamRef) (s : State) : Out :=
  .next <|
    match s.placedTeam r with
    | none => s
    | some t =>
      if !(t.threads.all fun x => x.status == .exited) || t.unretired != 0 || !(t.streams.all fun x => x.jobs.isEmpty) ||
          !t.imprecise.isEmpty then s
      else
        let s := if t.decl.det != 0 then commitPrivate s t else s
        let t := { t with
          st := .retired, threads := [], lst := ⟨[]⟩, ast := ⟨[]⟩, wst := ⟨[]⟩, cst := ⟨[]⟩, handles := [], streams := [], hold := none }
        let s := writeTeamState (s.setTeam t) t
        let g := s.gridOf r.ctx r.gid
        settleResident (s.setGrid { g with retired := g.retired + 1 }) r.ctx

end Sys2Proof.Machine
end

