-- ==== Sys2Proof/Machine/ThreadEvents.lean ====
section
/-! DEFINITION. Events of threads: outstanding results, re-slices, convergence faults, holds, imprecise causes, walks and
replays (R25, R29, R177, R221, R222, R422 to R424, R428, R440, R441). -/

namespace Sys2Proof.Machine

/-- The team and thread of a name. -/
def State.thread? (s : State) (r : ThreadRef) : Option (Team × Thread) :=
  match s.placedTeam r.team with
  | none => none
  | some t => (t.threads.find? fun x => x.tid == r.tid).map fun x => (t, x)

/-- Replaces one thread of a team. -/
def Team.setThread (t : Team) (x : Thread) : Team :=
  { t with threads := t.threads.map fun y => if y.tid == x.tid then x else y }

/-- The fairness interval of a context in cycles: one fairness round (R18). -/
def State.interval (s : State) (ctx : Nat) : Nat := 2 ^ (s.ctxOf ctx).fairk

/-- LONG_RESULT_WRITE (R177): the k-th outstanding result of a thread is written; R178 leaves their order open. Flags are no
result of their own: they are ORed in with the last register of theirs (R191). -/
def execLongResultWrite (r : ThreadRef) (k : Nat) (s : State) : Out :=
  .next <|
    match s.thread? r with
    | none => s
    | some (t, x) =>
      if k < x.pending.length then s.setTeam (t.setThread (x.writeOne k)) else s

/-! ### Re-slicing (R25) -/

/-- Every non-exited thread is held at a boundary, none away. -/
def Team.atReslicePoint (t : Team) : Bool :=
  t.threads.all fun x => x.status == .exited || (x.status == .boundary && x.held && !x.migrated)

/-- RESLICE: within the hold's round the team takes the grant its request yields. -/
def execReslice (r : TeamRef) (s : State) : Out :=
  .next <|
    match s.runningTeam r with
    | none => s
    | some t =>
      match t.hold with
      | none => s
      | some c =>
        if t.atReslicePoint && s.cycle ≤ c + s.interval r.ctx then
          s.setTeam { ((t.regroup (s.wouldGrant t t.widthReq)).seat s).unhold with reqPending := false }
        else s

/-- SETW_HOLD_LAPSE: the hold ends, the request stays pending. -/
def execSetwHoldLapse (r : TeamRef) (s : State) : Out :=
  .next <|
    match s.runningTeam r with
    | none => s
    | some t =>
      match t.hold with
      | none => s
      | some c => if c + s.interval r.ctx ≤ s.cycle then s.setTeam t.unhold else s

/-! ### Convergence faults (R29) -/

/-- The threads a convergence count is about: of a cohort, or of the team. -/
def Team.convThreads (t : Team) (cohort : Option Nat) : List Thread :=
  t.threads.filter fun x =>
    x.status != .exited &&
      match cohort with
      | some c => x.tid / t.grant == c
      | none => true

/-- A thread that stands at a convergent word which has not been performed. -/
def Thread.stands (x : Thread) (team : Bool) : Bool :=
  x.conv.isNone &&
    match x.status with
    | .blocked .convergent => true
    | .blocked .teamConv => team
    | _ => false

/-- A thread is parked, or blocked on something else: its time does not count. A count about a cohort is about its
cohort-convergent words, so that a thread at TRED is blocked on something else; the team's counts TRED with them. -/
def Thread.otherwiseHeld (x : Thread) (team : Bool) : Bool :=
  match x.status with
  | .parked _ _ | .aside _ => true
  | .blocked .convergent => false
  | .blocked .teamConv => !team
  | .blocked _ => true
  | _ => false

/-- All stand at convergent words, not all at one; over the team, some at a TRED. -/
def Team.diverged (t : Team) (cohort : Option Nat) : Bool :=
  let xs := t.convThreads cohort
  let here := xs.head?.map fun x => x.standAddr convergentWord
  xs.all (fun x => x.stands cohort.isNone) && xs.any (fun x => some (x.standAddr convergentWord) != here) &&
    (cohort.isSome || xs.any fun x => x.status == .blocked .teamConv)

/-- Place of a cohort's count among the team's; the last one is the team's. -/
def Team.convSlot (t : Team) (cohort : Option Nat) : Nat :=
  match cohort with
  | some c => c
  | none => ceilDiv t.decl.dim t.grant

/-- A count after some cycles: it runs while diverged, stands still while a thread is held otherwise, and starts anew
else. -/
def Team.convStep (t : Team) (cohort : Option Nat) (cycles acc : Nat) : Nat :=
  if (t.convThreads cohort).any (fun x => x.otherwiseHeld cohort.isNone) then acc
  else if t.diverged cohort then acc + cycles
  else 0

/-- Every count of a team after some cycles. -/
def Team.convTick (t : Team) (cycles : Nat) : Team :=
  if t.st == .running then
    { t with convAcc := t.convAcc.zipIdx.map fun p =>
        t.convStep (if p.2 < ceilDiv t.decl.dim t.grant then some p.2 else none) cycles p.1 }
  else t

/-- Raises a cause in a thread precisely at the first word of its group that satisfies a test. -/
def raiseAt (s : State) (r : ThreadRef) (here : Word → Bool) (cause addr : Nat) : State :=
  match s.thread? r with
  | none => s
  | some (_, x) =>
    let (ws, s) := groupOfThread s r.team x
    let s := s.focus r
    let s := { s with grp := ⟨ws, (ws.findIdx? here).getD 0, s.th, s.tm, none⟩ }
    (s.raise cause addr).flush

/-- CONVERGENCE_FAULT: four rounds have passed; each thread takes the fault at its convergent word. -/
def execConvergenceFault (r : TeamRef) (cohort : Option Nat) (s : State) : Out :=
  .next <|
    match s.runningTeam r with
    | none => s
    | some t =>
      if t.diverged cohort && 4 * s.interval r.ctx ≤ nth t.convAcc (t.convSlot cohort) 0 then
        (t.convThreads cohort).foldl (fun s x => raiseAt s ⟨r, x.tid⟩ convergentWord cConverge 0) s
      else s

/-! ### Holds at RCV and YIELD (R221, R222) -/

/-- RCV_HOLD_EXPIRY: one interval has passed since a gang came; every gang of its cohort that stands at the word
merges and continues. -/
def execRcvHoldExpiry (r : ThreadRef) (s : State) : Out :=
  .next <|
    match s.thread? r with
    | none => s
    | some (t, x) =>
      if x.status == .blocked .rcv && x.conv.isNone && x.since + s.interval r.team.ctx ≤ s.cycle then
        let mate := fun (y : Thread) => y.tid / t.grant == x.tid / t.grant && y.bay == x.bay
        s.setTeam { t with threads := rcvMerge t.threads mate (t.st == .running) x.pc.toNat (x.standAddr rcvWord) x.gang }
      else s

/-- A thread whose gang could be chosen (R17). -/
def Thread.ready (x : Thread) : Bool :=
  match x.status with
  | .boundary | .within => true
  | _ => false

/-- The hold of a YIELD may end: 16 cycles have passed, or every other ready gang of the quadrant has issued since (R222). -/
def Thread.yieldOver (x : Thread) (now : Nat) : Bool := x.since + 16 ≤ now || x.passed

/-- The hold of a gang's YIELD ends. -/
def Team.endYield (t : Team) (g : Nat) : Team :=
  { t with threads := t.threads.map fun y => if y.gang == g then { y with yielded := false, passed := false } else y }

/-- YIELD_HOLD_END. -/
def execYieldHoldEnd (r : ThreadRef) (s : State) : Out :=
  .next <|
    match s.thread? r with
    | none => s
    | some (t, x) =>
      if x.yielded && x.yieldOver s.cycle then s.setTeam (t.endYield x.gang) else s

/-! ### Imprecise causes (R440) -/

/-- IMPRECISE_TRAP_DELIVERY: to the leader, or the lowest-indexed live thread, once it is ready; with none live the
context is killed. -/
def execImpreciseTrapDelivery (r : TeamRef) (s : State) : Out :=
  .next <|
    match s.placedTeam r with
    | none => s
    | some t =>
      if t.imprecise.isEmpty then s
      else
        match t.causeThread with
        | none => s.killContext r.ctx 0x43 0
        | some x => if x.ready && !(t.st == .shuttered && threadStopped x) then deliverCauses s t x else s

/-! ### Walks (R422 to R424, R428, R441) -/

/-- PAGE_WALK: what a bay's structures hold for an address is dropped, a walker serves the miss, and the TLBs hold the leaf it
finds (R422). A walk that finds V = 0 belongs to an access, which records it (R442). -/
def execPageWalk (bay ctx va : Nat) (s : State) : Out :=
  .next <|
    if addrOk56 va && s.alive ctx then
      (leafFor (tlbDrop s ctx bay va) ctx bay va).2
    else s

def kindOf (n : Nat) : AccKind :=
  match n with
  | 0 => .load
  | 1 => .store
  | 2 => .atomic
  | 3 => .fetch
  | _ => .unit

/-- A thread of a team as the maker of an access. -/
def threadAccessor (t : Team) (x : Thread) : Accessor := ⟨t.ref.ctx, x.bay, x.sup, t.decl.det != 0, t.ref.gid, t.ref.team, false⟩

/-- A sub-cohort issues its group again (R441). -/
def reissue (s : State) (t : Team) (x : Thread) : State :=
  s.setTeam { t with threads := t.threads.map fun y =>
    match y.status with
    | .parked _ _ | .aside _ => if y.gang == x.gang then { y with status := .within } else y
    | _ => y }

/-- A parked or set-aside thread may be replayed: in a running team, and in a shuttered one where it must come to a stop
first, within a traversal step or at supervisor level (R299, R380). -/
def mayReplay (t : Team) (x : Thread) : Bool := t.st == .running || (t.st == .shuttered && !threadStopped x)

/-- The page that a parked thread, or its traversal unit, waits for. -/
def Thread.awaitedPage (x : Thread) : Option Nat :=
  match x.status with
  | .parked va _ => some (va / 65536)
  | .blocked (.walk (some va)) => some (va / 65536)
  | _ => none

/-- The walk of a waiting thread is due (R441): 4 µs after the last one; of one that has been resumed, parked or set aside, at once. -/
def Thread.walkDue (x : Thread) (now : Nat) : Bool :=
  match x.status with
  | .aside _ => x.since == 0
  | _ => x.awaitedPage.isSome && (x.since == 0 || x.since + 4000 ≤ now)

/-- The threads of a sub-cohort that wait for one page have walked for it now. -/
def markWalk (r : ThreadRef) (x : Thread) (s : State) : State :=
  { s with teams := s.teams.map fun t =>
      if t.ref == r.team then
        { t with threads := t.threads.map fun y => if y.gang == x.gang && y.awaitedPage == x.awaitedPage then { y with since := s.time } else y }
      else t }

/-- The walk of a parked sub-cohort, or of a traversal unit that waits. It finds a leaf, whose lock sets the thread aside in
turn; or V = 0, recorded again; any other end of the walk is met by the group when it issues. -/
def replayWalk (r : ThreadRef) (s : State) : State :=
  match s.thread? r with
  | none => s
  | some (t, x) =>
    match x.status, mayReplay t x with
    | .parked va k, true =>
      match leafFor s r.team.ctx x.bay va with
      | (.invalid lv, s) => markWalk r x (faultRecord s (threadAccessor t x) (kindOf k) va lv)
      | (_, s) => reissue s t x
    | .blocked (.walk (some va)), true =>
      match leafFor s r.team.ctx x.bay va with
      | (.invalid lv, s) => markWalk r x (faultRecord s (threadAccessor t x) .unit va lv)
      | (_, s) => s.setTeam (t.setThread { x with status := .blocked (.walk none) })
    | _, _ => s

/-- FAULT_REPLAY_WALK (R441). -/
def execFaultReplayWalk (r : ThreadRef) (s : State) : Out := .next (replayWalk r s)

/-- A thread set aside waits for a shootdown, its walk made (R428). -/
def Thread.keepAside (x : Thread) (now : Nat) : Thread :=
  match x.status with
  | .aside _ => { x with since := max 1 now }
  | _ => x

/-- A sub-cohort set aside walks again and, the lock gone, issues its group again. -/
def lockedRewalk (r : ThreadRef) (s : State) : State :=
  match s.thread? r with
  | none => s
  | some (t, x) =>
    match x.status, mayReplay t x with
    | .aside va, true =>
      match leafFor s r.team.ctx x.bay va with
      | (.leaf l _ _, s') =>
        if leafLock l then s.setTeam { t with threads := t.threads.map fun y => if y.gang == x.gang then y.keepAside s.time else y }
        else reissue s' t x
      | (_, s') => reissue s' t x
    | _, _ => s

/-- The threads whose walks are due. -/
def walksDue (s : State) : List ThreadRef :=
  (s.teams.filter Team.placedHere).flatMap fun t =>
    (t.threads.filter fun x => mayReplay t x && x.walkDue s.time).map fun x => ⟨t.ref, x.tid⟩

/-- A walk that is due is made, unless another one has come before it that serves it. -/
def walkIfDue (s : State) (r : ThreadRef) : State := if (walksDue s).contains r then lockedRewalk r (replayWalk r s) else s

/-- The walks that fall due as time moves on. -/
def walkTime (s : State) : State := (walksDue s).foldl walkIfDue s

/-- LOCKED_PAGE_REWALK (R428). -/
def execLockedPageRewalk (r : ThreadRef) (s : State) : Out := .next (lockedRewalk r s)

end Sys2Proof.Machine
end

