-- ==== Sys2Proof/Machine/Walk.lean ====
section
/-! DEFINITION. Tree walks: node bounds, the tests, TWINIT, TWSTEP, TWGET and TWEND (R299 to R310). -/

namespace Sys2Proof.Machine

/-! ### Walk block and descriptor (R300, R301) -/

def Walk.qkind (w : Walk) : Nat := field w.blk 16 1
def Walk.maxd (w : Walk) : Nat := field w.blk 17 1
def Walk.tbase (w : Walk) : Nat := field w.blk 8 8
def Walk.q (w : Walk) (i : Nat) : Nat := field w.blk (32 + 4 * i) 4
def Walk.nsize (w : Walk) : Nat := field w.desc 0 1
def Walk.nchild (w : Walk) : Nat := field w.desc 1 1
def Walk.bkind (w : Walk) : Nat := field w.desc 2 1
def Walk.leafbit (w : Walk) : Nat := field w.desc 3 1
def Walk.boff (w : Walk) : Nat := field w.desc 4 2
def Walk.coff (w : Walk) : Nat := field w.desc 6 2
def Walk.origin (w : Walk) (i : Nat) : Nat := field w.desc (16 + 4 * i) 4

/-- Step 3 of R306; query fields that the kind does not use are zero (R300). -/
def walkBlockOk (b : List Byte) : Bool :=
  let md := field b 17 1
  field b 16 1 < 3 && 1 ≤ md && md ≤ 64 && field b 0 8 % 32 == 0 && field b 8 8 % 16 == 0 && zeroBytes b 18 2 && zeroBytes b 24 8 &&
    (field b 16 1 == 0 || zeroBytes b 48 16)

/-- Bytes of a bound (R302). -/
def boundBytes (bkind : Nat) : Nat :=
  match bkind with
  | 0 => 24
  | 1 => 12
  | 2 => 16
  | _ => 20

/-- R301. -/
def walkDescOk (d : List Byte) : Bool :=
  let ns := field d 0 1
  let nc := field d 1 1
  let bk := field d 2 1
  let bo := field d 4 2
  let co := field d 6 2
  2 ≤ ns && ns ≤ 16 && 1 ≤ nc && nc ≤ 8 && bk < 4 && field d 3 1 < 32 && bo % 4 == 0 && 4 ≤ bo && co % 4 == 0 && 4 ≤ co &&
    zeroBytes d 8 8 && (bk == 1 || zeroBytes d 16 12) && zeroBytes d 28 4 &&
    bo + boundBytes bk ≤ 16 * ns && co + 4 * nc ≤ 16 * ns && (bo + boundBytes bk ≤ co || co + 4 * nc ≤ bo)

/-! ### Bounds (R302) -/

def f32addR (r : Rnd) (a b : Nat) : Nat := (fmt32.add r false (fmt32.read a) (fmt32.read b)).bits
def f32subR (r : Rnd) (a b : Nat) : Nat := (fmt32.add r false (fmt32.read a) (fmt32.read b).neg).bits
def f32mulR (r : Rnd) (a b : Nat) : Nat := (fmt32.mul r false (fmt32.read a) (fmt32.read b)).bits

/-- Box, centre and size of a node. -/
structure Bound where
  lo : List Nat
  hi : List Nat
  centre : List Nat
  size : Nat
  deriving DecidableEq, Repr

/-- The largest of three; a NaN stays one. -/
def max3 (a b c : Nat) : Nat := if f32isNan a || f32isNan b || f32isNan c then fmt32.nanBits else f32max (f32max a b) c

/-- Centre and size of a box. -/
def boxBound (lo hi : List Nat) : Bound :=
  let sz := List.zipWith (fun l h => f32subR .ru h l) lo hi
  ⟨lo, hi, List.zipWith (fun l h => f32mul (f32add l h) 0x3F000000) lo hi, max3 (nth sz 0 0) (nth sz 1 0) (nth sz 2 0)⟩

/-- A centre with a half extent. -/
def ballBound (c : List Nat) (half size : Nat) : Bound := ⟨c.map fun x => f32subR .rd x half, c.map fun x => f32addR .ru x half, c, size⟩

/-- The bound of a node's bytes. -/
def Walk.bound (w : Walk) (node : List Byte) : Bound :=
  let o := w.boff
  let f := fun i => field node (o + 4 * i) 4
  match w.bkind with
  | 0 => boxBound [f 0, f 1, f 2] [f 3, f 4, f 5]
  | 1 =>
    let h := fun i => (convertF fmt16 fmt32 .rne false false false true (field node (o + 2 * i) 2)).bits
    boxBound ((List.range 3).map fun i => f32addR .rd (w.origin i) (h i)) ((List.range 3).map fun i => f32addR .ru (w.origin i) (h (3 + i)))
  | 2 => ballBound [f 0, f 1, f 2] (f 3) (f32mulR .ru 0x40000000 (f 3))
  | _ => ballBound [f 0, f 1, f 2] (f32mulR .ru (f 3) 0x3F000000) (f 3)

/-! ### Tests (R303) -/

/-- The next FP32 value toward −∞, of a value that is not a NaN. -/
def nextDown (x : Nat) : Nat :=
  if x % 2 ^ 31 == 0 then 0x80000001 else if x == 0xFF800000 then x else if x < 2 ^ 31 then x - 1 else x + 1

def nextUp (x : Nat) : Nat := f32neg (nextDown (f32neg x))

/-- The axes of the slab test from axis i on: miss, pass by a NaN, or the interval left. -/
inductive RayRes where
  | miss
  | nan
  | span (tn tf : Nat)
  deriving DecidableEq, Repr

/-- One axis. A NaN among its inputs passes the node as one that the steps produce does, also where the direction is 0, and so does a
NaN in tmin or tmax: DESIGN CHOICE (log entry 124). -/
def rayAxis (w : Walk) (b : Bound) (r : RayRes) (i : Nat) : RayRes :=
  match r with
  | .span tn tf =>
    let o := w.q i
    let d := w.q (3 + i)
    let lo := nth b.lo i 0
    let hi := nth b.hi i 0
    if f32isNan tn || f32isNan tf || f32isNan o || f32isNan d || f32isNan lo || f32isNan hi then .nan
    else if d % 2 ^ 31 == 0 then (if f32lt o lo || f32lt hi o then .miss else r)
    else
      let a := f32div (f32sub lo o) d
      let c := f32div (f32sub hi o) d
      if f32isNan a || f32isNan c then .nan
      else .span (f32max tn (nextDown (f32min a c))) (f32min tf (nextUp (f32max a c)))
  | r => r

/-- Whether a node passes, and its value: RAY, SPHERE or OPEN. -/
def Walk.test (w : Walk) (b : Bound) : Option Nat :=
  match w.qkind with
  | 0 =>
    match [0, 1, 2].foldl (rayAxis w b) (.span (w.q 6) w.tmax.toNat) with
    | .miss => none
    | .nan => some (w.q 6)
    | .span tn tf => if f32le tn tf then some tn else none
  | 1 =>
    let e := [0, 1, 2].map fun i => max3 (f32sub (nth b.lo i 0) (w.q i)) 0 (f32sub (w.q i) (nth b.hi i 0))
    let d2 := f32fma (nth e 2 0) (nth e 2 0) (f32fma (nth e 1 0) (nth e 1 0) (f32mul (nth e 0 0) (nth e 0 0)))
    let r2 := f32mul (w.q 3) (w.q 3)
    if f32isNan d2 || f32isNan r2 then some 0 else if f32le d2 r2 then some d2 else none
  | _ =>
    let g := [0, 1, 2].map fun i => f32sub (w.q i) (nth b.centre i 0)
    some (f32fma (nth g 2 0) (nth g 2 0) (f32fma (nth g 1 0) (nth g 1 0) (f32mul (nth g 0 0) (nth g 0 0))))

/-- far of an OPEN test with its value d2; false with a NaN. -/
def Walk.far (w : Walk) (b : Bound) (d2 : Nat) : Bool :=
  f32lt (f32mul b.size b.size) (f32mul (f32mul (w.q 3) (w.q 3)) d2)

/-! ### Reads (R310) -/

/-- Why a read of the unit stops: a translation to wait for, a lock, a fault, a failed sector, or a full log. -/
inductive UnitStop where
  | unmapped (va level : Nat)
  | locked (va : Nat)
  | fault (cause va : Nat)
  /-- a sector of the tree, or of a page table, is lost (R431, R447) -/
  | lost (sec : Nat)
  | kill (sec : Nat)
  /-- a reply of another die is outstanding, or its time has passed (R462) -/
  | link (walker : Bool) (sec : Nat)

abbrev UnitRes (α : Type) : Type := Except UnitStop (α × State)

/-- n bytes from a 16-byte aligned address, in units of 16 bytes. -/
def unitRead (s : State) (va : Nat) : Nat → UnitRes (List Byte)
  | 0 => .ok ([], s)
  | k + 1 =>
    if !addrOk56 va then .error (.fault cRange va)
    else
      match s.askWalk va with
      | .stop _ => .error (.link true 0)
      | .go s =>
      match translate s s.accessor .unit va with
      | (.ok l sz, s) =>
        let ha := leafHa l (2 ^ sz) va
        match failedIn s.ms s.th.bay (s.soundAt l 0) ha 16 false, s.askHome l ha 16 .unit 0 with
        | some q, _ => .error (.lost q)
        | none, .stop _ => .error (.link false (ha / 16))
        | none, .go s =>
          match (podFillFor s.self s ha 16).gload l ha 16 0 with
          | none => .error (.fault cDetLog va)
          | some (bs, s) =>
            match unitRead s (va + 16) k with
            | .error e => .error e
            | .ok (cs, s) => .ok (bs ++ cs, s)
      | (.unmapped lv, _) => .error (.unmapped va lv)
      | (.locked, _) => .error (.locked va)
      | (.fault c, _) => .error (.fault c va)
      | (.failed q, _) => .error (.kill q)
      | (.lost q, _) => .error (.lost q)

/-- A node: an address at or above 2^56 is the fault of R307. -/
def Walk.read (w : Walk) (s : State) (off : Nat) : UnitRes (List Byte) := unitRead s (w.tbase + 16 * off) w.nsize

/-- What a stop does: a translation fault is recorded and the unit retries (R286, R310); a lock sets the thread aside
(R129); a fault is the thread's; a failed sector of a page table kills the context, as for a load. -/
def State.unitStop (s : State) (e : UnitStop) : State :=
  match e with
  | .unmapped va lv => ((faultRecord s s.accessor .unit va lv).mapTh fun t => { t with since := s.time }).block (.walk (some va))
  | .locked va => s.setAside va
  | .fault c va => s.raise c va
  | .lost q => s.dataError (16 * q)
  | .kill q => s.killLost s.tm.ref.ctx q
  | .link walker q => match s.overLink walker q with | .stop s => s | .go s => s.block (.walk none)

/-! ### TWINIT (R306) -/

/-- Offset of stack entry i. -/
def Walk.entryAt (w : Walk) (i : Nat) : Nat := w.area + 64 + 16 * i

/-- Pushes an entry (R300). -/
def pushEntry (w : Walk) (s : State) (off val : Nat) : Walk × State :=
  ({ w with depth := w.depth + 1 }, s.storeWrite 0 (w.entryAt w.depth) (toBytes 4 off ++ toBytes 4 val ++ toBytes 8 0))

/-- The status word (R308). -/
def walkStatus (depth acc count : Nat) : Word :=
  BitVec.ofNat 32 (depth * 65536 + acc * 256 + (if depth == 0 then 16 else 0) + count)

/-- The walk is formed, its root read and tested. -/
def twStart (s : State) (area : Nat) (blk desc : List Byte) : State :=
  let w : Walk := ⟨blk, desc, area, 0, BitVec.ofNat 32 (field blk 60 4), [0, 0, 0, 0], 0, false⟩
  let root := field blk 20 4
  match w.read s root with
  | .error e => s.unitStop e
  | .ok (node, s) =>
    let (w, s) := match w.test (w.bound node) with | some v => pushEntry w s root v | none => (w, s)
    s.mapTh fun t => { t with walk := some { w with status := walkStatus w.depth 0 0 } }

def execTwinit (o : EFmt) (s : State) : Out :=
  .next <|
    if s.active o.g then
      let area := (s.src o.a).toNat
      if s.th.migrated then s.raise cMigrated 0
      else if area % 64 != 0 then s.raise cAlign area
      else if area + 64 > s.tm.decl.lstore then s.raise cBounds area
      else
        match s.tm.badIn 0 area 64 with
        | some q => s.raise cDataError (16 * q)
        | none =>
          let b := s.tm.lst.read area 64
          if !walkBlockOk b then s.raise cWalkFormat area
          else if area + 64 + 16 * field b 17 1 > s.tm.decl.lstore then s.raise cBounds area
          else if !addrOk56 (field b 0 8) then s.raise cRange (field b 0 8)
          else if !addrOk56 (field b 8 8) then s.raise cRange (field b 8 8)
          else
            match unitRead s (field b 0 8) 2 with
            | .error e => s.unitStop e
            | .ok (d, s) => if walkDescOk d then twStart s area b d else s.raise cWalkFormat area
    else s

/-! ### TWSTEP (R304, R307) -/

/-- A record of a step: offset, value, accepted. -/
structure WalkRec where
  off : Nat
  val : Nat
  acc : Bool
  deriving DecidableEq, Repr

/-- The passing children of a node: offset and value, in slot order. -/
def childTests (w : Walk) (node : List Byte) : State → List Nat → UnitRes (List (Nat × Nat))
  | s, [] => .ok ([], s)
  | s, j :: rest =>
    let off := field node (w.coff + 4 * j) 4
    if off == 0xFFFFFFFF then childTests w node s rest
    else
      match w.read s off with
      | .error e => .error e
      | .ok (cn, s) =>
        match childTests w node s rest with
        | .error e => .error e
        | .ok (ps, s) => .ok ((match w.test (w.bound cn) with | some v => (off, v) :: ps | none => ps), s)

/-- What one turn of the loop of R304 does. -/
inductive TurnRes where
  | go (w : Walk) (rs : List WalkRec) (s : State)
  | stop (e : UnitStop)
  | overflow (w : Walk) (s : State)

/-- Pops one entry and deals with it. -/
def walkTurn (w : Walk) (rs : List WalkRec) (s : State) : TurnRes :=
  let w := { w with depth := w.depth - 1 }
  let e := s.tm.lst.read (w.entryAt w.depth) 8
  let off := field e 0 4
  let val := field e 4 4
  if (s.tm.badIn 0 (w.entryAt w.depth) 8).isSome then .stop (.fault cDataError (w.entryAt w.depth))
  else if w.qkind == 0 && f32lt w.tmax.toNat val then .go w rs s
  else
    match w.read s off with
    | .error e => .stop e
    | .ok (node, s) =>
      if bitAt (field node 0 4) w.leafbit then .go w (rs ++ [⟨off, val, false⟩]) s
      else
        let b := w.bound node
        let d2 := (w.test b).getD 0
        if w.qkind == 2 && w.far b d2 then .go w (rs ++ [⟨off, d2, true⟩]) s
        else
          match childTests w node s (List.range w.nchild) with
          | .error e => .stop e
          | .ok (ps, s) =>
            if w.depth + ps.length > w.maxd then .overflow w s
            else
              let ps := if w.qkind == 0 then sortBy (fun a b => f32lt a.2 b.2) ps else ps
              let (w, s) := ps.reverse.foldl (fun p c => pushEntry p.1 p.2 c.1 c.2) (w, s)
              .go w rs s

/-- The step is complete: D, the records' values and the status word. -/
def twFinish (o : EFmt) (w : Walk) (rs : List WalkRec) (s : State) : State :=
  let acc := rs.zipIdx.foldl (fun a p => a + if p.1.acc then 2 ^ p.2 else 0) 0
  let w := { w with
    vals := (List.range 4).map fun i => BitVec.ofNat 32 ((rs[i]?).map (·.val) |>.getD 0)
    status := walkStatus w.depth acc rs.length }
  let offs := (List.range 4).map fun i => (rs[i]?).map (·.off) |>.getD 0xFFFFFFFF
  (s.mapTh fun t => { t with walk := some w, step := none }).pend (offs.zipIdx.map fun p => .reg (o.d.toNat + p.2) (BitVec.ofNat 32 p.1))

/-- The bytes of a walk's stack entries. -/
def Walk.stackBytes (w : Walk) (s : State) : List Byte := s.tm.lst.read (w.area + 64) (16 * w.maxd)

/-- How far the step has come is kept while the thread blocks; `was` are the stack's bytes from before it. -/
def twKeep (w : Walk) (rs : List WalkRec) (was : List Byte) (s : State) : State :=
  s.mapTh fun t => { t with step := some ⟨w, rs.map fun r => (r.off, r.val, r.acc), was⟩ }

/-- A step that a fault ends has had no effect (R176): the stack is as it was. The walk of the thread is changed by a
complete step only. -/
def twUndo (w : Walk) (was : List Byte) (s : State) : State := s.mapTm fun t => { t with lst := t.lst.write (w.area + 64) was }

/-- The loop of R304, with the stack's bytes from before the step. It stops after a number of turns, to go on when the
thread issues again: a walk of a tree with a cycle need not end. -/
def twLoop (o : EFmt) (was : List Byte) : Nat → Walk → List WalkRec → State → State
  | 0, w, rs, s => (twKeep w rs was s).block (.walk none)
  | fuel + 1, w, rs, s =>
    if rs.length ≥ 4 || w.depth == 0 then twFinish o w rs s
    else
      match walkTurn w rs s with
      | .go w rs s => twLoop o was fuel w rs s
      | .overflow w s => (s.mapTh fun t => { t with walk := some { w with failed := true } }).raise cWalkStack w.area
      | .stop (.fault c va) =>
        if c == cRange then (s.mapTh fun t => { t with walk := some { w with failed := true } }).raise c va
        else (twUndo w was s).raise c va
      | .stop (.lost q) => (twUndo w was s).unitStop (.lost q)
      | .stop e =>
        let u := (twKeep w rs was s).unitStop e
        match u.th.status with
        | .blocked _ | .aside _ => u
        | _ => (twUndo w was s).unitStop e

/-- The walk, if the thread has one that is not failed. -/
def Thread.liveWalk (t : Thread) : Option Walk :=
  match t.walk with
  | some w => if w.failed then none else some w
  | none => none

def execTwstep (o : EFmt) (s : State) : Out :=
  .next <|
    if s.active o.g then
      if s.th.migrated then s.raise cMigrated 0
      else
        match s.th.liveWalk with
        | none => s.raise cWalkState 0
        | some w =>
          match s.th.step with
          | some p => twLoop o p.stack 256 p.walk (p.recs.map fun r => ⟨r.1, r.2.1, r.2.2⟩) s
          | none =>
            let v := (s.src o.a).toNat
            let tmax := if o.arg.getLsbD 0 && w.qkind == 0 && !f32isNan v then f32min w.tmax.toNat v else w.tmax.toNat
            twLoop o (w.stackBytes s) 256 { w with tmax := BitVec.ofNat 32 tmax } [] s
    else s

/-! ### TWGET and TWEND (R308, R309) -/

def twGet (o : EFmt) (s : State) (k : Walk → State) : State :=
  if s.active o.g then
    if s.th.migrated then s.raise cMigrated 0
    else
      match s.th.liveWalk with
      | none => s.raise cWalkState 0
      | some w => k w
  else s

def execTwgetVal (o : EFmt) (s : State) : Out :=
  .next (twGet o s fun w => s.pend ((List.range 4).map fun i => .reg (o.d.toNat + i) (nth w.vals i 0)))

def execTwgetSt (o : EFmt) (s : State) : Out := .next (twGet o s fun w => s.pend [.reg o.d.toNat w.status])

def execTwend (o : EFmt) (s : State) : Out :=
  .next <|
    if s.active o.g then
      if s.th.migrated then s.raise cMigrated 0 else s.mapTh fun t => { t with walk := none }
    else s

end Sys2Proof.Machine
end

