-- ==== Sys2Proof/Machine/MemEvents.lean ====
section
/-! DEFINITION. Events of the memory system: write-backs, the host's accesses, pod messages, link timeouts and
uncorrectable errors (R125, R155 to R159, R433, R446, R447, R462 to R464). -/

namespace Sys2Proof.Machine

/-! ### Write-back and the host (R125, R155) -/

/-- The team and the line of its image that hold a physical address. -/
def imageHolder (s : State) (pa : Nat) : Option (Team × ImageLine) :=
  s.teams.findSome? fun t =>
    if t.image != 0 && t.st != .retired && t.image ≤ pa then (imageLine t.decl ((pa - t.image) / 64)).map fun l => (t, l) else none

/-- CACHE_WRITEBACK: a cluster cache writes a dirty sector back whenever it chooses, keeping or evicting it. The number 96 stands
for the sector's home slice, which writes it to the memory or to the peer behind it; one above it for the register cache and the
typed stores that hold the line of an image (R381, R383). -/
def execCacheWriteback (cluster sec : Nat) (drop : Bool) (s : State) : Out :=
  .next <|
    if cluster < 96 then s.mapMs fun ms => if drop then evict ms cluster sec else writeBack ms cluster sec
    else if cluster > 96 then
      match imageHolder s (16 * sec) with
      | some (t, l) => evictLine s t l drop
      | none => s
    else if isPod (16 * sec) then
      s.mapMs fun ms => podWriteBack ms none sec drop
    else s.mapMs fun ms => l2WriteBack ms sec drop

/-- Memory of the module that the host may access (R416, R432), and the host's own memory. -/
def hostReach (pa n : Nat) : Bool := n != 0 && pa / 64 == (pa + n - 1) / 64 && (windowOk 1 pa || windowOk 0 pa || windowOk 2 pa)

/-- HOST_ACCESS (R155): to device memory performed at the line's home slice, on its default home die (R418); to the host's own
memory there, of which the device hears nothing until it reads the line again (R239). A read of a failed sector returns
nothing. With n = 0 the host reads a register: with pa = 0 a launch-queue doorbell, which returns 0 (R393), else MBCTL, whose BUSY
bit stands while a request is in the mailbox (R468). -/
def execHostAccess (store : Bool) (pa n v : Nat) (s : State) : Out :=
  .next <|
    if n == 0 then
      if store then s else { s with iod := { s.iod with hostRead := if pa == 0 || s.iod.mb.isNone then 0 else 1 } }
    else if !hostReach pa n then s
    else if store then
      if windowOk 2 pa then s.mapMs fun ms => { ms with mem := ms.mem.writeNat pa n v }
      else s.mapMs fun ms => homeWriteAll ms pa (toBytes n v)
    else if (sectorsOf pa n).any s.ms.lost then s
    else { s with iod := { s.iod with hostRead := if windowOk 2 pa then s.ms.mem.readNat pa n else homeNat s.ms pa n } }

/-! ### Pod messages (R157 to R159, R433) -/

/-- The home address of an address that an export window of this module admits: homed on the die that the window names (R433). -/
def exported (s : State) (pa : Nat) : Option Nat :=
  (s.iod.exports.find? fun w => w.base ≤ pa && pa < w.base + w.size).map fun w =>
    (if w.home != bits pa 32 30 then (w.home + 1) * aliasBase else 0) + pa

/-- A message of a peer: a write performed at the home slice; or with n = 0 the value v that a write has left there, on which
the waits held there are judged (R239). -/
def performPeer (s : State) (peer pa n v : Nat) : State :=
  if n == 0 then
    s.mapMs fun ms =>
      { ms with latches := ms.latches.map fun l =>
          if l.place == .peer && l.pa % aliasBase == (peer + 1) * podBase + pa && l.outcome.isNone && latchCond l.cc l.wide v l.operand.toNat then
            { l with outcome := some true }
          else l }
  else if n ≤ 16 && pa / 16 == (pa + n - 1) / 16 then
    match exported s pa with
    | some ha => s.mapMs fun ms => homeWrite ms ha (toBytes n v)
    | none => s
  else s

/-- A node that the module can reach: some route to it leads over a link that is up (R471). -/
def reachable (s : State) (node : Nat) : Bool := s.iod.routes.any fun r => r.1 == node && nth s.iod.podl r.2 0 == 2

/-- POD_MESSAGE_RECEIVE, from a node that can be reached: an acknowledgement removes the message it names, with v other than 0 a refusal, which kills the
requesting context (R433); any other message is performed unless its number has been performed already. -/
def execPodMessageReceive (peer seq : Nat) (ack : Bool) (pa n v : Nat) (s : State) : Out :=
  .next <|
    if !reachable s peer then s
    else if ack then
      let mine := fun (m : PodMsg) => m.peer == peer && m.seq == seq
      let s' := s.mapMs fun ms => { ms with podOut := ms.podOut.filter fun m => !mine m }
      match s.ms.podOut.find? mine with
      | none => s
      | some m =>
        match m.who with
        | some r => if v == 0 then s' else s'.killContext r.team.ctx 0x40 0
        | none => s'
    else if s.iod.node.isNone || s.ms.podIn.contains (peer, seq) then s
    else (performPeer s peer pa n v).mapMs fun ms => { ms with podIn := ms.podIn ++ [(peer, seq)] }

/-- POD_FLAG_RESEND: the flags not yet acknowledged are sent again, after the data, under their old numbers. -/
def execPodFlagResend (peer : Nat) (s : State) : Out :=
  .next <| s.mapMs fun ms =>
    let again := fun (m : PodMsg) => m.peer == peer && m.flag
    { ms with podOut := ms.podOut.filter (fun m => !again m) ++ ms.podOut.filter again }

/-- The global address a word accesses: its bytes, the retention it asks for, and whether it is a store or reduction. -/
structure LinkUse where
  va : Nat
  n : Nat
  al : Alloc
  store : Bool
  deriving DecidableEq, Repr

/-- The global access of a word, if it makes one. -/
def linkUse (s : State) (w : Word) : Option LinkUse :=
  let at' := fun (g : Bool) (u : LinkUse) => if s.active g then some u else none
  let sc := fun (n : Nat) => scopeAlloc (s.effScope n)
  match decode w with
  | .ok (.ld o) => at' o.g ⟨s.eaM o, memSize o.w, if isOrdered o.o then sc (scopeOf o.o) else scopeOf o.o, false⟩
  | .ok (.st o) => at' o.g ⟨s.eaM o, memSize o.w, if isOrdered o.o then sc (scopeOf o.o) else scopeOf o.o, true⟩
  | .ok (.ldra o) => at' o.g ⟨s.eaM o, memSize o.w, 3, false⟩
  | .ok (.pldb o) => at' o.g ⟨s.eaR o, 2 ^ o.w.toNat, 0, false⟩
  | .ok (.pstb o) => at' o.g ⟨s.eaR o, 2 ^ o.w.toNat, 0, false⟩
  | .ok (.waitu o) => at' o.g ⟨(s.srcPair o.a).toNat, if o.arg.getLsbD 3 then 8 else 4, 3, false⟩
  | .ok i =>
    match i with
    | .atom _ o => at' o.g ⟨s.eaR o, 4, sc o.w.toNat, false⟩
    | .atomx f o => at' o.g ⟨s.eaR o, atomxSize f.toNat, sc o.w.toNat, false⟩
    | .red _ o => at' o.g ⟨s.eaR o, 4, sc o.w.toNat, true⟩
    | .redx f o => at' o.g ⟨s.eaR o, redxSize f.toNat, sc o.w.toNat, true⟩
    | _ => none
  | .error _ => none

/-- A word of the memory pipe (R179); a group holds at most one (R175). -/
def memoryWord (w : Word) : Bool := 0x20 ≤ bits w.toNat 29 24 && bits w.toNat 29 24 ≤ 0x2F

/-- What remains of a thread's name: its team, itself and its group, in the focus. -/
def atGroup (s : State) (r : ThreadRef) : Option (Team × Thread × List Word × State) :=
  match s.thread? r with
  | none => none
  | some (t, x) =>
    let (ws, s) := groupOfThread s r.team x
    let s := s.focus r
    some (t, x, ws, { s with grp := ⟨ws, 0, s.th, s.tm, none⟩ })

/-- What a thread that waits for its peers has sent, once the count of the link timeout may have ended (R159, R462). -/
def podOverdue (s : State) (x : Thread) (by' : Nat → Asked → Nat) : Bool :=
  match x.status, x.sent with
  | .blocked .pod, some w | .blocked .flush, some w =>
    by' s.iod.lto ⟨w.since, w.backup, false, 0, 0⟩ ≤ s.time && s.ms.podOut.any fun m => w.msgs.contains (m.peer, m.seq)
  | _, _ => false

/-- The instruction that waits for its peer takes the fault. What is not yet acknowledged remains so, waited for by any later
release (R140, R159). -/
def podLinkFault (s : State) (r : ThreadRef) : State :=
  match atGroup s r with
  | none => s
  | some (_, _, ws, f) =>
    let va := ((ws.findSome? (linkUse f)).map (·.va)).getD 0
    let s := s.mapMs fun ms => { ms with podOut := ms.podOut.map fun m => if m.who == some r then { m with who := some (backRef r.team.ctx) } else m }
    raiseAt (countLink s) r memoryWord cPodLink va

/-- POD_LINK_FAULT. -/
def execPodLinkFault (r : ThreadRef) (s : State) : Out :=
  .next <|
    match s.thread? r with
    | some (_, x) => if podOverdue s x askedFrom then podLinkFault s r else s
    | none => s

/-! ### Link timeouts (R462 to R464) -/

/-- Marks sectors failed at their home, each once. -/
def markFailed (ms : MemSys) (qs : List Nat) : MemSys := { ms with failed := ms.failed ++ (qs.map physSec).filter fun q => !ms.failed.contains q }

/-- The outstanding request of a thread ends in its error: at its word, whose step of a traversal is undone with it. -/
def timeoutThread (s : State) (r : ThreadRef) (x : Thread) (a : Asked) : State :=
  let s := s.focus r
  let s := if x.issued.isEmpty then s.withUnfetched else { s with grp := ⟨x.issued, 0, s.th, s.tm, none⟩ }
  let s := { s with grp := { s.grp with pos := a.pos } }
  let s := match x.step with | some p => twUndo p.walk p.stack s | none => s
  (s.linkError a.walker a.sec).flush

/-- The request of a store or reduction that a thread is about to issue will time out, and it is not performed, or not in every
16-byte unit: the home marks those failed, and the thread passes them by (R464). -/
def timeoutStore (s : State) (r : ThreadRef) (addr : Nat) : Option State :=
  match atGroup s r with
  | none => none
  | some (t, x, ws, f) =>
    match ws.findSome? fun w => (linkUse f w).filter fun u => u.store && u.va == addr with
    | none => none
    | some u =>
      match translate f f.accessor .store addr with
      | (.ok l k, _) =>
        let ha := leafHa l (2 ^ k) addr
        let qs := (sectorsOf ha u.n).zipIdx.filter fun p => p.2 == 0 || Config.choice (s.draws + p.2) % 2 == 0
        if !x.lost.isEmpty || !f.leavesDie l ha u.al || (max u.al (leafAlloc l) < 3 && u.n < 16) then none
        else
          let s := { (countLink s).mapMs fun ms => markFailed ms (qs.map (·.1)) with draws := s.draws + 4 }
          some (s.setTeam (t.setThread { x with lost := qs.map (·.1) }))
      | _ => none

/-- A write-back of a cluster times out and is not performed: its home has marked the sector failed. -/
def timeoutWriteBack (s : State) (bay ha : Nat) : State :=
  if ha % 16 == 0 && (dirtyOf s.ms (clusterOf bay)).contains (ha / 16) then
    (countLink s).mapMs fun ms =>
      markFailed { ms with caches := ms.caches.filter fun y => !(y.sec == ha / 16 && ofCluster (clusterOf bay) y.own) } [ha / 16]
  else s

/-- LINK_TIMEOUT, once the count of a request may have ended: of a thread's own or its walker's; of a card, whose number stands 2^32
higher and whose context is killed, as by one of the front end for a grid, named by a team number that no team has; else of a
store that the thread is about to issue, or of a write-back of its cluster, by the address. -/
def execLinkTimeout (r : ThreadRef) (addr : Nat) (s : State) : Out :=
  .next <|
    match s.placedTeam r.team with
    | none =>
      let late := fun (g : Grid) => g.ctx == r.team.ctx && g.gid == r.team.gid && g.st != .retired && g.waitSince + 10 * s.iod.lto ≤ s.time
      if r.team.team ≥ 2 ^ 24 && s.grids.any late then (countLink s).killContext r.team.ctx 0x40 0 else s
    | some t =>
      if r.tid ≥ 2 ^ 32 then
        if t.ring.cards.any fun c => c.seq == r.tid - 2 ^ 32 && c.phase != .waiting && c.since + 10 * s.iod.lto ≤ s.time then
          (countLink s).killContext r.team.ctx 0x40 0
        else s
      else
        match t.threads.find? fun x => x.tid == r.tid with
        | none => s
        | some x =>
          match x.status, x.asked with
          | .blocked .link, some a => if askedFrom s.iod.lto a ≤ s.time then timeoutThread s r x a else s
          | _, _ => (timeoutStore s r addr).getD (timeoutWriteBack s x.bay addr)

/-! ### Uncorrectable errors (R446) -/

/-- Counts an error at a die. -/
def countUncorr (s : State) (die : Nat) (line : Bool) : State :=
  { s with iod := { s.iod with
      dies := updAt s.iod.dies die fun d => { d with uncorr := (d.uncorr + 1) % 2 ^ 64 }
      retired := if line then (s.iod.retired + 1) % 2 ^ 64 else s.iod.retired } }

/-- UNCORRECTABLE_ERROR. -/
def execUncorrectableError (e : ErrorSite) (s : State) : Out :=
  .next <|
    match e with
    | .cacheCopy own q =>
      let c := if own < 768 then own / 8 else own - 768
      let s' := countUncorr s (c / 12)
      match cacheGet s.ms own q with
      | none => s
      | some x =>
        if x.dirty then
          (s' true).mapMs fun ms =>
            markFailed { ms with caches := ms.caches.filter fun y => !(y.sec == q && ofCluster c y.own) } [q]
        else (s' false).mapMs fun ms => cacheDrop ms own q
    | .memory q =>
      if windowOk 0 (16 * q) || windowOk 1 (16 * q) then
        (countUncorr s (memoryDie (16 * q)) true).mapMs fun ms => markFailed ms [q]
      else s
    | .register r n =>
      match s.thread? r with
      | none => s
      | some (t, x) =>
        let k := if n ≥ 64 then 8 else 16
        let bad := ((rangeFrom (x.tid / k * k) k).map fun i => (i, min n 64)).filter fun b => !t.badReg.contains b
        (countUncorr s (x.bay / 96) false).setTeam { t with badReg := t.badReg ++ bad }
    | .typedStore r sp off =>
      match s.placedTeam r with
      | none => s
      | some t =>
        if sp < 4 && off < t.storeSize sp then
          let bad := ((rangeFrom (off / 64 * 4) 4).map fun q => (sp, q)).filter fun b => !t.badStore.contains b
          (countUncorr s (t.bay / 96) false).setTeam { t with badStore := t.badStore ++ bad }
        else s

end Sys2Proof.Machine
end

