-- ==== Sys2Proof/Machine/Mgmt.lean ====
section
/-! DEFINITION. The management mailbox and its commands but TRANSREQ (R385, R433, R450, R455, R461, R465, R468 to R471, R474
to R476). -/

namespace Sys2Proof.Machine

/-! ### The mailbox (R468) -/

/-- How a command ends: with a STATUS, or it goes on. -/
inductive MbOut where
  | done (status : Nat) (s : State)
  | busy (s : State)

/-- Writes STATUS into the record with a system-scope release and clears BUSY. -/
def mbFinish (s : State) (at' status : Nat) : State :=
  let s := s.mapMs fun ms => sysWrite ms (at' + 1) (toBytes 1 status)
  { s with iod := { s.iod with mb := none, mbrec := [], shootq := s.iod.shootq.filter (· != 0) } }

/-- Bytes 2 to 7, and those of 8 to 63 that no argument uses, are zero (R468, R469). -/
def mbReservedOk (r : List Byte) (used : List (Nat × Nat)) : Bool :=
  (rangeFrom 2 62).all fun i => (r.getD i 0) == 0 || used.any fun u => 8 ≤ i && u.1 ≤ i && i < u.1 + u.2

/-- Commands refused in a state of service (R468, R475). -/
def mbRefused (s : State) (cmd : Nat) : Bool :=
  match s.iod.service with
  | .recovery => 2 ≤ cmd && cmd ≤ 9
  | .reduced => 6 ≤ cmd && cmd ≤ 8
  | _ => false

/-- Performs the command whose record the mailbox holds, if it is the one asked for: its format, then whether it is
refused, then its effect. -/
def mbRun (s : State) (cmd : Nat) (mine : List Byte → Bool) (used : List (Nat × Nat)) (k : List Byte → State → MbOut) : State :=
  match s.iod.mb with
  | none => s
  | some at' =>
    let r := s.iod.mbrec.take 64
    if field r 0 1 != cmd || !mine r || s.iod.service == .off then s
    else if !mbReservedOk r used then mbFinish s at' 2
    else if mbRefused s cmd then mbFinish s at' 3
    else
      match k r s with
      | .done st s => mbFinish s at' st
      | .busy s => s

def anyResident (s : State) : Bool := s.ctxs.any fun c => c.st == .resident || c.st == .killing

/-- The translation request that a TRANSREQ names, read with it (R425). -/
def Iod.request (i : Iod) : List Byte := i.mbrec.drop 64

/-- Whether some command answers to a record: its CMD, and REG of SETREG, CMD of a translation request. -/
def mbKnown (r q : List Byte) : Bool :=
  let c := field r 0 1
  if c == 2 then 1 ≤ field r 8 1 && field r 8 1 ≤ 6
  else if c == 3 then 1 ≤ field q 0 1 && field q 0 1 ≤ 3
  else 1 ≤ c && c ≤ 0x0B

/-- A record to which no command answers ends at once: with status 2, but for a TRANSREQ whose own format holds: its request ends
with status 2 in its status word (R425). -/
def endUnknown (s : State) (at' : Nat) (r q : List Byte) : State :=
  if field r 0 1 != 3 || !mbReservedOk r [(8, 8)] || field r 8 8 % 64 != 0 then mbFinish s at' 2
  else if mbRefused s 3 then mbFinish s at' 3
  else mbFinish (if field q 40 8 % 8 == 0 then s.mapMs fun ms => sysWrite ms (field q 40 8) (toBytes 8 2) else s) at' 1

/-- MBCTL_WRITE_WHILE_BUSY: a write of MBCTL. While BUSY it is discarded and counted; else the record is taken, and one
that no command answers to ends at once. A shootdown or a bias flip takes its place in their order (R427). -/
def execMbctlWriteWhileBusy (addr : Nat) (s : State) : Out :=
  .next <|
    if s.iod.service == .off then s
    else if s.iod.mb.isSome then { s with iod := { s.iod with mbdrop := (s.iod.mbdrop + 1) % 2 ^ 32 } }
    else
      let at' := addr / 64 * 64
      let r := homeRead s.ms at' 64
      let q := if field r 0 1 == 3 && field r 8 8 % 64 == 0 then homeRead s.ms (field r 8 8) 64 else []
      let queue := if field r 0 1 == 3 && (field q 0 1 == 1 || field q 0 1 == 3) then s.iod.shootq ++ [0] else s.iod.shootq
      let s := { s with iod := { s.iod with mb := some at', mbrec := r ++ q, shootq := queue } }
      if mbKnown r q then s else endUnknown s at' r q

/-! ### RESYNC (R474) -/

def dieCode : DieState → Nat
  | .off => 0
  | .training => 1
  | .ready => 2
  | .degraded => 3
  | .failed => 4

def serviceCode : Service → Nat
  | .full => 2
  | .reduced => 1
  | _ => 0

/-- A number with bit i set where a test holds, for i below n. -/
def bitMask (n : Nat) (f : Nat → Bool) : Nat := sumBy (List.range n) fun i => if f i then 2 ^ i else 0

/-- Fault records not yet consumed, and dropped ones, of a partition (R442). -/
def faultCounts (s : State) (p : Nat) : Nat × Nat :=
  let base := (nth s.iod.fqb p (0, 0)).1
  if base == 0 then (0, 0) else ((homeNat s.ms base 4 + 2 ^ 32 - homeNat s.ms (base + 4) 4) % 2 ^ 32, homeNat s.ms (base + 8) 4)

def resyncRecord (s : State) : List Byte :=
  let i := s.iod
  let counts := (List.range 8).map (faultCounts s)
  let full := fun (q : Nat) => match queuePart s q with | some p => partGrids s p ≥ 16384 | none => false
  let node := match i.node with | some n => n + 2 ^ 15 | none => 0
  toBytes 4 (if i.service == .recovery then 0 else i.fwver) ++ toBytes 1 (serviceCode i.service) ++ toBytes 3 0 ++ toBytes 8 s.time ++
    (i.dies.flatMap fun d => toBytes 1 (dieCode d.st)) ++ toBytes 1 0 ++ (i.hbm.flatMap fun d => toBytes 1 (dieCode d)) ++ toBytes 4 0 ++
    (i.hostl.flatMap fun h => toBytes 1 h) ++ toBytes 2 (bitMask 16 fun k => nth i.podl k 0 == 2) ++ toBytes 2 node ++
    toBytes 2 (sumBy (List.range 4) fun k => nth s.ms.expl k 0 * 16 ^ k) ++
    toBytes 4 (s.ctxs.filter fun c => c.st == .resident || c.st == .killing).length ++
    toBytes 8 (bitMask 64 fun q => field (queueDesc s q) 21 1 % 4 != 0) ++ toBytes 8 (bitMask 64 full) ++
    (counts.flatMap fun c => toBytes 1 (min c.1 255)) ++ (counts.flatMap fun c => toBytes 1 (min c.2 255)) ++
    (i.dies.flatMap fun d => toBytes 8 d.corr) ++ (i.dies.flatMap fun d => toBytes 8 d.uncorr) ++ toBytes 8 i.retired ++ toBytes 8 i.ltocnt ++
    toBytes 4 i.mbdrop ++ toBytes 4 (bitMask 8 fun k => match i.dies[k]? with | some d => d.stretched | none => false) ++
    toBytes 8 i.ucieDown ++ toBytes 144 0

/-- The counters with the errors that the arrays of each die have corrected so far (R445): no result depends on one. -/
def sampleErrors (s : State) : State :=
  { s with
    iod := { s.iod with dies := s.iod.dies.zipIdx.map fun p => { p.1 with corr := (p.1.corr + Config.corrected s.draws p.2) % 2 ^ 64 } }
    draws := s.draws + 1 }

def execResync (s : State) : Out :=
  .next <| mbRun s 1 (fun _ => true) [(8, 8)] fun r s =>
    let out := field r 8 8
    if out % 64 != 0 then .done 2 s
    else
      let s := sampleErrors s
      .done 1 (s.mapMs fun ms => sysWrite ms out (resyncRecord s))

/-! ### SETREG (R375, R469, R470) -/

/-- A SETREG of one register: PART and SIZE are zero where the register has none. -/
def setreg (s : State) (reg : Nat) (sized : Bool) (ok : Nat → Nat → Nat → Bool) (k : Nat → Nat → Nat → State → MbOut) : State :=
  mbRun s 2 (fun r => field r 8 1 == reg) [(8, 1), (9, 1), (10, 1), (16, 8)] fun r s =>
    let part := field r 9 1
    let size := field r 10 1
    let v := field r 16 8
    if (reg != 3 && part != 0) || (!sized && size != 0) || !ok part size v then .done 2 s else k part size v s

def execSetregCtxtb (s : State) : Out :=
  .next <| setreg s 1 false (fun _ _ v => v % 4096 == 0) fun _ _ v s =>
    if anyResident s then .done 3 s else .done 1 { s with iod := { s.iod with ctxtb := v } }

def execSetregLqtb (s : State) : Out :=
  .next <| setreg s 2 false (fun _ _ v => v % 64 == 0) fun _ _ v s => .done 1 { s with iod := { s.iod with lqtb := v } }

def execSetregFqb (s : State) : Out :=
  .next <| setreg s 3 true (fun p k v => p < 8 && 6 ≤ k && k ≤ 16 && v % 4096 == 0) fun p k v s =>
    .done 1 { s with iod := { s.iod with fqb := s.iod.fqb.set p (v, k) } }

def execSetregPriwt (s : State) : Out :=
  .next <| setreg s 4 false (fun _ _ _ => true) fun _ _ v s => .done 1 { s with iod := { s.iod with priwt := v } }

/-- A new overflow region waits until no entry is spilled (R375). -/
def settleLov (s : State) : State :=
  match s.iod.lovNext with
  | none => s
  | some (b, n) =>
    if s.ms.latches.any fun l => l.place == .overflow then s
    else { s with iod := { s.iod with lovb := b, lovs := n, lovNext := none } }

def execSetregLovb (s : State) : Out :=
  .next <| setreg s 5 true (fun _ n v => 4 ≤ n && n ≤ 20 && v % 4096 == 0) fun _ n v s =>
    .done 1 (settleLov { s with iod := { s.iod with lovNext := some (v, n) } })

def execSetregLto (s : State) : Out :=
  .next <| setreg s 6 false (fun _ _ v => 1000 ≤ v && v ≤ 10000000) fun _ _ v s =>
    .done 1 { s with iod := { s.iod with lto := v } }

/-! ### SHUTTER and KILL (R450, R455, R468) -/

/-- The teams that a SHUTTER has named are saved: it is answered and they rejoin placement (R478). -/
def shutterAnswer (s : State) (ctx : Nat) : MbOut :=
  let named := fun (t : Team) => t.ref.ctx == ctx && t.shutMb
  if s.teams.any fun t => named t && t.placedHere then .busy s
  else .done 1 { s with teams := s.teams.map fun (t : Team) => if named t then { t with shutMb := false } else t }

def execShutter (s : State) : Out :=
  .next <| mbRun s 4 (fun _ => true) [(8, 2), (10, 1), (16, 4), (20, 4)] fun r s =>
    let ctx := field r 8 2
    if field r 10 1 > 1 then .done 2 s
    else if s.teams.any fun t => t.ref.ctx == ctx && t.shutMb then shutterAnswer s ctx
    else if !s.alive ctx then .done 3 s
    else
      -- a context with teams, all of them saved, is not resident: the Already saved clause decides (R468)
      let all := field r 10 1 == 1
      let ts := s.teams.filter fun t =>
        t.ref.ctx == ctx && t.st != .retired && (all || (t.ref.gid == field r 16 4 && t.ref.team == field r 20 4))
      -- a co-resident grid is shuttered whole (R403, R452)
      let mates := s.teams.filter fun u =>
        u.st != .retired && ts.any fun t => t.ref.ctx == u.ref.ctx && t.ref.gid == u.ref.gid && t.ref != u.ref && (s.gridOf t.ref.ctx t.ref.gid).cores
      if ts.isEmpty then .done 3 s
      else shutterAnswer (mates.foldl (fun s t => shutterTeam false s t.ref) (ts.foldl (fun s t => shutterTeam true s t.ref) s)) ctx

/-- KILL is answered once the kill is complete. -/
def execKill (s : State) : Out :=
  .next <| mbRun s 5 (fun _ => true) [(8, 2)] fun r s =>
    let id := field r 8 2
    if id ≥ 4096 then .done 2 s
    else
      let s := s.killContext id 0x44 0
      if (s.ctxOf id).st == .killing then .busy s else .done 1 s

/-! ### PARTSET, POWERCAP, PODCFG, TIMESET (R385, R461, R465, R469) -/

/-- Entry p of a partition table in its memory form. -/
def partOf (t : List Byte) (p : Nat) : Part :=
  let e := (t.drop (128 * p)).take 128
  { valid := field e 0 1 == 1
    cdmask := field e 1 1
    asidBase := field e 4 2
    asidCnt := field e 6 2
    ctxBase := field e 8 2
    ctxCnt := field e 10 2
    qmask := field e 16 8
    wins := ((List.range 4).map fun i => (field e (32 + 16 * i) 8, field e (40 + 16 * i) 8)).filter fun w => w.2 != 0 }

/-- Reserved fields and the limits of one entry. -/
def partEntryOk (t : List Byte) (p : Nat) : Bool :=
  let e := (t.drop (128 * p)).take 128
  let x := partOf t p
  field e 0 1 ≤ 1 && zeroBytes e 2 2 && zeroBytes e 12 4 && zeroBytes e 24 8 && zeroBytes e 96 32 &&
    (!x.valid || (1 ≤ x.asidCnt && x.asidBase + x.asidCnt ≤ 512 && 1 ≤ x.ctxCnt && x.ctxBase + x.ctxCnt ≤ 4096 &&
      (List.range 4).all fun i => field e (32 + 16 * i) 8 % 2 ^ 30 == 0 && field e (40 + 16 * i) 8 % 2 ^ 30 == 0))

def rangesMeet (a n b m : Nat) : Bool := a < b + m && b < a + n

/-- Two valid entries are disjoint. -/
def partsApart (x y : Part) : Bool :=
  !x.valid || !y.valid ||
    (x.cdmask &&& y.cdmask == 0 && x.qmask &&& y.qmask == 0 && !rangesMeet x.asidBase x.asidCnt y.asidBase y.asidCnt &&
      !rangesMeet x.ctxBase x.ctxCnt y.ctxBase y.ctxCnt)

def partTableOk (t : List Byte) : Bool :=
  let ps := (List.range 8).map (partOf t)
  (List.range 8).all (partEntryOk t) && (nth ps 0 Part.unused).valid &&
    ((List.range 8).all fun i => (List.range i).all fun j => partsApart (nth ps i Part.unused) (nth ps j Part.unused)) &&
    ((List.range 8).all fun d => ps.any fun p => p.valid && bitAt p.cdmask d)

def execPartset (s : State) : Out :=
  .next <| mbRun s 6 (fun _ => true) [(8, 8)] fun r s =>
    if field r 8 8 % 64 != 0 then .done 2 s
    else if anyResident s then .done 3 s
    else
      let t := homeRead s.ms (field r 8 8) 1024
      if partTableOk t then .done 1 { s with iod := { s.iod with parts := (List.range 8).map (partOf t) } } else .done 2 s

/-- The fixed power cap of a die (R465). -/
def fixedCap (die : Nat) : Nat := ((Die.resetAll[die]?).map (·.cap)).getD 0

def execPowercap (s : State) : Out :=
  .next <| mbRun s 7 (fun _ => true) [(8, 1), (10, 2)] fun r s =>
    let die := field r 8 1
    let cap := field r 10 2
    if die > 14 then .done 2 s
    else if cap > fixedCap die || 2 * cap < fixedCap die then .done 3 s
    else .done 1 { s with iod := { s.iod with dies := updAt s.iod.dies die fun d => { d with cap := cap } } }

/-- An export-window record. -/
def exportOf (e : List Byte) : ExportWin := ⟨field e 0 8, field e 8 8, field e 16 1⟩

def exportOk (e : List Byte) : Bool :=
  field e 0 8 % 2 ^ 30 == 0 && field e 8 8 % 2 ^ 30 == 0 && field e 16 1 < 8 && zeroBytes e 17 15 &&
    (windowOk 0 (field e 0 8) || windowOk 1 (field e 0 8))

def execPodcfg (s : State) : Out :=
  .next <| mbRun s 8 (fun _ => true) [(8, 2), (10, 1), (16, 8)] fun r s =>
    let node := field r 8 2
    let n := field r 10 1
    if bits node 14 12 != 0 || n > 8 then .done 2 s
    else if anyResident s then .done 3 s
    else
      let ws := (List.range n).map fun i => homeRead s.ms (field r 16 8 + 32 * i) 32
      if ws.all exportOk then
        .done 1 { s with iod := { s.iod with node := if bitAt node 15 then some (node % 4096) else none, exports := ws.map exportOf, syncCount := 0, syncRate := 0 } }
      else .done 2 s

def execTimeset (s : State) : Out :=
  .next <| mbRun s 9 (fun _ => true) [(8, 8)] fun r s =>
    if s.iod.everResident then .done 3 s else .done 1 { s with time := field r 8 8 }

/-! ### Firmware and attestation (R475, R476) -/

/-- Whether an image passes verification. -/
def imageOk (image : List Byte) : Bool := Config.signatureOk image && Config.fusedMinimum ≤ Config.imageSecurity image

/-- A reset of the module: everything as after power-on reset but the firmware slot, the fuses and what memory holds. -/
def moduleReset (s : State) (slot : Iod) : State :=
  { State.reset with
    ms := { MemSys.reset with mem := settledMem s.ms }
    iod := { slot with fused := s.iod.fused }
    draws := s.draws
    agenda := s.agenda }

/-- The firmware slot once an image is written. -/
def slotWith (image : List Byte) : Iod :=
  { Iod.reset with fwver := Config.imageVersion image, fwsec := Config.imageSecurity image, fwimage := image, fwok := true }

/-- FWLOAD: the image is verified; from then on the slot is being written and would not verify; once it is written, the command is
answered and the module reset. -/
def execFwload (s : State) : Out :=
  .next <| mbRun s 0x0A (fun _ => true) [(8, 8), (16, 8)] fun r s =>
    match s.iod.fwwrite, s.iod.mb with
    | some image, some at' => .busy (moduleReset (mbFinish s at' 1) (slotWith image))
    | _, _ =>
      if anyResident s then .done 3 s
      else
        let image := homeRead s.ms (field r 8 8) (field r 16 8)
        if imageOk image then .busy { s with iod := { s.iod with fwwrite := some image, fwok := false } } else .done 4 s

/-- The partition table in its memory form. -/
def partBytes (p : Part) : List Byte :=
  toBytes 1 (if p.valid then 1 else 0) ++ toBytes 1 p.cdmask ++ toBytes 2 0 ++ toBytes 2 p.asidBase ++ toBytes 2 p.asidCnt ++
    toBytes 2 p.ctxBase ++ toBytes 2 p.ctxCnt ++ toBytes 4 0 ++ toBytes 8 p.qmask ++ toBytes 8 0 ++
    ((List.range 4).flatMap fun i => toBytes 8 (nth p.wins i (0, 0)).1 ++ toBytes 8 (nth p.wins i (0, 0)).2) ++ toBytes 32 0

/-- The report of ATTEST: what is signed, the signature, the certificate. -/
def attestReport (s : State) (nonce : List Byte) : List Byte :=
  let body := Config.digest s.iod.fwimage ++ toBytes 4 (if s.iod.service == .recovery then 0 else s.iod.fwver) ++
    toBytes 1 (serviceCode s.iod.service) ++ s.iod.parts.flatMap partBytes ++ nonce
  body ++ Config.signature (Config.digest body) ++ Config.certificate

def execAttest (s : State) : Out :=
  .next <| mbRun s 0x0B (fun _ => true) [(8, 8), (16, 8)] fun r s =>
    if field r 16 8 % 64 != 0 then .done 2 s
    else .done 1 (s.mapMs fun ms => sysWrite ms (field r 16 8) (attestReport s (homeRead s.ms (field r 8 8) 48)))

end Sys2Proof.Machine
end

