-- ==== Sys2Proof/Machine/Boot.lean ====
section
/-! DEFINITION. Bring-up, die failures, clocks, power and pod links (R459 to R467, R471 to R473). -/

namespace Sys2Proof.Machine

def State.mapIod (s : State) (f : Iod → Iod) : State := { s with iod := f s.iod }

def State.mapDie (s : State) (die : Nat) (f : Die → Die) : State :=
  s.mapIod fun i => { i with dies := updAt i.dies die f }

def State.die (s : State) (die : Nat) : Die := nth s.iod.dies die Die.none

/-! ### Bring-up (R467, R472, R473) -/

/-- The dies in the order in which they start, after the I/O die (R467). -/
def startOrder : List Nat := rangeFrom 8 6 ++ List.range 8

/-- The next die to start. -/
def nextDie (s : State) : Option Nat := startOrder.find? fun d => (s.die d).st == .off

/-- A die starts: it trains from then on. -/
def startDie (s : State) : State :=
  match nextDie s with
  | some d => s.mapDie d fun d => { d with st := .training }
  | none => s

/-- POWER_ON_RESET: with a firmware image that verifies, the I/O die is ready, the stacks and links train, and reduced service
is entered, available once its die and stack are trained; the dies start one after another. Without one, recovery. One that comes
while FWLOAD writes the slot leaves an image that does not verify (R475). -/
def execPowerOnReset (s : State) : Out :=
  .next <|
    if s.iod.service != .off then (if s.iod.fwwrite.isSome then moduleReset s { Iod.reset with fwok := false } else s)
    else if !s.iod.fwok then s.mapIod fun i => { i with service := .recovery, dies := updAt i.dies 14 fun d => { d with st := .ready } }
    else
      (s.mapMs fun ms => { ms with expl := (List.range 4).map fun k => if Config.expander k then 1 else 0 }).mapIod fun i =>
        { i with
          service := .reduced
          dies := updAt i.dies 14 fun d => { d with st := .ready }
          hbm := i.hbm.map fun _ => .training
          hostl := (List.range 2).map fun k => if Config.hostPort k then 1 else 0
          podl := i.podl.map fun _ => 1 }

/-- REDUCED_SERVICE_START: compute die 0, near-tier die 0 and stack 0 are trained. -/
def execReducedServiceStart (s : State) : Out :=
  .next <|
    if s.iod.service == .reduced && (s.die 0).st == .training && (s.die 8).st == .training && s.iod.hbm[0]? == some .training then
      ((s.mapDie 0 fun d => { d with st := .ready }).mapDie 8 fun d => { d with st := .ready }).mapIod fun i =>
        { i with hbm := updAt i.hbm 0 fun _ => .ready }
    else s

/-- Bays that have been started of the dies before a compute die, all of theirs. -/
def earlierStarted (s : State) (die : Nat) : Bool :=
  (List.range die).all fun d => (s.die d).bays == 96 || (s.die d).st == .failed

/-- 2 µs have passed since the last bays of a die started (R467). -/
def batchDue (s : State) (d : Die) : Bool := (d.bays == 0 && d.batchAt == 0) || d.batchAt + 2000 ≤ s.time

/-- BAY_START_BATCH: of a die that is off, the start itself, in its turn; of a compute die that is trained, eight more bays, the dies in
order, in reduced service the first 16 of die 0; or eight that leave their power-gated state. -/
def execBayStartBatch (die : Nat) (s : State) : Out :=
  .next <|
    let d := s.die die
    let lim := match s.iod.service with | .full => 96 | .reduced => if die == 0 then 16 else 0 | _ => 0
    let up := d.st == .ready || d.st == .degraded
    if (s.iod.service == .reduced || s.iod.service == .full) && nextDie s == some die then startDie s
    else if die < 8 && up && batchDue s d && d.bays < lim && earlierStarted s die then
      s.mapDie die fun d => { d with bays := min lim (d.bays + 8), batchAt := s.time }
    else if die < 8 && up && batchDue s d && !d.gated.isEmpty then
      s.mapDie die fun d => { d with gated := d.gated.drop 8, batchAt := s.time }
    else s

/-- How the training of a stack, a link or a join ends is open (R473): one bit for each. -/
def trainedOk (s : State) (k : Nat) : Bool := Config.choice (s.draws + k) % 2 == 0

/-- A link after training: up or down, where it was training. -/
def trainedLink (s : State) (k h : Nat) : Nat := if h == 1 then (if trainedOk s k then 2 else 3) else h

/-- TRAINING_END, once every die has started: every die, stack, host port, expander port and join that still trains is ready or fails,
as it comes out; a die or pod link that fails does so by an event of its own; placement stops and resident teams are shuttered. It
comes also where reduced service has never been available (R473). -/
def execTrainingEnd (s : State) : Out :=
  .next <|
    if s.iod.service != .reduced || s.iod.trained || (nextDie s).isSome then s
    else
      let expl := s.ms.expl.zipIdx.map fun p => trainedLink s (24 + p.2) p.1
      let s := s.mapIod fun i =>
        { i with
          trained := true
          dies := i.dies.map fun d => if d.st == .training then { d with st := DieState.ready } else d
          hbm := i.hbm.zipIdx.map fun p => if p.1 == .training then (if trainedOk s p.2 then .ready else .failed) else p.1
          hostl := i.hostl.zipIdx.map fun p => trainedLink s (16 + p.2) p.1
          podl := i.podl.map fun h => if h == 1 then 2 else h
          ucieDown := bitMask 46 fun k => !trainedOk s (32 + k) }
      let s := { s.mapMs fun ms => { ms with expl := expl } with draws := s.draws + 78 }
      (s.teams.filter fun t => t.st == .running).foldl (fun s t => shutterTeam false s t.ref) s

/-- FULL_SERVICE_START. -/
def execFullServiceStart (s : State) : Out :=
  .next <|
    if s.iod.service == .reduced && s.iod.trained && !(s.teams.any Team.placedHere) then
      s.mapIod fun i => { i with service := .full, trained := false }
    else s

/-- An idle bay that has started is power-gated, until BAY_START_BATCH starts it again (R467). -/
def gateBay (die bay : Nat) (s : State) : State :=
  let b := 96 * die + bay
  if die < 8 && bay < (s.die die).bays && !(s.die die).gated.contains bay && (teamsOn s b).isEmpty && (vestibuleCohorts s b).isEmpty then
    s.mapDie die fun d => { d with gated := d.gated ++ [bay] }
  else s

/-! ### Failed dies (R464) -/

/-- Some leaf under a table is homed on a die. -/
def homedUnder (ms : MemSys) (die tab : Nat) : List (Nat × Nat × Nat) → Bool
  | [] => false
  | (_, _, ib) :: rest =>
    (listedEntries (settledMem ms) tab (2 ^ ib)).any fun a =>
      let e := homeNat ms a 8
      bitAt e 0 && (if bitAt e 1 then leafHome e == die else homedUnder ms die (bits e 51 8 * 256) rest)

/-- A context with a team placed on a die, or a page homed on it, whatever stands behind its page tables' home slices. -/
def touchesDie (s : State) (die : Nat) (c : Ctx) : Bool :=
  (s.teams.any fun t => t.ref.ctx == c.id && t.placedHere && t.bay / 96 == die) || homedUnder s.ms die c.ptroot.toNat walkLevels

/-- DIE_FAILED: the die has had no reply from the I/O die for 2 × LTO; it is marked, and the contexts that touch it are killed with
cause 0x40. A die that fails to train is marked in the same way (R473). -/
def execDieFailed (die : Nat) (s : State) : Out :=
  .next <|
    let d := s.die die
    if die < 14 && (((d.st == .ready || d.st == .degraded) && d.heard + 20 * s.iod.lto ≤ s.time) || d.st == .training) then
      let hit := s.ctxs.filter fun c => (c.st == .resident || c.st == .saved) && touchesDie s die c
      hit.foldl (fun s c => s.killContext c.id 0x40 0) (s.mapDie die fun d => { d with st := .failed })
    else s

/-! ### Clocks and power (R463, R465, R466) -/

/-- The requests that a thread has outstanding are counted by the backup oscillator. -/
def Thread.onBackup (x : Thread) : Thread :=
  { x with asked := x.asked.map fun a => { a with backup := true }, sent := x.sent.map fun w => { w with backup := true } }

/-- REFERENCE_CLOCK_LOSS: of the requests outstanding, too, the backup oscillator counts the time. -/
def execReferenceClockLoss (die : Nat) (s : State) : Out :=
  .next <|
    if die < 14 && (s.die die).st == .ready then
      let s := { s with teams := s.teams.map fun (t : Team) =>
        { t with threads := t.threads.map fun (x : Thread) => if x.bay / 96 == die then x.onBackup else x } }
      s.mapDie die fun d => { d with refLost := true, st := .degraded }
    else s

/-- REFERENCE_CLOCK_RETURN. -/
def execReferenceClockReturn (die : Nat) (s : State) : Out :=
  .next <|
    if (s.die die).refLost then
      s.mapDie die fun d => { d with refLost := false, st := if d.st == .degraded then .ready else d.st }
    else s

/-- POWER_CAP_STRETCH: a compute die's estimate reaches its cap. -/
def execPowerCapStretch (die watts : Nat) (s : State) : Out :=
  .next (if die < 8 && (s.die die).cap ≤ watts then s.mapDie die fun d => { d with stretched := true } else s)

/-- CLOCK_RESTORE: the estimate has fallen below the cap. -/
def execClockRestore (die watts : Nat) (s : State) : Out :=
  .next (if die < 8 && watts < (s.die die).cap then s.mapDie die fun d => { d with stretched := false } else s)

/-! ### Pod links and pod time (R461, R471) -/

/-- FLIT_CRC_RETRY: the flit goes over the same link again; nothing else changes. -/
def execFlitCrcRetry (port : Nat) (s : State) : Out :=
  .next (if port < 16 && nth s.iod.podl port 0 == 2 then s.mapIod fun i => { i with crcPort := some port } else s)

/-- The module that is this one's time source: of the nodes it can reach, the lowest, if it is lower than its own (R461). -/
def timeSource (s : State) : Option Nat :=
  match s.iod.node with
  | none => none
  | some n => (sortBy (fun a b => decide (a < b)) ((s.iod.routes.map (·.1)).filter fun m => reachable s m && decide (m < n))).head?

/-- A module without a path to a time source keeps counting at its own rate (R461). -/
def settleSync (s : State) : State := if (timeSource s).isNone then s.mapIod fun i => { i with syncRate := 0 } else s

/-- POD_LINK_TRAINING_FAIL: the link is taken out of use, and what it carried takes other routes (R158). -/
def execPodLinkTrainingFail (port : Nat) (s : State) : Out :=
  .next (if port < 16 then settleSync (s.mapIod fun i => { i with podl := updAt i.podl port fun _ => 3 }) else s)

/-- A route to a node appears over a port, or goes. -/
def setRoute (node port : Nat) (up : Bool) (s : State) : State :=
  if node < 4096 && port < 16 then
    settleSync (s.mapIod fun i =>
      let rest := i.routes.filter (· != (node, port))
      { i with routes := if up then rest ++ [(node, port)] else rest })
  else s

/-- The link of a host port changes (R474). -/
def setHostLink (port st : Nat) (s : State) : State :=
  if port < 2 && st < 4 then s.mapIod fun i => { i with hostl := updAt i.hostl port fun _ => st } else s

/-- TIME_SYNC_MEASURE: the source's count, half the round trip added, against this module's: its rate is corrected toward
it, by at most 100 parts per million (R461). -/
def execTimeSyncMeasure (peer sourceCount : Nat) (s : State) : Out :=
  .next <|
    if timeSource s != some peer then s
    else
      let there := sourceCount + 5 * Config.podTrip s.draws
      let by' : Int := Config.choice s.draws % 101
      let rate : Int := if there > s.time then by' else if there < s.time then -by' else 0
      { s.mapIod fun i => { i with syncCount := i.syncCount + 1, syncRate := rate } with draws := s.draws + 1 }

end Sys2Proof.Machine
end

