-- ==== Sys2Proof/Machine/Movers.lean ====
section
/-! DEFINITION. The copy engine, the transpose engine and the quantiser: COPY, GATHER, SCATTER, XPOSE, QUANT and MXPRE cards (R70 to
R72, R289 to R293). -/

namespace Sys2Proof.Machine

/-! ### COPY (R289) -/

/-- Source and destination offsets of the rows, in the order of the linear index. -/
def copyRows (b : List Byte) : List (Int × Int) :=
  let st := fun o => sextN (field b o 4) 32
  (List.range (field b 16 4)).flatMap fun (z : Nat) =>
    (List.range (field b 12 4)).map fun (y : Nat) => ((y : Int) * st 24 + z * st 28, (y : Int) * st 32 + z * st 36)

def copyWork (k : Card) (s : State) : Eng Unit :=
  engEach
    (fun s p =>
      engThen (cardRead k s p.1 (field k.blk 8 4)) fun bs s => regionWrite s k.seq (cardWbase k.bytes) p.2 bs)
    (copyRows k.blk) s

def execCopy (t : TeamRef) (seq : Nat) (s : State) : Out := .next (runCard 1 t seq copyWork s)

/-! ### GATHER and SCATTER (R290) -/

/-- The index list, read from the L-store once the card has started. -/
def readIndices (s : State) (b : List Byte) : Eng (List Nat) :=
  let n := field b 12 4
  let at' := field b 16 4
  if s.tm.badRange 0 at' (4 * n) then .error .kill
  else .ok ((List.range n).map fun i => s.tm.lst.readNat (at' + 4 * i) 4, s)

/-- Writes the status word, where the block names one. -/
def writeStatus (s : State) (b : List Byte) (count : Nat) : State :=
  let at' := field b 28 4
  if at' == 0xFFFFFFFF then s else s.storeWrite 0 at' (toBytes 4 (min count (2 ^ 32 - 1)))

def gatherWork (k : Card) (s : State) : Eng Unit :=
  let row := field k.blk 8 4
  let out := fun i => i * field k.blk 20 4 + row > cardRlen k.bytes
  engThen (readIndices s k.blk) fun idx s =>
    engThen
      (engEach
        (fun s p =>
          engThen
            (if out p.1 then .ok (List.replicate row 0, s)
             else cardRead k s (p.1 * field k.blk 20 4 : Nat) row)
            fun bs s => regionWrite s k.seq (cardWbase k.bytes) (p.2 * field k.blk 24 4 : Nat) bs)
        idx.zipIdx s)
      fun _ s => .ok ((), writeStatus s k.blk (idx.filter out).length)

def execGather (t : TeamRef) (seq : Nat) (s : State) : Out := .next (runCard 2 t seq gatherWork s)

def scatterWork (k : Card) (s : State) : Eng Unit :=
  let row := field k.blk 8 4
  let out := fun i => i * field k.blk 24 4 + row > cardWlen k.bytes
  engThen (readIndices s k.blk) fun idx s =>
    engThen
      (engEach
        (fun s p =>
          engThen (cardRead k s (p.2 * field k.blk 20 4 : Nat) row) fun bs s =>
            if out p.1 then .ok ((), s) else regionWrite s k.seq (cardWbase k.bytes) (p.1 * field k.blk 24 4 : Nat) bs)
        idx.zipIdx s)
      fun _ s => .ok ((), writeStatus s k.blk (idx.filter out).length)

def execScatter (t : TeamRef) (seq : Nat) (s : State) : Out := .next (runCard 3 t seq scatterWork s)

/-! ### XPOSE (R291) -/

/-- The blocks in the card's order: the module's own last. Each is written at its line's system-scope point. -/
def xposeWork (k : Card) (s : State) : Eng Unit :=
  let b := k.blk
  let n := field b 12 2
  let rank := field b 14 2
  let blk := field b 8 4
  let peer := field b 20 4
  if s.tm.badRange 0 peer (8 * n) then .error .kill
  else
    let dest := (List.range n).map fun p => s.tm.lst.readNat (peer + 8 * p) 8
    engEach
      (fun s m =>
        let p := (rank + m) % n
        engThen (cardRead k s (p * field b 16 4 : Nat) blk) fun bs s =>
          engWrite s false k.seq (wrapN (nth dest p 0 + rank * blk : Nat) 64) 3 bs)
      (rangeFrom 1 n) s

def execXpose (t : TeamRef) (seq : Nat) (s : State) : Out := .next (runCard 4 t seq xposeWork s)

/-! ### QUANT (R70 to R72, R292) -/

/-- A source element as FP32 bits: BF16 and FP16 widened exactly, FP64 rounded to nearest even. -/
def quantSource (sf x : Nat) : Nat :=
  if sf == 9 then x else (convertF (fmtOf sf) fmt32 .rne false false false (sf != 8) x).bits

/-- One stage of the transform of R71 on a block. -/
def hadamardStage (st : Nat) (y : List Nat) : List Nat :=
  (List.range y.length).map fun i =>
    let span := 2 ^ st
    if bitAt i st then f32sub (nth y (i - span) 0) (nth y i 0) else f32add (nth y i 0) (nth y (i + span) 0)

/-- The Sylvester transform of each block of h = 2^k elements (R71). -/
def hadamard (k : Nat) (y : List Nat) : List Nat :=
  (chunks (2 ^ k) y).flatMap fun b => (List.range k).foldl (fun b st => hadamardStage st b) b

/-- Signs flipped by the key (R70). -/
def flipSigns (key g : Nat) (y : List Nat) : List Nat :=
  y.zipIdx.map fun p => if ksg key (g * 256 + p.2) % 2 == 1 then f32neg p.1 else p.1

/-- rne_int(a / b) for b above 0. -/
def rneQuot (a b : Nat) : Nat := if 2 * (a % b) > b || (2 * (a % b) == b && a / b % 2 == 1) then a / b + 1 else a / b

/-- rne_int(v / S) of an FP32 value and a scale m × 2^e, m above 0. -/
def quantQuot (v : Nat) (m : Nat) (e : Int) : Int :=
  match fmt32.read v with
  | .fin n a g => signedN n (rneQuot (a * 2 ^ (g - e).toNat) (m * 2 ^ (e - g).toNat))
  | _ => 0

/-- The smallest e from 0 to 254 for which 2^(e − 127) reaches a positive FP32 value, or 254. -/
def scaleExp (x : Nat) : Nat :=
  match fmt32.read x with
  | .fin _ m g => ((List.range 255).find? fun (e : Nat) => !aboveExp m g 1 ((e : Int) - 127)).getD 254
  | _ => 254

/-- The scale of step 3 or 4 of R72 from m or raw: its header bits and its value as m × 2^e. -/
def quantScale (kind : Nat) (x : Nat) (general : Bool) : Nat × Nat × Int :=
  if kind == 1 then
    let h := (convertF fmt32 fmt16 .rne true false false false x).bits
    let h := if general && h == 0 then 1 else h
    match fmt16.read h with
    | .fin _ m e => (h, m, e)
    | _ => (h, 0, 0)
  else
    let e := scaleExp x
    (e, 1, (e : Int) - 127)

/-- A header from its scale bits and zero point (R53). -/
def quantHeader (kind sc : Nat) (z : Int) : List Byte :=
  if kind == 1 then toBytes 2 sc ++ [BitVec.ofInt 8 z, 0] else toBytes 1 sc ++ [BitVec.ofInt 8 z]

/-- The largest and the smallest of values, −0 taken as +0. -/
def quantRange (y : List Nat) : Nat × Nat :=
  let y := y.map fun v => if v == 2 ^ 31 then 0 else v
  (y.foldl (fun a v => if f32lt a v then v else a) (nth y 0 0), y.foldl (fun a v => if f32lt v a then v else a) (nth y 0 0))

/-- The codes and header of a transformed group (R72); `draw` names the free values of a scale that rounds to 0. -/
def quantGroup (kind bits' draw : Nat) (y : List Nat) : List Nat × List Byte :=
  let q : Nat := 2 ^ bits' - 1
  if y.any fun v => !f32finite v then
    (y.map fun _ => 0, quantHeader kind (if kind == 1 then 0x7E00 else 0xFF) 0)
  else
    let (mx, mn) := quantRange y
    let range := f32sub mx mn
    let range := if f32finite range then range else 0x7F7FFFFF
    let (sc, m, e) :=
      if range % 2 ^ 31 == 0 then quantScale kind (if mn == 0 then 0x3F800000 else f32abs mn) false
      else quantScale kind (f32div range (f32ofInt q)) true
    if m == 0 then
      ((List.range y.length).map fun (i : Nat) => Config.quantOpen draw (i + 1) % (q + 1),
        quantHeader kind sc ((Config.quantOpen draw 0 % 256 : Nat) - 128))
    else
      let z := clampI (-quantQuot mn m e) (-128) 127
      (y.map fun v => (clampI (quantQuot v m e + z) 0 q).toNat, quantHeader kind sc z)

/-- The bytes of codes of 8 or 4 bits (R44). -/
def codeBytes (bits' : Nat) (codes : List Nat) : List Byte :=
  if bits' == 8 then codes.map fun c => BitVec.ofNat 8 c
  else (chunks 2 codes).map fun p => BitVec.ofNat 8 (nth p 0 0 + 16 * nth p 1 0)

/-- Group j of a row. -/
def quantOne (k : Card) (s : State) (p : Nat × Nat) : Eng Unit :=
  let b := k.blk
  let r := b.drop 64
  let sf := field b 8 1
  let fmt := field r 0 1
  let kind := field r 1 1
  let n := groupElems (field r 2 1)
  let hs := field r 3 1
  let sb := fmtBits sf / 8
  engThen (cardRead k s (p.1 * field b 16 8 + p.2 * n * sb : Nat) (n * sb)) fun bs s =>
    let x := (chunks sb bs).map fun e => quantSource sf (ofBytes e)
    let y := if hs == 0 then x else hadamard (4 + hs) (flipSigns (field r 48 8) (p.1 * (field r 8 4 / n) + p.2) x)
    let (codes, hd) := quantGroup kind (fmtBits fmt) (s.openKey ((s.cardKey k * 1024 + p.1) * 65536 + p.2)) y
    let s := { s with draws := s.draws + 1 }
    engThen
      (regionWrite s k.seq (BitVec.ofNat 64 (field r 24 8)) (p.1 * field r 16 8 + p.2 * n * fmtBits fmt / 8 : Nat)
        (codeBytes (fmtBits fmt) codes))
      fun _ s => regionWrite s k.seq (BitVec.ofNat 64 (field r 32 8)) (p.1 * field r 40 8 + p.2 * headerBytes' kind : Nat) hd

def quantWork (k : Card) (s : State) : Eng Unit :=
  let r := k.blk.drop 64
  let groups := field r 8 4 / groupElems (field r 2 1)
  engEach (quantOne k) ((List.range (field r 12 4)).flatMap fun row => (List.range groups).map fun j => (row, j)) s

def execQuant (t : TeamRef) (seq : Nat) (s : State) : Out := .next (runCard 5 t seq quantWork s)

/-! ### MXPRE (R293) -/

/-- A source element in the C format; every permitted pair is exact. -/
def mxpreElem (sf df : Nat) (x : Nat) : Nat :=
  if sf == df then x else (convertF (fmtOf sf) (fmtOf df) .rne false false false true x).bits

def mxpreWork (k : Card) (s : State) : Eng Unit :=
  let b := k.blk
  let sf := field b 8 1
  let df := field b 9 1
  let cols := field b 14 2
  let sb := fmtBits sf / 8
  let db := fmtBits df / 8
  engEach
    (fun s (i : Nat) =>
      engThen
        (if cardRlen k.bytes == 0 then .ok (List.replicate (cols * db) 0, s)
         else
          engThen (cardRead k s (i * field b 16 4 : Nat) (cols * sb)) fun bs s =>
            .ok ((chunks sb bs).flatMap fun e => toBytes db (mxpreElem sf df (ofBytes e)), s))
        fun bs s => regionWrite s k.seq (cardWbase k.bytes) (i * field b 20 4 : Nat) bs)
    (List.range (field b 12 2)) s

def execMxpre (t : TeamRef) (seq : Nat) (s : State) : Out := .next (runCard 6 t seq mxpreWork s)

end Sys2Proof.Machine
end

