-- ==== Sys2Proof/Machine/Compositor.lean ====
section
/-! DEFINITION. The tile compositor: PROJ, BIN, BLEND and BACK cards (R312 to R326). Values are FP32 bits; every step is
rounded to nearest even, without flags or flushing. -/

namespace Sys2Proof.Machine

def one32 : Nat := 0x3F800000
def half32 : Nat := 0x3F000000
def log2e32 : Nat := 0x3FB8AA3B

/-- FP16 widened. -/
def widen16 (x : Nat) : Nat := (convertF fmt16 fmt32 .rne false false false true x).bits

/-- dot3 of R315. -/
def dot3 (a b : List Nat) : Nat :=
  f32fma (nth a 2 0) (nth b 2 0) (f32fma (nth a 1 0) (nth b 1 0) (f32mul (nth a 0 0) (nth b 0 0)))

/-- k FP32 values from offset o of a record. -/
def floats (r : List Byte) (o k : Nat) : List Nat := (List.range k).map fun i => field r (o + 4 * i) 4

/-- The exponential of R312: R80 with the card's copy of record 2. -/
def exp2f (k : Card) (x : Nat) : Nat :=
  (fexp2F ⟨(nth k.exp2 0 0).toNat, 0, 0, k.exp2.drop 1⟩ false false x).bits

/-- ⌊x⌋ of a value; the two infinities lie beyond every grid. -/
def floorInt (x : Nat) : Int :=
  match fmt32.read x with
  | .nan _ => Config.nanCoord x
  | .inf n => if n then -(2 ^ 40) else 2 ^ 40
  | .fin n m e => signedN n (roundAt .rd n m e 0 false).1

/-- ⌈x⌉ of a value that is not negative, saturated at 65,535. -/
def ceilSat (x : Nat) : Nat :=
  match fmt32.read x with
  | .fin n m e => if n then 0 else min 65535 (roundAt .ru false m e 0 false).1
  | _ => 65535

/-! ### Reading and writing arrays -/

/-- Bytes of the read region. -/
def compRead (k : Card) (s : State) (o n : Nat) : Eng (List Byte) := engRead s true (wrapN ((cardRbase k.bytes).toNat + o : Nat) 64) n

/-- Bytes of the write region. -/
def compWrite (k : Card) (s : State) (o : Nat) (bs : List Byte) : Eng Unit :=
  engWrite s true k.seq (wrapN ((cardWbase k.bytes).toNat + o : Nat) 64) 2 bs

/-- Folds over a list while reading. -/
def engFold {α β : Type} (f : State → β → α → Eng β) : List α → β → State → Eng β
  | [], b, s => .ok (b, s)
  | x :: rest, b, s => engThen (f s b x) fun b s => engFold f rest b s

def blkOff (k : Card) (o : Nat) : Nat := 64 * field k.blk o 4
def blkCount (k : Card) : Nat := field k.blk 8 4
def blkW (k : Card) : Nat := field k.blk 12 2
def blkH (k : Card) : Nat := field k.blk 14 2

/-! ### PROJ (R313 to R317) -/

/-- A culled record: id and FLAGS. -/
def culledRec (idAt id flags : Nat) : List Byte := toBytes idAt 0 ++ toBytes 4 id ++ toBytes (42 - idAt) 0 ++ toBytes 2 flags

/-- The rotation of a quaternion with its factor k (R315). -/
def quatRows (w x y z k : Nat) : List (List Nat) :=
  let m := f32mul
  [[f32sub one32 (m k (f32add (m y y) (m z z))), m k (f32sub (m x y) (m w z)), m k (f32add (m x z) (m w y))],
   [m k (f32add (m x y) (m w z)), f32sub one32 (m k (f32add (m x x) (m z z))), m k (f32sub (m y z) (m w x))],
   [m k (f32sub (m x z) (m w y)), m k (f32add (m y z) (m w x)), f32sub one32 (m k (f32add (m x x) (m y y)))]]

/-- Column j of a matrix of rows. -/
def column (m : List (List Nat)) (j : Nat) : List Nat := m.map fun r => nth r j 0

/-- The projected record of a Gaussian (R315). The max of its radius is FMAX of R208, which passes a NaN by: DESIGN CHOICE (log entry 125). -/
def projGauss (k : Card) (p : List Byte) : List Byte :=
  let b := k.blk
  let id := field p 40 4
  let cull := culledRec 32 id 1
  let r := [floats b 16 3, floats b 28 3, floats b 40 3]
  let tv := floats b 52 3
  let (fx, fy, cx, cy) := (field b 64 4, field b 68 4, field b 72 4, field b 76 4)
  let mu := floats p 0 3
  let t := (List.range 3).map fun i => f32add (dot3 (nth r i []) mu) (nth tv i 0)
  let t2 := nth t 2 0
  if !f32le (field b 80 4) t2 then cull
  else
    let sc := (floats p 12 3).map fun x => exp2f k (f32mul x log2e32)
    let q := (List.range 4).map fun i => widen16 (field p (24 + 2 * i) 2)
    let (w, x, y, z) := (nth q 0 0, nth q 1 0, nth q 2 0, nth q 3 0)
    let n := f32fma z z (f32fma y y (f32fma x x (f32mul w w)))
    if !(f32lt 0 n && f32finite n) then cull
    else
      let rows := quatRows w x y z (f32div 0x40000000 n)
      let m := rows.map fun row => (List.range 3).map fun j => f32mul (nth row j 0) (nth sc j 0)
      let sig := (List.range 3).map fun i => (List.range 3).map fun j => dot3 (nth m (min i j) []) (nth m (max i j) [])
      let iz := f32div one32 t2
      let u := f32mul (nth t 0 0) iz
      let v := f32mul (nth t 1 0) iz
      let j0 := [f32mul fx iz, 0, f32neg (f32mul (f32mul fx u) iz)]
      let j1 := [0, f32mul fy iz, f32neg (f32mul (f32mul fy v) iz)]
      let pr := fun j => (List.range 3).map fun c => dot3 j (column r c)
      let up := fun p => (List.range 3).map fun c => dot3 p (column sig c)
      let p0 := pr j0
      let p1 := pr j1
      let u0 := up p0
      let u1 := up p1
      let cxx := f32add (dot3 u0 p0) 0x3E800000
      let cxy := dot3 u0 p1
      let cyy := f32add (dot3 u1 p1) 0x3E800000
      let det := f32sub (f32mul cxx cyy) (f32mul cxy cxy)
      if !f32lt 0 det then cull
      else
        let ca := f32div cyy det
        let cb := f32neg (f32div cxy det)
        let cc := f32div cxx det
        let mid := f32mul half32 (f32add cxx cyy)
        let rt := f32mul 0x40400000 (f32sqrt (f32add mid (f32sqrt (f32max 0x3DCCCCCD (f32sub (f32mul mid mid) det)))))
        let rad := ceilSat rt
        let radF := f32ofInt rad
        let mx := f32fma fx u cx
        let my := f32fma fy v cy
        let (xh, xl, yh, yl) := (f32add mx radF, f32sub mx radF, f32add my radF, f32sub my radF)
        if f32isNan rt || f32isNan xh || f32isNan xl || f32isNan yh || f32isNan yl || rad == 0 || f32lt xh 0 ||
            f32le (f32ofInt (blkW k)) xl || f32lt yh 0 || f32le (f32ofInt (blkH k)) yl then cull
        else
          [mx, my, ca, cb, cc, t2].flatMap (toBytes 4) ++ (p.drop 32).take 8 ++ toBytes 4 id ++ toBytes 2 rad ++ toBytes 10 0

/-- The projected record of a triangle (R316). -/
def projTri (k : Card) (p : List Byte) : List Byte :=
  let id := field p 48 4
  let hw := f32mul (f32ofInt (blkW k)) half32
  let hh := f32mul (f32ofInt (blkH k)) half32
  let vert := fun (i : Nat) =>
    let (x, y, w) := (field p (16 * i) 4, field p (16 * i + 4) 4, field p (16 * i + 12) 4)
    let iw := f32div one32 w
    [f32fma (f32mul x iw) hw hw, f32fma (f32neg (f32mul y iw)) hh hh]
  let ws := (List.range 3).map fun i => field p (16 * i + 12) 4
  let vs := (List.range 3).flatMap vert
  if ws.any (fun w => !f32lt (field k.blk 80 4) w) || vs.any f32isNan then culledRec 36 id 3
  else (vs ++ ws).flatMap (toBytes 4) ++ toBytes 4 id ++ toBytes 6 0 ++ toBytes 2 2

/-- The projected record of a primitive record (R313, R317). -/
def projRecord (k : Card) (p : List Byte) : List Byte :=
  match field p 63 1 with
  | 0 => projGauss k p
  | 1 => projTri k p
  | _ => culledRec 32 (Config.otherKindId p) 1

/-- Reserved fields of a primitive record of its kind, and of a projected record, are zero (R4, R313, R317). -/
def primitiveOk (p : List Byte) : Bool :=
  match field p 63 1 with
  | 0 => zeroBytes p 44 19
  | 1 => zeroBytes p 52 11
  | _ => true

def projectedOk (r : List Byte) : Bool :=
  field r 46 2 < 4 && (if bitAt (field r 46 2) 1 then zeroBytes r 40 6 else zeroBytes r 38 8)

/-- A projected record; one with a reserved field that is not zero ends the card, and with it the context (R4, R286). -/
def compRecord (k : Card) (s : State) (i : Nat) : Eng (List Byte) :=
  engThen (compRead k s (blkOff k 16 + 48 * i) 48) fun r s => if projectedOk r then .ok (r, s) else .error .kill

def projWork (k : Card) (s : State) : Eng Unit :=
  engEach
    (fun s i => engThen (compRead k s (blkOff k 84 + 64 * i) 64) fun p s =>
      if primitiveOk p then compWrite k s (blkOff k 88 + 48 * i) (projRecord k p) else .error .kill)
    (List.range (blkCount k)) s

def execProj (t : TeamRef) (seq : Nat) (s : State) : Out := .next (runCard 0x10 t seq projWork s)

/-! ### BIN (R319) -/

/-- FLAGS of a projected record (R317). -/
def recCulled (r : List Byte) : Bool := bitAt (field r 46 2) 0
def recTri (r : List Byte) : Bool := bitAt (field r 46 2) 1

/-- Tiles from a to b along an axis of n tiles, each quotient rounded before its floor. -/
def tileEnd (x : Nat) : Int := floorInt (f32div x 0x41800000)

def tileSpan (lo hi : Int) (n : Nat) (mayBeEmpty : Bool) : List Nat :=
  if mayBeEmpty && (hi < 0 || lo ≥ n) then []
  else
    let a := (clampI lo 0 (n - 1)).toNat
    let b := (clampI hi 0 (n - 1)).toNat
    rangeFrom a (b + 1 - a)

/-- Columns, rows and depth of a record (R319). -/
def recTiles (tx ty : Nat) (r : List Byte) : List Nat × List Nat × Nat :=
  if recTri r then
    let xs := [field r 0 4, field r 8 4, field r 16 4]
    let ys := [field r 4 4, field r 12 4, field r 20 4]
    let lo := fun (l : List Nat) => f32min (f32min (nth l 0 0) (nth l 1 0)) (nth l 2 0)
    let hi := fun (l : List Nat) => f32max (f32max (nth l 0 0) (nth l 1 0)) (nth l 2 0)
    let cols := tileSpan (tileEnd (lo xs)) (tileEnd (hi xs)) tx true
    let rows := tileSpan (tileEnd (lo ys)) (tileEnd (hi ys)) ty true
    (cols, rows, lo (floats r 24 3))
  else
    let rad := f32ofInt (field r 36 2)
    let mx := field r 0 4
    let my := field r 4 4
    (tileSpan (tileEnd (f32sub mx rad)) (tileEnd (f32add mx rad)) tx false,
      tileSpan (tileEnd (f32sub my rad)) (tileEnd (f32add my rad)) ty false, field r 20 4)

/-- The pairs (tile, key) of record i. -/
def recPairs (tx ty i : Nat) (r : List Byte) : List (Nat × Nat) :=
  if recCulled r then []
  else
    let (cols, rows, d) := recTiles tx ty r
    rows.flatMap fun y => cols.map fun x => (y * tx + x, d * 2 ^ 32 + i)

/-- A pair lies before another. -/
def pairBefore (a b : Nat × Nat) : Bool := a.1 < b.1 || (a.1 == b.1 && a.2 < b.2)

/-- The range table of sorted pairs. -/
def rangeEntry (draw : Nat) (ps : List (Nat × Nat)) (tile : Nat) : List Byte :=
  let n := (ps.filter fun p => p.1 == tile).length
  toBytes 4 (if n == 0 then Config.compOpen draw tile else (ps.takeWhile fun p => p.1 < tile).length) ++ toBytes 4 n

def binWork (k : Card) (s : State) : Eng Unit :=
  let tx := ceilDiv (blkW k) 16
  let ty := ceilDiv (blkH k) 16
  engThen
    (engFold
      (fun s ps i =>
        engThen (compRecord k s i) fun r s => .ok (ps ++ recPairs tx ty i r, s))
      (List.range (blkCount k)) [] s)
    fun ps s =>
      let tooMany := ps.length > field k.blk 28 4
      let ps := sortBy pairBefore ps
      let s' := { s with draws := s.draws + 1 }
      engThen
        (if tooMany then .ok ((), s')
         else engEach (fun s p => compWrite k s (blkOff k 20 + 8 * p.2) (toBytes 8 p.1.2)) ps.zipIdx s')
        fun _ s' =>
          engThen
            (engEach (fun x t => compWrite k x (blkOff k 24 + 8 * t) (if tooMany then toBytes 8 0 else rangeEntry (s.openKey (s.cardKey k)) ps t))
              (List.range (tx * ty)) s')
            fun _ s' => compWrite k s' (blkOff k 32) (toBytes 4 (min ps.length (2 ^ 31 - 1) + if tooMany then 2 ^ 31 else 0))

def execBin (t : TeamRef) (seq : Nat) (s : State) : Out := .next (runCard 0x11 t seq binWork s)

/-! ### A tile's list and its triangles (R320, R321) -/

/-- An entry of a tile's list: its pair position, record index and record. -/
structure TileEnt where
  pos : Nat
  idx : Nat
  rec' : List Byte
  deriving DecidableEq, Repr

/-- The entries of a tile that are not skipped, in list order. -/
def tileList (k : Card) (s : State) (tile : Nat) : Eng (List TileEnt) :=
  engThen (compRead k s (blkOff k 24 + 8 * tile) 8) fun re s =>
    let start := field re 0 4
    let n := min (field re 4 4) (field k.blk 28 4 - start)
    engFold
      (fun s es pos =>
        engThen (compRead k s (blkOff k 20 + 8 * pos) 8) fun key s =>
          let idx := field key 0 4
          if idx ≥ blkCount k then .ok (es, s)
          else
            engThen (compRecord k s idx) fun r s =>
              .ok (if recCulled r then es else es ++ [⟨pos, idx, r⟩], s))
      (rangeFrom start n) [] s

/-- A pixel's visibility: id, depth, B1 and B2 as one word. -/
structure Vis where
  id : Nat
  depth : Nat
  bb : Nat
  deriving DecidableEq, Repr

/-- A coordinate in 1/256 of a pixel (R321 step 1). -/
def snapCoord (x : Nat) : Int :=
  match fmt32.read x with
  | .nan _ => clampI (Config.nanCoord x) (-(2 ^ 22)) (2 ^ 22)
  | .inf n => if n then -(2 ^ 22) else 2 ^ 22
  | .fin n m e => clampI (rneInt n m (e + 8)) (-(2 ^ 22)) (2 ^ 22)

/-- E_ab(P) (R321 step 2). -/
def edgeFn (a b p : Int × Int) : Int := (b.1 - a.1) * (p.2 - a.2) - (b.2 - a.2) * (p.1 - a.1)

/-- A sample's side of an edge: positive, or on an edge that the top-left rule gives to this triangle. `sg` is the
sign that makes the area positive: with it the direction of every edge turns about, so that of two triangles that
share an edge one covers a sample on it. -/
def edgeCovers (sg : Int) (a b p : Int × Int) : Bool :=
  let e := sg * edgeFn a b p
  let dx := sg * (b.1 - a.1)
  let dy := sg * (b.2 - a.2)
  e > 0 || (e == 0 && (dy > 0 || (dy == 0 && dx < 0)))

/-- What a triangle does to a pixel's entry (R321). -/
def rasterTri (x y : Nat) (v : Vis) (r : List Byte) : Vis :=
  let pt := fun (i : Nat) => (snapCoord (field r (8 * i) 4), snapCoord (field r (8 * i + 4) 4))
  let (p0, p1, p2) := (pt 0, pt 1, pt 2)
  let p : Int × Int := (256 * x + 128, 256 * y + 128)
  let area := edgeFn p0 p1 p2
  let sg : Int := if area < 0 then -1 else 1
  if area == 0 || !(edgeCovers sg p1 p2 p && edgeCovers sg p2 p0 p && edgeCovers sg p0 p1 p) then v
  else
    let fa := f32ofInt (sg * area)
    let b1 := f32div (f32ofInt (sg * edgeFn p2 p0 p)) fa
    let b2 := f32div (f32ofInt (sg * edgeFn p0 p1 p)) fa
    let b0 := f32sub (f32sub one32 b1) b2
    let iw := fun (i : Nat) => f32div one32 (field r (24 + 4 * i) 4)
    let depth := f32div one32 (f32fma b2 (iw 2) (f32fma b1 (iw 1) (f32mul b0 (iw 0))))
    let id := field r 36 4
    let eq := f32le depth v.depth && !f32lt depth v.depth
    if f32lt depth v.depth || (eq && id < v.id) then
      let h := fun b => (convertF fmt32 fmt16 .rne false false false false b).bits
      ⟨id, depth, h b1 + 65536 * h b2⟩
    else v

/-! ### Blending (R322) -/

/-- What a Gaussian gives at a pixel before the transmittance is known: the values of R322 up to α, none where it is
skipped. -/
structure Splat where
  dx : Nat
  dy : Nat
  g : Nat
  raw : Nat
  alpha : Nat
  deriving DecidableEq, Repr

/-- The steps of R322 for one entry; none where it is skipped. The min of α is FMIN of R208, which passes a NaN by: DESIGN CHOICE (log
entry 126). -/
def splat (k : Card) (x y vd : Nat) (r : List Byte) : Option Splat :=
  if f32lt vd (field r 20 4) then none
  else
    let (ca, cb, cc) := (field r 8 4, field r 12 4, field r 16 4)
    let dx := f32sub (f32add (f32ofInt x) half32) (field r 0 4)
    let dy := f32sub (f32add (f32ofInt y) half32) (field r 4 4)
    let q := f32fma (f32mul cc dy) dy (f32fma (f32mul (f32mul 0x40000000 cb) dx) dy (f32mul (f32mul ca dx) dx))
    let power := f32mul 0xBF000000 q
    if !f32le power 0 then none
    else
      let g := exp2f k (f32mul power log2e32)
      let raw := f32mul (widen16 (field r 24 2)) g
      let alpha := f32min 0x3F7D70A4 raw
      if f32lt alpha 0x3B808081 then none else some ⟨dx, dy, g, raw, alpha⟩

/-- The colour of a projected record, widened. -/
def recColour (r : List Byte) : List Nat := (List.range 3).map fun i => widen16 (field r (26 + 2 * i) 2)

/-- C, T and NLAST of a pixel over the Gaussians of its tile. -/
def blendGo (k : Card) (x y vd : Nat) : List TileEnt → List Nat → Nat → Nat → List Nat × Nat × Nat
  | [], c, t, n => (c, t, n)
  | e :: rest, c, t, n =>
    match splat k x y vd e.rec' with
    | none => blendGo k x y vd rest c t n
    | some sp =>
      let tn := f32mul t (f32sub one32 sp.alpha)
      if f32lt tn 0x39800000 then (c, t, n)
      else
        let w := f32mul t sp.alpha
        let c := List.zipWith (fun col acc => f32fma w col acc) (recColour e.rec') c
        blendGo k x y vd rest c tn (e.pos + 1)

/-- Pixels of a tile within the image, in row-major order. -/
def tilePixels (k : Card) (tile : Nat) : List (Nat × Nat) :=
  let tx := ceilDiv (blkW k) 16
  (rangeFrom (tile / tx * 16) 16).flatMap fun y =>
    ((rangeFrom (tile % tx * 16) 16).map fun x => (x, y)).filter fun p => p.1 < blkW k && p.2 < blkH k

def blkTiles (k : Card) : List Nat := List.range (ceilDiv (blkW k) 16 * ceilDiv (blkH k) 16)

/-- A pixel's place in the arrays: row by row. -/
def pixelAt (k : Card) (x y : Nat) : Nat := y * blkW k + x

def blendPixel (k : Card) (es : List TileEnt) (s : State) (p : Nat × Nat) : Eng Unit :=
  let (x, y) := p
  let none' : Vis := ⟨0xFFFFFFFF, 0x7F800000, Config.compOpen (s.openKey (s.cardKey k)) (pixelAt k x y) % 2 ^ 32⟩
  let v := (es.filter fun e => recTri e.rec').foldl (fun v e => rasterTri x y v e.rec') none'
  let (c, t, n) := blendGo k x y v.depth (es.filter fun e => !recTri e.rec') [0, 0, 0] one32 0
  let c := if v.id == 0xFFFFFFFF then List.zipWith (fun bg acc => f32fma t bg acc) (floats k.blk 48 3) c else c
  let s := { s with draws := s.draws + 1 }
  engThen (compWrite k s (blkOff k 36 + 16 * pixelAt k x y) ([v.id, v.depth, v.bb].flatMap (toBytes 4) ++ toBytes 4 0)) fun _ s =>
    compWrite k s (blkOff k 32 + 32 * pixelAt k x y) ((c ++ [t, n]).flatMap (toBytes 4) ++ toBytes 12 0)

def blendWork (k : Card) (s : State) : Eng Unit :=
  engEach (fun s tile => engThen (tileList k s tile) fun es s => engEach (blendPixel k es) (tilePixels k tile) s) (blkTiles k) s

def execBlend (t : TeamRef) (seq : Nat) (s : State) : Out := .next (runCard 0x12 t seq blendWork s)

/-! ### BACK (R323 to R325) -/

/-- One contribution: pair position, record index, nine values. -/
structure Contrib where
  pos : Nat
  idx : Nat
  vals : List Nat
  deriving DecidableEq, Repr

/-- The replay of a pixel over its blended entries, last first. -/
def backGo (k : Card) (x y vd : Nat) (gr : List Nat) : List TileEnt → Nat → List Nat → List Contrib
  | [], _, _ => []
  | e :: rest, t, sm =>
    match splat k x y vd e.rec' with
    | none => backGo k x y vd gr rest t sm
    | some sp =>
      let r := e.rec'
      let m := f32mul
      let om := f32sub one32 sp.alpha
      let t := f32div t om
      let w := m t sp.alpha
      let col := recColour r
      let dc := gr.map fun g => m w g
      let term := List.zipWith (fun c s => f32sub (m t c) (f32div s om)) col sm
      let da := f32fma (nth gr 2 0) (nth term 2 0) (f32fma (nth gr 1 0) (nth term 1 0) (m (nth gr 0 0) (nth term 0 0)))
      let clamped := f32lt 0x3F7D70A4 sp.raw
      let dop := if clamped then 0 else m da sp.g
      let dpw := if clamped then 0 else m da sp.alpha
      let (ca, cb, cc) := (field r 8 4, field r 12 4, field r 16 4)
      let (dx, dy) := (sp.dx, sp.dy)
      let vals :=
        [m dpw (f32fma cb dy (m ca dx)), m dpw (f32fma cc dy (m cb dx)), m dpw (m 0xBF000000 (m dx dx)),
         m dpw (f32neg (m dx dy)), m dpw (m 0xBF000000 (m dy dy)), dop] ++ dc
      ⟨e.pos, e.idx, vals⟩ :: backGo k x y vd gr rest t (List.zipWith (fun c s => f32fma w c s) col sm)

/-- The contributions of one pixel, in replay order. A pixel record or visibility entry with a reserved field that is not zero ends the
card (R4, R286, R320). -/
def backPixel (k : Card) (es : List TileEnt) (s : State) (p : Nat × Nat) : Eng (List Contrib) :=
  let (x, y) := p
  let i := pixelAt k x y
  engThen (compRead k s (blkOff k 32 + 32 * i) 32) fun px s =>
    engThen (compRead k s (blkOff k 36 + 16 * i) 16) fun vis s =>
      engThen (compRead k s (blkOff k 40 + 16 * i) 16) fun gr s =>
        let t := field px 12 4
        let sm := if field vis 0 4 == 0xFFFFFFFF then (floats k.blk 48 3).map fun b => f32mul b t else [0, 0, 0]
        let es := (es.filter fun e => !recTri e.rec' && e.pos < field px 16 4).reverse
        if zeroBytes px 20 12 && zeroBytes vis 12 4 then .ok (backGo k x y (field vis 4 4) (floats gr 0 3) es t sm, s) else .error .kill

/-- A device-scope FP32 add at an offset of the write region, executed at the home slice (R142, R258, R325). -/
def compAdd (k : Card) (s : State) (o v : Nat) : Eng Unit :=
  let va := wrapN ((cardWbase k.bytes).toNat + o : Nat) 64
  if !addrOk56 va then .error .kill
  else
    match translate s (s.engine true) .engineWrite va with
    | (.ok l sz, s) =>
      let ha := leafHa l (2 ^ sz) va
      match failedIn s.ms s.tm.bay (s.soundAt l 3) ha 4 false with
      | some q => .error (engLost s q)
      | none =>
        if s.det then
          match s.viewRedOf k.tid k.place (leafHome l) ha 4 8 (BitVec.ofNat 64 v) with
          | some s => .ok ((), s)
          | none => .error .kill
        else
          match (podFillFor (backRef s.tm.ref.ctx) s ha 4).gload l ha 4 3 with
          | none => .error .kill
          | some (bs, s) => engPieceWrite s true k.seq va 3 (toBytes 4 (redxFn 0 (ofBytes bs) v))
    | (.unmapped lv, _) => .error (.wait (some (va, lv, true)))
    | (.locked, _) => .error (.wait none)
    | (.failed q, s) => .error (engLost s q)
    | (_, _) => .error .kill

/-- Adds nine values to a gradient record. -/
def compAddAll (k : Card) (s : State) (idx : Nat) (vals : List Nat) : Eng Unit :=
  engEach (fun s p => compAdd k s (blkOff k 44 + 48 * idx + 4 * p.2) p.1) vals.zipIdx s

/-- Adds a contribution to the partial of its pair position (R325). -/
def partialAdd (k : Card) (s : State) (c : Contrib) : Eng Unit :=
  let at' := blkOff k 60 + 48 * c.pos
  let va := wrapN ((cardWbase k.bytes).toNat + at' : Nat) 64
  engThen (engRead s true va 36) fun bs s =>
    compWrite k s at' ((List.zipWith f32add (floats bs 0 9) c.vals).flatMap (toBytes 4))

/-- One reduction per field of the partials of a tile's positions, in ascending order. -/
def partialFlush (k : Card) (s : State) (e : TileEnt) : Eng Unit :=
  let va := wrapN ((cardWbase k.bytes).toNat + blkOff k 60 + 48 * e.pos : Nat) 64
  engThen (engRead s true va 36) fun bs s => compAddAll k s e.idx (floats bs 0 9)

def backWork (k : Card) (s : State) : Eng Unit :=
  let pixels := fun (s : State) (tile : Nat) (f : State → Contrib → Eng Unit) =>
    engThen (tileList k s tile) fun es s =>
      engEach (fun s p => engThen (backPixel k es s p) fun cs s => engEach f cs s) (tilePixels k tile) s
  if s.det then
    engThen (engEach (fun s i => compWrite k s (blkOff k 60 + 48 * i) (toBytes 48 0)) (List.range (field k.blk 28 4)) s) fun _ s =>
      engThen (engEach (fun s tile => pixels s tile (partialAdd k)) (blkTiles k) s) fun _ s =>
        engEach
          (fun s tile => engThen (tileList k s tile) fun es s => engEach (partialFlush k) es s)
          (blkTiles k) s
  else engEach (fun s tile => pixels s tile fun s c => compAddAll k s c.idx c.vals) (blkTiles k) s

def execBack (t : TeamRef) (seq : Nat) (s : State) : Out := .next (runCard 0x13 t seq backWork s)

end Sys2Proof.Machine
end

