-- ==== Sys2Proof/Machine/Retire.lean ====
section
/-! DEFINITION. Retirement of grids, commit and abort of deterministic teams, and the end of a kill (R35, R160, R161, R399,
R400, R405 to R409, R455). -/

namespace Sys2Proof.Machine

/-! ### System-scope performance (R136, R400 step 1) -/

/-- Who sends the pod messages of a grid's retirement, and of a context's kill. -/
def retireRef (ctx gid : Nat) : ThreadRef := ⟨⟨ctx, gid, 2 ^ 24⟩, 2 ^ 40⟩

/-- Every dirty sector of every cluster is written back, and pod-tier sectors are sent to their peers. -/
def performAll (s : State) (who : ThreadRef) : State :=
  s.mapMs fun ms => podSendDirty ((List.range 96).foldl flushCluster ms) (some who)

/-! ### Retirement of a grid (R35, R400) -/

/-- Every team has retired, every phase is committed, or the grid is skipped; and no child grid is left. -/
def gridDone (s : State) (g : Grid) : Bool :=
  g.st == .ready && (g.status == 2 || (g.retired == g.nteams && (g.decl.det == 0 || g.phases == ceilDiv g.nteams g.decl.det))) &&
    !s.grids.any fun c =>
      c.ctx == g.ctx && c.st != .retired && (match c.parent with | some p => p.gid == g.gid | none => false)

/-- The grid's teams are forgotten with it. -/
def finishGrid (s : State) (g : Grid) : State :=
  { s.setGrid { g with st := .retired } with teams := s.teams.filter fun t => !(t.ref.ctx == g.ctx && t.ref.gid == g.gid) }

/-- What a failed write of the front end leaves: it waits; or the context is killed, this grid retired. -/
def retireStopped (s : State) (g : Grid) (e : FeStop) : State :=
  match e with
  | .failed q => finishGrid (s.killLost g.ctx q) g
  | e => feStopped s g.ctx g.gid e fun s => finishGrid (feKill g.ctx s) g

/-- Step 3: a system-scope add of 1 at SIGADDR. -/
def signalGrid (s : State) (g : Grid) : State :=
  if g.sigaddr == 0 then finishGrid s g
  else
    match feHome s g.ctx g.gid g.sigaddr 4 true with
    | .error e => retireStopped s g e
    | .ok (ha, s) =>
      let s := s.podAnew (retireRef g.ctx g.gid) true ha 4
      finishGrid (feStore s g.ctx ha (toBytes 4 ((homeNat s.ms ha 4 + 1) % 2 ^ 32))) { g with sigaddr := 0 }

/-- A message that an act of a retirement awaits is outstanding (R136). -/
def retireWaits (s : State) (g : Grid) : Bool :=
  match g.retiring with
  | some (_, l) => s.ms.podOut.any fun m => l.contains (m.peer, m.seq)
  | none => false

/-- The next act of a retirement: what the grid did is performed at system scope, whoever sends it to peers (log entry 98); bytes 16
to 63 of the completion record, then 0 to 15; the signal. -/
def retireAct (s : State) (g : Grid) : Except FeStop State :=
  let status := if g.status == 2 then 2 else 1
  let record := completionRecord status 0 g.gid g.phases g.tbegin s.time g.reruns 0
  let sent := fun (k : Nat) (g : Grid) (u : State) =>
    u.setGrid { g with retiring := some (k, u.ms.unacked.filter fun m => !s.ms.unacked.contains m) }
  let write := fun (o : Nat) (bs : List Byte) => if g.cmpl == 0 then .ok ((), s) else feWrite s g.ctx g.gid (g.cmpl + o) bs
  match g.retiring with
  | none =>
    let u := performAll s (retireRef g.ctx g.gid)
    .ok (u.setGrid { g with retiring := some (1, u.ms.unacked) })
  | some (1, _) =>
    match write 16 (record.drop 16) with
    | .error e => .error e
    | .ok (_, u) => .ok (sent 2 g u)
  | some (2, _) =>
    match write 0 (record.take 16) with
    | .error e => .error e
    | .ok (_, u) => .ok (sent 3 { g with cmpl := 0, status := status } u)
  | some _ => .ok (signalGrid s g)

/-- The acts of a retirement, as far as none awaits a peer. -/
def retireGo (ctx gid : Nat) : Nat → State → State
  | 0, s => s
  | k + 1, s =>
    let g := s.gridOf ctx gid
    if g.st == .retired || !s.alive ctx || retireWaits s g then s
    else
      match retireAct s g with
      | .error e => retireStopped s g e
      | .ok s => retireGo ctx gid k s

/-- GRID_RETIRE: each step before the next; a step that waits is taken up again later. -/
def execGridRetire (ctx gid : Nat) (s : State) : Out :=
  .next (if !s.alive ctx || !gridDone s (s.gridOf ctx gid) then s else retireGo ctx gid 4 s)

/-! ### Commit of a phase (R161, R408) -/

/-- A sector being committed: its bytes so far and the mask of bytes written. -/
structure CommitSec where
  sec : Nat
  data : Sec
  mask : Nat
  deriving DecidableEq, Repr

/-- The sector among those being committed, or as it stood at the phase's start. -/
def commitGet (ms : MemSys) (g : Grid) (cs : List CommitSec) (q : Nat) : CommitSec :=
  (cs.find? fun c => c.sec == q).getD
    ⟨q, BitVec.ofNat 128 (ofBytes ((rangeFrom (16 * q) 16).map (imageByte ms g))), 0⟩

def commitPut (cs : List CommitSec) (c : CommitSec) : List CommitSec :=
  if cs.any fun x => x.sec == c.sec then cs.map fun x => if x.sec == c.sec then c else x else cs ++ [c]

/-- Byte i of a 16-bit byte mask, as a mask of a sector's bits. -/
def byteMask (m : BitVec 16) : Nat := ofBytes ((List.range 16).map fun i => if m.getLsbD i then 0xFF else 0)

/-- A team's final view value of the bytes it stored. -/
def commitStore (ms : MemSys) (g : Grid) (cs : List CommitSec) (q : Nat) (d : Sec) (m : BitVec 16) : List CommitSec :=
  let c := commitGet ms g cs q
  let bm := BitVec.ofNat 128 (byteMask m)
  commitPut cs { c with data := (c.data &&& ~~~bm) ||| (d &&& bm), mask := c.mask ||| m.toNat }

/-- One reduction is replayed. -/
def commitRed (ms : MemSys) (g : Grid) (cs : List CommitSec) (pa n op : Nat) (v : DWord) : List CommitSec :=
  let c := commitGet ms g cs (pa / 16)
  let new := redFn op (ofBytes (secBytes c.data (pa % 16) n)) v.toNat
  commitPut cs { c with data := secPut c.data (pa % 16) (toBytes n new), mask := c.mask ||| (2 ^ n - 1) * 2 ^ (pa % 16) }

/-- A team's log: its stores, then its reductions by thread and program order. -/
def commitTeam (ms : MemSys) (g : Grid) (cs : List CommitSec) (log : List LogRec) : List CommitSec :=
  let cs := log.foldl (fun cs r => match r with | .store q d m => commitStore ms g cs q d m | .red .. => cs) cs
  let reds := log.filterMap fun r => match r with | .red pa n op v tid st => some (pa, n, op, v, tid, st) | .store .. => none
  let before := fun (a b : Nat × Nat × Nat × DWord × Nat × Nat) =>
    decide (a.2.2.2.2.1 < b.2.2.2.2.1) || (a.2.2.2.2.1 == b.2.2.2.2.1 && decide (a.2.2.2.2.2 < b.2.2.2.2.2))
  (sortBy before reds).foldl (fun cs r => commitRed ms g cs r.1 r.2.1 r.2.2.1 r.2.2.2.1) cs

/-- The committed bytes of a sector reach its home slice; a sector written in part keeps its failed mark (R447). -/
def commitWrite (ms : MemSys) (c : CommitSec) : MemSys :=
  let old := homeRead ms (16 * c.sec) 16
  let bs := (List.range 16).map fun i => if bitAt c.mask i then BitVec.ofNat 8 (ofBytes (secBytes c.data i 1)) else nth old i 0
  if c.mask == 0xFFFF then homeWrite ms (16 * c.sec) bs
  else homeWrite (homeWrite ms (16 * c.sec) (bs.take 8)) (16 * c.sec + 8) (bs.drop 8)

/-- The teams of a grid's running phase, in ascending order. -/
def phaseTeams (g : Grid) : List Nat := (rangeFrom (g.phases * g.decl.det) g.decl.det).filter fun i => i < g.nteams

/-- PHASE_COMMIT. -/
def execPhaseCommit (ctx gid : Nat) (s : State) : Out :=
  .next <|
    let g := s.gridOf ctx gid
    let team := fun (i : Nat) => s.teams.find? fun t => t.ref == ⟨ctx, gid, i⟩ && t.st == .retired
    let is := phaseTeams g
    if g.st != .ready || g.decl.det == 0 || !s.alive ctx || is.isEmpty || !is.all fun i => (team i).isSome then s
    else
      let cs := is.foldl (fun cs i => match team i with | some t => commitTeam s.ms g cs t.log | none => cs) []
      let s := s.mapMs fun ms =>
        let ms := cs.foldl commitWrite ms
        { ms with owners := ms.owners.filter fun o => !(o.ctx == ctx && o.gid == gid) }
      let s := { s with teams := s.teams.map fun (t : Team) => if t.ref.ctx == ctx && t.ref.gid == gid then { t with log := [] } else t }
      s.setGrid { g with phases := g.phases + 1, phaseImg := ⟨[]⟩, phaseHeld := [] }

/-- DET_TEAM_ABORT (R409): before the team retires. -/
def execDetTeamAbort (r : TeamRef) (s : State) : Out :=
  .next <|
    match s.team? r with
    | none => s
    | some t => if t.decl.det != 0 && t.st != .retired && s.alive r.ctx then abortTeam s t else s

/-! ### The end of a kill (R455) -/

/-- Completion records of a killed context's grids, one after another; a write that waits leaves the rest for later. -/
def killRecords (killn : Nat) : List Grid → State → Bool × State
  | [], s => (true, s)
  | g :: rest, s =>
    match writeCompletion s g.ctx g.gid g.cmpl (completionRecord 4 0 g.gid g.phases g.tbegin s.time g.reruns killn) with
    | .ok (_, s) => killRecords killn rest (s.setGrid { g with cmpl := 0 })
    | .error (.unmapped va lv) => (false, faultRecord s (frontAccessor g.ctx g.gid) .unit va lv)
    | .error .locked => (false, s)
    | .error _ => killRecords killn rest (s.setGrid { g with cmpl := 0 })

/-- Some leaf under a table maps a home address for stores. -/
def mapsUnder (ms : MemSys) (ha tab : Nat) : List (Nat × Nat × Nat) → Bool
  | [] => false
  | (_, sh, ib) :: rest =>
    (listedEntries (settledMem ms) tab (2 ^ ib)).any fun a =>
      let e := homeNat ms a 8
      let base := leafHa e (2 ^ sh) 0 % aliasBase
      bitAt e 0 &&
        (if bitAt e 1 then leafW e && base ≤ ha % aliasBase && ha % aliasBase < base + 2 ^ sh else mapsUnder ms ha (bits e 51 8 * 256) rest)

/-- A sector that a cluster holds dirty may be another context's: one whose team's stores the cluster may still hold maps it. -/
def mayBeOthers (s : State) (ctx c q : Nat) : Bool :=
  s.teams.any fun t =>
    t.ref.ctx != ctx && (t.st == .retired || clusterOf t.bay == c || t.threads.any fun x => clusterOf x.bay == c) &&
      mapsUnder s.ms (16 * q) (s.ctxOf t.ref.ctx).ptroot.toNat walkLevels

/-- A sector of stores issued is dropped, or not, by a free choice. -/
def dropSector (s : State) (d : Nat × Nat) : State :=
  let s' := { s with draws := s.draws + 1 }
  if Config.choice s.draws % 2 == 0 then s'
  else s'.mapMs fun ms => { ms with caches := ms.caches.filter fun x => !(x.sec == d.2 && ofCluster d.1 x.own) }

/-- Stores that a killed context has issued and that have not left the caches of a cluster are performed or dropped, each
16-byte unit whole (R455, R456). -/
def dropIssued (s : State) (ctx : Nat) : State :=
  ((List.range 96).flatMap fun c => ((dirtyOf s.ms c).filter fun q => !mayBeOthers s ctx c q).map fun q => (c, q)).foldl dropSector s

/-- CONTEXT_KILL_COMPLETE: issued stores are performed or dropped, messages acknowledged, records written; STATE := killed. -/
def execContextKillComplete (ctx : Nat) (s : State) : Out :=
  .next <|
    let c := s.ctxOf ctx
    if c.st != .killing then s
    else
      let s := performAll (dropIssued s ctx) (retireRef ctx 0)
      if s.ms.podOut.any fun m => m.n != 0 && (match m.who with | some r => r.team.ctx == ctx | none => false) then s
      else
        match killRecords c.killn (s.grids.filter fun g => g.ctx == ctx && g.st != .retired) s with
        | (false, s) => s
        | (true, s) =>
          let s := { s with
            teams := s.teams.filter fun t => t.ref.ctx != ctx
            grids := s.grids.map fun (g : Grid) => if g.ctx == ctx && g.st != GridState.retired then { g with st := GridState.retired, status := 4, killn := c.killn } else g }
          let s := s.mapMs fun ms => { ms with owners := ms.owners.filter fun o => o.ctx != ctx }
          setCtxState (s.setCtx { c with st := .killed }) ctx 3

end Sys2Proof.Machine
end

