-- ==== Sys2Proof/Machine/Retry.lean ====
section
/-! DEFINITION. The retry of an engine's card that waits for a translation (R107, R286). -/

namespace Sys2Proof.Machine

/-- The work of a card by its type (R288). -/
def cardWork (ty : Nat) : Card → State → Eng Unit :=
  match ty with
  | 0x01 => copyWork
  | 0x02 => gatherWork
  | 0x03 => scatterWork
  | 0x04 => xposeWork
  | 0x05 => quantWork
  | 0x06 => mxpreWork
  | 0x10 => projWork
  | 0x11 => binWork
  | 0x12 => blendWork
  | _ => backWork

/-- ENGINE_FAULT_RETRY: the accesses of a started card are tried again, also while its team is shuttered (R450 step 3). -/
def execEngineFaultRetry (t : TeamRef) (seq : Nat) (s : State) : Out :=
  .next <|
    match s.placedTeam t with
    | none => s
    | some x =>
      match x.card? seq with
      | none => s
      | some k => if k.phase == .started then workCard x k (cardWork (cardType k.bytes)) s else s

end Sys2Proof.Machine
end

