-- ==== Sys2Proof/Machine/TransReq.lean ====
section
/-! DEFINITION. Translation requests: shootdowns, migrations and bias flips (R156, R425 to R430). -/

namespace Sys2Proof.Machine

/-! ### The request record (R425) -/

/-- How a request ends: with a STATUS and a number of pages; it goes on; or an engine takes it, and the mailbox's command is
done. -/
inductive TrOut where
  | done (status pages : Nat) (s : State)
  | busy (s : State)
  | taken (s : State)

/-- Reserved fields and limits of a request of one kind. -/
def trFormatOk (q : List Byte) (cmd : Nat) : Bool :=
  let mig := cmd == 2
  let only := fun (on : Bool) (o n lim : Nat) => if on then field q o n ≤ lim else field q o n == 0
  only (cmd == 1) 1 1 1 && field q 2 2 < 512 && zeroBytes q 4 4 && field q 8 8 % 65536 == 0 && field q 8 8 < 2 ^ 56 &&
    field q 16 8 % 65536 == 0 && field q 24 8 % 65536 == 0 && (cmd == 1 || field q 16 8 == 0) && only mig 32 1 3 && only mig 33 1 7 && only mig 34 2 4095 &&
    only (cmd == 3) 36 1 1 && only mig 37 1 1 && (mig || field q 24 8 == 0) && zeroBytes q 38 2 && zeroBytes q 48 16 &&
    field q 40 8 % 8 == 0

/-- The partition that holds an ASID. -/
def asidPart (s : State) (asid : Nat) : Option Nat := (List.range 8).find? fun i =>
  match s.iod.parts[i]? with | some p => p.valid && p.asidBase ≤ asid && asid < p.asidBase + p.asidCnt | none => false

/-- Writes the status word once every effect is complete. -/
def trFinish (s : State) (q : List Byte) (status pages : Nat) : State :=
  if field q 40 8 % 8 == 0 then s.mapMs fun ms => sysWrite ms (field q 40 8) (toBytes 4 status ++ toBytes 4 pages) else s

/-- Performs the translation request whose record the mailbox's command names. -/
def trRun (s : State) (cmd : Nat) (k : List Byte → Nat → State → TrOut) : State :=
  mbRun s 3 (fun _ => field s.iod.request 0 1 == cmd) [(8, 8)] fun r s =>
    if field r 8 8 % 64 != 0 then .done 2 s
    else
      let q := s.iod.request
      let s0 := { s with iod := { s.iod with transreq := none } }
      if !trFormatOk q cmd then .done 1 (trFinish s0 q 2 0)
      else
        match asidPart s (field q 2 2) with
        | none => .done 1 (trFinish s0 q 7 0)
        | some p =>
          match k q p s with
          | .done st n s => .done 1 (trFinish { s with iod := { s.iod with transreq := none } } q st n)
          | .busy s => .busy s
          | .taken s => .done 1 s

/-! ### Shootdown (R426, R428, R441) -/

/-- Threads parked or set aside at covered addresses walk again at the completion of a shootdown. -/
def wakeWalkers (s : State) (asids : Nat → Bool) (cover : Nat → Bool) : State :=
  let rs := s.teams.flatMap fun t =>
    if asids (s.ctxOf t.ref.ctx).asid then
      t.threads.filterMap fun x =>
        match x.status with
        | .parked va _ => if cover va then some (⟨t.ref, x.tid⟩ : ThreadRef) else none
        | .aside va => if cover va then some ⟨t.ref, x.tid⟩ else none
        | _ => none
    else []
  rs.foldl (fun s r => lockedRewalk r (replayWalk r s)) s

/-- Drops every cached translation, table entry and code line of a range and its ASIDs. -/
def shootdown (s : State) (part : Nat) (asids : Nat → Bool) (va len : Nat) : State :=
  let cdmask := (nth s.iod.parts part Part.unused).cdmask
  let cover := fun (a n : Nat) => len == 0 || (a < va + len && va < a + n)
  s.mapMs fun ms =>
    { ms with
      tlb := ms.tlb.filter fun e => !(asids e.asid && cover e.base e.size)
      walks := ms.walks.filter fun e => !(asids e.asid && cover e.base e.size)
      icache := ms.icache.filter fun c => !bitAt cdmask (c.bay / 96) }

/-- An access translated through a dropped entry is not yet performed (R426). Every one is performed when its word issues,
but one whose message a peer has not acknowledged. -/
def stillThrough (s : State) (asids : Nat → Bool) : Bool :=
  s.ms.podOut.any fun m => m.flag && (match m.who with | some r => asids (s.ctxOf r.team.ctx).asid | none => false)

/-- The mailbox's shootdown or bias flip is at its turn (R427). -/
def mailboxTurn (s : State) : Bool := s.iod.shootq.head? == some 0

/-- SHOOTDOWN, in its turn. At its completion what is parked or set aside at covered addresses walks again (R428, R441). -/
def execShootdown (s : State) : Out :=
  .next <| trRun s 1 fun q p s =>
    let x := nth s.iod.parts p Part.unused
    let asids := fun (a : Nat) => if field q 1 1 == 1 then x.asidBase ≤ a && a < x.asidBase + x.asidCnt else a == field q 2 2
    let u := shootdown s p asids (field q 8 8) (field q 16 8)
    if !mailboxTurn s then .busy s
    else if stillThrough u asids then .busy u
    else .done 1 0 (wakeWalkers u asids fun a => field q 16 8 == 0 || (field q 8 8 ≤ a && a < field q 8 8 + field q 16 8))

/-! ### Entries and pages (R429) -/

/-- The context that holds an ASID. -/
def asidCtx (s : State) (asid : Nat) : Option Ctx := s.ctxs.find? fun c => c.asid == asid && (c.st == .resident || c.st == .killing)

/-- The leaf of a request's page: entry, page size exponent, address of the entry. A walk that finds V = 0 is recorded, as one of the
I/O die's units (R442; DESIGN CHOICE, log entry 123). -/
def trWalk (s : State) (asid va : Nat) : Option (Nat × Nat × Nat) × State :=
  match asidCtx s asid with
  | none => (none, s)
  | some c =>
    match walk s c va with
    | .leaf l k a => (some (l, k, a), s)
    | .invalid lv => (none, faultRecord s (frontAccessor c.id 0) .unit va lv)
    | _ => (none, s)

/-- A compare-and-swap of an entry at its home slice. -/
def cas64 (s : State) (at' old new : Nat) : Option State :=
  if homeNat s.ms at' 8 == old then some (s.mapMs fun ms => homeWrite ms at' (toBytes 8 new)) else none

/-- The entry with its LOCK set. -/
def withLock (e : Nat) : Nat := if leafLock e then e else e + 32

/-- A home address without its home die. -/
def physHa (ha : Nat) : Nat := ha % aliasBase

/-- Writes back and drops every copy of the lines of a page: in L1s, cluster caches and home slices, those of pod-tier lines at
their peer. -/
def purgePage (ms : MemSys) (who : ThreadRef) (pa n : Nat) : MemSys :=
  let inPage := fun (q : Nat) => pa ≤ physHa (16 * q) && physHa (16 * q) < pa + n
  let lines := sortDedup (((ms.caches.map (·.sec) ++ ms.l2.map (·.sec)).filter inPage).map fun q => physSec q / 4)
  let ms := lines.foldl purgeLine ms
  let ms := (ms.pod.filter fun p => inPage p.sec && p.dirty).foldl (fun ms p => podSend ms (some who) (16 * p.sec) 16 p.data.toNat false) ms
  { ms with pod := ms.pod.filter fun p => !inPage p.sec }

/-- Copies n bytes of memory, from and to addresses apart. -/
def moveBytes (m : Memory) (src dst n : Nat) : Memory :=
  let cells := m.cells.filter fun c => src ≤ c.1 && c.1 < src + n
  let clear : Memory := ⟨m.cells.filter fun c => !(dst ≤ c.1 && c.1 < dst + n)⟩
  cells.foldl (fun m c => m.put (dst + (c.1 - src)) c.2) clear

/-- The page of a job, as it is locked and shot down. -/
def TransJob.base (j : TransJob) : Nat := field j.record 8 8 / 2 ^ j.k * 2 ^ j.k
def TransJob.asid (j : TransJob) : Nat := field j.record 2 2

def jobShootdown (s : State) (j : TransJob) : State := shootdown s j.part (· == j.asid) j.base (2 ^ j.k)

/-- A shootdown of a job is complete. -/
def jobClear (s : State) (j : TransJob) : Bool := !stillThrough s (· == j.asid)

/-- What waits at the page of a job walks again. -/
def jobWake (s : State) (j : TransJob) : State := wakeWalkers s (· == j.asid) fun a => j.base ≤ a && a < j.base + 2 ^ j.k

/-- A request that has just arrived. -/
def TransJob.new (record : List Byte) (part : Nat) : TransJob := ⟨record, part, 0, 0, 0, 0, 0, 0, 0, false⟩

/-- How a stage of a job ends: the request is answered, or the job goes on. -/
inductive JobOut where
  | done (status pages : Nat) (s : State)
  | goesOn (j : TransJob) (s : State)

/-- A job's shootdown, in its turn and one at a time (R427): of migration engine e under number e + 1, of a bias flip as part of the
mailbox's turn. Once it is complete what waits at the page walks again, and the job goes on with `k`. -/
def jobShoot (id : Nat) (s : State) (j : TransJob) (k : TransJob → State → JobOut) : JobOut :=
  if s.iod.shootq.head? != some id then .goesOn j s
  else if !j.shot then .goesOn { j with shot := true } (jobShootdown s j)
  else if !jobClear s j then .goesOn j s
  else k { j with shot := false } (jobWake (if id == 0 then s else { s with iod := { s.iod with shootq := s.iod.shootq.tail } }) j)

/-- A migration engine asks for a shootdown. -/
def askShoot (id : Nat) (s : State) : State := if id == 0 then s else { s with iod := { s.iod with shootq := s.iod.shootq ++ [id] } }

/-- Stage 0: the walk and the conditions of R429 and R430, then the entry is locked, for the page to be shot down. A destination that
is no multiple of the page's size is a field outside its limits (R425). -/
def jobLock (id : Nat) (s : State) (j : TransJob) (sized : Nat → Bool) (refused done : Nat → Nat → Bool) : JobOut :=
  match trWalk s j.asid (field j.record 8 8) with
  | (none, s) => .done 3 0 s
  | (some (e, k, at'), s) =>
    if !sized k then .done 2 0 s
    else if leafLock e then .done 4 0 s
    else if refused e k then .done 7 0 s
    else if done e k then .done 1 0 s
    else
      match cas64 s at' e (withLock e) with
      | none => .done 5 0 s
      | some s => .goesOn { j with ctx := ((asidCtx s j.asid).map (·.id)).getD 0, entryAt := at', entry := e, k := k, stage := 1 } (askShoot id s)

/-- The last compare-and-swap, then the final shootdown, after which the job ends. -/
def jobUnlock (id : Nat) (s : State) (j : TransJob) (new status pages : Nat) (conflict : State → State) : JobOut :=
  match cas64 s j.entryAt (withLock j.entry) new with
  | some s => .goesOn { j with stage := 9, status := status, pages := pages } (askShoot id s)
  | none => .goesOn { j with stage := 9, status := 5, pages := 0 } (askShoot id (conflict s))

/-- The end of a job, once its final shootdown is complete. -/
def jobEnd (id : Nat) (s : State) (j : TransJob) : JobOut := jobShoot id s j fun j s => .done j.status j.pages s

/-! ### Migration (R429) -/

/-- The entry after the move. -/
def movedEntry (q : List Byte) (e : Nat) : Nat :=
  let low := bits e 7 0 + 2 ^ 8 * field q 32 1 + 2 ^ 10 * field q 33 1 + 2 ^ 13 * bits e 15 13
  low + field q 24 8 % 2 ^ 52 / 65536 * 65536 + 2 ^ 52 * field q 34 2

/-- The destination passes R417 and R384. -/
def destinationOk (s : State) (p n k dpa : Nat) : Bool :=
  dpa < 2 ^ 52 && leafOk s.iod.node n k && servicePaOk s n (leafPa n) && bitAt (nth s.iod.parts p Part.unused).cdmask (leafHome n) &&
    inWindows s p (leafPa n)

/-- Who sends the bytes of a page to a peer: an engine, for the page's context, which a refusal kills (R433). -/
def engineRef (j : TransJob) : ThreadRef := ⟨⟨j.ctx, field j.record 37 1, 2 ^ 24⟩, 2 ^ 41⟩

/-- The latch entries of the lines of a range are judged on what has been written there (R235). -/
def wakeRange (ms : MemSys) (ha n : Nat) : MemSys :=
  (sortDedup ((ms.latches.filter fun l => ha ≤ physHa l.pa && physHa l.pa < ha + n).map fun l => l.pa / 64)).foldl wakeLine ms

/-- The copy of a page's bytes from memory: within the module, or to the peer, to be acknowledged. The bytes of a page that lies
at a peer are free. -/
def copyPage (s : State) (j : TransJob) : State :=
  let n := movedEntry j.record j.entry
  let src := physHa (leafHa j.entry (2 ^ j.k) 0)
  let dst := physHa (leafHa n (2 ^ j.k) 0)
  let home := leafHa n (2 ^ j.k) 0
  let who := engineRef j
  -- what L2 slices hold of the destination from an earlier use is no longer its contents
  let s := s.mapMs fun ms => { ms with l2 := ms.l2.filter fun p => !(home ≤ 16 * p.sec && 16 * p.sec < home + 2 ^ j.k) }
  if isPod src then
    let s := (rangeFrom (src / 16) (2 ^ j.k / 16)).foldl (podFill who) s
    let s := s.mapMs fun ms => (rangeFrom 0 (2 ^ j.k / 16)).foldl
      (fun ms i =>
        let b := homeRead ms (src + 16 * i) 16
        if isPod dst then podSend ms (some who) (dst + 16 * i) 16 (ofBytes b) true else homeWrite ms (dst + 16 * i) b) ms
    s.mapMs fun ms => { ms with pod := ms.pod.filter fun p => !(src ≤ physHa (16 * p.sec) && physHa (16 * p.sec) < src + 2 ^ j.k) }
  else if isPod dst then
    s.mapMs fun ms => podSend ms (some who) dst (2 ^ j.k) (ms.mem.readNat src (2 ^ j.k)) true
  else
    s.mapMs fun ms =>
      wakeRange { ms with mem := moveBytes ms.mem src dst (2 ^ j.k), failed := ms.failed.filter fun f => !(dst ≤ 16 * f && 16 * f < dst + 2 ^ j.k) }
        dst (2 ^ j.k)

/-- The next stage of a migration: 1 the copies of the page are written back and dropped, 2 its bytes copied, 3 the entry
replaced; a page that fails in the copying keeps its entry. -/
def migrateStage (s : State) (j : TransJob) : JobOut :=
  let q := j.record
  let src := physHa (leafHa j.entry (2 ^ j.k) 0)
  let waits := s.ms.podOut.any fun m => m.who == some (engineRef j)
  let id := field q 37 1 + 1
  match j.stage with
  | 0 =>
    jobLock id s j (fun k => field q 24 8 % 2 ^ k == 0) (fun e k => leafHC e || !destinationOk s j.part (movedEntry q e) k (field q 24 8))
      fun _ _ => false
  | 1 => jobShoot id s j fun j s => .goesOn { j with stage := 2 } (s.mapMs fun ms => purgePage ms (engineRef j) src (2 ^ j.k))
  | 2 =>
    if waits then .goesOn j s
    else if portDown s.ms src || s.ms.failed.any fun f => src ≤ 16 * f && 16 * f < src + 2 ^ j.k then
      .goesOn { j with stage := 9, status := 6, pages := 0 } (askShoot id (s.mapMs fun ms => homeWrite ms j.entryAt (toBytes 8 j.entry)))
    else .goesOn { j with stage := 3 } (copyPage s j)
  | 3 => if waits then .goesOn j s else jobUnlock id s j (movedEntry q j.entry) 1 1 fun s => s
  | _ => jobEnd id s j

/-- One engine goes on with its oldest request. -/
def moverStep (e : Nat) (s : State) : State :=
  match nth s.iod.movers e [] with
  | [] => s
  | j :: rest =>
    let put := fun (l : List TransJob) (s : State) => { s with iod := { s.iod with movers := updAt s.iod.movers e fun _ => l } }
    match migrateStage s j with
    | .done st n s => trFinish (put rest s) j.record st n
    | .goesOn j s => put (j :: rest) s

/-- MIGRATE: the request in the mailbox goes to the engine it names, and the command is done; else one of the two engines, which
work independently, goes on with its oldest request. -/
def execMigrate (s : State) : Out :=
  .next <|
    let s' := trRun s 2 fun q p s =>
      .taken { s with iod := { s.iod with movers := updAt s.iod.movers (field q 37 1) fun l => l ++ [TransJob.new q p] } }
    if s'.iod.mb != s.iod.mb then s'
    else
      match ([0, 1] : List Nat).filter fun e => nth s.iod.movers e [] != [] with
      | [] => s
      | [e] => moverStep e s
      | _ => moverStep (Config.choice s.draws % 2) { s with draws := s.draws + 1 }

/-! ### Bias flips (R156, R430) -/

/-- The entry with its BIAS as asked for. -/
def biasedEntry (q : List Byte) (e : Nat) : Nat := e - (if leafBias e then 64 else 0) + 64 * field q 36 1

/-- The next stage of a bias flip: 1 the losing side is drained, the device's copies to host bias, while to device bias the
host's copies stand at their home already, and BIAS is written. A failing compare-and-swap restores the entry. -/
def biasStage (s : State) (j : TransJob) : JobOut :=
  let q := j.record
  match j.stage with
  | 0 => jobLock 0 s j (fun _ => true) (fun e _ => !leafHC e) fun e _ => biasedEntry q e == e
  | 1 =>
    jobShoot 0 s j fun j s =>
      let s := if field q 36 1 == 1 then
          s.mapMs fun ms => purgePage ms (engineRef j) (physHa (leafHa j.entry (2 ^ j.k) 0)) (2 ^ j.k)
        else s
      jobUnlock 0 s j (biasedEntry q j.entry) 1 1 fun s => s.mapMs fun ms => homeWrite ms j.entryAt (toBytes 8 j.entry)
  | _ => jobEnd 0 s j

/-- BIAS_FLIP: one at a time, in the order in which the mailbox brings them (R427). -/
def execBiasFlip (s : State) : Out :=
  .next <| trRun s 3 fun q p s =>
    if !mailboxTurn s then .busy s
    else
    match biasStage s (s.iod.transreq.getD (TransJob.new q p)) with
    | .done st n s => .done st n s
    | .goesOn j s => .busy { s with iod := { s.iod with transreq := some j } }

end Sys2Proof.Machine
end

