-- ==== Sys2Proof/Machine/Dispatch.lean ====
section
/-! DEFINITION. What each instruction does: one arm per constructor of Instr, each one call of its meaning. -/

namespace Sys2Proof.Machine

def exec (i : Instr) (s : State) : Host.Outcome State Fault Refusal :=
  match i with
  | .iadd o => Sys2Proof.Machine.execIadd o s
  | .isub o => Sys2Proof.Machine.execIsub o s
  | .imin o => Sys2Proof.Machine.execImin o s
  | .imax o => Sys2Proof.Machine.execImax o s
  | .iminu o => Sys2Proof.Machine.execIminu o s
  | .imaxu o => Sys2Proof.Machine.execImaxu o s
  | .iabs o => Sys2Proof.Machine.execIabs o s
  | .ineg o => Sys2Proof.Machine.execIneg o s
  | .and o => Sys2Proof.Machine.execAnd o s
  | .or o => Sys2Proof.Machine.execOr o s
  | .xor o => Sys2Proof.Machine.execXor o s
  | .andn o => Sys2Proof.Machine.execAndn o s
  | .not o => Sys2Proof.Machine.execNot o s
  | .sel o => Sys2Proof.Machine.execSel o s
  | .mov o => Sys2Proof.Machine.execMov o s
  | .popc o => Sys2Proof.Machine.execPopc o s
  | .shl o => Sys2Proof.Machine.execShl o s
  | .shr o => Sys2Proof.Machine.execShr o s
  | .sar o => Sys2Proof.Machine.execSar o s
  | .rol o => Sys2Proof.Machine.execRol o s
  | .clz o => Sys2Proof.Machine.execClz o s
  | .brev o => Sys2Proof.Machine.execBrev o s
  | .bfx o => Sys2Proof.Machine.execBfx o s
  | .bfi o => Sys2Proof.Machine.execBfi o s
  | .imul o => Sys2Proof.Machine.execImul o s
  | .imulh o => Sys2Proof.Machine.execImulh o s
  | .imulhu o => Sys2Proof.Machine.execImulhu o s
  | .imad o => Sys2Proof.Machine.execImad o s
  | .idiv o => Sys2Proof.Machine.execIdiv o s
  | .irem o => Sys2Proof.Machine.execIrem o s
  | .idivu o => Sys2Proof.Machine.execIdivu o s
  | .iremu o => Sys2Proof.Machine.execIremu o s
  | .lea o => Sys2Proof.Machine.execLea o s
  | .leaX2 o => Sys2Proof.Machine.execLeaX2 o s
  | .leaX4 o => Sys2Proof.Machine.execLeaX4 o s
  | .leaX8 o => Sys2Proof.Machine.execLeaX8 o s
  | .iaddc o => Sys2Proof.Machine.execIaddc o s
  | .isubb o => Sys2Proof.Machine.execIsubb o s
  | .iaddi o => Sys2Proof.Machine.execIaddi o s
  | .andi o => Sys2Proof.Machine.execAndi o s
  | .ori o => Sys2Proof.Machine.execOri o s
  | .xori o => Sys2Proof.Machine.execXori o s
  | .shli o => Sys2Proof.Machine.execShli o s
  | .shri o => Sys2Proof.Machine.execShri o s
  | .sari o => Sys2Proof.Machine.execSari o s
  | .movi o => Sys2Proof.Machine.execMovi o s
  | .luih o => Sys2Proof.Machine.execLuih o s
  | .adrh o => Sys2Proof.Machine.execAdrh o s
  | .fadd o => Sys2Proof.Machine.execFadd o s
  | .fsub o => Sys2Proof.Machine.execFsub o s
  | .fmul o => Sys2Proof.Machine.execFmul o s
  | .fma o => Sys2Proof.Machine.execFma o s
  | .fmin o => Sys2Proof.Machine.execFmin o s
  | .fmax o => Sys2Proof.Machine.execFmax o s
  | .fdiv o => Sys2Proof.Machine.execFdiv o s
  | .fsqrt o => Sys2Proof.Machine.execFsqrt o s
  | .fadd64 o => Sys2Proof.Machine.execFadd64 o s
  | .fsub64 o => Sys2Proof.Machine.execFsub64 o s
  | .fmul64 o => Sys2Proof.Machine.execFmul64 o s
  | .fma64 o => Sys2Proof.Machine.execFma64 o s
  | .fmin64 o => Sys2Proof.Machine.execFmin64 o s
  | .fmax64 o => Sys2Proof.Machine.execFmax64 o s
  | .fdiv64 o => Sys2Proof.Machine.execFdiv64 o s
  | .fsqrt64 o => Sys2Proof.Machine.execFsqrt64 o s
  | .faddH2 o => Sys2Proof.Machine.execFaddH2 o s
  | .fsubH2 o => Sys2Proof.Machine.execFsubH2 o s
  | .fmulH2 o => Sys2Proof.Machine.execFmulH2 o s
  | .fmaH2 o => Sys2Proof.Machine.execFmaH2 o s
  | .fminH2 o => Sys2Proof.Machine.execFminH2 o s
  | .fmaxH2 o => Sys2Proof.Machine.execFmaxH2 o s
  | .fdivH2 o => Sys2Proof.Machine.execFdivH2 o s
  | .fsqrtH2 o => Sys2Proof.Machine.execFsqrtH2 o s
  | .faddB2 o => Sys2Proof.Machine.execFaddB2 o s
  | .fsubB2 o => Sys2Proof.Machine.execFsubB2 o s
  | .fmulB2 o => Sys2Proof.Machine.execFmulB2 o s
  | .fmaB2 o => Sys2Proof.Machine.execFmaB2 o s
  | .fminB2 o => Sys2Proof.Machine.execFminB2 o s
  | .fmaxB2 o => Sys2Proof.Machine.execFmaxB2 o s
  | .fdivB2 o => Sys2Proof.Machine.execFdivB2 o s
  | .fsqrtB2 o => Sys2Proof.Machine.execFsqrtB2 o s
  | .frcp o => Sys2Proof.Machine.execFrcp o s
  | .frsq o => Sys2Proof.Machine.execFrsq o s
  | .frred o => Sys2Proof.Machine.execFrred o s
  | .fsinr o => Sys2Proof.Machine.execFsinr o s
  | .fcosr o => Sys2Proof.Machine.execFcosr o s
  | .fexp2 o => Sys2Proof.Machine.execFexp2 o s
  | .flog2 o => Sys2Proof.Machine.execFlog2 o s
  | .feval o => Sys2Proof.Machine.execFeval o s
  | .cvt f o => Sys2Proof.Machine.execCvt f o s
  | .icmp f o => Sys2Proof.Machine.execIcmp f o s
  | .fcmp32 f o => Sys2Proof.Machine.execFcmp32 f o s
  | .fcmp64 f o => Sys2Proof.Machine.execFcmp64 f o s
  | .pand o => Sys2Proof.Machine.execPand o s
  | .por o => Sys2Proof.Machine.execPor o s
  | .pxor o => Sys2Proof.Machine.execPxor o s
  | .pnot o => Sys2Proof.Machine.execPnot o s
  | .pmov o => Sys2Proof.Machine.execPmov o s
  | .pset o => Sys2Proof.Machine.execPset o s
  | .pfrom o => Sys2Proof.Machine.execPfrom o s
  | .pto o => Sys2Proof.Machine.execPto o s
  | .shfl o => Sys2Proof.Machine.execShfl o s
  | .shflx o => Sys2Proof.Machine.execShflx o s
  | .lswap o => Sys2Proof.Machine.execLswap o s
  | .vote o => Sys2Proof.Machine.execVote o s
  | .lred o => Sys2Proof.Machine.execLred o s
  | .lscan o => Sys2Proof.Machine.execLscan o s
  | .tred o => Sys2Proof.Machine.execTred o s
  | .lbcst o => Sys2Proof.Machine.execLbcst o s
  | .next o => Sys2Proof.Machine.execNext o s
  | .call o => Sys2Proof.Machine.execCall o s
  | .nextp o => Sys2Proof.Machine.execNextp o s
  | .nextn o => Sys2Proof.Machine.execNextn o s
  | .nexti o => Sys2Proof.Machine.execNexti o s
  | .calli o => Sys2Proof.Machine.execCalli o s
  | .ret o => Sys2Proof.Machine.execRet o s
  | .exit o => Sys2Proof.Machine.execExit o s
  | .rcv o => Sys2Proof.Machine.execRcv o s
  | .yield o => Sys2Proof.Machine.execYield o s
  | .nop o => Sys2Proof.Machine.execNop o s
  | .ld o => Sys2Proof.Machine.execLd o s
  | .st o => Sys2Proof.Machine.execSt o s
  | .ldl o => Sys2Proof.Machine.execLdl o s
  | .stl o => Sys2Proof.Machine.execStl o s
  | .lda o => Sys2Proof.Machine.execLda o s
  | .sta o => Sys2Proof.Machine.execSta o s
  | .ldw o => Sys2Proof.Machine.execLdw o s
  | .ldc o => Sys2Proof.Machine.execLdc o s
  | .stc o => Sys2Proof.Machine.execStc o s
  | .ldra o => Sys2Proof.Machine.execLdra o s
  | .atom f o => Sys2Proof.Machine.execAtom f o s
  | .atomx f o => Sys2Proof.Machine.execAtomx f o s
  | .red f o => Sys2Proof.Machine.execRed f o s
  | .redx f o => Sys2Proof.Machine.execRedx f o s
  | .fence o => Sys2Proof.Machine.execFence o s
  | .cwb o => Sys2Proof.Machine.execCwb o s
  | .cinv o => Sys2Proof.Machine.execCinv o s
  | .iinv o => Sys2Proof.Machine.execIinv o s
  | .fbar o => Sys2Proof.Machine.execFbar o s
  | .pref o => Sys2Proof.Machine.execPref o s
  | .pstb o => Sys2Proof.Machine.execPstb o s
  | .pldb o => Sys2Proof.Machine.execPldb o s
  | .mxop o => Sys2Proof.Machine.execMxop o s
  | .mxwait o => Sys2Proof.Machine.execMxwait o s
  | .enq o => Sys2Proof.Machine.execEnq o s
  | .hsetBind o => Sys2Proof.Machine.execHsetBind o s
  | .hsetFull o => Sys2Proof.Machine.execHsetFull o s
  | .hsetFree o => Sys2Proof.Machine.execHsetFree o s
  | .hwait o => Sys2Proof.Machine.execHwait o s
  | .hq o => Sys2Proof.Machine.execHq o s
  | .ftld o => Sys2Proof.Machine.execFtld o s
  | .launch o => Sys2Proof.Machine.execLaunch o s
  | .chwait o => Sys2Proof.Machine.execChwait o s
  | .chwaitAll o => Sys2Proof.Machine.execChwaitAll o s
  | .twinit o => Sys2Proof.Machine.execTwinit o s
  | .twstep o => Sys2Proof.Machine.execTwstep o s
  | .twgetVal o => Sys2Proof.Machine.execTwgetVal o s
  | .twgetSt o => Sys2Proof.Machine.execTwgetSt o s
  | .twend o => Sys2Proof.Machine.execTwend o s
  | .phreg o => Sys2Proof.Machine.execPhreg o s
  | .pharr o => Sys2Proof.Machine.execPharr o s
  | .phwait o => Sys2Proof.Machine.execPhwait o s
  | .phaw o => Sys2Proof.Machine.execPhaw o s
  | .phq o => Sys2Proof.Machine.execPhq o s
  | .waitu o => Sys2Proof.Machine.execWaitu o s
  | .setw o => Sys2Proof.Machine.execSetw o s
  | .migr o => Sys2Proof.Machine.execMigr o s
  | .migrh o => Sys2Proof.Machine.execMigrh o s
  | .rdsr o => Sys2Proof.Machine.execRdsr o s
  | .wrsr o => Sys2Proof.Machine.execWrsr o s
  | .gsel o => Sys2Proof.Machine.execGsel o s
  | .rdtime o => Sys2Proof.Machine.execRdtime o s
  | .rand o => Sys2Proof.Machine.execRand o s
  | .trap o => Sys2Proof.Machine.execTrap o s
  | .brk o => Sys2Proof.Machine.execBrk o s
  | .sysc o => Sys2Proof.Machine.execSysc o s
  | .eret o => Sys2Proof.Machine.execEret o s
  | .rdpr o => Sys2Proof.Machine.execRdpr o s
  | .wrpr o => Sys2Proof.Machine.execWrpr o s
  | .ctxfl o => Sys2Proof.Machine.execCtxfl o s
  | .halt o => Sys2Proof.Machine.execHalt o s
  | .longResultWrite r k => Sys2Proof.Machine.execLongResultWrite r k s
  | .reslice t => Sys2Proof.Machine.execReslice t s
  | .setwHoldLapse t => Sys2Proof.Machine.execSetwHoldLapse t s
  | .convergenceFault t cohort => Sys2Proof.Machine.execConvergenceFault t cohort s
  | .rcvHoldExpiry r => Sys2Proof.Machine.execRcvHoldExpiry r s
  | .yieldHoldEnd r => Sys2Proof.Machine.execYieldHoldEnd r s
  | .impreciseTrapDelivery t => Sys2Proof.Machine.execImpreciseTrapDelivery t s
  | .pageWalk bay ctx va => Sys2Proof.Machine.execPageWalk bay ctx va s
  | .faultReplayWalk r => Sys2Proof.Machine.execFaultReplayWalk r s
  | .lockedPageRewalk r => Sys2Proof.Machine.execLockedPageRewalk r s
  | .cacheWriteback cluster sec evict => Sys2Proof.Machine.execCacheWriteback cluster sec evict s
  | .waituExpiry r => Sys2Proof.Machine.execWaituExpiry r s
  | .latchBayReread r => Sys2Proof.Machine.execLatchBayReread r s
  | .hostLineReread line => Sys2Proof.Machine.execHostLineReread line s
  | .hostAccess store pa n v => Sys2Proof.Machine.execHostAccess store pa n v s
  | .podMessageReceive peer seq ack pa n v => Sys2Proof.Machine.execPodMessageReceive peer seq ack pa n v s
  | .podFlagResend peer => Sys2Proof.Machine.execPodFlagResend peer s
  | .podLinkFault r => Sys2Proof.Machine.execPodLinkFault r s
  | .cardAccept t => Sys2Proof.Machine.execCardAccept t s
  | .copy t seq => Sys2Proof.Machine.execCopy t seq s
  | .gather t seq => Sys2Proof.Machine.execGather t seq s
  | .scatter t seq => Sys2Proof.Machine.execScatter t seq s
  | .xpose t seq => Sys2Proof.Machine.execXpose t seq s
  | .quant t seq => Sys2Proof.Machine.execQuant t seq s
  | .mxpre t seq => Sys2Proof.Machine.execMxpre t seq s
  | .proj t seq => Sys2Proof.Machine.execProj t seq s
  | .bin t seq => Sys2Proof.Machine.execBin t seq s
  | .blend t seq => Sys2Proof.Machine.execBlend t seq s
  | .back t seq => Sys2Proof.Machine.execBack t seq s
  | .cardRetire t seq => Sys2Proof.Machine.execCardRetire t seq s
  | .engineFaultRetry t seq => Sys2Proof.Machine.execEngineFaultRetry t seq s
  | .mxopStart t stream => Sys2Proof.Machine.execMxopStart t stream s
  | .mxopReadsComplete t stream => Sys2Proof.Machine.execMxopReadsComplete t stream s
  | .mxopComplete t stream => Sys2Proof.Machine.execMxopComplete t stream s
  | .mxopAbandon t stream => Sys2Proof.Machine.execMxopAbandon t stream s
  | .lqdbWrite v => Sys2Proof.Machine.execLqdbWrite v s
  | .launchAccept src => Sys2Proof.Machine.execLaunchAccept src s
  | .dependenceMet ctx gid => Sys2Proof.Machine.execDependenceMet ctx gid s
  | .gridTimedStart ctx gid => Sys2Proof.Machine.execGridTimedStart ctx gid s
  | .teamPlace t bay => Sys2Proof.Machine.execTeamPlace t bay s
  | .priorityPreempt ctx gid => Sys2Proof.Machine.execPriorityPreempt ctx gid s
  | .teamRetire t => Sys2Proof.Machine.execTeamRetire t s
  | .gridRetire ctx gid => Sys2Proof.Machine.execGridRetire ctx gid s
  | .phaseCommit ctx gid => Sys2Proof.Machine.execPhaseCommit ctx gid s
  | .detTeamAbort t => Sys2Proof.Machine.execDetTeamAbort t s
  | .teamSaved t => Sys2Proof.Machine.execTeamSaved t s
  | .teamResume t bay => Sys2Proof.Machine.execTeamResume t bay s
  | .contextKillComplete ctx => Sys2Proof.Machine.execContextKillComplete ctx s
  | .timeSyncMeasure peer sourceCount => Sys2Proof.Machine.execTimeSyncMeasure peer sourceCount s
  | .linkTimeout r addr => Sys2Proof.Machine.execLinkTimeout r addr s
  | .dieFailed die => Sys2Proof.Machine.execDieFailed die s
  | .referenceClockLoss die => Sys2Proof.Machine.execReferenceClockLoss die s
  | .referenceClockReturn die => Sys2Proof.Machine.execReferenceClockReturn die s
  | .powerCapStretch die watts => Sys2Proof.Machine.execPowerCapStretch die watts s
  | .clockRestore die watts => Sys2Proof.Machine.execClockRestore die watts s
  | .bayStartBatch die => Sys2Proof.Machine.execBayStartBatch die s
  | .flitCrcRetry port => Sys2Proof.Machine.execFlitCrcRetry port s
  | .podLinkTrainingFail port => Sys2Proof.Machine.execPodLinkTrainingFail port s
  | .uncorrectableError e => Sys2Proof.Machine.execUncorrectableError e s
  | .nonInstructionWord w => Sys2Proof.Machine.execNonInstructionWord w s
  | .cardReadsComplete t seq => Sys2Proof.Machine.execCardReadsComplete t seq s
  | .mbctlWriteWhileBusy addr => Sys2Proof.Machine.execMbctlWriteWhileBusy addr s
  | .resync => Sys2Proof.Machine.execResync s
  | .setregCtxtb => Sys2Proof.Machine.execSetregCtxtb s
  | .setregLqtb => Sys2Proof.Machine.execSetregLqtb s
  | .setregFqb => Sys2Proof.Machine.execSetregFqb s
  | .setregPriwt => Sys2Proof.Machine.execSetregPriwt s
  | .setregLovb => Sys2Proof.Machine.execSetregLovb s
  | .setregLto => Sys2Proof.Machine.execSetregLto s
  | .shootdown => Sys2Proof.Machine.execShootdown s
  | .migrate => Sys2Proof.Machine.execMigrate s
  | .biasFlip => Sys2Proof.Machine.execBiasFlip s
  | .shutter => Sys2Proof.Machine.execShutter s
  | .kill => Sys2Proof.Machine.execKill s
  | .partset => Sys2Proof.Machine.execPartset s
  | .powercap => Sys2Proof.Machine.execPowercap s
  | .podcfg => Sys2Proof.Machine.execPodcfg s
  | .timeset => Sys2Proof.Machine.execTimeset s
  | .fwload => Sys2Proof.Machine.execFwload s
  | .attest => Sys2Proof.Machine.execAttest s
  | .powerOnReset => Sys2Proof.Machine.execPowerOnReset s
  | .trainingEnd => Sys2Proof.Machine.execTrainingEnd s
  | .fullServiceStart => Sys2Proof.Machine.execFullServiceStart s
  | .reducedServiceStart => Sys2Proof.Machine.execReducedServiceStart s

end Sys2Proof.Machine
end

