-- ==== Sys2Proof/Machine/Uses.lean ====
section
/-! DEFINITION. Which registers and predicates a word reads and writes, its pipe, and what R175, R171, R181, R447 and R472
make of them. -/

namespace Sys2Proof.Machine

/-- The pipe of a word by its major (R179): 0 INT, 1 FP, 2 MEM, 3 CTL, 4 ENG. -/
def pipeOf (w : Word) : Nat :=
  let m := bits w.toNat 29 24
  if (0x10 ≤ m && m ≤ 0x15) || m == 0x19 || m == 0x1A then 1
  else if 0x20 ≤ m && m ≤ 0x2F then 2
  else if m == 0x16 || (0x32 ≤ m && m ≤ 0x34) || (0x3A ≤ m && m ≤ 0x3E) then 3
  else if m == 0x30 || m == 0x31 then 4
  else 0

/-- The n registers from r on. -/
def regSpan (r : BitVec 6) (n : Nat) : List Nat := rangeFrom r.toNat n

/-- Registers at the width W of an R-format word. -/
def spanW (w : BitVec 2) (r : BitVec 6) : List Nat := regSpan r (if w == 0 then 1 else 2)

/-- The general registers a word writes. -/
def writesRegs : Instr → List Nat
  | .iadd o | .isub o | .imin o | .imax o | .iminu o | .imaxu o | .iabs o | .ineg o | .and o | .or o | .xor o | .andn o
  | .not o | .sel o | .mov o | .popc o | .shl o | .shr o | .sar o | .rol o | .clz o | .brev o | .bfx o | .bfi o
  | .imul o | .imulh o | .imulhu o | .imad o | .idiv o | .irem o | .idivu o | .iremu o
  | .lea o | .leaX2 o | .leaX4 o | .leaX8 o | .iaddc o | .isubb o
  | .shfl o | .shflx o | .lswap o | .lbcst o | .lred o | .lscan o | .tred o => spanW o.w o.d
  | .fadd64 o | .fsub64 o | .fmul64 o | .fma64 o | .fmin64 o | .fmax64 o | .fdiv64 o | .fsqrt64 o | .frred o => regSpan o.d 2
  | .fadd o | .fsub o | .fmul o | .fma o | .fmin o | .fmax o | .fdiv o | .fsqrt o
  | .faddH2 o | .fsubH2 o | .fmulH2 o | .fmaH2 o | .fminH2 o | .fmaxH2 o | .fdivH2 o | .fsqrtH2 o
  | .faddB2 o | .fsubB2 o | .fmulB2 o | .fmaB2 o | .fminB2 o | .fmaxB2 o | .fdivB2 o | .fsqrtB2 o
  | .frcp o | .frsq o | .fexp2 o | .flog2 o | .fsinr o | .fcosr o | .feval o | .atom _ o => regSpan o.d 1
  | .cvt _ o => regSpan o.d (2 ^ ((cvtShape o.b.toNat).map (·.1)).getD 0)
  | .iaddi o | .andi o | .ori o | .xori o | .shli o | .shri o | .sari o | .movi o => regSpan o.d 1
  | .luih o => regSpan (o.d.setWidth 6) 1
  | .adrh o => regSpan (o.d.setWidth 6) 2
  | .pto o => regSpan o.pd 1
  | .vote o => if o.b == 2 then regSpan o.d 2 else []
  | .ld o | .ldl o | .lda o | .ldw o | .ldc o | .ldra o => regSpan o.d (groupRegs o.w)
  | .atomx f o => regSpan o.d (if f == 2 || f == 3 || f == 5 then 2 else 1)
  | .mxop o | .enq o | .hq o | .launch o | .twgetSt o | .phq o | .rand o | .ctxfl o => regSpan o.d 1
  | .twstep o | .twgetVal o => regSpan o.d 4
  | .rdsr o => regSpan o.d (if sr64.contains o.arg.toNat then 2 else 1)
  | .rdpr o => regSpan o.d (if pr64.contains o.arg.toNat then 2 else 1)
  | .rdtime o => regSpan o.d 2
  | .call _ | .calli _ => [62, 63]
  | _ => []

/-- The predicate a word writes; a write to p0 has no effect and none is listed. -/
def writesPred (i : Instr) : Option Nat :=
  let p := fun (r : BitVec 6) => if r == 0 then none else some r.toNat
  match i with
  | .icmp _ o | .fcmp32 _ o | .fcmp64 _ o | .pand o | .por o | .pxor o | .pnot o | .pmov o | .pset o | .pfrom o => p o.pd
  | .vote o => if o.b == 2 then none else p o.d
  | .pldb o => p o.d
  | .waitu o => p o.d
  | _ => none

/-- The general registers a word reads. -/
def readsRegs : Instr → List Nat
  | .iadd o | .isub o | .imin o | .imax o | .iminu o | .imaxu o | .and o | .or o | .xor o | .andn o | .sel o
  | .imul o | .imulh o | .imulhu o | .idiv o | .irem o | .idivu o | .iremu o => spanW o.w o.a ++ spanW o.w o.b
  | .iaddc o | .isubb o => regSpan o.a 2 ++ regSpan o.b 1
  | .iabs o | .ineg o | .not o | .mov o | .popc o | .clz o | .brev o => spanW o.w o.a
  | .shl o | .shr o | .sar o | .rol o | .bfx o | .lea o | .leaX2 o | .leaX4 o | .leaX8 o => spanW o.w o.a ++ regSpan o.b 1
  | .bfi o => spanW o.w o.a ++ regSpan o.b 1 ++ spanW o.w o.d
  | .imad o => spanW o.w o.a ++ spanW o.w o.b ++ spanW o.w o.d
  | .fadd64 o | .fsub64 o | .fmul64 o | .fmin64 o | .fmax64 o | .fdiv64 o => regSpan o.a 2 ++ regSpan o.b 2
  | .fma64 o => regSpan o.a 2 ++ regSpan o.b 2 ++ regSpan o.d 2
  | .fsqrt64 o => regSpan o.a 2
  | .fadd o | .fsub o | .fmul o | .fmin o | .fmax o | .fdiv o
  | .faddH2 o | .fsubH2 o | .fmulH2 o | .fminH2 o | .fmaxH2 o | .fdivH2 o
  | .faddB2 o | .fsubB2 o | .fmulB2 o | .fminB2 o | .fmaxB2 o | .fdivB2 o | .fsinr o | .fcosr o => regSpan o.a 1 ++ regSpan o.b 1
  | .fma o | .fmaH2 o | .fmaB2 o => regSpan o.a 1 ++ regSpan o.b 1 ++ regSpan o.d 1
  | .fsqrt o | .fsqrtH2 o | .fsqrtB2 o | .frcp o | .frsq o | .fexp2 o | .flog2 o | .frred o | .feval o => regSpan o.a 1
  | .cvt _ o => regSpan o.a (2 ^ ((cvtShape o.b.toNat).map (·.2)).getD 0)
  | .iaddi o | .andi o | .ori o | .xori o | .shli o | .shri o | .sari o => regSpan o.a 1
  | .icmp f o => if f.getLsbD 4 then regSpan o.a 2 ++ regSpan o.b 2 else regSpan o.a 1 ++ regSpan o.b 1
  | .fcmp32 _ o => regSpan o.a 1 ++ regSpan o.b 1
  | .fcmp64 _ o => regSpan o.a 2 ++ regSpan o.b 2
  | .pfrom o => regSpan o.a 1
  | .shfl o => spanW o.w o.a ++ regSpan o.b 1
  | .shflx o | .lswap o | .lbcst o | .lred o | .lscan o | .tred o => spanW o.w o.a
  | .ld o | .ldl o | .lda o | .ldw o | .ldc o | .ldra o => regSpan o.a 2
  | .st o | .stl o | .sta o | .stc o => regSpan o.a 2 ++ regSpan o.d (groupRegs o.w)
  | .atom _ o | .red _ o => regSpan o.a 2 ++ regSpan o.b 1
  | .atomx f o =>
    let n := if f == 2 || f == 3 || f == 5 then 2 else 1
    regSpan o.a 2 ++ regSpan o.b n ++ (if f == 1 || f == 3 then regSpan o.d n else [])
  | .redx f o => regSpan o.a 2 ++ regSpan o.b (if f == 1 then 2 else 1)
  | .cwb o | .cinv o | .iinv o | .pstb o | .pldb o => regSpan o.a 2 ++ regSpan o.b 1
  | .pref o => regSpan o.a 2
  | .nexti o | .calli o => regSpan o.a 2
  | .ret _ => [62, 63]
  | .mxop o | .chwait o | .twinit o | .ctxfl o => regSpan o.a 1
  | .twstep o => if o.arg == 1 then regSpan o.a 1 else []
  | .hsetBind o => regSpan o.a 4
  | .enq o => regSpan o.a 8
  | .ftld o | .launch o | .migr o => regSpan o.a 2
  | .waitu o => regSpan o.a 5
  | .wrsr o => regSpan o.a (if sr64.contains o.arg.toNat then 2 else 1)
  | .wrpr o => regSpan o.a (if pr64.contains o.arg.toNat then 2 else 1)
  | _ => []

/-- Whether a word reads a predicate as an operand. -/
def readsPred : Instr → Bool
  | .pand _ | .por _ | .pxor _ | .pnot _ | .pmov _ | .pto _ | .sel _ | .vote _ | .nextp _ | .nextn _ | .pstb _ => true
  | _ => false

/-- The G bit of a word that has one. -/
def guardBit (w : Word) : Bool :=
  let m := bits w.toNat 29 24
  if 0x30 ≤ m && m ≤ 0x34 then w.getLsbD 7 else if (0x08 ≤ m && m ≤ 0x0F) || (0x38 ≤ m && m ≤ 0x3D) then false else w.getLsbD 23

/-- Terminators stand in slot 2 only (R171). -/
def isTerminator : Instr → Bool
  | .next _ | .call _ | .nextp _ | .nextn _ | .nexti _ | .calli _ | .ret _ | .exit _ => true
  | _ => false

/-- Whether an instruction meets a test. -/
def okWith (f : Instr → Bool) (w : Word) : Bool := match decode w with | .ok i => f i | .error _ => false

/-- Words after which the thread stands elsewhere than behind its group. -/
def leavesGroup : Instr → Bool
  | .eret _ => true
  | i => isTerminator i

/-- Sub-operations 3 to 7 of SYS are privileged (R181, R367). -/
def isPrivileged : Instr → Bool
  | .eret _ | .rdpr _ | .wrpr _ | .ctxfl _ | .halt _ => true
  | _ => false

/-- Words that raise undefined in reduced service (R472). -/
def reducedUndefined (w : Word) : Bool :=
  let m := bits w.toNat 29 24
  m == 0x11 || m == 0x12 || m == 0x13 || m == 0x31 ||
    match decode w with
    | .ok (.mxop _) => true
    | .ok (.cvt _ o) => !([0x0C, 0x11, 0x20, 0x21, 0x28, 0x29, 0x30, 0x31, 0x32, 0x33] : List Nat).contains o.b.toNat
    | _ => false

/-- Two words that may not share a group (R175): one pipe, one register or one predicate. -/
def wordsClash (v w : Word) : Bool :=
  pipeOf v == pipeOf w ||
    match decode v, decode w with
    | .ok i, .ok j =>
      (writesRegs i).any (fun r => (writesRegs j).contains r) || ((writesPred i).isSome && writesPred i == writesPred j)
    | _, _ => false

end Sys2Proof.Machine
end

