-- ==== Sys2Proof/Machine/Issue.lean ====
section
/-! DEFINITION. How a turn is taken: the issue of a gang's next group (R16, R167 to R185, R253, R437, R438, R463), the passing of
time, the issue cycle of a quadrant (R17, R18), and the choice of an act where the agenda names none. -/

namespace Sys2Proof.Machine

/-! ### One word -/

/-- The meaning of an instruction; every arm of exec answers a next state. -/
def perform (i : Instr) (s : State) : State :=
  match exec i s with
  | .next t => t
  | _ => s

/-- What bays have dropped of the images of placed teams is filled again before an act may need it (R381, R382). -/
def recallLines (a : Act) (s : State) : State :=
  let idle := match a with
    | .event (.hostAccess ..) | .event (.cacheWriteback ..) => true
    | _ => false
  if idle || s.teams.all (fun t => t.away.isEmpty || !t.placedHere) then s
  else { s with teams := s.teams.map fun t => if t.placedHere then fillAway s.ms t else t }

/-- Address, in the team's image, of the bytes of a register of a thread; 64 stands for its predicates (R379, R381). -/
def regImageAt (t : Team) (tid n : Nat) : Nat :=
  let m := imageMap t.decl
  t.image + (if n < 64 then m.regs + regOffset t.decl.dim n tid else m.preds + 8 * tid)

/-- The general registers a word reads in the thread: those of its fields, but of a TWSTEP only where its walk is of a ray, and at its
first issue (R307). -/
def State.readsNow (s : State) (i : Instr) : List Nat :=
  match i with
  | .twstep o => if s.th.step.isNone && s.th.liveWalk.any (fun w => w.qkind == 0) then readsRegs (.twstep o) else []
  | i => readsRegs i

/-- A failed register line that a word reads (R447). -/
def badRead (s : State) (w : Word) (i : Instr) : Option Nat :=
  if s.tm.badReg.isEmpty then none
  else
    let preds := if guardBit w || readsPred i then [64] else []
    (preds ++ s.readsNow i).find? fun n => s.tm.badReg.contains (s.th.tid, n)

/-- Performs the k-th word of the group in the focus. -/
def runWord (w : Word) (k : Nat) (s : State) : State :=
  let s := { s with grp := { s.grp with pos := k } }
  match decode w with
  | .ok i =>
    match badRead s w i with
    | some n => s.dataError (regImageAt s.tm s.th.tid n)
    | none => perform i s
  | .error _ => perform (.nonInstructionWord w) s

/-- Whether the group has stopped, or the context is killed. -/
def State.stopped (s : State) : Bool := s.grp.stop.isSome || !s.alive s.tm.ref.ctx

/-- Performs words in turn until one stops the group or the context is killed. A return from a trap that words follow in its
group is performed after them: they see the thread's level and address as they stood before the group (R176), and their
long results are written with the others (R369 step 1). -/
def runWords : List Word → Nat → State → State
  | [], _, s => s
  | w :: rest, k, s =>
    let t := runWord w k s
    if t.stopped then t
    else if okWith leavesGroup w && !rest.isEmpty then
      let u := runWords rest (k + 1) s
      if u.stopped then u else runWord w k u
    else runWords rest (k + 1) t

/-! ### The checks before a group (R170, R173, R184) -/

/-- A cause at a word of the group. -/
abbrev Cause := Option (Nat × Nat)

/-- The first word of the group that meets a test. -/
def firstWord (ws : List Word) (f : Word → Bool) (cause : Nat) : Cause := (ws.findIdx? f).map fun k => (cause, k)

def isMajor (w : Word) : Bool := match decode w with | .error .badMajor => true | _ => false
def isUndefined (w : Word) : Bool := match decode w with | .error .undefinedCode => true | _ => false
def isBadField (w : Word) : Bool := match decode w with | .error .badField => true | _ => false
/-- The cause of a word that is no instruction (R184). -/
def wordCause (w : Word) : Option Nat :=
  match decode w with
  | .error .undefinedCode => some cUndefined
  | .error _ => some cIllegal
  | .ok _ => none

/-- Constraints of the group's place and company: chaining and terminators by slot, and clashes of two words. -/
def placeFault (slot : Nat) (ws : List Word) : Cause :=
  (ws.zipIdx.findIdx? fun p =>
    isBadField p.1 || (chainBit p.1 && slot + p.2 == 2) || (okWith isTerminator p.1 && slot + p.2 != 2) ||
      ws.zipIdx.any fun q => q.2 != p.2 && wordsClash p.1 q.1).map fun k => (cIllegal, k)

/-- The first check that a group fails, with the word at which it is raised. -/
def groupFault (s : State) (line : List Word) (ws : List Word) : Cause :=
  let lintel := (line.getD 15 0).toNat
  let slot := s.th.pc.toNat % 64 / 4 % 3
  if bits lintel 31 14 != 0 then some (cIllegal, 0)
  else if bits lintel 13 10 > 1 then some (cUndefined, 0)
  else if s.th.seg > 256 then some (cSegLen, 0)
  else
    (firstWord ws isMajor cIllegal).orElse fun _ =>
      (firstWord ws (fun w => isUndefined w || (s.iod.service == .reduced && reducedUndefined w)) cUndefined).orElse fun _ =>
        (placeFault slot ws).orElse fun _ =>
          if s.th.sup then none else firstWord ws (okWith isPrivileged) cPrivileged

/-! ### One thread's group -/

/-- The group again from the thread's state before it, at the word that stopped it: none of its words takes effect
(R176), but what the stop itself leaves. -/
def redo (s0 s : State) (h : Halt) : State :=
  let k := s.grp.pos
  let s1 := runWord (s.grp.words.getD k 0) k s0
  if s1.grp.stop.isSome then s1
  else
    let s0 := { s0 with grp := { s0.grp with pos := k } }
    match h with
    | .trap c a code => s0.raiseCode c a code
    | .park va kind lv => s0.park va kind lv
    | .aside va => s0.setAside va
    | .block => { s0 with th := { s0.th with status := s.th.status, issued := s0.grp.words }, grp := { s0.grp with stop := some .block } }

/-- A thread has finished its part of the group and waits for its gang. -/
def Thread.finish (t : Thread) (ws : List Word) : Thread := { t with fin := true, status := .within, issued := ws }

def Halt.isTrap : Halt → Bool
  | .trap _ _ _ => true
  | _ => false

def Halt.isBlock : Halt → Bool
  | .block => true
  | _ => false

/-- The trap of a word behind the k-th, which blocks: the group takes effect in none of its words then (R176). -/
def laterTrap (s0 : State) (k : Nat) : Option State :=
  ((s0.grp.words.zipIdx.drop (k + 1)).map fun p => runWord p.1 p.2 s0).find? fun t => t.grp.stop.any Halt.isTrap

/-- Performs the group in the focus. A thread that completes it waits for its gang. -/
def runGroup (s0 : State) : State :=
  let s := runWords s0.grp.words 0 s0
  match s.grp.stop with
  | none =>
    if s.alive s.tm.ref.ctx && !s.grp.words.any (okWith leavesGroup) then s.mapTh fun t => t.finish s.grp.words else s
  | some h =>
    match if h.isBlock then laterTrap s0 s.grp.pos else none with
    | some t => t
    | none => if s.grp.pos == 0 then s else redo s0 s h

/-- A fault in fetching the group's line, at its first word (R172). -/
def fetchFault (s : State) (r : XRes) : State := s.withUnfetched.xstop r s.th.pc.toNat .fetch

/-- The requests that fetching the group's line makes to other dies: of its walk, and of the line itself, as a load (R464). -/
def fetchAsk (s : State) : LinkRes :=
  let pc := s.th.pc.toNat
  let hold := fun (u : State) => if u.th.status == .blocked .link then { u with th := { u.th with issued := [] } } else u
  let ask := fun (walker : Bool) (q : Nat) =>
    match s.withUnfetched.overLink walker q with
    | .stop u => LinkRes.stop (hold u)
    | .go u => .go { s with th := u.th }
  if s.linkFree then .go s
  else if walkAway s s.tm.ref.ctx s.th.bay pc then ask true 0
  else
    match (translate s s.accessor .fetch pc).1 with
    | .ok l k =>
      let ha := leafHa l (2 ^ k) pc
      if leafHome l != s.th.bay / 96 && !(s.ms.icache.any fun c => c.bay == s.th.bay && c.line == ha / 64) then ask false (ha / 16)
      else .go s
    | _ => .go s

/-- Performs a group of the thread in the focus. -/
def performGroup (s : State) (ws : List Word) : State := (runGroup { s with grp := ⟨ws, 0, s.th, s.tm, none⟩ }).flush

/-- The words of a line as the thread meets them: each as fetched now, or, of a line that has been invalidated in its bay since it
entered the segment, as it may have fetched it before, by a free choice (R263, R351). -/
def fetchedLine (s : State) (line : List Word) : List Word × State :=
  if s.th.fetched.isEmpty then (line, s)
  else
    match (translate s s.accessor .fetch s.th.pc.toNat).1 with
    | .ok l k =>
      match s.th.fetched.find? fun c => c.bay == s.th.bay && c.line == leafHa l (2 ^ k) s.th.pc.toNat / 64 with
      | some c => if c.words == line then (line, s) else (mixWords (Config.choice s.draws) c.words line, { s with draws := s.draws + 1 })
      | none => (line, s)
    | _ => (line, s)

/-- Fetches, checks and performs the group at the PC of the thread in the focus. -/
def fetchGroup (s : State) : State :=
  let pc := s.th.pc.toNat
  if !addrOk56 pc then (s.withUnfetched.raise cRange pc).flush
  else
    match fetchAsk s with
    | .stop s => s.flush
    | .go s =>
      match fetchLine s s.accessor pc with
      | (.stop res, s) => (fetchFault s res).flush
      | (.line line, s) =>
        let (line, s) := fetchedLine s line
        let ws := groupWords line (pc % 64)
        let s := { s with grp := ⟨ws, 0, s.th, s.tm, none⟩ }
        match groupFault s line ws with
        | some (c, k) =>
          let s := { s with grp := { s.grp with pos := k } }
          let w := ws.getD k 0
          -- a word that is no instruction takes its trap by its row's meaning
          (if wordCause w == some c then perform (.nonInstructionWord w) s else s.raise c 0).flush
        | none => performGroup s ws

/-- Issues the next group of one thread; a blocked thread issues again the words it is blocked in. -/
def issueThread (r : ThreadRef) (s : State) : State :=
  let s := s.focus r
  match s.th.status, s.th.issued with
  | .blocked _, w :: ws => performGroup s (w :: ws)
  | _, _ => fetchGroup s

/-! ### One gang -/

/-- A thread stands back for the thread of its team that takes the causes pending at a resumption first (R440). -/
def standsBack (t : Team) (x : Thread) : Bool :=
  t.resumed && !t.imprecise.isEmpty && t.causeThread.all fun y => y.tid != x.tid

/-- A thread may issue: at a boundary unless held there (R25) or stopped by a shutter (R450), within a segment, or
blocked, its wait then looked at again; before causes pending at a resumption are delivered only to take them (R440). -/
def mayIssue (t : Team) (x : Thread) : Bool :=
  !x.fin && !standsBack t x &&
    match x.status, t.st with
    | .blocked (.walk (some _)), _ => false
    | .boundary, .running => !x.held
    | .boundary, .shuttered => x.sup || x.entering
    | .within, .running | .within, .shuttered => true
    | .blocked b, .shuttered => x.sup || b.goesOn || x.converged
    | .blocked _, .running => true
    | _, _ => false

/-- The members of a thread's gang. -/
def gangOf (t : Team) (x : Thread) : List Thread :=
  t.threads.filter fun y =>
    y.gang == x.gang && y.status != .exited && (match y.status with | .parked _ _ | .aside _ => false | _ => true)

/-- A member of a gang as it has fared in an issue: the state before it, and how its group stopped. -/
structure Fared where
  r : ThreadRef
  halt : Option Halt
  deriving DecidableEq, Repr

/-- The members that would trap in their groups as they stand. -/
def trapsAhead (s : State) (rs : List ThreadRef) : List Fared :=
  rs.filterMap fun r =>
    match s.thread? r with
    | none => none
    | some (t, x) =>
      let h := (issueThread r s).grp.stop
      if mayIssue t x && h.any Halt.isTrap then some ⟨r, h⟩ else none

/-- Issues the group in the members of a gang, in ascending index (R253), as far as one that waits for its stores to be
performed: a member after it performs its accesses after it, and its checks come with the others' before anything is sent (R252). -/
def issuePass : List ThreadRef → List Fared → State → List Fared × State
  | [], done, s => (done, s)
  | r :: rest, done, s =>
    match s.thread? r with
    | none => issuePass rest done s
    | some (t, x) =>
      if x.fin then issuePass rest done s
      else if !mayIssue t x then (if x.status == .blocked .pod then (done, s) else issuePass rest done s)
      else
        let u := issueThread r s
        let waits := match u.thread? r with | some (_, y) => y.status == Status.blocked BlockOn.pod | none => false
        let done := done ++ [(⟨r, u.grp.stop⟩ : Fared)]
        if waits then (if x.status == .blocked .pod then done else done ++ trapsAhead u rest, u) else issuePass rest done u

/-- A member stops again as it did among the others (R438). -/
def stopAgain (s : State) (d : Fared) : State :=
  let u := issueThread d.r s
  if u.grp.stop.isSome || !u.alive d.r.team.ctx then u
  else
    match s.thread? d.r, d.halt with
    | some (t, x), some h =>
      let (ws, s) := groupOfThread s t.ref x
      let s := s.focus d.r
      let s := { s with grp := ⟨ws, 0, s.th, s.tm, none⟩ }
      match h with
      | .trap c a code => (s.raiseCode c a code).flush
      | .park va kind lv => (s.park va kind lv).flush
      | .aside va => (s.setAside va).flush
      | .block => s.flush
    | _, _ => s

/-- The members that take a trap, or wait for a page, each in turn. -/
def stopAll (ds : List Fared) (s : State) : State := ds.foldl stopAgain s

/-- Threads of an issue that are parked, or set aside, form one sub-cohort each way (R428, R441). -/
def joinParked (was : List Thread) (t : Team) : Team :=
  let mine := fun (y : Thread) => was.any fun x => x.tid == y.tid
  let join := fun (test : Thread → Bool) (t : Team) =>
    match t.threads.find? fun y => test y && mine y with
    | none => t
    | some y => { t with threads := t.threads.map fun x => if test x && mine x then { x with gang := y.gang } else x }
  join (fun y => match y.status with | .aside _ => true | _ => false)
    (join (fun y => match y.status with | .parked _ _ => true | _ => false) t)

/-- When every member left has performed the group, the gang passes it. -/
def passGang (s : State) (r : TeamRef) (x : Thread) : State :=
  match s.team? r with
  | none => s
  | some t =>
    let ms := gangOf t x
    if ms.any (·.fin) && ms.all (fun y => y.fin) then
      s.setTeam { t with threads := t.threads.map fun z => if ms.any fun m => m.tid == z.tid then z.passGroup z.issued else z }
    else if t.st == .shuttered && ms.any (·.fin) then releaseFin s r
    else s

/-- Clears the focus: no thread's group is being performed. -/
def State.unfocus (s : State) : State := { s with th := Thread.blank, tm := Team.blank, grp := ⟨[], 0, Thread.blank, Team.blank, none⟩ }

/-- Delivers a pending imprecise cause to a thread of the gang instead of its group (R440). -/
def deliverFirst (s : State) (t : Team) (ms : List Thread) : State :=
  match t.imprecise, t.causeThread with
  | _ :: _, some y => if y.ready && mayIssue t y && ms.any (fun m => m.tid == y.tid) then deliverCauses s t y else s
  | _, _ => s

/-- Issues the next group of a thread's gang: each member in ascending index, then the gang's passing of it. Where a
member takes a trap, the group takes effect in none (R252, R438): those that trap or wait for a page do so, and the
others issue it again. -/
def issueCore (r : ThreadRef) (s : State) : State :=
  match s.thread? r with
  | none => s
  | some (t, x) =>
    if !mayIssue t x then s
    else
      let ms := gangOf t x
      let s := deliverFirst s t ms
      let rs := match s.team? r.team with
        | none => []
        | some t => (ms.filter fun m => t.threads.any fun y => y.tid == m.tid && y.gang == m.gang).map fun m => (⟨r.team, m.tid⟩ : ThreadRef)
      let (done, u) := issuePass rs [] s
      let u :=
        if u.alive r.team.ctx && done.any fun d => d.halt.any Halt.isTrap then
          stopAll (done.filter fun d => d.halt.any fun h => !h.isBlock) s
        else u
      let u :=
        match u.team? r.team with
        | none => u
        | some t => u.setTeam (joinParked ms t)
      (passGang u r.team x).unfocus

/-! ### The issue cycle of a quadrant (R17, R18) -/

/-- A gang is ready: it may issue and, where a member of it is blocked, an issue gets it further. -/
def gangReady (s : State) (t : Team) (x : Thread) : Bool :=
  mayIssue t x &&
    if (gangOf t x).any fun y => match y.status with | .blocked _ => true | _ => false then issueCore ⟨t.ref, x.tid⟩ s != s.unfocus else true

/-- A gang that may be chosen, by a thread of it, with the threads it has and its fairness counter. -/
structure GangChoice where
  x : Thread
  size : Nat
  fair : FairCount
  deriving DecidableEq, Repr

/-- A cohort with ready gangs. -/
structure CohortChoice where
  team : Team
  cohort : Nat
  fair : FairCount
  gangs : List GangChoice
  deriving DecidableEq, Repr

/-- The counter of a gang. -/
def Team.gangFair (t : Team) (g : Nat) : FairCount := ((t.gfair.find? fun p => p.1 == g).map (·.2)).getD ⟨0, none⟩

/-- The ready gangs of threads of one cohort. -/
def readyGangs (s : State) (t : Team) (xs : List Thread) : List GangChoice :=
  ((xs.map (·.gang)).eraseDups).filterMap fun g =>
    (xs.find? fun x => x.gang == g && gangReady s t x).map fun x => ⟨x, (gangOf t x).length, t.gangFair g⟩

/-- The cohorts of a quadrant that have ready gangs. -/
def readyCohorts (s : State) (bay q : Nat) : List CohortChoice :=
  (s.teams.filter Team.placedHere).flatMap fun t =>
    (List.range (ceilDiv t.decl.dim t.grant)).filterMap fun c =>
      let xs := t.threads.filter fun x => x.tid / t.grant == c && x.status != .exited && x.bay == bay && quadOf s t x == q
      let gs := readyGangs s t xs
      if gs.isEmpty then none else some ⟨t, c, nth t.cfair c ⟨0, none⟩, gs⟩

/-- The counter that has reached its interval comes first, the one that reached it first before others; none says
nothing. -/
def reachedBefore (a b : FairCount) : Option Bool :=
  match a.reached, b.reached with
  | some i, some j => if i == j then none else some (i < j)
  | some _, none => some true
  | none, some _ => some false
  | none, none => none

/-- The order among cohorts (R17 step 1). -/
def cohortBefore (a b : CohortChoice) : Bool :=
  match reachedBefore a.fair b.fair with
  | some r => r
  | none =>
    if a.fair.reached.isSome && a.cohort != b.cohort then a.cohort < b.cohort
    else a.team.placedAt < b.team.placedAt || (a.team.placedAt == b.team.placedAt && a.cohort < b.cohort)

/-- The order among gangs of a cohort (R17 step 2). -/
def gangBefore (a b : GangChoice) : Bool :=
  match reachedBefore a.fair b.fair with
  | some r => r
  | none =>
    if a.fair.reached.isNone && a.size != b.size then b.size < a.size else a.x.pc.toNat < b.x.pc.toNat

/-- The hold of a gang's YIELD lasts: the gang is ready, and is not chosen (R222). -/
def yieldHeld (s : State) (x : Thread) : Bool := x.yielded && !x.yieldOver s.cycle

/-- The cohort a quadrant issues and the gangs of it, at most two, among those that may be chosen. -/
def quadChoice (s : State) (bay q : Nat) : Option (CohortChoice × List GangChoice) :=
  let free := fun (c : CohortChoice) => c.gangs.filter fun g => !yieldHeld s g.x
  ((sortBy cohortBefore ((readyCohorts s bay q).filter fun c => !(free c).isEmpty)).head?).map fun c => (c, (sortBy gangBefore (free c)).take 2)

/-- A counter advances by a cycle, for an interval. -/
def FairCount.tick (f : FairCount) (interval now : Nat) : FairCount :=
  ⟨f.count + 1, if interval ≤ f.count + 1 then some (f.reached.getD now) else none⟩

/-- The cohort counters of a quadrant after a cycle: that of the cohort issued begins anew, those of the other ready
cohorts advance. -/
def tickCohort (best : CohortChoice) (s : State) (c : CohortChoice) : State :=
  match s.team? c.team.ref with
  | none => s
  | some t =>
    let issued := c.team.ref == best.team.ref && c.cohort == best.cohort
    s.setTeam { t with cfair := updAt t.cfair c.cohort fun f => if issued then ⟨0, none⟩ else f.tick (s.interval t.ref.ctx) s.turns }

/-- The gang counters of the cohort issued: those of its gangs issued begin anew, those of its other ready gangs
advance, and gangs that are no more have none. -/
def tickGangs (best : CohortChoice) (chosen : List GangChoice) (s : State) : State :=
  match s.team? best.team.ref with
  | none => s
  | some t =>
    let mine := fun (g : Nat) => best.gangs.any fun c => c.x.gang == g
    let kept := t.gfair.filter fun p => !mine p.1 && t.threads.any fun x => x.gang == p.1
    let left := best.gangs.filter fun c => !chosen.any fun d => d.x.gang == c.x.gang
    s.setTeam { t with gfair := kept ++ left.map fun c => (c.x.gang, c.fair.tick (s.interval t.ref.ctx) s.turns) }

/-- What an issue leaves behind it: the turn in the gang's members, and its own and its cohort's counters anew (R18). -/
def afterIssue (s : State) (t0 : Team) (x : Thread) : State :=
  let ms := gangOf t0 x
  match s.team? t0.ref with
  | none => s
  | some t =>
    s.setTeam { t with
      cfair := updAt t.cfair (x.tid / t0.grant) fun _ => ⟨0, none⟩
      gfair := t.gfair.filter fun p => p.1 != x.gang
      threads := t.threads.map fun y => if ms.any fun m => m.tid == y.tid then { y with stamp := s.turns } else y }

/-- Every other ready gang of a quadrant has issued since a thread's YIELD (R222). -/
def othersIssued (cs : List CohortChoice) (t : Team) (x : Thread) : Bool :=
  cs.all fun c => c.gangs.all fun g => (c.team.ref == t.ref && g.x.gang == x.gang) || x.stamp < g.x.stamp

/-- Marks the yielded threads of a quadrant after which every other ready gang has issued. -/
def markPassed (bay q : Nat) (s : State) : State :=
  let due := fun (t : Team) (x : Thread) => x.yielded && !x.passed && x.bay == bay && quadOf s t x == q
  if s.teams.any fun t => t.threads.any (due t) then
    let cs := readyCohorts s bay q
    { s with teams := s.teams.map fun t =>
        { t with threads := t.threads.map fun x => if due t x && othersIssued cs t x then { x with passed := true } else x } }
  else s

/-- Whether a gang issues after another of its cycle: a PHREG is judged after a PHARR (R231), and of two MXOP words
that of the lower stream comes first (R154). -/
def issueRank (s : State) (t : Team) (g : GangChoice) : Nat :=
  let ws := (groupOfThread s t.ref g.x).1
  let isPhreg := okWith fun i => match i with | .phreg _ => true | _ => false
  let stream := ws.findSome? fun w => match decode w with | .ok (.mxop o) => some (o.arg.toNat % 4) | _ => none
  (if ws.any isPhreg then 4 else 0) + stream.getD 0

/-! ### Stores and reductions performed after later words of their thread (R138, R145) -/

/-- A word that may be performed after later words: a store or a reduction, unless it takes part in a system-scope release. -/
def mayBeLate : Instr → Bool
  | .st o => !(isOrdered o.o && scopeOf o.o == 3)
  | .red _ _ | .redx _ _ | .pstb _ => true
  | _ => false

/-- The scope of a reduction, which is ordered with plain accesses nowhere (R145); a migrated thread's is the device at least. A
reduction at the system's point is taken to be at the home slice. -/
def LateWord.point (l : LateWord) : Option Nat :=
  match decode l.word with
  | .ok (.red _ o) | .ok (.redx _ o) => some (if l.threads.any (·.migrated) then 2 else min 2 o.w.toNat)
  | _ => none

/-- A word that may be performed before an earlier store or reduction of its thread to another line: it makes no release, no
fence and no returning atomic, and hands nothing to another agent. -/
def mayPassLate : Instr → Bool
  | .st o | .stl o | .sta o | .stc o => !isOrdered o.o
  | .ld _ | .ldl _ | .lda _ | .ldw _ | .ldc _ | .pldb _ | .pstb _ | .red _ _ | .redx _ _ => true
  | .next _ | .nextp _ | .nextn _ | .nexti _ | .call _ | .calli _ | .ret _ | .nop _ => true
  | _ => false

/-- The line that a word of a thread accesses: none for a word without a global access, some none where its page has no leaf. -/
def accessLine (s : State) (r : ThreadRef) (w : Word) : Option (Option Nat) :=
  let f := s.focus r
  (linkUse f w).map fun u =>
    match (leafFor f f.tm.ref.ctx f.th.bay u.va).1 with
    | .leaf l k _ => some (leafHa l (2 ^ k) u.va / 64)
    | _ => none

/-- A reduction word. -/
def isReduction : Instr → Bool
  | .red _ _ | .redx _ _ => true
  | _ => false

/-- A fence without a release that orders no reduction of some points: each lies beyond its scope (R145). -/
def fencePasses (points : List Nat) : Instr → Bool
  | .fence o => (o.b == 0 || o.b == 3) && points.all fun p => decide (o.w.toNat < p)
  | _ => false

/-- A word of a thread may be performed before late words of it: reductions pass and are passed at any line, stores at other lines. -/
def passesLate (s : State) (r : ThreadRef) (late : List LateWord) (w : Word) : Bool :=
  let lines := (late.filter fun l => l.point.isNone).flatMap (·.lines)
  (pipeOf w < 2 && okWith (fun _ => true) w) ||
    (late.all (fun l => l.point.isSome) && okWith (fencePasses (late.filterMap LateWord.point)) w) ||
    okWith mayPassLate w &&
      match accessLine s r w with
      | none => true
      | some (some l) => okWith isReduction w || !lines.contains l
      | some none => false

/-- A store as it is performed when a kill has abandoned its release (R455). -/
def plainly (i : Instr) : Instr :=
  match i with
  | .st o => .st { o with o := if isOrdered o.o then 0 else o.o }
  | i => i

/-- A word of a killed context: performed without its release, or dropped, by a free choice (R455). -/
def runOrDrop (w : Word) (s : State) : State :=
  let t := { s with draws := s.draws + 1 }
  if Config.choice s.draws % 2 == 0 then t
  else
    match decode w with
    | .ok i => perform (plainly i) t
    | .error _ => t

/-- Performs a word for a thread as it stood; nothing but the memory system is touched. -/
def performFor (l : LateWord) (s : State) (x : Thread) : State :=
  match s.team? l.team with
  | none => s
  | some t =>
    let f := { s with th := x, tm := t, grp := ⟨[l.word], 0, x, t, none⟩, ms := { s.ms with tlb := l.tlb } }
    let u := if s.alive l.team.ctx then runWord l.word 0 f else runOrDrop l.word f
    { s with ms := { u.ms with tlb := s.ms.tlb, walks := s.ms.walks }, draws := u.draws }

/-- Performs a late word for each of its threads. -/
def performWord (s : State) (l : LateWord) : State := l.threads.foldl (performFor l) s

/-- Performs the late words that meet a test. -/
def performWhere (test : LateWord → Bool) (s : State) : State :=
  (s.late.filter test).foldl performWord { s with late := s.late.filter fun l => !test l }

/-- A late word is a gang member's. -/
def LateWord.isOf (l : LateWord) (t : Team) (ms : List Thread) : Bool :=
  l.team == t.ref && l.threads.any fun a => ms.any fun y => y.tid == a.tid

/-- Before a gang issues: its own late words are performed, unless the words of its next group may pass them. -/
def lateBefore (r : ThreadRef) (s : State) : State :=
  match s.thread? r with
  | none => s
  | some (t, x) =>
    let ms := gangOf t x
    let mine := s.late.filter fun l => l.isOf t ms
    if mine.isEmpty || ms.all fun y => ((groupOfThread s t.ref y).1).all (passesLate s ⟨t.ref, y.tid⟩ mine) then s
    else performWhere (fun l => l.isOf t ms) s

/-- Issues the next group of a thread's gang, if the gang is ready. -/
def issueGang (r : ThreadRef) (s : State) : State :=
  let s := lateBefore r s
  match s.thread? r with
  | none => s
  | some (t, x) =>
    if gangReady s t x && !yieldHeld s x then
      let s := if x.yielded then s.setTeam (t.endYield x.gang) else s
      markPassed x.bay (quadOf s t x) (afterIssue (issueCore r s) t x)
    else s

/-- Every member of a gang has only passed a word, and nothing but threads and the memory system has changed. -/
def onlyPassed (s u : State) (t : Team) (ms : List Thread) (w : Word) : Bool :=
  u.iod == s.iod && u.grids == s.grids && u.ctxs == s.ctxs &&
    ms.all fun y =>
      mayIssue t y && y.issued.isEmpty &&
        match u.thread? ⟨t.ref, y.tid⟩ with
        | some (_, z) => z == { y.passGroup [w] with stamp := z.stamp }
        | none => false

/-- Issues the next group of a thread's gang; where it is one store or reduction, which every member performs without a stop, the
word's accesses are made later. -/
def issueLate (r : ThreadRef) (s : State) : State :=
  let s := lateBefore r s
  let u := issueGang r s
  match s.thread? r with
  | none => u
  | some (t, x) =>
    let ms := gangOf t x
    match (groupOfThread s t.ref x).1 with
    | [w] =>
      let lines := ms.filterMap fun y => accessLine s ⟨t.ref, y.tid⟩ w
      if okWith mayBeLate w && t.decl.det == 0 && lines.all Option.isSome && onlyPassed s u t ms w then
        { u with ms := s.ms, late := s.late ++ [⟨w, t.ref, ms, lines.filterMap id, u.ms.tlb⟩] }
      else u
    | _ => u

/-- Issues the next group of a thread's gang: what it asks of other dies is sent, and not answered at once (R462). -/
def sendGang (r : ThreadRef) (s : State) : State := { issueGang r { s with sending := true } with sending := false }

/-- Performs the n-th late word. -/
def performLate (n : Nat) (s : State) : State :=
  match s.late[n]? with
  | some l => performWord { s with late := s.late.eraseIdx n } l
  | none => s

/-- Late words are performed before every event but a cache's write-back, the writing of a long result and an access of the
host. -/
def lateBeforeAct (a : Act) (s : State) : State :=
  match a with
  | .event (.cacheWriteback ..) | .event (.longResultWrite ..) | .event (.hostAccess ..) => s
  | .event _ => performWhere (fun _ => true) s
  | _ => s

/-- What precedes an act: the late words that it does not leave, and what bays have dropped of images. -/
def beforeAct (a : Act) (s : State) : State := recallLines a (lateBeforeAct a s)

/-- The choice of a quadrant, and the counters of its cohorts and gangs after the cycle. -/
def choiceOf (s : State) (u : List (Team × GangChoice) × State) (q : Nat × Nat) : List (Team × GangChoice) × State :=
  match quadChoice s q.1 q.2 with
  | none => u
  | some (best, chosen) =>
    (u.1 ++ chosen.map fun g => (best.team, g), tickGangs best chosen ((readyCohorts s q.1 q.2).foldl (tickCohort best) u.2))

/-- One issue cycle of some quadrants: what they choose is performed in the order that words of one cycle have. -/
def issueCycle (quads : List (Nat × Nat)) (s : State) : State :=
  let (chosen, u) := quads.eraseDups.foldl (choiceOf s) ([], s)
  (sortBy (fun a b => issueRank s a.1 a.2 < issueRank s b.1 b.2) chosen).foldl (fun u g => issueGang ⟨g.1.ref, g.2.x.tid⟩ u) u

/-! ### Time -/

/-- The requests of threads and cards whose counts have ended, and still no reply or acknowledgement is there (R462 to R464). -/
def timeoutsDue (s : State) : State :=
  let ends := fun (lto : Nat) (a : Asked) => askedEnd lto a + 1
  let refs := s.teams.flatMap fun t => if t.placedHere then t.threads.map fun x => (⟨t.ref, x.tid⟩ : ThreadRef) else []
  let s := refs.foldl
    (fun s r =>
      match s.thread? r with
      | none => s
      | some (_, x) =>
        match x.status, x.asked with
        | .blocked .link, some a => if ends s.iod.lto a ≤ s.time then timeoutThread s r x a else s
        | _, _ => if podOverdue s x ends then podLinkFault s r else s)
    s
  let cards := s.teams.flatMap fun t =>
    if t.placedHere && (s.iod.dies[t.bay / 96]?.map (·.refLost)).getD false then
      (t.ring.cards.filter fun c => c.phase == .started && c.since + 21 * s.iod.lto < s.time).map fun c => (t.ref, c.seq)
    else []
  cards.foldl (fun s c => perform (.engineFaultRetry c.1 c.2) s) s

/-- The IOD's count some nanoseconds on: 64 bits, never less than before (R459), at the rate that its alignment has set, kept to the
millionth (R461). -/
def countOn (s : State) (dns : Nat) : Nat × Int :=
  let part := (dns : Int) * s.iod.syncRate + s.iod.syncRem
  (min (2 ^ 64 - 1) (s.time + ((dns : Int) + part / 1000000).toNat), part % 1000000)

/-- Nanoseconds and cycles pass: the convergence counts of R29 run, and the re-reads, walks and timeouts that are due are made. -/
def advance (dns dcy : Nat) (s : State) : State :=
  let (now, part) := countOn s dns
  let s := latchTime now { s with walked := [] }
  timeoutsDue (walkTime (settleLov { s with
    time := now
    cycle := s.cycle + dcy
    turns := s.turns + 1
    iod := { s.iod with syncRem := part }
    teams := if dcy == 0 then s.teams else s.teams.map fun t => t.convTick dcy }))

/-! ### The default policy, where the agenda names no act -/

/-- Thread references of a team. -/
def refsOf (t : Team) (f : Thread → Bool) : List ThreadRef := (t.threads.filter f).map fun x => ⟨t.ref, x.tid⟩

/-- The walk of a parked or set-aside thread would let it go on. -/
def walkHelps (s : State) (t : Team) (x : Thread) : Bool :=
  let clear := fun (va : Nat) =>
    match (leafFor s t.ref.ctx x.bay va).1 with
    | .leaf l _ _ => !leafLock l
    | .invalid _ => false
    | _ => true
  match x.status with
  | .parked va _ => clear va
  | .aside va => clear va
  | .blocked (.walk (some va)) => clear va
  | _ => false

/-- Events of one card. -/
def cardActs (r : TeamRef) (c : Card) : List Instr :=
  let start : Instr :=
    match cardType c.bytes with
    | 0x01 => .copy r c.seq
    | 0x02 => .gather r c.seq
    | 0x03 => .scatter r c.seq
    | 0x04 => .xpose r c.seq
    | 0x05 => .quant r c.seq
    | 0x06 => .mxpre r c.seq
    | 0x10 => .proj r c.seq
    | 0x11 => .bin r c.seq
    | 0x12 => .blend r c.seq
    | _ => .back r c.seq
  match c.phase with
  | .waiting => [start]
  | .started => [.engineFaultRetry r c.seq]
  | .moved => [.cardReadsComplete r c.seq]
  | .readsDone => [.cardRetire r c.seq]

/-- Events of one stream of a team. -/
def streamActs (r : TeamRef) (n : Nat) : List Instr := [.mxopStart r n, .mxopReadsComplete r n, .mxopComplete r n, .mxopAbandon r n]

/-- The re-read of a latch entry in a bay, and the end of its time. -/
def latchActs (s : State) (r : TeamRef) (l : Latch) : List Instr :=
  match l.who with
  | .thread q =>
    if q.team == r then
      (if l.place == .bay then [.latchBayReread q] else []) ++
        (match l.deadline with | some d => if d ≤ s.time then [.waituExpiry q] else [] | none => [])
    else []
  | .grid _ _ => []

/-- Events of one team. -/
def teamActs (s : State) (t : Team) : List Instr :=
  let r := t.ref
  let whole : List Instr :=
    [.cardAccept r, .reslice r, .setwHoldLapse r, .impreciseTrapDelivery r, .convergenceFault r none, .teamSaved r, .teamRetire r]
  let cards : List Instr := t.ring.cards.flatMap (cardActs r)
  let streams : List Instr := (List.range t.streams.length).flatMap (streamActs r)
  let cohorts : List Instr := (List.range (ceilDiv t.decl.dim t.grant)).map fun c => .convergenceFault r (some c)
  let holds : List Instr := (refsOf t fun x => x.status == .blocked .rcv).map Instr.rcvHoldExpiry
  let yields : List Instr := (refsOf t fun x => x.yielded).map Instr.yieldHoldEnd
  let walks : List Instr := (refsOf t (walkHelps s t)).flatMap fun q => [.faultReplayWalk q, .lockedPageRewalk q]
  let latches : List Instr := (s.ms.latches.filter fun l => l.outcome.isNone).flatMap (latchActs s r)
  whole ++ (cards ++ (streams ++ (cohorts ++ (holds ++ (yields ++ (walks ++ latches))))))

/-- Placements of a grid's next team, and resumptions. -/
def placeActs (s : State) : List Instr :=
  let on := fun (f : Nat → Bool) => (List.range 768).find? f
  (s.grids.filter (gridOffers s)).flatMap (fun g =>
    .priorityPreempt g.ctx g.gid ::
      match nextTeam s g with
      | none => []
      | some i =>
        match on fun b => (fitsNew s g i b).isSome with
        | some b => [.teamPlace ⟨g.ctx, g.gid, i⟩ b]
        | none => []) ++
    (s.teams.filter fun t => t.st == .saved && !t.shutMb).filterMap fun t =>
      (on fun b => (fitsSaved s t b).isSome).map fun b => .teamResume t.ref b

/-- Events of grids and contexts. -/
def gridActs (s : State) : List Instr :=
  (s.grids.filter fun g => g.st != .retired).flatMap (fun g =>
    [.dependenceMet g.ctx g.gid, .gridTimedStart g.ctx g.gid, .phaseCommit g.ctx g.gid, .gridRetire g.ctx g.gid]) ++
    (s.ctxs.filter fun c => c.st == .killing).map fun c => .contextKillComplete c.id

/-- The operations of the mailbox. -/
def mailboxActs : List Instr :=
  [.resync, .setregCtxtb, .setregLqtb, .setregFqb, .setregPriwt, .setregLovb, .setregLto, .shootdown, .migrate, .biasFlip, .shutter,
   .kill, .partset, .powercap, .podcfg, .timeset, .fwload, .attest]

/-- Bring-up, in the order of its steps. -/
def bringUpActs (s : State) : List Instr :=
  let first : List Instr := if s.iod.service == .off then [.powerOnReset] else [.reducedServiceStart]
  let batches : List Instr := startOrder.map Instr.bayStartBatch
  let train : List Instr := if (s.die 0).bays ≥ 16 then [.trainingEnd] else []
  first ++ (batches ++ (train ++ [Instr.fullServiceStart]))

/-- Whether a host queue holds a descriptor. -/
def queueWaits (s : State) (q : Nat) : Bool :=
  (match s.iod.queues[q]? with | some h => h.head != h.tail | none => false) || s.iod.passes.any fun p => p.queue == q

/-- Events of the I/O die. -/
def iodActs (s : State) : List Instr :=
  let mailbox : List Instr := if s.iod.mb.isSome then mailboxActs else []
  let queues : List Instr := ((List.range 64).filter (queueWaits s)).map fun q => .launchAccept (.queue q)
  let children : List Instr := s.iod.launches.map fun l => .launchAccept (.child l.who)
  let movers : List Instr := if s.iod.movers.any fun l => l != [] then [.migrate] else []
  bringUpActs s ++ (mailbox ++ (movers ++ (queues ++ children)))

/-- The issue cycles of the quadrants of the bays where threads stand. -/
def issueActs (s : State) : List Act :=
  let bays := ((s.teams.filter Team.placedHere).flatMap fun t => t.threads.map (·.bay)).eraseDups
  bays.flatMap fun b => (List.range 4).map fun q => Act.cycle [(b, q)]

def candidates (s : State) : List Act :=
  (iodActs s ++ gridActs s ++ placeActs s ++ (s.teams.filter Team.placedHere).flatMap (teamActs s)).map Act.event ++
    issueActs s

/-- What an act leaves. -/
def doAct (a : Act) (s : State) : State :=
  let s := beforeAct a s
  match a with
  | .event i => perform i s
  | .issue r => issueGang r s
  | .issueLate r => issueLate r s
  | .send r => sendGang r s
  | .performLate n => performLate n s
  | .cycle qs => issueCycle qs s
  | .cardEarly r n => cardEarly r n s
  | .mxEarly r n => mxEarly r n s
  | .mxTile r n i => mxTile r n i s
  | .route n p up => setRoute n p up s
  | .hostLink p st => setHostLink p st s
  | .gate d b => gateBay d b s

/-- The first act that changes something, beginning with another one at each turn, so that none is passed over for
ever (R19). -/
def chooseAct (s : State) : Option Act :=
  let cs := candidates s
  let k := s.turns % max 1 cs.length
  (cs.drop k ++ cs.take k).find? fun a => doAct a s != s

/-! ### Placing one word where the next step fetches -/

/-- Bytes of a word at a physical address. -/
def putWord (m : Memory) (a : Nat) (w : Word) : Memory := m.writeNat a 4 w.toNat

/-- A page table at 0x10000 that maps the first GiB executable onto itself, and a code line at 0x20000 that holds the
word in slot 0 of an entry packet, or a terminator in slot 2. -/
def wordMemory (m : Memory) (w : Word) : Memory :=
  let m := m.writeNat 0x10000 8 (0x11000 + 1)
  let m := m.writeNat 0x11000 8 (0x12000 + 1)
  let m := m.writeNat 0x12000 8 0x0B
  let m := if okWith isTerminator w then m.writeNat 0x20000 8 0x3E0000063E000006 else m
  putWord (putWord m (if okWith isTerminator w then 0x20008 else 0x20000) w) 0x2003C 0x1F

/-- Declarations with something of every resource. -/
def wordDecl : Decl := { Decl.blank with dim := 1, width := 8, lstore := 4096, astore := 4096, wstore := 16384, cstore := 4096, handles := 4, streams := 4, phasers := 4, ring := 4, entry := 0x20000 }

/-- The thread at the word. -/
def wordThread (w : Word) : Thread :=
  { Thread.blank with status := if okWith isTerminator w then Status.within else .boundary, seg := 1, pc := if okWith isTerminator w then 0x20008 else 0x20000 }

def wordTeam (w : Word) : Team :=
  { Team.blank with
    ref := ⟨1, 1, 0⟩, decl := wordDecl, st := .running, grant := 8, handles := List.replicate 4 ⟨0, 0, .free, 0⟩
    streams := List.replicate 4 ⟨0, 0, [], none⟩, ring := ⟨4, 0, false, [], [], []⟩, ftab := [], convAcc := [0, 0], quads := [0], cfair := [⟨0, none⟩], gangs := 1, threads := [wordThread w] }

/-- A module in full service, one context, grid, team and thread, and the thread's next group the word. -/
def placeWord (s : State) (w : Word) : State :=
  { s with
    ms := { s.ms with mem := wordMemory s.ms.mem w, caches := [], icache := [], tlb := [], failed := [], l2 := [] }
    teams := [wordTeam w]
    grids := [{ Grid.blank 1 1 with st := .ready, decl := wordDecl, placed := 1 }]
    ctxs := [⟨1, .resident, 0, 1, 11, 0x10000, 0x20000, 2, 0⟩]
    iod := { s.iod with service := .full, dies := s.iod.dies.map fun d => { d with st := .ready, bays := 96 } }
    late := []
    agenda := [⟨0, 0, .issue ⟨⟨1, 1, 0⟩, 0⟩⟩] }

end Sys2Proof.Machine
end

