-- ==== Sys2Proof/Machine/Step.lean ====
section
/-! DEFINITION. One step: the next turn of the agenda, or, with none left, a nanosecond of time and an act of the default
policy. -/

namespace Sys2Proof.Machine

/-- An act: an event is one call of exec, a thread's issue and a quadrant's cycle perform the next groups of
gangs through exec, a store or reduction passed before is performed; an engine reads or writes a part before the rest. An
instruction word is no event: it is performed by a thread's issue only. -/
def stepAct (a : Act) (s : State) : Host.Outcome State Fault Refusal :=
  let s := beforeAct a s
  match a with
  | .event i => if i.hasWord then .next s else exec i s
  | .issue r => .next (issueGang r s)
  | .issueLate r => .next (issueLate r s)
  | .send r => .next (sendGang r s)
  | .performLate n => .next (performLate n s)
  | .cycle qs => .next (issueCycle qs s)
  | .cardEarly r n => .next (cardEarly r n s)
  | .mxEarly r n => .next (mxEarly r n s)
  | .mxTile r n i => .next (mxTile r n i s)
  | .route n p up => .next (setRoute n p up s)
  | .hostLink p st => .next (setHostLink p st s)
  | .gate d b => .next (gateBay d b s)

/-- A step. With no turn left, late words are performed, a nanosecond passes, and the default policy chooses. -/
def step (s : State) : Host.Outcome State Fault Refusal :=
  match s.agenda with
  | t :: rest => stepAct t.act (advance t.dns t.dcy { s with agenda := rest })
  | [] =>
    let s := advance 1 2 (performWhere (fun _ => true) s)
    match chooseAct s with
    | some a => stepAct a s
    | none => .next s

/-- The machine with one instruction word where the next step fetches; 32 bits hold every instruction (R164). -/
def State.withFetchWord (s : State) (nbits w : Nat) : State :=
  if nbits == 0 then s else placeWord s (BitVec.ofNat 32 w)

end Sys2Proof.Machine
end

