-- ==== Sys2Proof/Certificates/Slice0/Obligations.lean ====
section
/-! DEFINITION. The statements for the provers, each after the numbered rules of the spec that it formalises, with the
vocabulary (Sys2Proof.Spec) they are written in. -/

/-! ### Vocabulary: what a word may change -/

namespace Sys2Proof.Spec

open Sys2Proof.Machine

/-- The state with other general registers of the issuing thread, and nothing else changed. -/
def withRegs (s : State) (l : List Word) : State := { s with th := { s.th with regs := l } }

/-- The state with other predicates of the issuing thread, and nothing else changed. -/
def withPreds (s : State) (l : List Bool) : State := { s with th := { s.th with preds := l } }

/-- The state with more outstanding long results of the issuing thread, and nothing else changed. -/
def withPending (s : State) (l : List Pending) : State := { s with th := { s.th with pending := s.th.pending ++ l } }

/-- The state with another issuing thread, and nothing else changed. -/
def withThread (s : State) (t : Thread) : State := { s with th := t }

/-- The registers after a 32-bit result, and after a 64-bit result in a pair, its low half first (R44, R166). -/
def reg1 (l : List Word) (d : BitVec 6) (v : Word) : List Word := l.set d.toNat v
def reg2 (l : List Word) (d : BitVec 6) (v : DWord) : List Word :=
  (l.set d.toNat (v.setWidth 32)).set (d.toNat + 1) (v.extractLsb' 32 32)

/-- The same results, outstanding (R177). -/
def long1 (d : BitVec 6) (v : Word) : List Pending := [.reg d.toNat v]
def long2 (d : BitVec 6) (v : DWord) : List Pending := [.reg d.toNat (v.setWidth 32), .reg (d.toNat + 1) (v.extractLsb' 32 32)]

/-- The predicates after a result: a write to p0 is discarded (R187). -/
def pred1 (l : List Bool) (p : BitVec 6) (b : Bool) : List Bool := if p = 0#6 then l else l.set p.toNat b

/-- A word that writes one function of A, B and D to D as a short result, 32 bits at W = 00, 64 at W = 01, and
nothing else. -/
def ShortWord (i : RFmt → Instr) (v32 : Word → Word → Word → Word) (v64 : DWord → DWord → DWord → DWord) : Prop :=
  ∀ (o : RFmt) (s : State), s.active o.g = true →
    (o.w = 0#2 → exec (i o) s = .next (withRegs s (reg1 s.th.regs o.d (v32 (s.src o.a) (s.src o.b) (s.src o.d))))) ∧
    (o.w = 1#2 →
      exec (i o) s = .next (withRegs s (reg2 s.th.regs o.d (v64 (s.srcPair o.a) (s.srcPair o.b) (s.srcPair o.d)))))

/-- As `ShortWord`, B being a 32-bit count or control at either width. -/
def ControlWord (i : RFmt → Instr) (v32 : Word → Word → Word → Word) (v64 : DWord → Word → DWord → DWord) : Prop :=
  ∀ (o : RFmt) (s : State), s.active o.g = true →
    (o.w = 0#2 → exec (i o) s = .next (withRegs s (reg1 s.th.regs o.d (v32 (s.src o.a) (s.src o.b) (s.src o.d))))) ∧
    (o.w = 1#2 → exec (i o) s = .next (withRegs s (reg2 s.th.regs o.d (v64 (s.srcPair o.a) (s.src o.b) (s.srcPair o.d)))))

/-- As `ShortWord`, the result outstanding until a switch marker or terminator (R177). -/
def LongWord (i : RFmt → Instr) (v32 : Word → Word → Word) (v64 : DWord → DWord → DWord) : Prop :=
  ∀ (o : RFmt) (s : State), s.active o.g = true →
    (o.w = 0#2 → exec (i o) s = .next (withPending s (long1 o.d (v32 (s.src o.a) (s.src o.b))))) ∧
    (o.w = 1#2 → exec (i o) s = .next (withPending s (long2 o.d (v64 (s.srcPair o.a) (s.srcPair o.b)))))

/-- An I-format word that writes one function of A and the sign-extended immediate to D, and nothing else. -/
def ImmediateWord (i : IFmt → Instr) (v : Word → Word → Word) : Prop :=
  ∀ (o : IFmt) (s : State), exec (i o) s = .next (withRegs s (reg1 s.th.regs o.d (v (s.src o.a) (o.imm.signExtend 32))))

/-- Number of leading zero bits. -/
def leadingZeros {n : Nat} (a : BitVec n) : Nat := ((List.range n).takeWhile fun i => !a.getLsbD (n - 1 - i)).length

/-- Number of set bits. -/
def setBits {n : Nat} (a : BitVec n) : Nat := ((List.range n).filter fun i => a.getLsbD i).length

/-- BFX of R195. -/
def fieldOf {n : Nat} (a : BitVec n) (ctl : Word) : BitVec n :=
  let pos := ctl.toNat % 256
  let len := ctl.toNat / 256 % 256
  let m := min (pos + len) n - pos
  if len = 0 ∨ n ≤ pos then 0#n
  else if ctl.getLsbD 16 then ((a >>> pos).setWidth m).signExtend n
  else ((a >>> pos).setWidth m).setWidth n

/-- BFI of R195. -/
def fieldInto {n : Nat} (a : BitVec n) (ctl : Word) (d : BitVec n) : BitVec n :=
  let pos := ctl.toNat % 256
  let len := ctl.toNat / 256 % 256
  let m := min (pos + len) n - pos
  let mask := ((BitVec.allOnes m).setWidth n) <<< pos
  if len = 0 ∨ n ≤ pos then d else (d &&& ~~~mask) ||| ((a <<< pos) &&& mask)

/-- The quotients and remainders of R197 with B = 0. -/
def quotS {n : Nat} (a b : BitVec n) : BitVec n := if b = 0#n then BitVec.allOnes n else a.sdiv b
def remS {n : Nat} (a b : BitVec n) : BitVec n := if b = 0#n then a else a.srem b
def quotU {n : Nat} (a b : BitVec n) : BitVec n := if b = 0#n then BitVec.allOnes n else a.udiv b
def remU {n : Nat} (a b : BitVec n) : BitVec n := if b = 0#n then a else a.umod b

/-- The words of a major with F 0, 1, 2 … are these constructors, in the R format. -/
def RGroup (op : BitVec 6) (l : List (RFmt → Instr)) : Prop :=
  ∀ p ∈ l.zipIdx, ∀ o, majorOf (encode (p.1 o)) = op ∧ fnR (encode (p.1 o)) = BitVec.ofNat 3 p.2 ∧ parseR (encode (p.1 o)) = o

/-- The majors of I-format words, in order. -/
def IGroup (l : List (BitVec 6 × (IFmt → Instr))) : Prop :=
  ∀ p ∈ l, ∀ o, majorOf (encode (p.2 o)) = p.1 ∧ parseI (encode (p.2 o)) = o

/-- B of a unary form must be 0. -/
def Unary (l : List (RFmt → Instr)) : Prop := ∀ i ∈ l, ∀ o, (i o).wellFormed = true → o.b = 0#6

/-- At W = 01 every register field names an aligned pair, and W is 00 or 01. -/
def Paired (l : List (RFmt → Instr)) : Prop :=
  ∀ i ∈ l, ∀ o, (i o).wellFormed = true →
    o.w.toNat < 2 ∧ (o.w = 1#2 → o.d.toNat % 2 = 0 ∧ o.a.toNat % 2 = 0 ∧ o.b.toNat % 2 = 0)

/-- The conditions of ICMP (R180, R203). -/
def holdsInt {n : Nat} (cc : Nat) (a b : BitVec n) : Bool :=
  match cc with
  | 0 => a == b
  | 1 => !(a == b)
  | 2 => a.slt b
  | 3 => !b.slt a
  | 4 => b.slt a
  | 5 => !a.slt b
  | 6 => a.ult b
  | 7 => !b.ult a
  | 8 => b.ult a
  | _ => !a.ult b

end Sys2Proof.Spec

open Sys2Proof Sys2Proof.Machine Sys2Proof.Spec

/-! ### Encoding -/

/-- R185, R202 and R444 give these words beside their assembly; the decoder reads them so. -/
def Obligations.SampleWordsDecode : Prop :=
  decode 0x39400034 = .ok (.adrh ⟨false, false, 4, 0x34⟩) ∧
  decode 0x0F180B4F = .ok (.movi ⟨false, false, 6, 0, 0xB4F⟩) ∧
  decode 0x05220830 = .ok (.lea ⟨false, false, false, 1, 4, 4, 6⟩)

/-- R164, R179 to R183: no bit of a word is dropped. Decoding the word of a well-formed instruction gives it back. -/
def Obligations.DecodeEncodeRoundTrip : Prop :=
  ∀ i : Instr, i.hasWord = true → i.wellFormed = true → decode (encode i) = .ok i

/-- The other direction: a word that decodes is the word of the instruction it decodes to, which is well formed, so
that no two words are one instruction and nothing ill formed is ever decoded. -/
def Obligations.DecodedWordIsEncoding : Prop :=
  ∀ (w : Word) (i : Instr), decode w = .ok i → encode i = w ∧ i.wellFormed = true

/-! ### Integer words -/

/-- R192. -/
def Obligations.IntegerArithmeticResults : Prop :=
  ShortWord .iadd (fun a b _ => BitVec.ofInt 32 (a.toInt + b.toInt)) (fun a b _ => BitVec.ofInt 64 (a.toInt + b.toInt)) ∧
  ShortWord .isub (fun a b _ => BitVec.ofInt 32 (a.toInt - b.toInt)) (fun a b _ => BitVec.ofInt 64 (a.toInt - b.toInt)) ∧
  ShortWord .imin (fun a b _ => if b.slt a then b else a) (fun a b _ => if b.slt a then b else a) ∧
  ShortWord .imax (fun a b _ => if a.slt b then b else a) (fun a b _ => if a.slt b then b else a) ∧
  ShortWord .iminu (fun a b _ => if b.ult a then b else a) (fun a b _ => if b.ult a then b else a) ∧
  ShortWord .imaxu (fun a b _ => if a.ult b then b else a) (fun a b _ => if a.ult b then b else a) ∧
  RGroup 0x01 [.iadd, .isub, .imin, .imax, .iminu, .imaxu, .iabs, .ineg] ∧ Unary [.iabs, .ineg] ∧
  ShortWord .iabs (fun a _ _ => BitVec.ofNat 32 a.toInt.natAbs) (fun a _ _ => BitVec.ofNat 64 a.toInt.natAbs) ∧
  ShortWord .ineg (fun a _ _ => BitVec.ofInt 32 (-a.toInt)) (fun a _ _ => BitVec.ofInt 64 (-a.toInt))

/-- R193. SEL reads the predicate that the guard selection names and is never guarded. -/
def Obligations.LogicResults : Prop :=
  ShortWord .and (fun a b _ => a &&& b) (fun a b _ => a &&& b) ∧ ShortWord .or (fun a b _ => a ||| b) (fun a b _ => a ||| b) ∧
  ShortWord .xor (fun a b _ => a ^^^ b) (fun a b _ => a ^^^ b) ∧
  ShortWord .andn (fun a b _ => a &&& ~~~b) (fun a b _ => a &&& ~~~b) ∧
  ShortWord .not (fun a _ _ => ~~~a) (fun a _ _ => ~~~a) ∧ ShortWord .mov (fun a _ _ => a) (fun a _ _ => a) ∧
  ShortWord .popc (fun a _ _ => BitVec.ofNat 32 (setBits a)) (fun a _ _ => BitVec.ofNat 64 (setBits a)) ∧
  RGroup 0x02 [.and, .or, .xor, .andn, .not, .sel, .mov, .popc] ∧ Unary [.not, .mov, .popc] ∧
  (∀ (o : RFmt), (Instr.sel o).wellFormed = true → o.g = false) ∧
  ∀ (o : RFmt) (s : State), o.g = false →
    (o.w = 0#2 → exec (.sel o) s = .next (withRegs s (reg1 s.th.regs o.d (if s.guardOn then s.src o.a else s.src o.b)))) ∧
    (o.w = 1#2 → exec (.sel o) s = .next (withRegs s (reg2 s.th.regs o.d (if s.guardOn then s.srcPair o.a else s.srcPair o.b))))

/-- R194 and R195: shifts, counts and bit fields. -/
def Obligations.ShiftAndFieldResults : Prop :=
  ControlWord .shl (fun a b _ => BitVec.ofNat 32 (a.toNat * 2 ^ (b.toNat % 32))) (fun a b _ => BitVec.ofNat 64 (a.toNat * 2 ^ (b.toNat % 64))) ∧
  ControlWord .shr (fun a b _ => BitVec.ofNat 32 (a.toNat / 2 ^ (b.toNat % 32))) (fun a b _ => BitVec.ofNat 64 (a.toNat / 2 ^ (b.toNat % 64))) ∧
  ControlWord .sar (fun a b _ => BitVec.ofInt 32 (a.toInt / 2 ^ (b.toNat % 32))) (fun a b _ => BitVec.ofInt 64 (a.toInt / 2 ^ (b.toNat % 64))) ∧
  ControlWord .rol (fun a b _ => a.rotateLeft (b.toNat % 32)) (fun a b _ => a.rotateLeft (b.toNat % 64)) ∧
  ShortWord .clz (fun a _ _ => BitVec.ofNat 32 (leadingZeros a)) (fun a _ _ => BitVec.ofNat 64 (leadingZeros a)) ∧
  ShortWord .brev (fun a _ _ => a.reverse) (fun a _ _ => a.reverse) ∧
  RGroup 0x03 [.shl, .shr, .sar, .rol, .clz, .brev, .bfx, .bfi] ∧ Unary [.clz, .brev] ∧ Paired [.shl, .shr, .sar, .rol, .bfx, .bfi] ∧
  ControlWord .bfx (fun a c _ => fieldOf a c) (fun a c _ => fieldOf a c) ∧ ControlWord .bfi (fun a c d => fieldInto a c d) (fun a c d => fieldInto a c d)

/-- R196 and R197: the products and the high halves of the exact products, as short results; the divisions as long ones,
with their two borderline cases, no trap and no flag. -/
def Obligations.ProductAndDivisionResults : Prop :=
  RGroup 0x04 [.imul, .imulh, .imulhu, .imad, .idiv, .irem, .idivu, .iremu] ∧
  ShortWord .imul (fun a b _ => BitVec.ofNat 32 (a.toNat * b.toNat)) (fun a b _ => BitVec.ofNat 64 (a.toNat * b.toNat)) ∧
  ShortWord .imulh (fun a b _ => (a.signExtend 64 * b.signExtend 64).extractLsb' 32 32)
    (fun a b _ => (a.signExtend 128 * b.signExtend 128).extractLsb' 64 64) ∧
  ShortWord .imulhu (fun a b _ => (a.setWidth 64 * b.setWidth 64).extractLsb' 32 32)
    (fun a b _ => (a.setWidth 128 * b.setWidth 128).extractLsb' 64 64) ∧
  ShortWord .imad (fun a b d => BitVec.ofNat 32 (a.toNat * b.toNat + d.toNat)) (fun a b d => BitVec.ofNat 64 (a.toNat * b.toNat + d.toNat)) ∧
  LongWord .idiv quotS quotS ∧ LongWord .irem remS remS ∧ LongWord .idivu quotU quotU ∧ LongWord .iremu remU remU ∧
  ∀ n ∈ [32, 64], ∀ a b : BitVec n,
    (b = 0#n → quotS a b = BitVec.allOnes n ∧ remS a b = a ∧ quotU a b = BitVec.allOnes n ∧ remU a b = a) ∧
    (a = BitVec.intMin n → b = BitVec.allOnes n → quotS a b = BitVec.intMin n ∧ remS a b = 0#n) ∧
    (b ≠ 0#n → (a ≠ BitVec.intMin n ∨ b ≠ BitVec.allOnes n) →
      a.toInt = (quotS a b).toInt * b.toInt + (remS a b).toInt ∧ (remS a b).toInt.natAbs < b.toInt.natAbs ∧
        (0 ≤ a.toInt → 0 ≤ (remS a b).toInt) ∧ (a.toInt < 0 → (remS a b).toInt ≤ 0)) ∧
    (b ≠ 0#n → a.toNat = (quotU a b).toNat * b.toNat + (remU a b).toNat ∧ (remU a b).toNat < b.toNat)

/-- R198 and R199: addresses of scaled elements, and additions and subtractions with carry. -/
def Obligations.LeaAndCarryResults : Prop :=
  RGroup 0x05 [.lea, .leaX2, .leaX4, .leaX8, .iaddc, .isubb] ∧
  (∀ i ∈ [Instr.lea, .leaX2, .leaX4, .leaX8], ∀ o : RFmt, o.w = 1#2 → o.d.toNat % 2 = 0 → o.a.toNat % 2 = 0 → (i o).wellFormed = true) ∧
  (∀ p ∈ [(Instr.lea, 0), (Instr.leaX2, 1), (Instr.leaX4, 2), (Instr.leaX8, 3)], ∀ (o : RFmt) (s : State), s.active o.g = true →
    (o.w = 0#2 → exec (p.1 o) s = .next (withRegs s (reg1 s.th.regs o.d
      (BitVec.ofNat 32 ((s.src o.a).toNat + (s.src o.b).toNat * 2 ^ p.2))))) ∧
    (o.w = 1#2 → exec (p.1 o) s = .next (withRegs s (reg2 s.th.regs o.d
      (BitVec.ofInt 64 ((s.srcPair o.a).toInt + (s.src o.b).toInt * 2 ^ p.2)))))) ∧
  (∀ (o : RFmt) (s : State), s.active o.g = true →
    let a := s.src o.a
    let b := s.src o.b
    let cin := ((s.grp.view.reg (o.a.toNat + 1)).toNat) % 2
    exec (.iaddc o) s = .next (withRegs s ((s.th.regs.set o.d.toNat (BitVec.ofNat 32 (a.toNat + b.toNat + cin))).set (o.d.toNat + 1)
      (if 2 ^ 32 ≤ a.toNat + b.toNat + cin then 1#32 else 0#32))) ∧
    exec (.isubb o) s = .next (withRegs s ((s.th.regs.set o.d.toNat (BitVec.ofInt 32 (a.toNat - b.toNat - cin))).set (o.d.toNat + 1)
      (if a.toNat < b.toNat + cin then 1#32 else 0#32))))

/-- R200: the immediates; a shift count above 31 is no well-formed word. -/
def Obligations.ImmediateResults : Prop :=
  IGroup [(0x08, .iaddi), (0x09, .andi), (0x0A, .ori), (0x0B, .xori), (0x0C, .shli), (0x0D, .shri), (0x0E, .sari), (0x0F, .movi)] ∧
  ImmediateWord .iaddi (fun a i => BitVec.ofInt 32 (a.toInt + i.toInt)) ∧ ImmediateWord .andi (fun a i => a &&& i) ∧
  ImmediateWord .ori (fun a i => a ||| i) ∧ ImmediateWord .xori (fun a i => a ^^^ i) ∧ ImmediateWord .movi (fun _ i => i) ∧
  (∀ o : IFmt, (Instr.shli o).wellFormed = decide (o.imm.toNat < 32) ∧ (Instr.shri o).wellFormed = decide (o.imm.toNat < 32) ∧
    (Instr.sari o).wellFormed = decide (o.imm.toNat < 32) ∧ (Instr.movi o).wellFormed = (o.a == 0#6)) ∧
  ∀ (o : IFmt) (s : State), o.imm.toNat < 32 →
    exec (.shli o) s = .next (withRegs s (reg1 s.th.regs o.d (BitVec.ofNat 32 ((s.src o.a).toNat * 2 ^ o.imm.toNat)))) ∧
    exec (.shri o) s = .next (withRegs s (reg1 s.th.regs o.d (BitVec.ofNat 32 ((s.src o.a).toNat / 2 ^ o.imm.toNat)))) ∧
    exec (.sari o) s = .next (withRegs s (reg1 s.th.regs o.d (BitVec.ofInt 32 ((s.src o.a).toInt / 2 ^ o.imm.toNat))))

/-- R201 and R202: LUIH, the constant it builds with IADDI, and ADRH from its own byte address. -/
def Obligations.UpperImmediateResults : Prop :=
  (∀ o : UFmt, majorOf (encode (.luih o)) = 0x38 ∧ parseU (encode (.luih o)) = o ∧ majorOf (encode (.adrh o)) = 0x39 ∧
    parseU (encode (.adrh o)) = o ∧ (Instr.adrh o).wellFormed = decide (o.d.toNat % 2 = 0)) ∧
  (∀ (o : UFmt) (s : State),
    exec (.luih o) s = .next (withRegs s (reg1 s.th.regs (o.d.setWidth 6) (o.imm.setWidth 32 <<< 12)))) ∧
  (∀ v : Word, (((v + 0x800) >>> 12).setWidth 20).setWidth 32 <<< 12 + ((v.setWidth 12).signExtend 32) = v) ∧
  (∀ (p : DWord) (v : Word), v.toInt < 2 ^ 31 - 0x800 →
    p + ((((v + 0x800) >>> 12).setWidth 20).setWidth 32 <<< 12).signExtend 64 + ((v.setWidth 12).signExtend 32).signExtend 64 = p + v.signExtend 64) ∧
  ∀ (o : UFmt) (s : State),
    exec (.adrh o) s = .next (withRegs s (reg2 s.th.regs (o.d.setWidth 6)
      (BitVec.ofNat 64 (s.th.pc.toNat + 4 * s.grp.pos) + ((o.imm.setWidth 32 <<< 12).signExtend 64))))

/-! ### Predicates -/

/-- R203 and R205: comparisons and predicate logic write one predicate, p0 excepted; PTO writes a register. -/
def Obligations.PredicateResults : Prop :=
  (∀ (f : BitVec 5) (o : PFmt), majorOf (encode (.icmp f o)) = 0x18 ∧ fnP (encode (.icmp f o)) = f ∧ parseP (encode (.icmp f o)) = o ∧
    ((Instr.icmp f o).wellFormed = true → f.toNat % 16 < 10 ∧ o.pd.toNat < 48 ∧
      (f.getLsbD 4 = true → o.a.toNat % 2 = 0 ∧ o.b.toNat % 2 = 0))) ∧
  (∀ p ∈ ([.pand, .por, .pxor, .pnot, .pmov, .pset, .pfrom, .pto] : List (PFmt → Instr)).zipIdx, ∀ o,
    majorOf (encode (p.1 o)) = 0x1B ∧ fnP (encode (p.1 o)) = BitVec.ofNat 5 p.2 ∧ parseP (encode (p.1 o)) = o) ∧
  (∀ w : Word, majorOf w = 0x1B → 8 ≤ (fnP w).toNat → decode w = .error .undefinedCode) ∧
  (∀ o : PFmt,
    (∀ i ∈ [Instr.pand o, .por o, .pxor o], i.wellFormed = decide (o.pd.toNat < 48 ∧ o.a.toNat < 48 ∧ o.b.toNat < 48)) ∧
    (∀ i ∈ [Instr.pnot o, .pmov o], i.wellFormed = decide (o.pd.toNat < 48 ∧ o.a.toNat < 48 ∧ o.b = 0#6)) ∧
    (Instr.pset o).wellFormed = decide (o.pd.toNat < 48 ∧ o.a.toNat < 2 ∧ o.b = 0#6) ∧
    (Instr.pfrom o).wellFormed = decide (o.pd.toNat < 48 ∧ o.b.toNat < 32) ∧
    (Instr.pto o).wellFormed = decide (o.a.toNat < 48 ∧ o.b = 0#6)) ∧
  (∀ (f : BitVec 5) (o : PFmt) (s : State), f.toNat % 16 < 10 → s.active o.g = true →
    exec (.icmp f o) s = .next (withPreds s (pred1 s.th.preds o.pd
      (if f.getLsbD 4 then holdsInt (f.toNat % 16) (s.srcPair o.a) (s.srcPair o.b)
       else holdsInt (f.toNat % 16) (s.src o.a) (s.src o.b))))) ∧
  ∀ (o : PFmt) (s : State), s.active o.g = true →
    let a := s.srcPred o.a
    let b := s.srcPred o.b
    exec (.pand o) s = .next (withPreds s (pred1 s.th.preds o.pd (a && b))) ∧
    exec (.por o) s = .next (withPreds s (pred1 s.th.preds o.pd (a || b))) ∧
    exec (.pxor o) s = .next (withPreds s (pred1 s.th.preds o.pd (a ^^ b))) ∧
    exec (.pnot o) s = .next (withPreds s (pred1 s.th.preds o.pd (!a))) ∧
    exec (.pmov o) s = .next (withPreds s (pred1 s.th.preds o.pd a)) ∧
    exec (.pset o) s = .next (withPreds s (pred1 s.th.preds o.pd (decide (o.a = 1#6)))) ∧
    exec (.pfrom o) s = .next (withPreds s (pred1 s.th.preds o.pd ((s.src o.a).getLsbD o.b.toNat))) ∧
    exec (.pto o) s = .next (withRegs s (reg1 s.th.regs o.pd (if a then 1 else 0)))

/-! ### Floating point -/

namespace Sys2Proof.Spec

open Sys2Proof.Machine

/-- The exact value of a finite floating-point value. -/
def ratOf (neg : Bool) (m : Nat) (e : Int) : ℚ := (if neg then -1 else 1) * (m : ℚ) * (2 : ℚ) ^ e

/-- The relation of two values by their exact values, an infinity beyond every finite value (R204). -/
def relation : FVal → FVal → Option Ordering
  | .nan _, _ => none
  | _, .nan _ => none
  | .inf p, .inf q => some (if p = q then .eq else if p then .lt else .gt)
  | .inf p, .fin _ _ _ => some (if p then .lt else .gt)
  | .fin _ _ _, .inf q => some (if q then .gt else .lt)
  | .fin p m e, .fin q n g =>
    some (if ratOf p m e < ratOf q n g then .lt else if ratOf q n g < ratOf p m e then .gt else .eq)

/-- The table of R204: less, equal, greater, unordered, and whether a quiet NaN sets IV. -/
def fcmpTable : List (Bool × Bool × Bool × Bool × Bool) :=
  [(false, true, false, false, false), (true, false, true, false, false), (true, false, false, false, true),
   (true, true, false, false, true), (false, false, true, false, true), (false, true, true, false, true),
   (true, true, true, false, false), (false, false, false, true, false), (false, true, false, true, false),
   (true, false, true, true, false), (true, false, false, true, false), (true, true, false, true, false),
   (false, false, true, true, false), (false, true, true, true, false)]

/-- The condition and the IV bit of FCMP with a code. -/
def fcmpOutcome (cc : Nat) (x y : FVal) : Bool × Word :=
  let row := fcmpTable.getD cc (false, false, false, false, false)
  let holds := match relation x y with | some .lt => row.1 | some .eq => row.2.1 | some .gt => row.2.2.1 | none => row.2.2.2.1
  (holds, if x.isSnan ∨ y.isSnan ∨ (relation x y = none ∧ row.2.2.2.2) then 0x10 else 0)

/-- What a floating-point word of single registers leaves: D and FPS, at once. -/
def floatShort (s : State) (d : BitVec 6) (r : FR) : State :=
  withThread s { s.th with regs := reg1 s.th.regs d (BitVec.ofNat 32 r.bits), fps := s.th.fps ||| BitVec.ofNat 32 r.fl }

/-- The same outstanding, D a register or a pair: result and flags come together (R191). -/
def floatLong (s : State) (d : BitVec 6) (pair : Bool) (r : FR) : State :=
  withPending s ((if pair then long2 d (BitVec.ofNat 64 r.bits) else long1 d (BitVec.ofNat 32 r.bits)) ++ [.flags (BitVec.ofNat 32 r.fl) (if pair then 2 else 1)])

/-- An operation of majors 0x10 to 0x13 on the elements of its registers. -/
def onElems (s : State) (k : FpKind) (f : FpCtl → Fmt → Nat → Nat → Nat → FR) (o : RFmt) : FR :=
  joinElems k fun i =>
    f (s.fpCtl k) k.fmt (elem k (s.srcs o.a k.regs) i) (elem k (s.srcs o.b k.regs) i) (elem k (s.srcs o.d k.regs) i)

end Sys2Proof.Spec

/-- R61 and R69: of an exact magnitude m × 2^e between two multiples of 2^q, each mode delivers the neighbour that the
rule names; the second component says whether the delivered value differs from, or the exact value is not, a multiple. -/
def Obligations.RoundingModesDeliver : Prop :=
  ∀ (neg : Bool) (m : Nat) (e q : Int), e < q →
    let d := 2 ^ (q - e).toNat
    let at' := fun r => roundAt r neg m e q false
    (∀ r, (at' r).2 = decide (m % d ≠ 0) ∧ ((at' r).1 = m / d ∨ (m % d ≠ 0 ∧ (at' r).1 = m / d + 1))) ∧
    (2 * (m % d) < d → (at' .rne).1 = m / d ∧ (at' .rna).1 = m / d) ∧
    (d < 2 * (m % d) → (at' .rne).1 = m / d + 1 ∧ (at' .rna).1 = m / d + 1) ∧
    (2 * (m % d) = d → (at' .rne).1 % 2 = 0 ∧ (at' .rna).1 = m / d + 1) ∧
    (at' .rz).1 = m / d ∧
    (m % d ≠ 0 → (at' .rd).1 = (if neg then m / d + 1 else m / d) ∧ (at' .ru).1 = (if neg then m / d else m / d + 1)) ∧
    ∀ u, (at' (.stoch u)).1 = if u < m % d * 2 ^ 32 / d then m / d + 1 else m / d

/-- R206 to R209: the words of majors 0x10, 0x12 and 0x13 with short results write D and OR their flags into FPS at
once, the long ones hold both back; nothing else changes. The values are those of the model's operations. -/
def Obligations.FloatWordsWriteResultAndFlags : Prop :=
  (∀ p ∈ [(Instr.fadd, kind32, opAdd), (.fsub, kind32, opSub), (.fmul, kind32, opMul), (.fma, kind32, opFma), (.fmin, kind32, opMin),
      (.fmax, kind32, opMax), (.faddH2, kindH2, opAdd), (.fsubH2, kindH2, opSub), (.fmulH2, kindH2, opMul), (.fmaH2, kindH2, opFma),
      (.fminH2, kindH2, opMin), (.fmaxH2, kindH2, opMax), (.faddB2, kindB2, opAdd), (.fsubB2, kindB2, opSub), (.fmulB2, kindB2, opMul),
      (.fmaB2, kindB2, opFma), (.fminB2, kindB2, opMin), (.fmaxB2, kindB2, opMax)],
    ∀ (o : RFmt) (s : State), s.active o.g = true → exec (p.1 o) s = .next (floatShort s o.d (onElems s p.2.1 p.2.2 o))) ∧
  (∀ p ∈ [(Instr.fdiv, kind32, opDiv), (.fsqrt, kind32, opSqrt), (.fdivH2, kindH2, opDiv), (.fsqrtH2, kindH2, opSqrt),
      (.fdivB2, kindB2, opDiv), (.fsqrtB2, kindB2, opSqrt)],
    ∀ (o : RFmt) (s : State), s.active o.g = true → exec (p.1 o) s = .next (floatLong s o.d false (onElems s p.2.1 p.2.2 o))) ∧
  (∀ p ∈ [(Instr.fadd64, opAdd), (.fsub64, opSub), (.fmul64, opMul), (.fma64, opFma), (.fmin64, opMin), (.fmax64, opMax),
      (.fdiv64, opDiv), (.fsqrt64, opSqrt)],
    ∀ (o : RFmt) (s : State), s.active o.g = true → exec (p.1 o) s = .next (floatLong s o.d true (onElems s kind64 p.2 o)))

/-- The specials and zero sums of R207, for FP32 and FP64, in every rounding mode: NaN operands, invalid operations,
division by zero, and exact zero sums, differences and multiply-adds. -/
def Obligations.FloatSpecialCases : Prop :=
  ∀ f ∈ [fmt32, fmt64], ∀ (r : Rnd) (ftz : Bool),
    (∀ (sg : Bool) (y z : FVal),
      (f.add r ftz (.nan sg) y).bits = f.nanBits ∧ (f.add r ftz y (.nan sg)).bits = f.nanBits ∧
      (f.mul r ftz (.nan sg) y).bits = f.nanBits ∧ (f.mul r ftz y (.nan sg)).bits = f.nanBits ∧
      (f.fma r ftz (.nan sg) y z).bits = f.nanBits ∧ (f.fma r ftz y (.nan sg) z).bits = f.nanBits ∧
      (f.fma r ftz y z (.nan sg)).bits = f.nanBits ∧ (f.div r ftz (.nan sg) y).bits = f.nanBits ∧
      (f.div r ftz y (.nan sg)).bits = f.nanBits ∧ (f.sqrt r ftz (.nan sg)).bits = f.nanBits) ∧
    (∀ (p q : Bool) (e g : Int) (sg : Bool),
      f.mul r ftz (.fin p 0 e) (.inf q) = ⟨f.nanBits, 0x10⟩ ∧ f.mul r ftz (.inf p) (.fin q 0 g) = ⟨f.nanBits, 0x10⟩ ∧
      f.fma r ftz (.fin p 0 e) (.inf q) (.nan false) = ⟨f.nanBits, 0x10⟩ ∧ f.add r ftz (.inf p) (.inf (!p)) = ⟨f.nanBits, 0x10⟩ ∧
      f.fma r ftz (.inf p) (.inf q) (.inf (p == q)) = ⟨f.nanBits, 0x10⟩ ∧
      f.div r ftz (.fin p 0 e) (.fin q 0 g) = ⟨f.nanBits, 0x10⟩ ∧ f.div r ftz (.inf p) (.inf q) = ⟨f.nanBits, 0x10⟩ ∧
      f.sqrt r ftz (.inf true) = ⟨f.nanBits, 0x10⟩ ∧ f.sqrt r ftz (.fin sg 0 e) = ⟨f.signBit sg, 0⟩ ∧
      f.add r ftz (.fin p 0 e) (.fin (!p) 0 g) = ⟨f.signBit (decide (r = .rd)), 0⟩) ∧
    (∀ (p q : Bool) (m : Nat) (e g : Int), 0 < m →
      f.div r ftz (.fin p m e) (.fin q 0 g) = ⟨f.infBits (p != q), 0x08⟩ ∧ f.sqrt r ftz (.fin true m e) = ⟨f.nanBits, 0x10⟩ ∧
      f.add r ftz (.fin p m e) (.fin (!p) m e) = ⟨f.signBit (decide (r = .rd)), 0⟩) ∧
    (∀ (daz : Bool) (a b d : Nat) (p q k : Bool) (m n l : Nat) (e g h : Int), f.readDaz daz a = .fin p m e → f.readDaz daz b = .fin q n g →
      (ratOf p m e + ratOf q n g = 0 → opAdd ⟨r, daz, ftz⟩ f a b d = ⟨f.signBit (if p = q then p else decide (r = .rd)), 0⟩) ∧
      (ratOf p m e - ratOf q n g = 0 → opSub ⟨r, daz, ftz⟩ f a b d = ⟨f.signBit (if p = q then decide (r = .rd) else p), 0⟩) ∧
      (f.readDaz daz d = .fin k l h → ratOf p m e * ratOf q n g + ratOf k l h = 0 →
        opFma ⟨r, daz, ftz⟩ f a b d = ⟨f.signBit (if (p != q) = k then k else decide (r = .rd)), 0⟩)) ∧
    (∀ (daz : Bool) (a b d : Nat) (x : FVal) (sg q : Bool),
      (f.readDaz daz b = .nan sg ∨ f.readDaz daz a = .nan sg → (opSub ⟨r, daz, ftz⟩ f a b d).bits = f.nanBits) ∧
      (f.readDaz daz a = .inf q → f.readDaz daz b = .inf q → opSub ⟨r, daz, ftz⟩ f a b d = ⟨f.nanBits, 0x10⟩) ∧
      (f.readDaz daz a = .inf q → f.readDaz daz b = x → (x = .inf (!q) ∨ ∃ p m e, x = .fin p m e) →
        opSub ⟨r, daz, ftz⟩ f a b d = ⟨f.infBits q, 0⟩))

namespace Sys2Proof.Spec

open Sys2Proof.Machine

/-- A whole number of units that a mode may deliver for an exact number of units (R61). -/
def Delivers (r : Rnd) (y : ℝ) (n : ℤ) : Prop :=
  match r with
  | .rne => |y - n| ≤ 1 / 2 ∧ (|y - n| = 1 / 2 → n % 2 = 0)
  | .rna => |y - n| ≤ 1 / 2 ∧ (|y - n| = 1 / 2 → |y| < |(n : ℝ)|)
  | .rd => (n : ℝ) ≤ y ∧ y < n + 1
  | .ru => y ≤ (n : ℝ) ∧ (n : ℝ) - 1 < y
  | .rz => |(n : ℝ)| ≤ |y| ∧ |y| < |(n : ℝ)| + 1 ∧ 0 ≤ y * n
  | .stoch _ => True

/-- The value of finite bits, with its sign. -/
def Denotes (f : Fmt) (bits : Nat) (neg : Bool) (v : ℝ) : Prop :=
  bits < 2 ^ (1 + f.eb + f.mb) ∧ ∃ m e, f.read bits = .fin neg m e ∧ ((ratOf neg m e : ℚ) : ℝ) = v

/-- round_to of an exact value that is not zero, with its flags (R59 to R62): rounded to the units of the format at its
magnitude, those of its subnormals at least; an infinity or the largest finite value beyond the range; a zero for a subnormal
with FTZ. -/
def RoundsTo (f : Fmt) (r : Rnd) (ftz : Bool) (x : ℝ) (out : FR) : Prop :=
  ∃ (n k : ℤ) (neg : Bool), (neg = true ↔ x < 0) ∧
    let w := Int.log 2 |x| - (f.mb : ℤ)
    let q := max f.qmin w
    let v := (n : ℝ) * 2 ^ q
    let most := ((2 : ℝ) ^ (f.mb + 1) - 1) * 2 ^ ((f.bias : ℤ) - f.mb)
    let least := (2 : ℝ) ^ (1 - (f.bias : ℤ))
    Delivers r (x / 2 ^ q) n ∧ Delivers r (x / 2 ^ w) k ∧
    (most < |v| → out.fl = 5 ∧
      (if r = .rz ∨ (r = .rd ∧ neg = false) ∨ (r = .ru ∧ neg = true) then Denotes f out.bits neg (if neg then -most else most)
       else out.bits = f.infBits neg)) ∧
    (|v| ≤ most → ftz = true → v ≠ 0 → |v| < least → out = ⟨f.signBit neg, 3⟩) ∧
    (|v| ≤ most → (ftz = false ∨ v = 0 ∨ least ≤ |v|) →
      Denotes f out.bits neg v ∧ (v = x → out.fl = 0) ∧
      (v ≠ x → out.fl = if |(k : ℝ) * 2 ^ w| < least then 3 else 1))

end Sys2Proof.Spec

/-- R206 and R207, for FP64, FP32, FP16 and BF16 in every mode of FPC.RM: of finite operands, whose subnormals DAZ reads as zeros,
the sum, difference, product, quotient, root and multiply-add deliver the rounding of the exact result where that is not zero, and
a zero product or quotient has the sign of its operands. -/
def Obligations.FloatResultsRound : Prop :=
  ∀ f ∈ [fmt64, fmt32, fmt16, fmtB16], ∀ r ∈ [Rnd.rne, .rz, .rd, .ru, .rna],
    ∀ (daz ftz : Bool) (a b d : Nat) (p q k : Bool) (m n l : Nat) (e g h : Int),
      f.readDaz daz a = .fin p m e → f.readDaz daz b = .fin q n g → f.readDaz daz d = .fin k l h →
      let c : FpCtl := ⟨r, daz, ftz⟩
      let x : ℝ := ((ratOf p m e : ℚ) : ℝ)
      let y : ℝ := ((ratOf q n g : ℚ) : ℝ)
      let z : ℝ := ((ratOf k l h : ℚ) : ℝ)
      (x + y ≠ 0 → RoundsTo f r ftz (x + y) (opAdd c f a b d)) ∧
      (x - y ≠ 0 → RoundsTo f r ftz (x - y) (opSub c f a b d)) ∧
      (x * y ≠ 0 → RoundsTo f r ftz (x * y) (opMul c f a b d)) ∧
      (x * y = 0 → opMul c f a b d = ⟨f.signBit (p != q), 0⟩) ∧
      (x * y + z ≠ 0 → RoundsTo f r ftz (x * y + z) (opFma c f a b d)) ∧
      (y ≠ 0 → (x ≠ 0 → RoundsTo f r ftz (x / y) (opDiv c f a b d)) ∧ (x = 0 → opDiv c f a b d = ⟨f.signBit (p != q), 0⟩)) ∧
      (0 < x → RoundsTo f r ftz (Real.sqrt x) (opSqrt c f a b d))

/-- R204: the predicate of FCMP and IV, by the exact order of the two values. -/
def Obligations.FloatCompareResults : Prop :=
  (∀ (f : BitVec 5) (o : PFmt), majorOf (encode (.fcmp32 f o)) = 0x19 ∧ majorOf (encode (.fcmp64 f o)) = 0x1A ∧
    (∀ i ∈ [Instr.fcmp32 f o, .fcmp64 f o], fnP (encode i) = f ∧ parseP (encode i) = o)) ∧
  ∀ (f : BitVec 5) (o : PFmt) (s : State), f.toNat % 16 < 14 → s.active o.g = true →
    let x := fmt32.readDaz (s.daz .f32) (s.src o.a).toNat
    let y := fmt32.readDaz (s.daz .f32) (s.src o.b).toNat
    let u := fmt64.readDaz (s.daz .f64) (s.srcPair o.a).toNat
    let v := fmt64.readDaz (s.daz .f64) (s.srcPair o.b).toNat
    exec (.fcmp32 f o) s = .next (withThread s { s.th with
      preds := pred1 s.th.preds o.pd (fcmpOutcome (f.toNat % 16) x y).1, fps := s.th.fps ||| (fcmpOutcome (f.toNat % 16) x y).2 }) ∧
    exec (.fcmp64 f o) s = .next (withThread s { s.th with
      preds := pred1 s.th.preds o.pd (fcmpOutcome (f.toNat % 16) u v).1, fps := s.th.fps ||| (fcmpOutcome (f.toNat % 16) u v).2 })

/-- R210 and R211: a function-lane word writes one long result with its flags, FRRED a pair; and the table of R211. -/
def Obligations.FunctionLaneResults : Prop :=
  (∀ (o : RFmt) (s : State), s.active o.g = true →
    let a := (s.src o.a).toNat
    let b := (s.src o.b).toNat
    let daz := s.daz .f32
    let ftz := s.ftz .f32
    let t := s.tm.ftab
    exec (.frcp o) s = .next (floatLong s o.d false (frcpF daz ftz a)) ∧ exec (.frsq o) s = .next (floatLong s o.d false (frsqF daz ftz a)) ∧
    exec (.frred o) s = .next (withPending s [.reg o.d.toNat (BitVec.ofNat 32 (frredF daz ftz a).1.bits),
      .reg (o.d.toNat + 1) (BitVec.ofNat 32 (frredF daz ftz a).2), .flags (BitVec.ofNat 32 (frredF daz ftz a).1.fl) 2]) ∧
    exec (.fsinr o) s = .next (floatLong s o.d false (fsinrF t daz ftz a b)) ∧
    exec (.fcosr o) s = .next (floatLong s o.d false (fcosrF t daz ftz a b)) ∧
    exec (.fexp2 o) s = .next (floatLong s o.d false (fexp2F (ftabRec t 2) daz ftz a)) ∧
    exec (.flog2 o) s = .next (floatLong s o.d false (flog2F (ftabRec t 3) daz ftz a)) ∧
    exec (.feval o) s = .next (floatLong s o.d false (fevalF (ftabRec t o.b.toNat) daz ftz a))) ∧
  ∀ daz ftz : Bool,
    frcpF daz ftz 0 = ⟨0x7F800000, 8⟩ ∧ frcpF daz ftz 0x80000000 = ⟨0xFF800000, 8⟩ ∧ frsqF daz ftz 0 = ⟨0x7F800000, 8⟩ ∧
    frsqF daz ftz 0x80000000 = ⟨0xFF800000, 8⟩ ∧ frcpF daz ftz 0x7F800000 = ⟨0, 0⟩ ∧ frcpF daz ftz 0xFF800000 = ⟨0x80000000, 0⟩ ∧
    frsqF daz ftz 0x7F800000 = ⟨0, 0⟩ ∧ frsqF daz ftz 0xFF800000 = ⟨0x7FC00000, 0x10⟩ ∧ frsqF daz ftz 0xBF800000 = ⟨0x7FC00000, 0x10⟩ ∧
    frcpF daz ftz 0x7FC00001 = ⟨0x7FC00000, 0⟩ ∧ frcpF daz ftz 0x7F800001 = ⟨0x7FC00000, 0x10⟩ ∧
    frsqF daz ftz 0x7FC00001 = ⟨0x7FC00000, 0⟩ ∧ frsqF daz ftz 0x7F800001 = ⟨0x7FC00000, 0x10⟩

/-- R66, R212 and R217: every well-formed CVT leaves a long result with its flags in the registers of its code, of what its
control selects, and draws exactly once where the control is 6; a conversion to integers delivers the nearest end of the
range, 0 for a NaN, or the rounded value. -/
def Obligations.ConversionResults : Prop :=
  (∀ (f : BitVec 3) (o : RFmt), (Instr.cvt f o).wellFormed = true → (cvtShape o.b.toNat).isSome = true) ∧
  (∀ (f : BitVec 3) (o : RFmt) (s : State) (kd ka : Nat), cvtShape o.b.toNat = some (kd, ka) → s.active o.g = true →
    let how := [(s.rm, s.sat), (.rne, s.sat), (.rz, s.sat), (.rd, s.sat), (.ru, s.sat), (.rna, s.sat), (.stoch s.draw, s.sat), (.rne, true)].getD
      f.toNat (.rne, true)
    let r := cvtF o.b.toNat how.1 how.2 ⟨s.daz, s.ftz⟩ (s.srcs o.a (2 ^ ka))
    exec (.cvt f o) s = .next (withThread s { s.th with
      pending := s.th.pending ++ (pendRegs o.d.toNat r.bits (2 ^ kd) ++ [.flags (BitVec.ofNat 32 r.fl) (2 ^ kd)])
      rngc := if f = 6#3 then BitVec.ofNat 32 ((s.th.rngc.toNat + 1) % 2 ^ 24) else s.th.rngc })) ∧
  ∀ (r : Rnd) (lo hi : Int), lo ≤ hi →
    (∀ sg, toIntF r lo hi (.nan sg) = (0, 0x10)) ∧ (∀ n, toIntF r lo hi (.inf n) = (if n then lo else hi, 0x10)) ∧
    ∀ (n : Bool) (m : Nat) (e : Int),
      let v := signedN n (roundAt r n m e 0 false).1
      (toIntF r lo hi (.fin n m e)).1 = max lo (min hi v) ∧
      (toIntF r lo hi (.fin n m e)).2 = if v < lo ∨ hi < v then 0x10 else if (roundAt r n m e 0 false).2 then 1 else 0

/-! ### Cross-lane words -/

namespace Sys2Proof.Spec

open Sys2Proof.Machine

/-- A convergent word is performed here and now: this thread has no result waiting, and every member of its cohort, or
of its team, stands at the word (R27, R28). -/
def Meets (s : State) (team : Bool) : Prop := s.th.conv = none ∧ s.allStand (s.convMembers team) = true

/-- The active lanes: members whose guard is true (R223). -/
def activeLanes (s : State) (team g : Bool) : List Thread := (s.convMembers team).filter fun t => t.guarded g

/-- Every member receives its results; an inactive one receives nothing (R223). The issuing thread's are outstanding at
once, the others' when they issue the word again. -/
def convergedState (s : State) (team g : Bool) (res : Thread → List Pending) : State :=
  { s with
    th := { s.th with pending := s.th.pending ++ if s.grp.view.guarded g then res s.grp.view else [] }
    tm := { s.tm with
      threads := s.tm.threads.map fun t =>
        if t.tid != s.th.tid && (s.convMembers team).any (fun m => m.tid == t.tid) then
          { t with conv := some (if t.guarded g then res t else []) }
        else t } }

/-- The value A of a lane, or the thread's own where the lane is empty, inactive or beyond the grant (R224). -/
def laneValue (s : State) (o : RFmt) (t : Thread) (lane : Nat) : Nat × Bool :=
  match if lane < s.tm.grant then (activeLanes s false o.g).find? fun u => u.tid % s.tm.grant == lane else none with
  | some u => (u.regsNat o.a.toNat (laneRegs o), true)
  | none => (t.regsNat o.a.toNat (laneRegs o), false)

/-- The combining tree of R226, on positions 0 to 2^k − 1. -/
def treeOfR226 {α : Type} (comb : α → α → α) : Nat → Nat → (Nat → α) → (Nat → α)
  | 0, _, x => x
  | k + 1, st, x => treeOfR226 comb k (st + 1) fun i => if i % 2 ^ (st + 1) = 0 then comb (x i) (x (i + 2 ^ st)) else x i

/-- The stages of LSCAN in R226. -/
def scanOfR226 {α : Type} (comb : α → α → α) : Nat → Nat → (Nat → α) → (Nat → α)
  | 0, _, x => x
  | k + 1, st, x => scanOfR226 comb k (st + 1) fun i => if 2 ^ st ≤ i then comb (x (i - 2 ^ st)) (x i) else x i

/-- The positions of a reduction: A of the active thread with an index, or none. -/
def positionOf (s : State) (team : Bool) (o : RFmt) (idx : Thread → Nat) (i : Nat) : Option Nat :=
  ((activeLanes s team o.g).find? fun t => idx t == i).map fun t => t.regsNat o.a.toNat (laneRegs o)

end Sys2Proof.Spec

/-- R223, R224 and R225: once every thread of the cohort stands at the word, each active lane receives, as a long
result, what the form delivers to it, read as it stood before the group; an inactive lane receives nothing. -/
def Obligations.LaneMovesAndVotes : Prop :=
  ∀ (o : RFmt) (s : State), Meets s false →
    let k := laneRegs o
    let w := s.tm.grant
    let votes := (activeLanes s false o.g).map fun t => t.pred o.a.toNat
    let top := fun (t : Thread) => (t.tid % w % 2 = 0 ∧ o.b.getLsbD 0) ∨ (t.tid % w % 2 = 1 ∧ o.b.getLsbD 1)
    exec (.shfl o) s = .next (convergedState s false o.g fun t =>
      pendRegs o.d.toNat (laneValue s o t ((t.reg o.b.toNat).toNat % 64)).1 k) ∧
    exec (.shflx o) s = .next (convergedState s false o.g fun t => pendRegs o.d.toNat (laneValue s o t (t.tid % w ^^^ o.b.toNat)).1 k) ∧
    exec (.lbcst o) s = .next (convergedState s false o.g fun t => pendRegs o.d.toNat (laneValue s o t o.b.toNat).1 k) ∧
    exec (.lswap o) s = .next (convergedState s false o.g fun t =>
      let v := laneValue s o t (t.tid % w ^^^ 1)
      pendRegs o.d.toNat (if v.2 = true ∧ top t then v.1 ^^^ 2 ^ (32 * k - 1) else v.1) k) ∧
    (o.b = 0#6 → exec (.vote o) s = .next (convergedState s false o.g fun _ => [.pred o.d.toNat (votes.contains true)])) ∧
    (o.b = 1#6 → exec (.vote o) s = .next (convergedState s false o.g fun _ => [.pred o.d.toNat (!votes.contains false)])) ∧
    (o.b = 2#6 → exec (.vote o) s = .next (convergedState s false o.g fun _ => pendRegs o.d.toNat
      (((activeLanes s false o.g).filter fun t => t.pred o.a.toNat).foldl (fun n t => n + 2 ^ (t.tid % w)) 0) 2)) ∧
    (o.b = 3#6 → exec (.vote o) s = .next (convergedState s false o.g fun _ =>
      [.pred o.d.toNat (!votes.contains false || !votes.contains true)]))

namespace Sys2Proof.Spec

open Sys2Proof.Machine

/-- The operations of R226 on values of N bits, by B. -/
def combTable (wide : Bool) (a b : Nat) : List Nat :=
  let x : DWord := if wide then BitVec.ofNat 64 a else (BitVec.ofNat 32 a).signExtend 64
  let y : DWord := if wide then BitVec.ofNat 64 b else (BitVec.ofNat 32 b).signExtend 64
  let f := if wide then fmt64 else fmt32
  [(a + b) % 2 ^ (if wide then 64 else 32), if y.slt x then b else a, if x.slt y then b else a, min a b, max a b, a &&& b, a ||| b, a ^^^ b,
   (f.add .rne false (f.read a) (f.read b)).bits, (f.minmax false false false a b).bits, (f.minmax true false false a b).bits]

end Sys2Proof.Spec

/-- R226 and R227: the operation that each B names; LRED and TRED deliver position 0 of the combining tree over the lanes of the cohort and the 1,024
indices of the team; LSCAN delivers each lane its own position of the scan; none delivers where no lane is active. -/
def Obligations.ReductionResults : Prop :=
  (∀ (op : Nat) (wide : Bool) (a b v : Nat), a < 2 ^ (if wide then 64 else 32) → b < 2 ^ (if wide then 64 else 32) →
    ((combTable wide a b)[op]? = some v → combOpt op wide (some a) (some b) = some v) ∧
    combOpt op wide (some a) none = some a ∧ combOpt op wide none (some b) = some b ∧ combOpt op wide none none = none) ∧
  ∀ (o : RFmt) (s : State),
    let k := laneRegs o
    let comb := combOpt o.b.toNat (k == 2)
    let lanes := positionOf s false o fun t => t.tid % s.tm.grant
    (Meets s false → s.tm.grant ∈ [8, 16, 32, 64] →
      exec (.lred o) s = .next (convergedState s false o.g fun _ =>
        pendRegs o.d.toNat ((treeOfR226 comb (Nat.log2 s.tm.grant) 0 lanes 0).getD 0) k) ∧
      exec (.lscan o) s = .next (convergedState s false o.g fun t =>
        pendRegs o.d.toNat ((scanOfR226 comb (Nat.log2 s.tm.grant) 0 lanes (t.tid % s.tm.grant)).getD 0) k)) ∧
    (Meets s true → s.th.migrated = false →
      exec (.tred o) s = .next (convergedState s true o.g fun _ =>
        pendRegs o.d.toNat ((treeOfR226 comb 10 0 (positionOf s true o (·.tid)) 0).getD 0) k))

/-- R27 and R28: a thread that comes to a convergent word before the others blocks at it; one whose result has been
fixed takes it and goes on. TRED in a migrated thread is a fault (R41). -/
def Obligations.ConvergentWordsWait : Prop :=
  ∀ (o : RFmt) (s : State), ∀ i ∈ [Instr.shfl o, .shflx o, .lswap o, .vote o, .lred o, .lscan o, .lbcst o],
    (s.th.conv = none → s.allStand (s.convMembers false) = false →
      exec i s = .next { s with
        th := { s.th with status := .blocked .convergent, issued := s.grp.words }, grp := { s.grp with stop := some .block } }) ∧
    (∀ ps, s.th.conv = some ps → exec i s = .next (withThread s { s.th with conv := none, pending := s.th.pending ++ ps })) ∧
    (s.active o.g = true → s.th.migrated = true → exec (.tred o) s = .next (s.raise cMigrated 0))

/-! ### Memory words -/

namespace Sys2Proof.Spec

open Sys2Proof.Machine

/-- The effective address of an M-format word (R247). -/
def eaOf (s : State) (o : MFmt) : Nat := ((((s.srcPair o.a).toNat : Int) + o.imm.toInt * (memSize o.w : Int)) % 2 ^ 64).toNat

/-- A value in k registers from d on, outstanding, the low register first (R44, R177). -/
def longN (d : BitVec 6) (k v : Nat) : List Pending := (List.range k).map fun i => .reg (d.toNat + i) (BitVec.ofNat 32 (v / 2 ^ (32 * i)))

/-- Where an address lies under a leaf. -/
def homeOf (e : TlbEnt) (va : Nat) : Nat := leafHa e.leaf.toNat (2 ^ Nat.log2 e.size) va

/-- The bay's L1 TLB holds a leaf for the address, not locked, that permits the access. -/
structure Mapped (s : State) (va : Nat) (k : AccKind) (e : TlbEnt) : Prop where
  hit : tlbFind s.ms s.th.bay (s.ctxOf s.tm.ref.ctx).asid va = some e
  unlocked : leafLock e.leaf.toNat = false
  allowed : leafDenied e.leaf.toNat k s.accessor = false

/-- An access of n bytes passes every check of R252, on a page of the module's own memory or of the host; it reads no lost sector,
and a request of it to another die, if it makes one, is answered at once. -/
structure Reaches (s : State) (va n : Nat) (k : AccKind) (e : TlbEnt) : Prop extends Mapped s va k e where
  range : va < 2 ^ 56
  aligned : va % n = 0
  sound : ∀ al, failedIn s.ms s.th.bay al (homeOf e va) n (k == .store) = none
  near : isPod (homeOf e va) = false
  answered : s.linkFree = true ∧ s.th.lost = []

/-- The retention of an access: the word's and the page's (R127, R419). -/
def retention (al : Nat) (e : TlbEnt) : Nat := max al (leafAlloc e.leaf.toNat)

/-- The memory system once a release of a scope has been performed. -/
def released (s : State) (ms : MemSys) (sc : Nat) : MemSys := releaseCaches ms s.th.bay sc

/-- At system scope the release finds nothing that a peer has still to write or to acknowledge (R157). -/
def Acknowledged (s : State) (ms : MemSys) (sc : Nat) : Prop :=
  sc = 3 → (released s ms sc).unacked = [] ∧ ∀ p ∈ (released s ms sc).pod, p.dirty = false

/-- The state once an acquire of a scope has been performed on a memory system (R139); beyond team scope the team has acquired what
other teams did (R136). -/
def acquiring (s : State) (ms : MemSys) (sc : Nat) : State :=
  { s with ms := acquireCaches ms s.th.bay sc, tm := { s.tm with acquired := if sc == 0 then s.tm.acquired else s.turns } }

/-- What an ordered access leaves in the caches of the bay: its sectors, as an access of policy 00 does (R249). -/
def allocated (s : State) (e : TlbEnt) (ha n : Nat) (ms : MemSys) : MemSys :=
  if 3 ≤ leafAlloc e.leaf.toNat then ms else (readMem ms s.th.bay (leafAlloc e.leaf.toNat) ha n).2

/-- Team- and cluster-scope releases, and stores behind a fence of such a scope, are recorded at the home slice (R146). -/
def recorded (s : State) (e : TlbEnt) (ha : Nat) (rel : Bool) : MemSys :=
  if rel = true ∨ s.th.relFence ≠ 0 then promRecord s.ms (homeSlice (leafHome e.leaf.toNat) ha) (ha / 64) (clusterOf s.th.bay) else s.ms

/-- A returning atomic at a scope, before its acquire: release, read, write where the function stores (R142, R255). -/
def atomicAt (s : State) (e : TlbEnt) (ha n sc : Nat) (f : Nat → Option Nat) : Nat × MemSys :=
  let al := retention (scopeAlloc sc) e
  let r := readMem (released s (recorded s e ha (decide (sc < 2))) sc) s.th.bay al ha n
  let old := ofBytes r.1
  (old, match f old with | some v => writeMem r.2 s.th.bay al ha (toBytes n v) | none => r.2)

/-- A reduction at a scope: one read and write at its point, without ordering (R145, R259). -/
def reducedAt (s : State) (e : TlbEnt) (ha n sc : Nat) (f : Nat → Nat) : MemSys :=
  let al := retention (scopeAlloc sc) e
  let r := readMem (recorded s e ha false) s.th.bay al ha n
  writeMem r.2 s.th.bay al ha (toBytes n (f (ofBytes r.1)))

/-- The integer functions of R256. -/
def atomTable (old b : Word) : List Word :=
  [old + b, old &&& b, old ||| b, old ^^^ b, if old.slt b then old else b, if old.slt b then b else old,
   if old.ult b then old else b, if old.ult b then b else old]

/-- Round-to-nearest-even addition with subnormals kept (R258). -/
def atomAdd (f : Fmt) (a b : Nat) : Nat := (f.add .rne false (f.read a) (f.read b)).bits

/-- The functions of R257: bytes, and the value stored if any. -/
def atomxTable (old b d : Nat) : List (Nat × Option Nat) :=
  [(4, some b), (4, if old = d then some b else none), (8, some b), (8, if old = d then some b else none),
   (4, some (atomAdd fmt32 old b)), (8, some (atomAdd fmt64 old b)), (4, some (fmt32.minmax false false false old b).bits),
   (4, some (fmt32.minmax true false false old b).bits)]

/-- The functions of R259. -/
def redxTable (old b : Nat) : List (Nat × Nat) :=
  [(4, atomAdd fmt32 old b), (8, atomAdd fmt64 old b),
   (4, atomAdd fmtB16 (old % 65536) (b % 65536) + 65536 * atomAdd fmtB16 (old / 65536 % 65536) (b / 65536 % 65536)),
   (4, (fmt32.minmax false false false old b).bits), (4, (fmt32.minmax true false false old b).bits)]

/-- A number with one bit replaced. -/
def withBit (n j : Nat) (b : Bool) : Nat := n - (if n / 2 ^ j % 2 = 1 then 2 ^ j else 0) + (if b then 2 ^ j else 0)

/-- A typed-store access passes the checks of R252 and meets no failed sector. -/
structure Held (s : State) (sp o n : Nat) : Prop where
  home : s.th.migrated = false
  aligned : o % n = 0
  inside : o + n ≤ s.tm.storeSize sp
  sound : ∀ q, 16 * q < o + n → o < 16 * q + 16 → (sp, q) ∉ s.tm.badStore

/-- The team after bytes are written to one of its typed stores. -/
def storedTeam (t : Team) (sp o : Nat) (bs : List Byte) : Team :=
  { t.setStore sp ((t.store sp).write o bs) with
    badStore := if 16 ≤ bs.length then t.badStore.filter fun b => !(b.1 == sp && o ≤ 16 * b.2 && 16 * b.2 + 16 ≤ o + bs.length) else t.badStore }

/-- At most one L1 of a cluster holds a sector dirty (R122). -/
def OneDirty (ms : MemSys) (c q : Nat) : Prop :=
  ∀ x ∈ ms.caches, ∀ y ∈ ms.caches, x.sec = q → y.sec = q → x.dirty = true → y.dirty = true → x.own < 768 → y.own < 768 →
    x.own / 8 = c → y.own / 8 = c → x.own = y.own

end Sys2Proof.Spec

/-- R109, R122, R124 and R133, for one bay and accesses within a sector, where the caches that a store fills have room: a load at any
retention returns the bytes of the bay's last store to them, whatever retention that store had; bytes of other sectors load as
before, of the line stored to as of other lines, but for a copy of another sector of the line that the bay's L1 holds behind its
cluster and that a store of L1 bypass drops; and the one L1 that holds the stored sector dirty is the bay's. -/
def Obligations.LoadsSeeOwnStores : Prop :=
  ∀ (ms : MemSys) (bay al al' ha : Nat) (bs : List Byte), bay < 768 → al ≤ 3 → al' ≤ 3 → 0 < bs.length →
    ha % 16 + bs.length ≤ 16 → ha < podBase →
    let t := writeMem ms bay al ha bs
    (readMem t bay al' ha bs.length).1 = bs ∧
    ((∀ own ∈ [bay, clOwn (clusterOf bay)], (ms.caches.filter fun c => c.own == own).length < cacheRoom own) →
      (∀ a n, 0 < n → a % 16 + n ≤ 16 → a < podBase →
        (a / 64 ≠ ha / 64 → (readMem t bay al' a n).1 = (readMem ms bay al' a n).1) ∧
        (a / 64 = ha / 64 → a / 16 ≠ ha / 16 → OneDirty ms (clusterOf bay) (a / 16) →
          (al = 2 → al' < 2 → (readMem ms bay 2 a n).1 = (readMem ms bay al' a n).1) →
          (readMem t bay al' a n).1 = (readMem ms bay al' a n).1)) ∧
      ∀ x ∈ t.caches, x.sec = ha / 16 → x.dirty = true → x.own < 768 → x.own / 8 = clusterOf bay → al < 2 ∧ x.own = bay)

/-- R247 to R250, R254 and R265: plain and ordered loads, LDRA and PLDB in an ordinary launch read at their retention and
scope and leave a long result; an ordered load leaves its sectors in the caches as a plain one of policy 00; nothing else changes. -/
def Obligations.GlobalLoadResults : Prop :=
  (∀ (o : MFmt) (s : State) (e : TlbEnt), s.active o.g = true → s.det = false → Reaches s (eaOf s o) (memSize o.w) .load e →
    let n := memSize o.w
    let ha := homeOf e (eaOf s o)
    let sc := s.effScope (o.o.toNat % 4)
    let plain := readMem s.ms s.th.bay (retention (o.o.toNat % 4) e) ha n
    let acq := readMem s.ms s.th.bay (retention (if 2 ≤ sc then 3 else 0) e) ha n
    let home := readMem (promote s.ms (homeSlice (leafHome e.leaf.toNat) ha) (ha / 64)) s.th.bay (retention 3 e) ha n
    (o.o.getLsbD 2 = false → exec (.ld o) s = .next { withPending s (longN o.d (n / 4) (ofBytes plain.1)) with ms := plain.2 }) ∧
    (o.o.getLsbD 2 = true →
      exec (.ld o) s = .next { withPending (acquiring s acq.2 sc) (longN o.d (n / 4) (ofBytes acq.1)) with
        ms := allocated s e ha n (acquireCaches acq.2 s.th.bay sc) }) ∧
    exec (.ldra o) s = .next (withPending (acquiring s home.2 2) (longN o.d (n / 4) (ofBytes home.1)))) ∧
  ∀ (o : RFmt) (s : State) (e : TlbEnt), s.active o.g = true → s.det = false →
    let n := 2 ^ o.w.toNat
    let va := (s.srcPair o.a).toNat
    let r := readMem s.ms s.th.bay (retention 0 e) (homeOf e va) n
    Reaches s va n .load e →
    exec (.pldb o) s = .next { withPending s [.pred o.d.toNat (decide (ofBytes r.1 / 2 ^ ((s.src o.b).toNat % (8 * n)) % 2 = 1))] with ms := r.2 }

/-- R249, R250, R146 and R265: plain and ordered stores and PSTB in an ordinary launch; an ordered store leaves its sectors in the
caches as a plain one of policy 00. -/
def Obligations.GlobalStoreResults : Prop :=
  (∀ (o : MFmt) (s : State) (e : TlbEnt), s.active o.g = true → s.det = false → s.th.sent = none →
    Reaches s (eaOf s o) (memSize o.w) .store e →
    let n := memSize o.w
    let ha := homeOf e (eaOf s o)
    let sc := s.effScope (o.o.toNat % 4)
    let bs := toBytes n (s.srcs o.d (n / 4))
    (o.o.getLsbD 2 = false →
      exec (.st o) s = .next { s with ms := writeMem (recorded s e ha false) s.th.bay (retention (o.o.toNat % 4) e) ha bs }) ∧
    (o.o.getLsbD 2 = true → Acknowledged s (recorded s e ha (decide (sc < 2))) sc →
      exec (.st o) s = .next { s with
        ms := allocated s e ha n (writeMem (released s (recorded s e ha (decide (sc < 2))) sc) s.th.bay (retention (scopeAlloc sc) e) ha bs) })) ∧
  ∀ (o : RFmt) (s : State) (e : TlbEnt), s.active o.g = true → s.det = false →
    let n := 2 ^ o.w.toNat
    let va := (s.srcPair o.a).toNat
    let al := retention (if s.th.migrated then 3 else 0) e
    let r := readMem (recorded s e (homeOf e va) false) s.th.bay al (homeOf e va) n
    Reaches s va n .atomic e →
    exec (.pstb o) s = .next { s with
      ms := writeMem r.2 s.th.bay al (homeOf e va) (toBytes n (withBit (ofBytes r.1) ((s.src o.b).toNat % (8 * n)) (s.srcPred o.d))) }

/-- R148 and R255 to R259: the returning atomics deliver the old value as a long result and store the new one, the reductions return
nothing, in an ordinary launch at every scope. That the atomics of team or cluster scope are recorded in the promotion filter as
releases is the model's choice (log entry 32): R146 names stores alone. -/
def Obligations.AtomicResults : Prop :=
  ∀ (f : BitVec 3) (o : RFmt) (s : State) (e : TlbEnt), s.active o.g = true → s.det = false → s.th.sent = none →
    let va := (s.srcPair o.a).toNat
    let ha := homeOf e va
    let sc := s.effScope o.w.toNat
    let b := fun (n : Nat) => s.srcs o.b (n / 4)
    let d := fun (n : Nat) => s.srcs o.d (n / 4)
    let nx := ((atomxTable 0 0 0).getD f.toNat (4, none)).1
    let nr := ((redxTable 0 0).getD f.toNat (4, 0)).1
    let atom := atomicAt s e ha 4 sc fun old => some ((atomTable (BitVec.ofNat 32 old) (s.src o.b)).getD f.toNat 0).toNat
    let atomx := atomicAt s e ha nx sc fun old => ((atomxTable old (b nx) (d nx)).getD f.toNat (4, none)).2
    (Acknowledged s (recorded s e ha (decide (sc < 2))) sc →
      (Reaches s va 4 .atomic e → exec (.atom f o) s = .next (withPending (acquiring s atom.2 sc) (longN o.d 1 atom.1))) ∧
      (Reaches s va nx .atomic e → exec (.atomx f o) s = .next (withPending (acquiring s atomx.2 sc) (longN o.d (nx / 4) atomx.1)))) ∧
    (Reaches s va 4 .atomic e → exec (.red f o) s = .next { s with
      ms := reducedAt s e ha 4 sc fun old => ((atomTable (BitVec.ofNat 32 old) (s.src o.b)).getD f.toNat 0).toNat }) ∧
    (f.toNat < 5 → Reaches s va nr .atomic e →
      exec (.redx f o) s = .next { s with ms := reducedAt s e ha nr sc fun old => ((redxTable old (b nr)).getD f.toNat (4, 0)).2 })

/-- R247, R248 and R251: the typed-store words, with their ordering at the scope they name; a release to the notify word
of a ring appends cards (R282). -/
def Obligations.TypedStoreResults : Prop :=
  (∀ p ∈ [(Instr.ldl, 0), (.lda, 1), (.ldw, 2), (.ldc, 3)], ∀ (o : MFmt) (s : State), s.active o.g = true → s.det = false →
    Held s p.2 (eaOf s o) (memSize o.w) →
    let v := (s.tm.store p.2).readNat (eaOf s o) (memSize o.w)
    exec (p.1 o) s = .next (withPending (if o.o.getLsbD 2 then acquiring s s.ms (s.effScope (o.o.toNat % 4)) else s)
      (longN o.d (memSize o.w / 4) v))) ∧
  (∀ p ∈ [(Instr.stl, 0), (.sta, 1), (.stc, 3)], ∀ (o : MFmt) (s : State), s.active o.g = true → s.det = false → s.th.sent = none →
    Held s p.2 (eaOf s o) (memSize o.w) →
    let sc := s.effScope (o.o.toNat % 4)
    let t := storedTeam s.tm p.2 (eaOf s o) (toBytes (memSize o.w) (s.srcs o.d (memSize o.w / 4)))
    let note : Append := ⟨BitVec.ofNat 32 (t.lst.readNat 0 4), s.turns, s.th.tid⟩
    (o.o.getLsbD 2 = false → exec (p.1 o) s = .next { s with tm := t }) ∧
    (o.o.getLsbD 2 = true → Acknowledged s s.ms sc →
      exec (p.1 o) s = .next (if p.2 = 0 ∧ eaOf s o = 0 ∧ s.tm.ring.size ≠ 0 then
          { s with
            tm := { t with ring := { t.ring with appends := t.ring.appends ++ [note] } }, turns := s.turns + 1, ms := released s s.ms sc }
        else { s with tm := t, ms := released s s.ms sc }))) ∧
  ∀ (t : Team) (sp sp' o a : Nat) (bs : List Byte), sp < 4 → sp' < 4 →
    ((storedTeam t sp o bs).store sp').get a =
      if sp' = sp ∧ o ≤ a ∧ a < o + bs.length then bs.getD (a - o) 0 else (t.store sp').get a

/-- R252: of the checks that an access fails, the first in the order of the table raises its cause at the effective
address, and nothing of the access is performed. -/
def Obligations.MemoryWordsStopInOrder : Prop :=
  (∀ (o : MFmt) (s : State), s.active o.g = true → s.th.sent = none → ∀ i ∈ [Instr.ld o, .st o, .ldra o],
    (2 ^ 56 ≤ eaOf s o → exec i s = .next (s.raise cRange (eaOf s o))) ∧
    (eaOf s o < 2 ^ 56 → eaOf s o % memSize o.w ≠ 0 → exec i s = .next (s.raise cAlign (eaOf s o)))) ∧
  (∀ (f : BitVec 3) (o : RFmt) (s : State), s.active o.g = true → s.th.sent = none →
    let va := (s.srcPair o.a).toNat
    2 ^ 56 ≤ va → ∀ i ∈ [Instr.atom f o, .atomx f o, .red f o, .redx f o, .pstb o, .pldb o], exec i s = .next (s.raise cRange va)) ∧
  (∀ (f : BitVec 3) (o : RFmt) (s : State), s.active o.g = true → s.th.sent = none →
    let va := (s.srcPair o.a).toNat
    va < 2 ^ 56 → va % 4 ≠ 0 → ∀ i ∈ [Instr.atom f o, .red f o], exec i s = .next (s.raise cAlign va)) ∧
  (∀ (o : MFmt) (s : State) (e : TlbEnt), s.active o.g = true → s.th.sent = none → Mapped s (eaOf s o) .load e → eaOf s o < 2 ^ 56 →
    eaOf s o % memSize o.w = 0 → leafW e.leaf.toNat = false → exec (.st o) s = .next (s.raise cProtection (eaOf s o))) ∧
  ∀ p ∈ [(Instr.ldl, 0), (.lda, 1), (.ldw, 2), (.ldc, 3), (.stl, 0), (.sta, 1), (.stc, 3)], ∀ (o : MFmt) (s : State), s.active o.g = true →
    (s.th.migrated = true → exec (p.1 o) s = .next (s.raise cMigrated 0)) ∧
    (s.th.migrated = false → eaOf s o % memSize o.w ≠ 0 → exec (p.1 o) s = .next (s.raise cAlign (eaOf s o))) ∧
    (s.th.migrated = false → eaOf s o % memSize o.w = 0 → s.tm.storeSize p.2 < eaOf s o + memSize o.w →
      exec (p.1 o) s = .next (s.raise cBounds (eaOf s o)))

/-- R135, R139, R152, R261 and R157: FENCE. FENCE.engine waits for the cards and matrix operations of its own team and for the cards
that others had appended when the team last acquired (log entry 90). A release at system scope sends every dirty pod-tier sector
and waits until all messages then outstanding are acknowledged, whoever sent them: it cannot tell what it covers apart (log
entry 98). -/
def Obligations.FenceResults : Prop :=
  ∀ (o : RFmt) (s : State), s.active o.g = true → s.det = false → s.th.sent = none →
    let sc := s.effScope o.w.toNat
    let marked := fun (t : Thread) => if sc < 2 then { t with relFence := t.relFence ||| 2 ^ sc } else t
    (o.b = 0#6 → exec (.fence o) s = .next (acquiring s s.ms sc)) ∧
    (Acknowledged s s.ms sc →
      (o.b = 1#6 → exec (.fence o) s = .next { s with th := marked s.th, ms := released s s.ms sc }) ∧
      (o.b = 2#6 → exec (.fence o) s = .next { acquiring s (released s s.ms sc) sc with th := marked s.th })) ∧
    (o.b = 3#6 → s.tm.ring.size = 0 → (∀ t ∈ s.teams, t.ref ≠ s.tm.ref → t.ring.appendedBy s.tm.acquired = none) → s.tm.streams = [] →
      exec (.fence o) s = .next (acquiring s s.ms sc)) ∧
    (o.b = 3#6 →
      ((∃ st ∈ s.tm.streams, ∃ r, st.running = some r ∧ r.job.order < s.tm.mxOrder) ∨
        (s.tm.ring.size ≠ 0 ∧ ∃ c ∈ s.tm.ring.cards, countBefore (BitVec.ofNat 32 c.seq) (BitVec.ofNat 32 (s.tm.lst.readNat 0 4)) = true) ∨
        (∃ t ∈ s.teams, t.ref ≠ s.tm.ref ∧ t.ring.size ≠ 0 ∧ t.st ≠ .retired ∧ (s.teams.find? fun x => x.ref == t.ref) = some t ∧
          ∃ n, t.ring.appendedBy s.tm.acquired = some n ∧ t.ring.retiredTo n = false)) →
      ∃ t, exec (.fence o) s = .next t ∧ t.th.status = .blocked .fence ∧ t.th.regs = s.th.regs ∧ t.ms = s.ms) ∧
    (o.b = 1#6 → sc = 3 → (∃ p ∈ (released s s.ms 3).pod, p.dirty = true) →
      ∃ t, exec (.fence o) s = .next t ∧ t.th.status = .blocked .pod ∧ t.th.sent ≠ none ∧
        (∀ p ∈ t.ms.pod, p.dirty = false) ∧ (released s s.ms 3).podOut.length < t.ms.podOut.length)

/-- R262, R263 and R264: write-back, invalidation and prefetch of the lines of a range that lies in one mapped page, at
system scope once every peer has acknowledged; a length of 0 does nothing, and none of them writes a register. What IINV takes from
instruction caches stays with the threads of their bays that may have fetched words of it, until FBAR or a new segment. -/
def Obligations.CacheControlResults : Prop :=
  ∀ (o : RFmt) (s : State) (e : TlbEnt), s.active o.g = true → s.th.sent = none → s.grp.stop = none →
    let va := (s.srcPair o.a).toNat
    let n := (s.src o.b).toNat
    let sc := s.effScope o.w.toNat
    let lines := linesOf (homeOf e va) n
    let toHost := fun (drop : Bool) (s : State) (ln : Nat) =>
      { s with ms := (List.range 4).foldl (fun ms i => l2WriteBack ms (4 * ln + i) drop) s.ms }
    let acts := fun (drop : Bool) => lines.foldl
      (fun s ln => if sc = 3 then podLine (toHost drop (cacheLine s sc ln drop) ln) ln drop else cacheLine s sc ln drop) s
    exec (.fbar o) s = .next (withThread s { s.th with fetched := [] }) ∧
    (n = 0 → exec (.cwb o) s = .next s ∧ exec (.cinv o) s = .next s ∧ exec (.iinv o) s = .next s) ∧
    (0 < n → 2 ^ 56 < va + n → ∀ i ∈ [Instr.cwb o, .cinv o, .iinv o], exec i s = .next (s.raise cRange va)) ∧
    (Mapped s va .load e → 0 < n → va + n ≤ 2 ^ 56 → n ≤ 65536 - va % 65536 →
      (sc ≠ 3 → exec (.cwb o) s = .next (acts false) ∧ exec (.cinv o) s = .next (acts true)) ∧
      (∀ p ∈ [(Instr.cwb o, false), (.cinv o, true)], sc = 3 →
        ((acts p.2).podAwaits = false → exec p.1 s = .next (acts p.2).awaitsNothing) ∧
        ((acts p.2).podAwaits = true → exec p.1 s = .next ((acts p.2).block .flush))) ∧
      (let named := fun (c : CodeLine) => lines.contains c.line && (if o.w = 0#2 then c.bay == s.th.bay
          else if o.w = 1#2 then c.bay / 8 == s.th.bay / 8 else true)
       ∃ t, exec (.iinv o) s = .next t ∧ t.ms = { s.ms with icache := s.ms.icache.filter fun c => !named c } ∧
         t.th = { s.th with fetched := t.th.fetched } ∧
         (s.th.status ≠ .exited → (∃ x ∈ s.tm.threads, x.tid = s.th.tid) →
           ∀ c ∈ s.ms.icache, named c = true → c.bay = s.th.bay → c ∈ t.th.fetched) ∧
         ((∀ c ∈ s.ms.icache, named c = false) → t = s))) ∧
    (2 ^ 56 ≤ va → exec (.pref o) s = .next s) ∧
    (Mapped s va .load e → va < 2 ^ 56 → isPod (homeOf e va) = false →
      let quarter := fun (fill : MemSys → Nat → MemSys) => (List.range 4).foldl (fun ms i =>
        let q := homeOf e va / 64 * 4 + i
        if secFailed ms s.th.bay (max (leafAlloc e.leaf.toNat) (if o.w = 0#2 then 0 else 2)) q then ms else fill ms q) s.ms
      let lost := s.refLost = true ∧ s.leavesDie e.leaf.toNat (homeOf e va) 0 = true
      (lost → exec (.pref o) s = .next (countLink s)) ∧
      (¬lost → o.w.toNat < 2 → exec (.pref o) s = .next { s with
        ms := quarter fun ms q => (readSec ms s.th.bay (retention (if o.w = 0#2 then 0 else 2) e) q).2 }) ∧
      (¬lost → 2 ≤ o.w.toNat → exec (.pref o) s = .next { s with
        ms := quarter fun ms q => if leafBias e.leaf.toNat then ms else l2Fill ms q }))

/-- The entries of the spill list that a grid's ownership records hold (R407). -/
def Sys2Proof.Spec.spilledBy (s : State) (l : List Owner) : Nat :=
  (l.filter fun o => o.ctx == s.grid.ctx && o.gid == s.grid.gid && o.spilled).length

/-- R160 and R161: in a deterministic launch a load reads the team's view, a store of one sector writes its log, and a
reduction takes a record of its own, each touching the line's ownership record, while the log and the record of the line fit
on chip and no page of the log region that they might need is locked (R428). -/
def Obligations.DeterministicAccessResults : Prop :=
  ∀ (s : State) (e : TlbEnt), s.det = true → leafDT e.leaf.toNat = true → s.lockedLog = none →
    (∀ (o : MFmt) (os : List Owner), s.active o.g = true → o.o.getLsbD 2 = false →
      let va := eaOf s o
      let ha := homeOf e va
      let n := memSize o.w
      let slice := homeSlice (leafHome e.leaf.toNat) ha
      let s' := { s with ms := { s.ms with owners := os } }
      touchLine s.ms.owners s.grid s.tm.ref.team slice (ha / 64) false = some os → spilledBy s os = spilledBy s s.ms.owners →
      (Reaches s va n .load e →
        exec (.ld o) s = .next (withPending s' (longN o.d (n / 4) (ofBytes (viewRead s'.ms s.grid s.tm.log ha n))))) ∧
      (Reaches s va n .store e → n ≤ 16 → s.tm.log.length < 512 → s.ms.latches = [] → s.th.sent = none →
        exec (.st o) s = .next { s' with tm := { s.tm with log := logStore s.tm.log ha (toBytes n (s.srcs o.d (n / 4))) } })) ∧
    ∀ (f : BitVec 3) (o : RFmt) (os : List Owner), s.active o.g = true →
      let va := (s.srcPair o.a).toNat
      let ha := homeOf e va
      touchLine s.ms.owners s.grid s.tm.ref.team (homeSlice (leafHome e.leaf.toNat) ha) (ha / 64) true = some os →
      spilledBy s os = spilledBy s s.ms.owners → Reaches s va 4 .atomic e → s.tm.log.length < 512 →
      exec (.red f o) s = .next { s with
        ms := { s.ms with owners := os },
        tm := { s.tm with log := s.tm.log ++ [.red ha 4 f.toNat ((s.src o.b).setWidth 64) s.th.tid s.turns] } }

/-! ### Terminators and control words -/

namespace Sys2Proof.Spec

open Sys2Proof.Machine

/-- The thread once its outstanding long results are written, in the order of issue (R174, R177). -/
def written (t : Thread) : Thread :=
  { t with
    regs := t.pending.foldl (fun l p => match p with | .reg n v => l.set n v | _ => l) t.regs
    preds := t.pending.foldl (fun l p => match p with | .pred n b => if n = 0 then l else l.set n b | _ => l) t.preds
    fps := t.pending.foldl (fun f p => match p with | .flags m _ => f ||| m | _ => f) t.fps
    pending := [] }

/-- Packet n of R168, as a byte address, and the packet number of an address. -/
def packetByte (n : Int) : Nat := ((64 * (n / 5) + 12 * (n % 5)) % 2 ^ 64).toNat
def packetNumber (a : Nat) : Int := 5 * (a / 64 : Nat) + (a % 64 / 12 : Nat)

/-- The packet at an offset from that of the word now performed. -/
def packetOff (s : State) (off : Int) : Nat := packetByte (packetNumber ((s.th.pc.toNat + 4 * s.grp.pos) % 2 ^ 64) + off)

/-- R172: the address is the slot 0 of a packet and its entry bit is set, the line standing in the bay's instruction
cache as it stands in memory, and its page in the L1 TLB. -/
def Enterable (s : State) (w : Accessor) (a : Nat) (entry : Bool) : Prop :=
  a < 2 ^ 56 ∧ a % 64 ∈ [0, 12, 24, 36, 48] ∧ ∃ e c, tlbFind s.ms w.bay (s.ctxOf w.ctx).asid a = some e ∧
    leafLock e.leaf.toNat = false ∧ leafDenied e.leaf.toNat .fetch w = false ∧
    (s.ms.icache.find? fun c => c.bay == w.bay && c.line == homeOf e a / 64) = some c ∧
    lineWords s.ms (64 * (homeOf e a / 64)) = c.words ∧ (c.words.getD 15 0).getLsbD (a % 64 / 12) = entry

/-- A thread that enters a segment: results written, the packet count restarted, at a boundary, in the gang of its cohort
that stands there and has not issued yet, else in a new one; a lapsed SETW of its own is tried again, and a request that holds
the team holds it (R15, R16, R25, R173, R174). -/
def entered (s : State) (t : Thread) (target : Nat) : State :=
  let begun := fun (g : Nat) => s.tm.threads.any fun y => y.tid != t.tid && y.gang == g &&
    (match y.status with | .within | .blocked _ => true | _ => false)
  let mate := s.tm.threads.find? fun u => u.tid != t.tid && u.status == .boundary && u.pc == BitVec.ofNat 64 target &&
    u.tid / s.tm.grant == t.tid / s.tm.grant && u.bay == t.bay && u.gang != t.gang && !begun u.gang
  let hold := if s.tm.reqPending && s.tm.setwBy == t.tid && s.tm.hold.isNone then some s.cycle else s.tm.hold
  { s with
    th := { written t with
      pc := BitVec.ofNat 64 target, seg := 1, status := .boundary, gang := (mate.map (·.gang)).getD s.tm.gangs, yielded := false,
      passed := false, held := hold.isSome, woke := none, sent := none, issued := [], copy := none, step := none, conv := none, fin := false,
      entering := false, asked := none, lost := [], fetched := [] }
    tm := { s.tm with gangs := if mate.isSome then s.tm.gangs else s.tm.gangs + 1, hold := hold } }

/-- The issuing thread with the return address in v62:63. -/
def linked (s : State) : Thread := { s.th with regs := reg2 s.th.regs 62 (BitVec.ofNat 64 (packetOff s 1)) }

end Sys2Proof.Spec

/-- R168, R172, R174, R186 and R219: a terminator whose successor is an entry enters the segment there, CALL and CALLI
leaving the return address in v62:63; a successor that is no packet or no entry is an illegal target. -/
def Obligations.TransferResults : Prop :=
  (∀ (o : UFmt) (s : State),
    let a := packetOff s o.imm.toInt
    (Enterable s s.accessor a true → exec (.next o) s = .next (entered s s.th a) ∧ exec (.call o) s = .next (entered s (linked s) a)) ∧
    (Enterable s s.accessor a false → exec (.next o) s = .next (s.raise cTarget a) ∧ exec (.call o) s = .next (s.raise cTarget a))) ∧
  (∀ (o : XFmt) (s : State),
    let dest := fun (b : Bool) => packetOff s (if b then o.off.toInt else 1)
    let p := s.srcPred o.p
    (Enterable s s.accessor (dest p) true → exec (.nextp o) s = .next (entered s s.th (dest p))) ∧
    (Enterable s s.accessor (dest !p) true → exec (.nextn o) s = .next (entered s s.th (dest !p))) ∧
    (Enterable s s.accessor (dest p) false → exec (.nextp o) s = .next (s.raise cTarget (dest p))) ∧
    (Enterable s s.accessor (dest !p) false → exec (.nextn o) s = .next (s.raise cTarget (dest !p)))) ∧
  ∀ (o : RFmt) (s : State),
    let a := (s.srcPair o.a).toNat
    let r := (s.srcPair 62).toNat
    (Enterable s s.accessor a true → exec (.nexti o) s = .next (entered s s.th a) ∧ exec (.calli o) s = .next (entered s (linked s) a)) ∧
    (Enterable s s.accessor r true → exec (.ret o) s = .next (entered s s.th r)) ∧
    (Enterable s s.accessor a false ∨ 2 ^ 56 ≤ a ∨ a % 64 ∉ [0, 12, 24, 36, 48] →
      exec (.nexti o) s = .next (s.raise cTarget a) ∧ exec (.calli o) s = .next (s.raise cTarget a)) ∧
    (Enterable s s.accessor r false ∨ 2 ^ 56 ≤ r ∨ r % 64 ∉ [0, 12, 24, 36, 48] → exec (.ret o) s = .next (s.raise cTarget r))

/-- R168 in numbers: the packets of a line, and offsets over its end. -/
def Obligations.PacketAddresses : Prop :=
  ∀ a : Nat, a < 2 ^ 63 → a % 64 ∈ [0, 12, 24, 36, 48] →
    packetByte (packetNumber a) = a ∧ packetByte (packetNumber a + 1) = (if a % 64 = 48 then a + 16 else a + 12) ∧
    packetByte (packetNumber a + 5) = a + 64 ∧ (64 ≤ a → packetByte (packetNumber a - 5) = a - 64)

/-- R220, R221 and R222: EXIT, RCV and YIELD; NOP changes nothing. RCV holds while another thread of the cohort is on its
way elsewhere within a segment, and merges the gangs that stand at it once none is. -/
def Obligations.ExitAndHoldResults : Prop :=
  ∀ (o : RFmt) (s : State),
    exec (.nop o) s = .next s ∧
    exec (.yield o) s = .next (withThread s { s.th with yielded := true, passed := false, since := s.cycle }) ∧
    (s.tm.decl.phasers = 0 → s.tm.decl.cphasers = 0 → s.grid.cores = false →
      exec (.exit o) s = .next (withThread s { written s.th with
        status := .exited, walk := none, migrated := false, yielded := false, passed := false, held := false, woke := none, sent := none,
        issued := [], copy := none, step := none, conv := none, fin := false, entering := false, asked := none, lost := [] })) ∧
    (∃ t, exec (.exit o) s = .next t ∧ t.th.status = .exited) ∧
    (s.th.conv ≠ none → exec (.rcv o) s = .next (withThread s { s.th with conv := none })) ∧
    let mates := s.tm.threads.filter fun t => t.tid != s.th.tid && t.tid / s.tm.grant == s.th.tid / s.tm.grant && t.bay == s.th.bay
    let pc := s.th.pc.toNat
    let here := (s.th.pc.toNat + 4 * s.grp.pos) % 2 ^ 64
    (s.th.conv = none → (∃ t ∈ mates, t.status = .within ∧ (t.pc.toNat < pc ∨ here < t.pc.toNat)) →
      ∃ t, exec (.rcv o) s = .next t ∧ t.ms = s.ms ∧ t.th = { s.th with
        status := .blocked .rcv, issued := s.grp.words,
        since := if s.grp.view.status = .blocked .rcv then s.th.since else s.cycle }) ∧
    (s.th.conv = none →
      (∀ t ∈ mates, t.status = .boundary ∨ t.status = .exited ∨ t.atRcv true pc here = true ∨
        ∃ b, t.status = .blocked b ∧ b ≠ .rcv ∧ (t.conv = none ∨ (b ≠ .convergent ∧ b ≠ .teamConv))) →
      exec (.rcv o) s = .next { s with tm := { s.tm with
        threads := s.tm.threads.map fun t =>
          if t ∈ mates ∧ t.atRcv (s.tm.st == .running) pc here = true then { t with conv := some [], gang := s.th.gang } else t } })

/-! ### Thread words -/

namespace Sys2Proof.Spec

open Sys2Proof.Machine

/-- Every special register of R188: number, 64 bits wide, value, as the thread and its team stood before the group (R176). -/
def specialRegisters (s : State) : List (Nat × Bool × Nat) :=
  let v := s.grp.view
  let t := s.grp.team
  let mxs := fun (n : Nat) => ((t.streams[n]?).map fun x => x.mxs.toNat).getD 0
  [(0x00, false, v.tid), (0x01, false, t.ref.team), (0x02, false, t.decl.dim), (0x03, false, t.ref.gid), (0x04, false, t.grant),
   (0x05, false, s.th.tid % s.tm.grant), (0x06, false, s.th.tid / s.tm.grant), (0x07, false, v.bay / 96), (0x08, false, v.bay % 96),
   (0x09, false, s.grid.depth), (0x10, false, v.fpc.toNat), (0x11, false, v.fps.toNat), (0x14, false, mxs 0), (0x15, false, mxs 1),
   (0x16, false, mxs 2), (0x17, false, mxs 3), (0x18, true, v.rngk.toNat), (0x1A, false, v.rngc.toNat), (0x20, true, t.trapv.toNat),
   (0x22, false, v.trapc.toNat), (0x24, true, v.trapa.toNat), (0x26, true, v.trappc.toNat), (0x28, true, t.ftb.toNat),
   (0x2A, false, v.timeout.toNat), (0x2B, false, t.hstat.toNat)]

/-- Every privileged register of R373: number, 64 bits wide, value. -/
def privilegedRegisters (s : State) : List (Nat × Bool × Nat) :=
  let v := s.grp.view
  let c := s.ctxOf s.tm.ref.ctx
  [(0x00, false, (if v.sup then 1 else 0) + (if v.tl then 2 else 0)), (0x02, true, c.svec.toNat), (0x04, true, v.spc.toNat),
   (0x06, false, v.scause.toNat), (0x08, true, v.saddr.toNat), (0x0A, false, (v.sgrp.getD 0 0).toNat), (0x0B, false, (v.sgrp.getD 1 0).toNat),
   (0x0C, false, (v.sgrp.getD 2 0).toNat), (0x10, false, c.asid), (0x11, false, c.id), (0x12, false, c.part), (0x13, false, c.fairk),
   (0x14, true, (v.sscr.getD 0 0).toNat), (0x16, true, (v.sscr.getD 1 0).toNat), (0x18, true, (v.sscr.getD 2 0).toNat),
   (0x1A, true, (v.sscr.getD 3 0).toNat), (0x20, true, s.iod.ctxtb), (0x22, true, s.iod.lovb), (0x24, false, s.iod.lovs)]

end Sys2Proof.Spec

/-- R188 and R242: RDSR of each register is a short result of one register, or of a pair where the register has 64 bits. -/
def Obligations.SpecialRegisterReads : Prop :=
  ∀ (o : EFmt) (s : State), s.active o.g = true → ∀ r ∈ specialRegisters s, o.arg.toNat = r.1 →
    exec (.rdsr o) s = .next (withRegs s (if r.2.1 then reg2 s.th.regs o.d (BitVec.ofNat 64 r.2.2) else reg1 s.th.regs o.d (BitVec.ofNat 32 r.2.2)))

/-- R188 and R242: WRSR writes the one register it names, reserved bits ignored, and nothing else. -/
def Obligations.SpecialRegisterWrites : Prop :=
  ∀ (o : EFmt) (s : State), s.active o.g = true →
    let v := s.src o.a
    let w := s.srcPair o.a
    let out := fun (n : BitVec 7) (t : State) => o.arg = n → exec (.wrsr o) s = .next t
    out 0x11 (withThread s { s.th with fps := v &&& 0x1F }) ∧ out 0x18 (withThread s { s.th with rngk := w }) ∧
    out 0x1A (withThread s { s.th with rngc := v &&& 0xFFFFFF }) ∧ out 0x20 { s with tm := { s.tm with trapv := w } } ∧
    out 0x26 (withThread s { s.th with trappc := w }) ∧ out 0x2A (withThread s { s.th with timeout := v }) ∧
    out 0x2B { s with tm := { s.tm with hstat := v &&& 0x803FFF0F } } ∧
    out 0x10 (withThread s { s.th with
      fpc := BitVec.ofNat 32 (v.toNat / 256 % 512 * 256 + (if 5 ≤ v.toNat % 8 then 0 else v.toNat % 8)) })

/-- R25, R40 to R42, R241 and R243 to R245: width, guard selection, time, draws, and migration of a cohort of one. That the time
returned lies in the 8 ns from the IOD's count on, never before it, is the model's reading of the error of half a trip (log
entry 24). A cohort of more goes as one: its other members are drained and taken along; how long it takes is the model's choice (log entry 25). -/
def Obligations.ThreadWordResults : Prop :=
  ∀ (o : EFmt) (s : State),
    exec (.gsel o) s = .next (withThread s { s.th with gsel := o.a.toNat }) ∧
    (s.active o.g = true →
      (s.det = true → exec (.setw o) s = .next s) ∧
      (s.det = false →
        let new := decide (grantFor o.arg.toNat (bayCap s s.tm.bay) s.tm.pcap ≠ s.tm.grant)
        exec (.setw o) s = .next { s with tm := { s.tm with
          widthReq := o.arg.toNat, reqPending := new, setwBy := s.th.tid, hold := if new then some s.cycle else none,
          threads := if new then s.tm.threads else s.tm.threads.map fun x => { x with held := false } } }) ∧
      exec (.rand o) s = .next (withThread s { s.th with
        pending := s.th.pending ++ [.reg o.d.toNat (BitVec.ofNat 32 s.draw)], rngc := BitVec.ofNat 32 ((s.th.rngc.toNat + 1) % 2 ^ 24) }) ∧
      (s.linkFree = true → ∃ v t, exec (.rdtime o) s = .next t ∧ t.th = (withPending s (longN o.d 2 v)).th ∧ t.ms = s.ms ∧ s.time ≤ v ∧
        ∀ d, s.iod.dies[s.th.bay / 96]? = some d →
          d.lastTime ≤ v ∧ (d.lastTime ≤ s.time → v ≤ s.time + 8) ∧ (t.iod.dies[s.th.bay / 96]?).map (·.lastTime) = some v)) ∧
    (∀ c n last, timeResult c n last = if last < c + 5 * n then c + 5 * n else last) ∧
    (Meets s false → s.convMembers false = [s.th] → s.th.guarded o.g = true → (∀ d, s.grp.view.status ≠ .blocked (.migr (some d))) →
      (∃ t, exec (.migrh o) s = .next t ∧ t.th = { written s.th with
          bay := if s.th.migrated then s.tm.bay else s.th.bay, migrated := false } ∧ s.time + 16 < t.time) ∧
      ∀ e, Mapped s (s.srcPair o.a).toNat .load e → (s.srcPair o.a).toNat < 2 ^ 56 →
        (leafHome e.leaf.toNat = s.th.bay / 96 →
          ∃ t, exec (.migr o) s = .next t ∧ t.th = written s.th ∧ s.time + 16 < t.time) ∧
        ∀ fit, fit = (baysOfDie s (leafHome e.leaf.toNat)).filter (fun b => s.tm.grant ≤ bayCap s b) →
          leafHome e.leaf.toNat ≠ s.th.bay / 96 → (∃ b ∈ fit, vestibuleFree s b = true) →
          ∃ t b, exec (.migr o) s = .next t ∧ b ∈ fit ∧ vestibuleFree s b = true ∧
            t.th = { written s.th with bay := b, migrated := true } ∧ s.time + 16 < t.time)

/-! ### Phasers and waits -/

namespace Sys2Proof.Spec

open Sys2Proof.Machine

/-- x > y on counts modulo 2^32 (R229). -/
def after (x y : Word) : Prop := ∃ k : Nat, 1 ≤ k ∧ k ≤ 2 ^ 31 - 1 ∧ x = y + BitVec.ofNat 32 k

/-- The thread's record of a phaser replaced. -/
def withRecord (t : Thread) (slot : Nat) (r : PhRec) : Thread := { t with ph := t.ph.set slot r }

/-- The state once the thread has arrived: a release at the phaser's scope, its count one higher (R136, R230). -/
def arrived (s : State) (k : PhKind) (slot : Nat) : State :=
  let r := s.th.ph.getD slot ⟨false, false, 0, 0⟩
  { s with th := withRecord s.th slot { r with arr := r.arr + 1 }, ms := if s.det then s.ms else releaseCaches s.ms s.th.bay (phScope k) }

/-- A phaser word that passes its checks, on a phaser whose count the thread sees as it stands: on a cluster phaser of a
deterministic launch a team that is run anew sees it as it was (R409, log entry 60). -/
structure Phased (o : EFmt) (s : State) (k : PhKind) (i : Nat) : Prop where
  active : s.active o.g = true
  home : s.th.migrated = false
  kind : phKindOf o.arg = k
  index : o.arg.toNat % 32 = i
  declared : s.phOk k i = true
  plain : s.det = false ∨ k ≠ .cluster

end Sys2Proof.Spec

/-- R228 to R231: the phaser words, on team, cluster and grid phasers alike. A phase completes when every signaller has
arrived; a thread blocks where it is too far ahead to arrive, or its phase has not completed. Where a PHREG drops the
signaller role and gains the waiter role at once, w_t is one more than Pc before or after the arrival it performs: the rule
leaves that open. -/
def Obligations.PhaserResults : Prop :=
  (∀ x y : Word, countGt x y = true ↔ after x y) ∧
  (∀ (o : EFmt) (s : State), s.active o.g = true → ∀ i ∈ [Instr.phreg o, .pharr o, .phwait o, .phaw o, .phq o],
    (s.th.migrated = true → exec i s = .next (s.raise cMigrated 0)) ∧
    (s.th.migrated = false → s.phOk (phKindOf o.arg) (o.arg.toNat % 32) = false → exec i s = .next (s.raise cPhRange 0))) ∧
  ∀ (o : EFmt) (s : State) (k : PhKind) (i : Nat), Phased o s k i →
    let slot := phSlot k i
    let r := s.th.ph.getD slot ⟨false, false, 0, 0⟩
    let pc := s.phPc k i
    let a := arrived s k slot
    let sigs := fun (x : State) => (x.phParts k).filter fun t => (t.phRec slot).sig
    let met := fun (x : State) => sigs x ≠ [] ∧ ∀ t ∈ sigs x, after (t.phRec slot).arr pc
    let next := fun (x : State) => x.setPhPc k i (pc + 1)
    let near := fun (x : State) =>
      ∀ t ∈ (next x).phParts k, (t.phRec slot).wait = true → pc + 1 - (t.phRec slot).wai ≠ BitVec.ofNat 32 (2 ^ 31 - 1)
    let waited := fun (x : State) =>
      let q := x.th.ph.getD slot ⟨false, false, 0, 0⟩
      let u := { x with th := { withRecord x.th slot { q with wai := q.wai + 1 } with conv := none } }
      if x.det then u else acquiring u u.ms (phScope k)
    exec (.phq o) s = .next (withPending s (long1 o.d pc)) ∧
    (r.sig = false → exec (.pharr o) s = .next (s.raise cPhRole 0)) ∧ (r.wait = false → exec (.phwait o) s = .next (s.raise cPhRole 0)) ∧
    (s.th.conv = none → (r.sig && r.wait) = false → exec (.phaw o) s = .next (s.raise cPhRole 0)) ∧
    (r.sig = true → after r.arr pc →
      ∀ i ∈ [Instr.pharr o] ++ (if r.wait = true ∧ s.th.conv = none then [Instr.phaw o] else []), ∃ t, exec i s = .next t ∧
        t.th = { s.th with status := .blocked (.phaser slot true), issued := s.grp.words } ∧ t.ms = s.ms) ∧
    (r.sig = true → ¬ after r.arr pc → ¬ met a → exec (.pharr o) s = .next a) ∧
    (r.sig = true → ¬ after r.arr pc → met a → near a → exec (.pharr o) s = .next (next a)) ∧
    (r.wait = true → after pc r.wai → exec (.phwait o) s = .next (waited s)) ∧
    (r.wait = true → ¬ after pc r.wai →
      ∃ t, exec (.phwait o) s = .next t ∧ t.th = { s.th with status := .blocked (.phaser slot false), issued := s.grp.words } ∧ t.ms = s.ms) ∧
    (s.th.conv ≠ none → after pc r.wai → exec (.phaw o) s = .next (waited s)) ∧
    (s.th.conv = none → r.sig = true → r.wait = true → ¬ after r.arr pc →
      (¬ met a → after pc r.wai → exec (.phaw o) s = .next (waited a)) ∧
      (met a → near a → (next a).phPc k i = pc + 1 → after (pc + 1) r.wai → exec (.phaw o) s = .next (waited (next a))) ∧
      (¬ met a → ¬ after pc r.wai → ∃ t, exec (.phaw o) s = .next t ∧ t.th.status = .blocked (.phaser slot false) ∧
        t.th.conv = some [] ∧ t.th.ph = a.th.ph ∧ t.ms = a.ms)) ∧
    (r.sig = true → o.d.getLsbD 0 = false → ¬ after r.arr pc → ∀ t, exec (.pharr o) s = .next t →
      let q := t.th.ph.getD slot ⟨false, false, 0, 0⟩
      ∃ w, (if o.d.getLsbD 1 = true ∧ q.wait = false then w = pc + 1 ∨ w = t.phPc k i + 1 else w = q.wai) ∧
        let b := withThread t (withRecord t.th slot ⟨false, o.d.getLsbD 1, q.arr, w⟩)
        ((sigs b = [] ∨ ∃ u ∈ sigs b, ¬ after (u.phRec slot).arr (t.phPc k i)) → exec (.phreg o) s = .next b)) ∧
    ((r.sig = true → o.d.getLsbD 0 = false → after r.arr pc) →
      let b := withThread s (withRecord s.th slot
        ⟨o.d.getLsbD 0, o.d.getLsbD 1, if o.d.getLsbD 0 = true ∧ r.sig = false then pc + 1 else r.arr,
          if o.d.getLsbD 1 = true ∧ r.wait = false then pc + 1 else r.wai⟩)
      (o.d.getLsbD 0 = r.sig ∨ ¬ met b → exec (.phreg o) s = .next b) ∧
      (o.d.getLsbD 0 ≠ r.sig → met b → near b → exec (.phreg o) s = .next (next b)))

namespace Sys2Proof.Spec

open Sys2Proof.Machine

/-- The condition of WAITU (R232) on values of n bits. -/
def waitTable (n v x : Nat) : List Bool :=
  let sv := (BitVec.ofNat n v).toInt
  let sx := (BitVec.ofNat n x).toInt
  [decide (v % 2 ^ n = x % 2 ^ n), decide (v % 2 ^ n ≠ x % 2 ^ n), decide (sv < sx), decide (sv ≥ sx), decide (v % 2 ^ n < x % 2 ^ n),
   decide (v % 2 ^ n ≥ x % 2 ^ n), decide (v % 2 ^ n &&& x % 2 ^ n ≠ 0), decide (v % 2 ^ n &&& x % 2 ^ n = 0)]

end Sys2Proof.Spec

/-- R232, R233, R234 and R238 in an ordinary launch: a condition that holds of the line at its home slice ends the wait at
once, with PD set and a device-scope acquire; another blocks the thread behind an entry; and the entry's outcome is
delivered when the word issues again. -/
def Obligations.WaituResults : Prop :=
  ∀ (o : EFmt) (s : State), s.active o.g = true → s.det = false →
    let va := (s.srcPair o.a).toNat
    let wide := o.arg.getLsbD 3
    let n := if wide then 8 else 4
    let x := s.srcs (o.a + 2) (n / 4)
    (∀ e, s.myLatch = none → Reaches s va n .load e → s.ms.lost (homeOf e va / 16) = false →
      let v := homeNat s.ms (homeOf e va) n
      let holds := (waitTable (8 * n) v x).getD (o.arg.toNat / 16) false
      (holds = true → exec (.waitu o) s = .next (withPending (acquiring s s.ms 2) [.pred o.d.toNat true])) ∧
      (holds = false → ∃ t l, exec (.waitu o) s = .next t ∧ t.th = { s.th with status := .blocked .waitu, issued := s.grp.words } ∧
        t.ms = { s.ms with latches := s.ms.latches ++ [l], spill := t.ms.spill } ∧ l.who = .thread ⟨s.tm.ref, s.th.tid⟩ ∧ l.pa = homeOf e va ∧ l.outcome = none ∧
        l.operand.toNat = x ∧
        l.deadline = (let d := if s.src (o.a + 4) = 0#32 then s.grp.view.timeout.toNat else (s.src (o.a + 4)).toNat
          if d = 0 then none else some (s.time + d)))) ∧
    ∀ l b, s.myLatch = some l → l.outcome = some b →
      let rest := { s.ms with latches := s.ms.latches.filter fun l => l.who != .thread ⟨s.tm.ref, s.th.tid⟩ }
      (b = true → exec (.waitu o) s = .next (withPending (acquiring s rest 2) [.pred o.d.toNat true])) ∧
      (b = false → o.arg.getLsbD 2 = false → exec (.waitu o) s = .next { withPending s [.pred o.d.toNat false] with ms := rest }) ∧
      (b = false → o.arg.getLsbD 2 = true → exec (.waitu o) s = .next (State.raise { s with ms := rest } cTimeout va))

/-! ### System words, traps and the return from one -/

namespace Sys2Proof.Spec

open Sys2Proof.Machine

/-- The cause word of R436. -/
def causeOf (s : State) (cause code : Nat) : Word :=
  BitVec.ofNat 32 (cause + 2 ^ 8 * s.grp.words.length + 2 ^ 10 * (((s.th.pc.toNat + 4 * s.grp.pos) % 2 ^ 64) % 64 / 4 % 3) + 2 ^ 12 * code)

/-- The state a trap is taken in: the wait that it ends is over (R233). -/
def noWait (s : State) : State :=
  { s with
    ms := { s.ms with latches := s.ms.latches.filter fun l => l.who != .thread ⟨s.tm.ref, s.th.tid⟩ }
    tm := { s.tm with hwaits := s.tm.hwaits.filter fun w => w.tid != s.th.tid } }

/-- The causes that the user handler takes while TRAPV is nonzero (R435). -/
def userCauses : List Nat :=
  [0x04, 0x05, 0x06, 0x07, 0x08, 0x09, 0x0A, 0x0C, 0x10, 0x11, 0x12, 0x13, 0x14, 0x15, 0x16, 0x17, 0x18, 0x19, 0x1A, 0x1B, 0x1C, 0x1D,
   0x1E, 0x1F, 0x20, 0x21, 0x22, 0x23, 0x24, 0x25]

/-- The supervisor-only causes (R435). -/
def supervisorCauses : List Nat := [0x01, 0x02, 0x03, 0x0D, 0x0E, 0x0F, 0x26, 0x27]

/-- A thread that a trap has taken to a handler: at a boundary there, alone in its gang, results written (R438, R439, R443). -/
def AtHandler (s t : State) (h : DWord) : Prop :=
  t.th.pc = h ∧ t.th.seg = 1 ∧ t.th.status = .boundary ∧ t.th.regs = (written s.th).regs ∧ t.th.preds = (written s.th).preds ∧
  t.th.fps = (written s.th).fps ∧ t.th.pending = [] ∧ t.th.gang + 1 = t.tm.gangs ∧ s.tm.gangs < t.tm.gangs ∧
  t.tm.threads = s.tm.threads ∧ t.ms = (noWait s).ms ∧ t.tm.hwaits = (noWait s).tm.hwaits ∧ t.teams = s.teams ∧ t.grids = s.grids ∧ t.ctxs = s.ctxs ∧ t.iod = s.iod ∧ t.time = s.time ∧
  t.tm.lst = s.tm.lst ∧ t.tm.ast = s.tm.ast ∧ t.tm.wst = s.tm.wst ∧ t.tm.cst = s.tm.cst

end Sys2Proof.Spec

/-- R435, R436 and R439: user delivery, for every user cause and code. -/
def Obligations.UserTrapDelivery : Prop :=
  ∀ (s : State) (cause addr code : Nat), cause ∈ userCauses → s.th.tl = false → s.tm.trapv ≠ 0#64 → s.grp.stop = none →
    Enterable s s.accessor s.tm.trapv.toNat true →
    let t := s.raiseCode cause addr code
    AtHandler s t s.tm.trapv ∧ t.th.trapc = causeOf s cause code ∧ t.th.trapa = BitVec.ofNat 64 addr ∧ t.th.trappc = s.th.pc ∧
    t.th.sup = s.th.sup ∧ t.th.tl = false ∧ t.th.entering = (s.tm.st == .shuttered) ∧ t.th.spc = s.th.spc ∧ t.th.scause = s.th.scause ∧ t.th.saddr = s.th.saddr ∧
    t.grp.stop = some (.trap cause addr code)

/-- R435, R436 and R443: supervisor delivery, of the supervisor-only causes and of every user cause while TRAPV is 0; and the
kill of a context whose thread takes one of these causes at TL = 1. The translation fault is delivered to no handler (R441). -/
def Obligations.SupervisorTrapDelivery : Prop :=
  ∀ (s : State) (cause addr code : Nat),
    let svec := (s.ctxOf s.tm.ref.ctx).svec
    let t := s.raiseCode cause addr code
    (cause ∈ supervisorCauses ∨ (cause ∈ userCauses ∧ s.tm.trapv = 0#64) → s.th.tl = false →
      Enterable s { s.accessor with sup := true } svec.toNat true →
      AtHandler s t svec ∧ t.th.scause = causeOf s cause code ∧ t.th.saddr = BitVec.ofNat 64 addr ∧ t.th.spc = s.th.pc ∧
      t.th.sgrp = [s.grp.words.getD 0 0, s.grp.words.getD 1 0, s.grp.words.getD 2 0] ∧ t.th.sup = true ∧ t.th.tl = true ∧
      t.th.trapc = s.th.trapc ∧ t.th.trapa = s.th.trapa ∧ t.th.trappc = s.th.trappc) ∧
    (cause ∈ userCauses ++ supervisorCauses → s.th.tl = true → ∀ c, s.ctx? s.tm.ref.ctx = some c → c.st = .resident →
      ∃ d, t.ctx? s.tm.ref.ctx = some d ∧ d.st = .killing ∧ d.killn = 0x41 + 256 * cause ∧ t.th.regs = s.th.regs)

/-- R184 step 4, R368, R369, R370 and R372: TRAP, BRK and SYSC raise their causes with their codes; the privileged words
trap at user level and have their effect at supervisor level. -/
def Obligations.SystemWordResults : Prop :=
  ∀ (o : EFmt) (s : State),
    (s.active o.g = true →
      exec (.trap o) s = .next (s.raiseCode 0x25 0 o.arg.toNat) ∧ exec (.brk o) s = .next (s.raiseCode 0x26 0 o.arg.toNat) ∧
      exec (.sysc o) s = .next (s.raiseCode 0x27 0 o.arg.toNat)) ∧
    (s.th.sup = false → ∀ i ∈ [Instr.eret o, .rdpr o, .wrpr o, .ctxfl o, .halt o], exec i s = .next (s.raise 0x03 0)) ∧
    (s.th.sup = true →
      (s.th.spc.toNat % 4 = 0 → s.th.spc.toNat % 64 ≠ 60 → s.th.spc.toNat < 2 ^ 56 →
        exec (.eret o) s = .next { s with
          th := { written s.th with
            sup := false, tl := false, pc := s.th.spc, seg := 1, status := .within, gang := s.tm.gangs, yielded := false, passed := false,
            held := false, woke := none, sent := none, issued := [], copy := none, step := none, conv := none, fin := false,
            entering := false, asked := none, lost := [] }
          tm := { s.tm with gangs := s.tm.gangs + 1 } }) ∧
      (s.th.spc.toNat % 4 ≠ 0 ∨ s.th.spc.toNat % 64 = 60 ∨ 2 ^ 56 ≤ s.th.spc.toNat →
        exec (.eret o) s = .next (s.raise cTarget s.th.spc.toNat)) ∧
      (∀ r ∈ privilegedRegisters s, o.arg.toNat = r.1 →
        exec (.rdpr o) s = .next (withPending s (longN o.d (if r.2.1 then 2 else 1) r.2.2))) ∧
      (o.arg = 0x04#7 → exec (.wrpr o) s = .next (withThread s { s.th with spc := s.srcPair o.a })) ∧
      (∀ k < 4, o.arg.toNat = 0x14 + 2 * k → exec (.wrpr o) s = .next (withThread s { s.th with sscr := s.th.sscr.set k (s.srcPair o.a) })) ∧
      (o.arg = 0x02#7 → exec (.wrpr o) s = .next (s.setCtx { s.ctxOf s.tm.ref.ctx with svec := s.srcPair o.a })) ∧
      (o.arg = 0x13#7 → exec (.wrpr o) s = .next (s.setCtx { s.ctxOf s.tm.ref.ctx with
        fairk := if 8 ≤ (s.src o.a).toNat % 32 ∧ (s.src o.a).toNat % 32 ≤ 16 then (s.src o.a).toNat % 32 else 11 })) ∧
      (∀ n ∈ [0x00, 0x06, 0x08, 0x0A, 0x0B, 0x0C, 0x10, 0x11, 0x12, 0x20, 0x22, 0x24], o.arg.toNat = n → exec (.wrpr o) s = .next s) ∧
      (∀ c, s.ctx? s.tm.ref.ctx = some c → c.st = .resident →
        ∃ t d, exec (.halt o) s = .next t ∧ t.ctx? s.tm.ref.ctx = some d ∧ d.st = .killing ∧ d.killn = 0x45 + 256 * o.arg.toNat) ∧
      (let id := (s.src o.a).toNat
       let p := s.iod.parts.getD (s.ctxOf s.tm.ref.ctx).part Part.unused
       let mine := id < 4096 ∧ p.ctxBase ≤ id ∧ id < p.ctxBase + p.ctxCnt
       (¬ mine → exec (.ctxfl o) s = .next (withPending s (long1 o.d 2))) ∧
       (mine → id = s.tm.ref.ctx → exec (.ctxfl o) s = .next (withPending s (long1 o.d 1))) ∧
       (mine → id ≠ s.tm.ref.ctx → (∀ t ∈ s.teams, t.ref.ctx ≠ id) → exec (.ctxfl o) s = .next (withPending s (long1 o.d 0))) ∧
       (mine → id ≠ s.tm.ref.ctx → (∀ t ∈ s.teams, t.ref.ctx = id → t.st = .shuttered) → (∃ t ∈ s.teams, t.ref.ctx = id) →
         ∃ t, exec (.ctxfl o) s = .next t ∧ t.th.status = .blocked .flush)))

/-- R184: majors 0x00 and 0x3F are illegal and the majors that R179 leaves out are undefined; a word that decodes to nothing
takes its trap. -/
def Obligations.NonInstructionWordsTrap : Prop :=
  (∀ w : Word,
    (decode w = .error .badMajor ↔ majorOf w = 0x00 ∨ majorOf w = 0x3F) ∧
    (majorOf w ∈ [0x06, 0x07, 0x17, 0x1C, 0x1D, 0x1E, 0x1F, 0x35, 0x36, 0x37] → decode w = .error .undefinedCode)) ∧
  ∀ (w : Word) (s : State),
    (decode w = .error .badMajor ∨ decode w = .error .badField → exec (.nonInstructionWord w) s = .next (s.raise 0x01 0)) ∧
    (decode w = .error .undefinedCode → exec (.nonInstructionWord w) s = .next (s.raise 0x02 0))

/-! ### Handles, matrix operations, cards, child grids, tree walks -/

namespace Sys2Proof.Spec

open Sys2Proof.Machine

/-- A handle word reaches its handle (R116, R270). -/
structure Handled (o : EFmt) (s : State) (h : Nat) : Prop where
  active : s.active o.g = true
  home : s.th.migrated = false
  number : o.arg.toNat % 64 = h
  declared : h < s.tm.decl.handles

/-- A handle's state changes; every HWAIT for the state it enters completes (R272). -/
def handleEntered (t : Team) (h : Nat) (x : Handle) (st : HState) : Team :=
  { t with
    handles := t.handles.set h { x with st := st }
    hwaits := t.hwaits.map fun w => if w.h = h ∧ w.sets = none ∧ w.st = st then { w with done := true } else w }

/-- The team without the waits of a thread at handle words. -/
def waitOver (t : Team) (tid : Nat) : Team := { t with hwaits := t.hwaits.filter fun w => w.tid != tid }

/-- A region word of R110 whose bytes lie in the team's allocation. -/
def RegionHeld (t : Team) (r : DWord) (len : Nat) : Prop :=
  if r.getLsbD 63 then r.toNat / 2 ^ 60 % 8 < 4 ∧ r.toNat / 2 ^ 32 % 2 ^ 28 = 0 ∧ r.toNat % 2 ^ 32 + len ≤ t.storeSize (r.toNat / 2 ^ 60 % 8)
  else r.toNat < 2 ^ 56

/-- HSTAT after a handle-state trap (R120). -/
def trapHstat (old : Word) (h want seen : Nat) : Word :=
  BitVec.ofNat 32 (2 ^ 31 + h % 64 * 2 ^ 16 + min 255 (old.toNat / 256 % 256 + 1) * 256 + want * 4 + seen)

/-- The codes of R116. -/
def handleCode : HState → Nat
  | .free => 0
  | .filling => 1
  | .full => 2
  | .draining => 3

end Sys2Proof.Spec

/-- R116 to R120, R271 and R272: HSET, HWAIT and HQ; the handle-state trap leaves HSTAT, the range fault a handle that is
not declared. An HSET that waits is performed when its handle comes into the state it waits for, whatever the handle does
next, and its thread goes on when it issues again. -/
def Obligations.HandleResults : Prop :=
  (∀ (o : EFmt) (s : State) (h : Nat) (x : Handle), Handled o s h → s.tm.handles[h]? = some x →
    let st := if 0 < x.readers then HState.full else x.st
    let r := s.srcPair o.a
    let len := s.src (o.a + 2)
    let trap := fun (want : Nat) => State.raise { s with tm := { s.tm with hstat := trapHstat s.tm.hstat h want (handleCode st) } } cHandleState 0
    let waits := fun (i : Instr) (st : HState) (sets : Option HState) => ∃ t, exec i s = .next t ∧
      t.th = { s.th with status := .blocked .handle, issued := s.grp.words } ∧ t.ms = s.ms ∧
      t.tm = { s.tm with hwaits := s.tm.hwaits ++ [⟨s.th.tid, h, st, sets, false⟩] }
    (st = .free → RegionHeld s.tm r len.toNat →
      exec (.hsetBind o) s = .next { s with tm := { s.tm with handles := s.tm.handles.set h { x with region := r, len := len } } }) ∧
    (st ≠ .free → exec (.hsetBind o) s = .next (trap 0)) ∧
    exec (.hq o) s = .next (withPending s (long1 o.d (BitVec.ofNat 32 (handleCode x.st)))) ∧
    ((∀ w ∈ s.tm.hwaits, w.tid ≠ s.th.tid) →
      ((∀ w ∈ s.tm.hwaits, w.h = h → w.sets = none) →
        (st = .free → exec (.hsetFull o) s = .next { s with tm := handleEntered s.tm h x .full }) ∧
        (st = .full → x.readers = 0 → exec (.hsetFree o) s = .next { s with tm := handleEntered s.tm h x .free })) ∧
      (st = .filling ∨ st = .full → exec (.hsetFull o) s = .next (trap 0)) ∧
      (st = .free ∨ st = .draining → exec (.hsetFree o) s = .next (trap 2)) ∧
      (st = .draining → waits (.hsetFull o) .free (some .full)) ∧
      (st = .filling ∨ (st = .full ∧ 0 < x.readers) → waits (.hsetFree o) .full (some .free)) ∧
      (handleCode x.st = o.d.toNat → exec (.hwait o) s = .next s) ∧
      (o.d.toNat < 4 → handleCode x.st ≠ o.d.toNat → waits (.hwait o) (hstateOf o.d.toNat) none)) ∧
    ∀ w, s.myHWait = some w →
      (w.done = true → ∀ i ∈ [Instr.hsetFull o, .hsetFree o, .hwait o], exec i s = .next { s with tm := waitOver s.tm s.th.tid }) ∧
      (w.done = false → ∀ i ∈ [Instr.hsetFull o, .hsetFree o, .hwait o], ∃ t, exec i s = .next t ∧ t.th.status = .blocked .handle ∧ t.tm = s.tm)) ∧
  (∀ (t : Team) (h : Nat) (x : Handle) (tid : Nat) (st sets : HState), t.handles[h]? = some x → x.readers = 0 →
    t.hwaits = [⟨tid, h, st, some sets, false⟩] →
    t.enterHandle h st = { t with handles := t.handles.set h { x with st := sets }, hwaits := [⟨tid, h, st, some sets, true⟩] }) ∧
  ∀ (o : EFmt) (s : State), s.active o.g = true →
    (s.th.migrated = true → ∀ i ∈ [Instr.hsetBind o, .hsetFull o, .hsetFree o, .hwait o, .hq o], exec i s = .next (s.raise cMigrated 0)) ∧
    -- a handle that is not declared: HSTAT names it and the state wanted, where the word wants one
    (s.th.migrated = false → s.tm.decl.handles ≤ o.arg.toNat % 64 → o.d.toNat < 4 →
      ∀ p ∈ [(Instr.hsetBind o, some 0), (.hsetFull o, some 0), (.hsetFree o, some 2), (.hwait o, some o.d.toNat), (.hq o, none)],
        ∃ a b, a < 4 ∧ b < 4 ∧ (∀ x, p.2 = some x → a = x) ∧ ∃ n, exec p.1 s =
          .next (State.raise { s with draws := n, tm := { s.tm with hstat := trapHstat s.tm.hstat (o.arg.toNat % 64) a b } } cHandleRange 0))

/-- R275, R276 and R279: MXOP appends a block that passes every check to its stream and delivers the operation's number;
MXWAIT completes when none is pending; and the stops of both. -/
def Obligations.MatrixWordResults : Prop :=
  ∀ (o : EFmt) (s : State), s.active o.g = true →
    let n := o.arg.toNat % 4
    let off := (s.src o.a).toNat
    let blk := s.tm.lst.read off 64
    let b := MxBlk.ofBytes blk
    let job : Stream → MxJob := fun st => ⟨blk, st.tick + 1, off, false, s.tm.mxOrder⟩
    (∀ i ∈ [Instr.mxop o, .mxwait o],
      (s.th.migrated = true → exec i s = .next (s.raise cMigrated 0)) ∧
      (s.th.migrated = false → s.tm.decl.streams ≤ n → exec i s = .next (s.raise cStreamRange 0))) ∧
    (s.th.migrated = false → n < s.tm.decl.streams → s.th.copy = none →
      (off % 64 ≠ 0 → exec (.mxop o) s = .next (s.raise cAlign off)) ∧
      (off % 64 = 0 → s.tm.decl.lstore < off + 64 → exec (.mxop o) s = .next (s.raise cBounds off)) ∧
      (off % 64 = 0 → off + 64 ≤ s.tm.decl.lstore → s.tm.badStore = [] → (∀ h ∈ b.named, h.1 < s.tm.decl.handles) →
        (∀ f ∈ b.footprints, f.stop ≤ s.tm.storeSize f.space) →
        (mxParamOk s.tm blk = false → exec (.mxop o) s = .next (s.raise cMatrix off)) ∧
        (mxParamOk s.tm blk = true → s.det = false → ∀ st, s.tm.streams[n]? = some st →
          (st.jobs.length < 8 → exec (.mxop o) s = .next { s with
            th := { s.th with pending := s.th.pending ++ [.reg o.d.toNat (st.tick + 1)] }
            tm := { s.tm with
              streams := s.tm.streams.set n { st with tick := st.tick + 1, queue := st.queue ++ [job st] }, mxOrder := s.tm.mxOrder + 1 } }) ∧
          (8 ≤ st.jobs.length → ∃ t, exec (.mxop o) s = .next t ∧ t.th.status = .blocked .stream ∧ t.th.copy = some blk ∧ t.tm = s.tm)))) ∧
    (s.th.migrated = false → n < s.tm.decl.streams → s.th.woke = none → s.det = false → ∀ st, s.tm.streams[n]? = some st →
      (st.jobs = [] → exec (.mxwait o) s = .next s) ∧
      (∀ j ∈ st.jobs, j.tick = st.tick →
        ∃ t, exec (.mxwait o) s = .next t ∧ t.th.status = .blocked .stream ∧ t.th.woke = some (st.tick.setWidth 64) ∧ t.tm = s.tm))

/-- R280 to R285: ENQ stores the card that its eight registers hold at its ring slot, releases NOTIFY, and delivers the
card's number; on a full ring it waits, and a card that a check refuses takes the trap of that check. -/
def Obligations.EnqueueResults : Prop :=
  -- the first two checks of the table, step 2 and step 3: the format, then a handle that is not declared
  (∀ (red : Bool) (t : Team) (c : List Byte),
    let plain := t.ring.size ≠ 0 ∧ t.ring.stopped = false ∧ cardType c ∈ (if red then [1, 2, 3] else [1, 2, 3, 4, 5, 6, 0x10, 0x11, 0x12, 0x13]) ∧
      cardFlags c < 8 ∧ c.getD 3 0 = 0#8 ∧ (∀ r ∈ [cardRbase c, cardWbase c], if r.getLsbD 63 then r.toNat / 2 ^ 60 % 8 < 4 ∧
        r.toNat / 2 ^ 32 % 2 ^ 28 = 0 else r.toNat / 2 ^ 56 % 2 ^ 7 = 0) ∧ cardParam c % 64 = 0
    (¬ plain → cardCheck red t c = some .format) ∧
    (plain → cardHandle c ≠ 0xFF → t.decl.handles ≤ cardHandle c → cardCheck red t c = some (.handle (cardHandle c)))) ∧
  ∀ (o : EFmt) (s : State), s.active o.g = true → s.det = false →
    let c := toBytes 32 (s.srcs o.a 8)
    let e := s.tm.ring.size
    let n := s.tm.lst.readNat 0 4
    let t := storedTeam (storedTeam s.tm 0 (32 + 32 * (n % e)) c) 0 0 (toBytes 4 ((n + 1) % 2 ^ 32))
    let note : Append := ⟨BitVec.ofNat 32 (t.lst.readNat 0 4), s.turns, s.th.tid⟩
    (s.th.migrated = true → exec (.enq o) s = .next (s.raise cMigrated 0)) ∧
    (s.th.migrated = false → s.th.copy = none →
      (∀ x, cardCheck (decide (s.iod.service = .reduced)) s.tm c = some x →
        (x = .format → exec (.enq o) s = .next (s.raise cCardFormat 0)) ∧
        (∀ h, x = .handle h → ∃ a b n, a < 4 ∧ b < 4 ∧ exec (.enq o) s =
          .next (State.raise { s with draws := n, tm := { s.tm with hstat := trapHstat s.tm.hstat h a b } } cHandleRange 0)) ∧
        (x = .permission → exec (.enq o) s = .next (s.raise cEnginePerm 0)) ∧
        (∀ a, x = .bounds a → exec (.enq o) s = .next (s.raise cBounds a)) ∧
        (∀ a, x = .tensor a → exec (.enq o) s = .next (s.raise cTensor a))) ∧
      (cardCheck (decide (s.iod.service = .reduced)) s.tm c = none → s.tm.badStore = [] →
        (s.tm.unretired < e → exec (.enq o) s = .next { s with
          th := { s.th with pending := s.th.pending ++ [.reg o.d.toNat (BitVec.ofNat 32 n)] }
          tm := { t with ring := { t.ring with appends := t.ring.appends ++ [note] } }
          turns := s.turns + 1 }) ∧
        (e ≤ s.tm.unretired → ∃ t, exec (.enq o) s = .next t ∧ t.th.status = .blocked .ring ∧ t.th.copy = some c ∧ t.tm = s.tm)))

/-- R294 to R296: FTLD puts a whole checked table in force, LAUNCH hands its descriptor over and delivers the verdict,
CHWAIT waits for children of the team only. -/
def Obligations.TableAndChildResults : Prop :=
  ∀ (o : EFmt) (s : State), s.active o.g = true → s.det = false →
    let va := (s.srcPair o.a).toNat
    let g := (s.src o.a).toNat
    let ready := s.th.woke = none ∧ (∀ l ∈ s.iod.launches, l.who ≠ ⟨s.tm.ref, s.th.tid⟩)
    (va < 2 ^ 56 → va % 4096 = 0 → ∀ bs s', tableRead s va 256 = .ok (bs, s') →
      (ftabOfBytes bs = none → exec (.ftld o) s = .next (State.raise (s'.acquire 2) cFuncTable va)) ∧
      ∀ tab, ftabOfBytes bs = some tab → ∃ t, exec (.ftld o) s = .next t ∧
        t = { s'.acquire 2 with tm := { s'.tm with ftb := BitVec.ofNat 64 va, ftab := tab } }) ∧
    (va < 2 ^ 56 → va % 4096 ≠ 0 → exec (.ftld o) s = .next (s.raise cAlign va)) ∧
    (∀ v, s.th.woke = some v →
      (v ≠ 0 → exec (.launch o) s = .next (withPending (withThread s { s.th with woke := none }) (long1 o.d (v.setWidth 32)))) ∧
      (v = 0 → exec (.launch o) s = .next (State.raise (withThread s { s.th with woke := none }) cLDesc va))) ∧
    (ready →
      (s.th.migrated = true → exec (.launch o) s = .next (s.raise cMigrated 0)) ∧
      (s.th.migrated = false → s.th.tid ≠ 0 → exec (.launch o) s = .next (s.raise cLLeader va)) ∧
      (s.th.migrated = false → s.th.tid = 0 → s.grid.depth = 10 → exec (.launch o) s = .next (s.raise cLDepth va)) ∧
      (s.th.migrated = false → s.th.tid = 0 → s.grid.depth ≠ 10 → va < 2 ^ 56 → va % 64 ≠ 0 → exec (.launch o) s = .next (s.raise cAlign va)) ∧
      ∀ e, s.th.migrated = false → s.th.tid = 0 → s.grid.depth ≠ 10 → va < 2 ^ 56 → va % 64 = 0 → Mapped s va .load e →
        unretiredChildren s < 256 →
        ∃ t, exec (.launch o) s = .next t ∧ t.iod.launches = s.iod.launches ++ [⟨⟨s.tm.ref, s.th.tid⟩, va⟩] ∧
          t.th = { s.th with status := .blocked .launch, issued := s.grp.words } ∧ t.ms = releaseCaches s.ms s.th.bay 2) ∧
    (g ∉ s.tm.children → exec (.chwait o) s = .next (s.raise cChild 0)) ∧
    (g ∈ s.tm.children →
      ((s.gridOf s.tm.ref.ctx g).st = .retired → exec (.chwait o) s = .next (acquiring s s.ms 2)) ∧
      ((s.gridOf s.tm.ref.ctx g).st ≠ .retired → ∃ t, exec (.chwait o) s = .next t ∧ t.th = { s.th with status := .blocked .childGrid, issued := s.grp.words })) ∧
    (s.th.woke = none →
      ((∀ k ∈ s.tm.children, (s.gridOf s.tm.ref.ctx k).st = .retired) →
        exec (.chwaitAll o) s = .next (acquiring s s.ms 2)) ∧
      ((∃ k ∈ s.tm.children, (s.gridOf s.tm.ref.ctx k).st ≠ .retired) →
        ∃ t, exec (.chwaitAll o) s = .next t ∧ t.th.status = .blocked .childGrid ∧ t.ms = s.ms))

namespace Sys2Proof.Spec

open Sys2Proof.Machine

/-- The status word of R308. -/
def walkWord (depth acc count : Nat) : Word := BitVec.ofNat 32 (depth * 65536 + acc * 256 + (if depth = 0 then 16 else 0) + count)

/-- The FP32 steps of R302 and R303, on bits: sum, difference, product, quotient and multiply-add in a mode, with no flushing. -/
def plus (r : Rnd) (a b : Nat) : Nat := (fmt32.add r false (fmt32.read a) (fmt32.read b)).bits
def less (r : Rnd) (a b : Nat) : Nat := (fmt32.add r false (fmt32.read a) (fmt32.read b).neg).bits
def times (r : Rnd) (a b : Nat) : Nat := (fmt32.mul r false (fmt32.read a) (fmt32.read b)).bits
def quot (a b : Nat) : Nat := (fmt32.div .rne false (fmt32.read a) (fmt32.read b)).bits
def fused (a b c : Nat) : Nat := (fmt32.fma .rne false (fmt32.read a) (fmt32.read b) (fmt32.read c)).bits
def below (a b : Nat) : Bool := relation (fmt32.read a) (fmt32.read b) == some .lt
def isNan (a : Nat) : Prop := ∃ sg, fmt32.read a = .nan sg
def least2 (a b : Nat) : Nat := (fmt32.minmax false false false a b).bits
def most2 (a b : Nat) : Nat := (fmt32.minmax true false false a b).bits

/-- One FP32 value toward −∞ and +∞, of a number (R303). -/
def stepDown (x : Nat) : Nat :=
  if x = 0 ∨ x = 0x80000000 then 0x80000001 else if x = 0xFF800000 then x else if x < 0x80000000 then x - 1 else x + 1
def stepUp (x : Nat) : Nat :=
  if x = 0 ∨ x = 0x80000000 then 1 else if x = 0x7F800000 then x else if x < 0x80000000 then x + 1 else x - 1

/-- The squared length of three FP32 values, as R303 forms it. -/
def square3 (x y z : Nat) : Nat := fused z z (fused y y (times .rne x x))

/-- What a walk has of a node: its bound, of R302, by its bytes. -/
def BoundIs (w : Walk) (node : List Byte) (b : Bound) : Prop :=
  let at' := field w.desc 4 2
  let c := fun (i : Nat) => field node (at' + 4 * i) 4
  -- an FP16 coordinate is exact as FP32
  let h := fun (i : Nat) => (convertF fmt16 fmt32 .rne false false false true (field node (at' + 2 * i) 2)).bits
  let org := fun (i : Nat) => field w.desc (16 + 4 * i) 4
  let boxed := (∀ i < 3, b.centre.getD i 0 = times .rne (plus .rne (b.lo.getD i 0) (b.hi.getD i 0)) 0x3F000000) ∧
    ((∀ i < 3, ¬ isNan (less .ru (b.hi.getD i 0) (b.lo.getD i 0))) →
      (∃ i < 3, b.size = less .ru (b.hi.getD i 0) (b.lo.getD i 0)) ∧ ∀ i < 3, ¬ below b.size (less .ru (b.hi.getD i 0) (b.lo.getD i 0)))
  let ball := fun (half : Nat) => ∀ i < 3, b.centre.getD i 0 = c i ∧ b.lo.getD i 0 = less .rd (c i) half ∧ b.hi.getD i 0 = plus .ru (c i) half
  match field w.desc 2 1 with
  | 0 => b.lo = [c 0, c 1, c 2] ∧ b.hi = [c 3, c 4, c 5] ∧ boxed
  | 1 => (∀ i < 3, b.lo.getD i 0 = plus .rd (org i) (h i) ∧ b.hi.getD i 0 = plus .ru (org i) (h (3 + i))) ∧ boxed
  | 2 => ball (c 3) ∧ b.size = times .ru 0x40000000 (c 3)
  | _ => ball (times .ru (c 3) 0x3F000000) ∧ b.size = c 3

/-- The slab test of R303 from an axis on: the interval that is left, or a miss. -/
def slab (q : Nat → Nat) (b : Bound) : List Nat → Nat × Nat → Option (Nat × Nat)
  | [], t => some t
  | i :: rest, t =>
    let o := q i
    let d := q (3 + i)
    let lo := b.lo.getD i 0
    let hi := b.hi.getD i 0
    if d = 0 ∨ d = 0x80000000 then
      if relation (fmt32.read o) (fmt32.read lo) = some .lt ∨ relation (fmt32.read hi) (fmt32.read o) = some .lt then none else slab q b rest t
    else
      let x := quot (less .rne lo o) d
      let y := quot (less .rne hi o) d
      slab q b rest (most2 t.1 (stepDown (least2 x y)), least2 t.2 (stepUp (most2 x y)))

/-- No NaN is met on an axis. -/
def SoundAxis (q : Nat → Nat) (b : Bound) (i : Nat) : Prop :=
  ¬ isNan (q i) ∧ ¬ isNan (q (3 + i)) ∧ ¬ isNan (b.lo.getD i 0) ∧ ¬ isNan (b.hi.getD i 0) ∧
  (q (3 + i) ≠ 0 → q (3 + i) ≠ 0x80000000 →
    ¬ isNan (quot (less .rne (b.lo.getD i 0) (q i)) (q (3 + i))) ∧ ¬ isNan (quot (less .rne (b.hi.getD i 0) (q i)) (q (3 + i))))

/-- The order in which the passing children of a node stand, the first to be on top: of a ray by their values, equal ones by their
slots; else by their slots (R304). -/
def Ordered (ray : Bool) (ps l : List (Nat × Nat)) : Prop :=
  if ray then
    ∃ z : List ((Nat × Nat) × Nat), z.Perm ps.zipIdx ∧ l = z.map Prod.fst ∧
      z.Pairwise fun a b => below a.1.2 b.1.2 ∨ (¬ below b.1.2 a.1.2 ∧ a.2 < b.2)
  else l = ps

/-- The team once entries are pushed on a walk's stack, the last of the list first (R300, R304). -/
def pushed (w : Walk) (t : Team) (l : List (Nat × Nat)) : Team :=
  l.reverse.zipIdx.foldl
    (fun t p => storedTeam t 0 (w.area + 64 + 16 * (w.depth + p.2)) (toBytes 4 p.1.1 ++ toBytes 4 p.1.2 ++ toBytes 8 0)) t

end Sys2Proof.Spec

/-- R302 to R304 and R306 to R309: the bounds and the tests; TWINIT reads the walk block, the descriptor and the root; TWSTEP pops
entries, skips those beyond tmax, emits leaves and accepted nodes and expands the others, until it has four records or the stack
is empty; it overflows, or meets an address that no node has; TWGET reads the step's values and status; TWEND ends the walk. -/
def Obligations.TreeWalkResults : Prop :=
  (∀ (w : Walk) (node : List Byte), BoundIs w node (w.bound node)) ∧
  -- the tests of R303
  (∀ (w : Walk) (b : Bound),
    let q := fun (i : Nat) => field w.blk (32 + 4 * i) 4
    let tmax := w.tmax.toNat
    (field w.blk 16 1 = 0 → (∀ i < 3, SoundAxis q b i) → ¬ isNan (q 6) → ¬ isNan tmax →
      (∀ t, slab q b [0, 1, 2] (q 6, tmax) = some t → w.test b = if below t.2 t.1 then none else some t.1) ∧
      (slab q b [0, 1, 2] (q 6, tmax) = none → w.test b = none)) ∧
    (field w.blk 16 1 = 0 → SoundAxis q b 0 → q 3 ≠ 0 → q 3 ≠ 0x80000000 → ¬ isNan (q 6) → ¬ isNan tmax → q 4 ≠ 0 → q 4 ≠ 0x80000000 →
      isNan (quot (less .rne (b.lo.getD 1 0) (q 1)) (q 4)) ∨ isNan (quot (less .rne (b.hi.getD 1 0) (q 1)) (q 4)) → w.test b = some (q 6)) ∧
    (field w.blk 16 1 = 1 →
      let e := fun (i : Nat) => most2 (most2 (less .rne (b.lo.getD i 0) (q i)) 0) (less .rne (q i) (b.hi.getD i 0))
      let d2 := square3 (e 0) (e 1) (e 2)
      let r2 := times .rne (q 3) (q 3)
      ((∀ i < 3, ¬ isNan (less .rne (b.lo.getD i 0) (q i)) ∧ ¬ isNan (less .rne (q i) (b.hi.getD i 0))) → ¬ isNan d2 → ¬ isNan r2 →
        w.test b = if below r2 d2 then none else some d2) ∧
      (isNan r2 ∨ (∃ i < 3, isNan (less .rne (b.lo.getD i 0) (q i)) ∨ isNan (less .rne (q i) (b.hi.getD i 0))) → w.test b = some 0)) ∧
    (field w.blk 16 1 = 2 →
      let g := fun (i : Nat) => less .rne (q i) (b.centre.getD i 0)
      w.test b = some (square3 (g 0) (g 1) (g 2)) ∧
      ∀ d2, w.far b d2 = true ↔ below (times .rne b.size b.size) (times .rne (times .rne (q 3) (q 3)) d2))) ∧
  -- an address that no node has
  (∀ (w : Walk) (s : State) (off : Nat), 2 ^ 56 ≤ w.tbase + 16 * off → 0 < w.nsize →
    ∃ va, w.read s off = .error (.fault cRange va) ∧ va = w.tbase + 16 * off) ∧
  -- the children of a node, in the order of their slots
  (∀ (w : Walk) (node : List Byte) (s : State) (j : Nat) (rest : List Nat),
    let off := field node (field w.desc 6 2 + 4 * j) 4
    childTests w node s [] = .ok ([], s) ∧
    (off = 0xFFFFFFFF → childTests w node s (j :: rest) = childTests w node s rest) ∧
    ∀ cn s1 ps s2, off ≠ 0xFFFFFFFF → w.read s off = .ok (cn, s1) → childTests w node s1 rest = .ok (ps, s2) →
      (w.test (w.bound cn) = none → childTests w node s (j :: rest) = .ok (ps, s2)) ∧
      ∀ v, w.test (w.bound cn) = some v → childTests w node s (j :: rest) = .ok ((off, v) :: ps, s2)) ∧
  -- the turns of a step: w is the walk, rs the records so far
  (∀ (o : EFmt) (s : State) (w : Walk) (rs : List WalkRec) (was : List Byte) (n : Nat),
    let step := fun (k : Nat) (w : Walk) (rs : List WalkRec) (s : State) => twLoop o was k w rs s
    (4 ≤ rs.length ∨ w.depth = 0 → step (n + 1) w rs s = withThread s { s.th with
      walk := some { w with
        vals := (List.range 4).map fun i => BitVec.ofNat 32 (((rs.map (·.val))[i]?).getD 0)
        status := walkWord w.depth (((rs.zipIdx.filter fun p => p.1.acc).map fun p => 2 ^ p.2).sum) rs.length }
      step := none
      pending := s.th.pending ++ (List.range 4).map fun i => .reg (o.d.toNat + i) (BitVec.ofNat 32 (((rs.map (·.off))[i]?).getD 0xFFFFFFFF)) }) ∧
    (rs.length < 4 → 0 < w.depth → s.tm.badStore = [] →
      let p := { w with depth := w.depth - 1 }
      let e := s.tm.lst.read (w.area + 64 + 16 * (w.depth - 1)) 8
      let off := ofBytes (e.take 4)
      let val := ofBytes (e.drop 4)
      let beyond := field w.blk 16 1 = 0 ∧ below w.tmax.toNat val
      (beyond → step (n + 1) w rs s = step n p rs s) ∧
      (¬ beyond →
        (∀ va, p.read s off = .error (.fault cRange va) →
          step (n + 1) w rs s = State.raise (withThread s { s.th with walk := some { w with failed := true } }) cRange va) ∧
        ∀ node s1, p.read s off = .ok (node, s1) →
          let leaf := (ofBytes (node.take 4)).testBit (field w.desc 3 1)
          let d2 := (p.test (p.bound node)).getD 0
          let far := field w.blk 16 1 = 2 ∧ p.far (p.bound node) d2 = true
          (leaf = true → step (n + 1) w rs s = step n p (rs ++ [⟨off, val, false⟩]) s1) ∧
          (leaf = false → far → step (n + 1) w rs s = step n p (rs ++ [⟨off, d2, true⟩]) s1) ∧
          (leaf = false → ¬ far → ∀ va, childTests p node s1 (List.range (field w.desc 1 1)) = .error (.fault cRange va) →
            step (n + 1) w rs s = State.raise (withThread s { s.th with walk := some { w with failed := true } }) cRange va) ∧
          (leaf = false → ¬ far → ∀ ps s2, childTests p node s1 (List.range (field w.desc 1 1)) = .ok (ps, s2) →
            (p.depth + ps.length ≤ field w.blk 17 1 → (∀ c ∈ ps, ¬ isNan c.2) → ∀ l, Ordered (decide (field w.blk 16 1 = 0)) ps l →
              step (n + 1) w rs s = step n { p with depth := p.depth + ps.length } rs { s2 with tm := pushed p s2.tm l }) ∧
            (field w.blk 17 1 < p.depth + ps.length →
              step (n + 1) w rs s = State.raise (withThread s2 { s2.th with walk := some { p with failed := true } }) cWalkStack w.area))))) ∧
  -- a step begins with tmax, which a U form makes smaller
  (∀ (o : EFmt) (s : State) (w : Walk), s.active o.g = true → s.th.migrated = false → s.th.walk = some w → w.failed = false → s.th.step = none →
    let v := (s.src o.a).toNat
    let u := o.arg.getLsbD 0 = true ∧ field w.blk 16 1 = 0 ∧ ¬ isNan v
    let was := s.tm.lst.read (w.area + 64) (16 * field w.blk 17 1)
    (u → exec (.twstep o) s = .next (twLoop o was 256 { w with tmax := BitVec.ofNat 32 (least2 w.tmax.toNat v) } [] s)) ∧
    (¬ u → exec (.twstep o) s = .next (twLoop o was 256 w [] s))) ∧
  ∀ (o : EFmt) (s : State), s.active o.g = true →
    (s.th.migrated = true → ∀ i ∈ [Instr.twinit o, .twstep o, .twgetVal o, .twgetSt o, .twend o], exec i s = .next (s.raise cMigrated 0)) ∧
    (s.th.migrated = false →
      exec (.twend o) s = .next (withThread s { s.th with walk := none }) ∧
      (s.th.walk = none → ∀ i ∈ [Instr.twstep o, .twgetVal o, .twgetSt o], exec i s = .next (s.raise cWalkState 0)) ∧
      (∀ w, s.th.walk = some w → w.failed = false →
        exec (.twgetVal o) s = .next (withPending s ((List.range 4).map fun i => .reg (o.d.toNat + i) (w.vals.getD i 0))) ∧
        exec (.twgetSt o) s = .next (withPending s [.reg o.d.toNat w.status]) ∧
        (w.depth = 0 → s.th.step = none → o.arg.getLsbD 0 = false →
          exec (.twstep o) s = .next (withThread s { s.th with
            walk := some { w with vals := [0, 0, 0, 0], status := walkWord 0 0 0 }
            pending := s.th.pending ++ (List.range 4).map fun i => .reg (o.d.toNat + i) 0xFFFFFFFF })) ∧
        (w.depth = 1 → s.th.step = none → o.arg.getLsbD 0 = false → w.qkind ≠ 0 → s.tm.badStore = [] → ∀ node s',
          let e := s.tm.lst.read (w.area + 64) 8
          let off := ofBytes (e.take 4)
          let val := ofBytes (e.drop 4)
          w.read s off = .ok (node, s') → (ofBytes (node.take 4)).testBit w.leafbit = true →
          exec (.twstep o) s = .next (withThread s' { s'.th with
            walk := some { w with depth := 0, vals := [BitVec.ofNat 32 val, 0, 0, 0], status := walkWord 0 0 1 }
            step := none
            pending := s'.th.pending ++ [.reg o.d.toNat (BitVec.ofNat 32 off), .reg (o.d.toNat + 1) 0xFFFFFFFF,
              .reg (o.d.toNat + 2) 0xFFFFFFFF, .reg (o.d.toNat + 3) 0xFFFFFFFF] }))) ∧
      (let area := (s.src o.a).toNat
       let b := s.tm.lst.read area 64
       let w : Walk := ⟨b, [], area, 0, BitVec.ofNat 32 (field b 60 4), [0, 0, 0, 0], walkWord 0 0 0, false⟩
       (area % 64 ≠ 0 → exec (.twinit o) s = .next (s.raise cAlign area)) ∧
       (area % 64 = 0 → s.tm.decl.lstore < area + 64 → exec (.twinit o) s = .next (s.raise cBounds area)) ∧
       (area % 64 = 0 → area + 64 ≤ s.tm.decl.lstore → s.tm.badStore = [] →
         (walkBlockOk b = false → exec (.twinit o) s = .next (s.raise cWalkFormat area)) ∧
         (walkBlockOk b = true → area + 64 + 16 * field b 17 1 ≤ s.tm.decl.lstore → field b 0 8 < 2 ^ 56 → field b 8 8 < 2 ^ 56 →
           ∀ d s1, unitRead s (field b 0 8) 2 = .ok (d, s1) →
             (walkDescOk d = false → exec (.twinit o) s = .next (s1.raise cWalkFormat area)) ∧
             (walkDescOk d = true → ∀ node s2, let w := { w with desc := d }
               w.read s1 (field b 20 4) = .ok (node, s2) →
               (w.test (w.bound node) = none → exec (.twinit o) s = .next (withThread s2 { s2.th with walk := some w })) ∧
               ∀ v, w.test (w.bound node) = some v → exec (.twinit o) s = .next { s2 with
                 th := { s2.th with walk := some { w with depth := 1, status := walkWord 1 0 0 } }
                 tm := storedTeam s2.tm 0 (area + 64) (toBytes 4 (field b 20 4) ++ toBytes 4 v ++ toBytes 8 0) })))))

/-! ### Events of threads and of the memory system -/

namespace Sys2Proof.Spec

open Sys2Proof.Machine

/-- A placed team of a live context, and one of its threads. -/
def Names (s : State) (r : ThreadRef) (t : Team) (x : Thread) : Prop :=
  s.placedTeam r.team = some t ∧ (t.threads.find? fun y => y.tid == r.tid) = some x

/-- The team t put in the place of the one with its name. -/
def withTeam (s : State) (t : Team) : State := { s with teams := s.teams.map fun x => if x.ref = t.ref then t else x }

/-- The team with other threads. -/
def withThreads (t : Team) (f : Thread → Thread) : Team := { t with threads := t.threads.map f }

/-- One fairness round of a context, in cycles (R18). -/
def roundOf (s : State) (ctx : Nat) : Nat := 2 ^ (s.ctxOf ctx).fairk

/-- A thread's latch entry changed. -/
def withLatch (s : State) (r : ThreadRef) (f : Latch → Latch) : State :=
  { s with ms := { s.ms with latches := s.ms.latches.map fun l => if l.who = .thread r then f l else l } }

end Sys2Proof.Spec

/-- R25, R29, R177, R221, R222, R236, R237, R422, R428, R440 and R441: the events of threads, where their conditions hold. That
PAGE_WALK first drops what the bay holds for the address is the model's choice (log entry 67). -/
def Obligations.ThreadEventResults : Prop :=
  (∀ (s : State) (r : ThreadRef) (t : Team) (x : Thread), Names s r t x →
    let only := fun (y : Thread) => withTeam s (withThreads t fun z => if z.tid = x.tid then y else z)
    (∀ k n v, x.pending[k]? = some (.reg n v) → (∀ p ∈ x.pending, ∀ m c, p ≠ .flags m c) →
      exec (.longResultWrite r k) s = .next (only { x with regs := x.regs.set n v, pending := x.pending.eraseIdx k })) ∧
    (∀ l n v m l', x.pending = l ++ .reg n v :: .flags m 1 :: l' →
      exec (.longResultWrite r l.length) s = .next (only { x with regs := x.regs.set n v, fps := x.fps ||| m, pending := l ++ l' })) ∧
    (∀ l n v n' v' m l', x.pending = l ++ .reg n v :: .reg n' v' :: .flags m 2 :: l' →
      exec (.longResultWrite r l.length) s =
        .next (only { x with regs := x.regs.set n v, pending := l ++ .reg n' v' :: .flags m 1 :: l' }) ∧
      exec (.longResultWrite r (l.length + 1)) s =
        .next (only { x with regs := x.regs.set n' v', pending := l ++ .reg n v :: .flags m 1 :: l' })) ∧
    (∀ k n b, x.pending[k]? = some (.pred n b) →
      exec (.longResultWrite r k) s =
        .next (only { x with preds := if n = 0 then x.preds else x.preds.set n b, pending := x.pending.eraseIdx k })) ∧
    (x.status = .blocked .rcv → x.conv = none → x.since + roundOf s r.team.ctx ≤ s.cycle →
      exec (.rcvHoldExpiry r) s = .next (withTeam s (withThreads t fun y =>
        if y.tid / t.grant = x.tid / t.grant ∧ y.bay = x.bay ∧ y.atRcv (t.st == .running) x.pc.toNat (x.standAddr rcvWord) = true then
          { y with conv := some [], gang := x.gang } else y))) ∧
    (x.yielded = true → x.since + 16 ≤ s.cycle ∨ x.passed = true →
      exec (.yieldHoldEnd r) s =
        .next (withTeam s (withThreads t fun y => if y.gang = x.gang then { y with yielded := false, passed := false } else y))) ∧
    let again := withThreads t fun y =>
      if (match y.status with | .parked _ _ | .aside _ => true | _ => false) = true ∧ y.gang = x.gang then { y with status := .within } else y
    (∀ va k l n a s', x.status = .parked va k → t.st = .running → leafFor s r.team.ctx x.bay va = (.leaf l n a, s') →
      exec (.faultReplayWalk r) s = .next (withTeam s' again)) ∧
    ∀ va l n a s', x.status = .aside va → t.st = .running → leafFor s r.team.ctx x.bay va = (.leaf l n a, s') →
      (leafLock l = false → exec (.lockedPageRewalk r) s = .next (withTeam s' again)) ∧
      (leafLock l = true → exec (.lockedPageRewalk r) s = .next (withTeam s (withThreads t fun y =>
        if y.gang = x.gang ∧ (match y.status with | .aside _ => true | _ => false) = true then { y with since := max 1 s.time } else y)))) ∧
  (∀ (s : State) (r : TeamRef) (t : Team), s.runningTeam r = some t →
    (∀ c, t.hold = some c → (∀ x ∈ t.threads, x.status = .exited ∨ (x.status = .boundary ∧ x.held = true ∧ x.migrated = false)) →
      s.cycle ≤ c + roundOf s r.ctx →
      ∃ u, exec (.reslice r) s = .next (withTeam s u) ∧ u.grant = grantFor t.widthReq (bayCap s t.bay) t.pcap ∧ u.hold = none ∧
        u.reqPending = false ∧ (u.threads.map fun x => { x with gang := 0 }) = t.threads.map fun x => { x with gang := 0, held := false }) ∧
    (∀ c, t.hold = some c → c + roundOf s r.ctx ≤ s.cycle → exec (.setwHoldLapse r) s = .next (withTeam s { t with
      hold := none, threads := t.threads.map fun x => { x with held := false } })) ∧
    (∀ co, t.diverged co = true → 4 * roundOf s r.ctx ≤ t.convAcc.getD (t.convSlot co) 0 →
      exec (.convergenceFault r co) s =
        .next ((t.convThreads co).foldl (fun s x => raiseAt s ⟨r, x.tid⟩ convergentWord cConverge 0) s)) ∧
    (t.imprecise ≠ [] → (∀ x ∈ t.threads, x.status = .exited) →
      exec (.impreciseTrapDelivery r) s = .next (s.killContext r.ctx 0x43 0)) ∧
    (t.imprecise ≠ [] → ∀ x, (t.threads.find? fun x => x.status != .exited) = some x → x.status = .boundary →
      exec (.impreciseTrapDelivery r) s = .next (deliverCauses s t x))) ∧
  ∀ (s : State) (r : ThreadRef),
    exec (.waituExpiry r) s = .next (withLatch s r fun l =>
      if (∃ d, l.deadline = some d ∧ d ≤ s.time) ∧ l.outcome = none then { l with lapsed := true } else l) ∧
    (∀ (l : Latch) (d now : Nat), l.outcome = none → l.deadline = some d →
      l.expire now = { l with outcome := if l.lapsed = true ∨ d + 1000 < now then some false else none }) ∧
    (let read := fun (ms : MemSys) (l : Latch) => if l.outcome = none ∧ l.ownView = false then
        { l with reread := s.time, outcome := if latchHolds ms l = true then some true else none } else l
     ((∀ l ∈ s.ms.latches, l.who = .thread r → l.place = .bay → l.outcome ≠ none) → exec (.latchBayReread r) s = .next s) ∧
     (∀ b first, (s.ms.latches.find? fun l => l.who == .thread r && l.place == .bay && l.outcome.isNone) = some first →
       (s.teams.findSome? fun t => if t.ref = r.team then (t.threads.find? fun x => x.tid == r.tid).map (·.bay) else none) = some b →
       let ms := acquireCaches s.ms b 2
       -- of a line of the host, the home slice keeps no clean copy
       let ms := if isHost (64 * (first.pa / 64)) then { ms with l2 := ms.l2.filter fun p => p.dirty || p.sec / 4 != first.pa / 64 } else ms
       exec (.latchBayReread r) s = .next { s with ms := { ms with
         latches := ms.latches.map fun l => if l.who = .thread r ∧ l.place = .bay then read ms l else l } }) ∧
     ∀ line, (isHost (64 * line) = false → exec (.hostLineReread line) s = .next s) ∧
       (isHost (64 * line) = true →
         let ms := { s.ms with l2 := s.ms.l2.filter fun p => p.dirty || p.sec / 4 != line }
         exec (.hostLineReread line) s = .next { s with ms := { ms with
           latches := ms.latches.map fun l => if l.pa / 64 = line ∧ (l.place = .table ∨ l.place = .overflow) then read ms l else l } })) ∧
    ∀ bay ctx va res s', va < 2 ^ 56 → s.alive ctx = true → leafFor (tlbDrop s ctx bay va) ctx bay va = (res, s') →
      exec (.pageWalk bay ctx va) s = .next s'

/-- R125, R155, R157 to R159, R433, R446, R447, R462, R464 and R471: write-backs, the host, the pod, and errors. That LINK_TIMEOUT
names a card by a number 2^32 above its own is the model's choice (log entry 33), and so is that an acknowledgement other than 0
is a refusal, which kills (log entry 34). -/
def Obligations.MemoryEventResults : Prop :=
  (∀ (s : State) (c q : Nat), c < 96 →
    exec (.cacheWriteback c q false) s = .next { s with ms := writeBack s.ms c q } ∧
    exec (.cacheWriteback c q true) s = .next { s with ms := { writeBack s.ms c q with
      caches := (writeBack s.ms c q).caches.filter fun x => !(x.sec == q && (x.own == 768 + c || (x.own < 768 && x.own / 8 == c))) } }) ∧
  (∀ (s : State) (pa n v : Nat), 0 < n → n ≤ 16 → pa / 16 = (pa + n - 1) / 16 → pa < 2 ^ 40 →
    exec (.hostAccess true pa n v) s = .next { s with ms := homeWrite s.ms pa (toBytes n v) } ∧
    (s.ms.lost (pa / 16) = false → exec (.hostAccess false pa n v) s = .next { s with iod := { s.iod with hostRead := homeNat s.ms pa n } }) ∧
    (s.ms.lost (pa / 16) = true → exec (.hostAccess false pa n v) s = .next s)) ∧
  (∀ (s : State) (v : Nat), exec (.hostAccess false 0 0 v) s = .next { s with iod := { s.iod with hostRead := 0 } }) ∧
  (∀ (s : State) (peer seq pa n v : Nat),
    let up := s.iod.routes.any fun r => r.1 == peer && s.iod.podl.getD r.2 0 == 2
    let performed := fun (ms : MemSys) => { s with ms := { ms with podIn := ms.podIn ++ [(peer, seq)] } }
    -- no route to the node leads over a link that is up
    (up = false → ∀ ack, exec (.podMessageReceive peer seq ack pa n v) s = .next s) ∧
    (up = true →
      (s.iod.node ≠ none → (peer, seq) ∉ s.ms.podIn → 0 < n → n ≤ 16 → pa / 16 = (pa + n - 1) / 16 →
        (∀ w, (s.iod.exports.find? fun w => w.base ≤ pa && pa < w.base + w.size) = some w →
          exec (.podMessageReceive peer seq false pa n v) s =
            .next (performed (homeWrite s.ms ((if w.home ≠ bits pa 32 30 then (w.home + 1) * aliasBase else 0) + pa) (toBytes n v)))) ∧
        ((s.iod.exports.find? fun w => w.base ≤ pa && pa < w.base + w.size) = none →
          exec (.podMessageReceive peer seq false pa n v) s = .next (performed s.ms))) ∧
      ((peer, seq) ∈ s.ms.podIn → exec (.podMessageReceive peer seq false pa n v) s = .next s) ∧
      ∀ m, (s.ms.podOut.find? fun m => m.peer == peer && m.seq == seq) = some m →
        let s' := { s with ms := { s.ms with podOut := s.ms.podOut.filter fun m => !(m.peer == peer && m.seq == seq) } }
        exec (.podMessageReceive peer seq true pa n 0) s = .next s' ∧
        ∀ r, m.who = some r → v ≠ 0 → exec (.podMessageReceive peer seq true pa n v) s = .next (s'.killContext r.team.ctx 0x40 0))) ∧
  (∀ (s : State) (peer : Nat), exec (.podFlagResend peer) s = .next { s with ms := { s.ms with
    podOut := (s.ms.podOut.filter fun m => !(m.peer == peer && m.flag)) ++ s.ms.podOut.filter fun m => m.peer == peer && m.flag } }) ∧
  (∀ (s : State) (r : ThreadRef) (t : Team) (x : Thread) (w : MemWait), Names s r t x → x.sent = some w →
    x.status = .blocked .pod ∨ x.status = .blocked .flush → (∃ m ∈ s.ms.podOut, (m.peer, m.seq) ∈ w.msgs) →
    let due := w.since + (if w.backup = true then 19 * s.iod.lto else 10 * s.iod.lto)
    (s.time < due → exec (.podLinkFault r) s = .next s) ∧
    (due ≤ s.time → ∀ ws f, atGroup s r = some (t, x, ws, f) → exec (.podLinkFault r) s = .next (raiseAt
        { s with
          ms := { s.ms with podOut := s.ms.podOut.map fun m => if m.who == some r then { m with who := some (backRef r.team.ctx) } else m }
          iod := { s.iod with ltocnt := (s.iod.ltocnt + 1) % 2 ^ 64 } }
        r memoryWord cPodLink (((ws.findSome? (linkUse f)).map (·.va)).getD 0)))) ∧
  (∀ (s : State) (r : ThreadRef) (t : Team) (addr : Nat), s.placedTeam r.team = some t →
    let counted := fun (s : State) => { s with iod := { s.iod with ltocnt := (s.iod.ltocnt + 1) % 2 ^ 64 } }
    -- a card's request, whose count has ended; one whose count has not
    (2 ^ 32 ≤ r.tid →
      ((∃ c ∈ t.ring.cards, c.seq = r.tid - 2 ^ 32 ∧ c.phase ≠ .waiting ∧ c.since + 10 * s.iod.lto ≤ s.time) →
        exec (.linkTimeout r addr) s = .next ((counted s).killContext r.team.ctx 0x40 0)) ∧
      ((∀ c ∈ t.ring.cards, s.time < c.since + 10 * s.iod.lto) → exec (.linkTimeout r addr) s = .next s)) ∧
    -- a thread's request; of its walker
    ∀ x a ws, r.tid < 2 ^ 32 → (t.threads.find? fun x => x.tid == r.tid) = some x → x.status = .blocked .link → x.asked = some a →
      let due := a.since + (if a.backup = true then 19 * s.iod.lto else 10 * s.iod.lto)
      (s.time < due → exec (.linkTimeout r addr) s = .next s) ∧
      (due ≤ s.time → x.issued = ws → ws ≠ [] → x.step = none →
        let f := s.focus r
        let f := { f with grp := ⟨ws, a.pos, f.th, f.tm, none⟩ }
        (a.walker = false → exec (.linkTimeout r addr) s = .next (State.raise (counted f) cDataError (16 * a.sec)).flush) ∧
        (a.walker = true → exec (.linkTimeout r addr) s = .next ((counted f).killContext f.tm.ref.ctx 0x40 0).flush))) ∧
  (∀ (s : State) (port : Nat), port < 16 →
    (s.iod.podl.getD port 0 = 2 → exec (.flitCrcRetry port) s = .next { s with iod := { s.iod with crcPort := some port } }) ∧
    (port < s.iod.podl.length →
      -- whether a path is left to a node below this one's, its source of time (R461)
      let source := ∃ n ∈ s.iod.node, ∃ r ∈ s.iod.routes, r.1 < n ∧ ∃ q ∈ s.iod.routes, q.1 = r.1 ∧ q.2 ≠ port ∧ s.iod.podl.getD q.2 0 = 2
      (source → exec (.podLinkTrainingFail port) s = .next { s with iod := { s.iod with podl := s.iod.podl.set port 3 } }) ∧
      (¬ source → exec (.podLinkTrainingFail port) s = .next { s with iod := { s.iod with podl := s.iod.podl.set port 3, syncRate := 0 } }))) ∧
  (∀ (s : State) (q : Nat), 16 * q < 2 ^ 40 → q ∉ s.ms.failed →
    ∃ u, exec (.uncorrectableError (.memory q)) s = .next u ∧ u.ms = { s.ms with failed := s.ms.failed ++ [q] } ∧
      u.iod.retired = (s.iod.retired + 1) % 2 ^ 64 ∧ u.teams = s.teams) ∧
  (∀ (s : State) (own q : Nat) (x : CacheSec), cacheGet s.ms own q = some x → physSec q ∉ s.ms.failed →
    (x.dirty = false → ∃ u, exec (.uncorrectableError (.cacheCopy own q)) s = .next u ∧
      u.ms = { s.ms with caches := s.ms.caches.filter fun c => !(c.own == own && c.sec == q) }) ∧
    (x.dirty = true → ∃ u, exec (.uncorrectableError (.cacheCopy own q)) s = .next u ∧ u.ms.failed = s.ms.failed ++ [physSec q] ∧ u.ms.mem = s.ms.mem)) ∧
  (∀ (s : State) (r : ThreadRef) (t : Team) (x : Thread) (n : Nat), Names s r t x → n < 64 →
    ∃ u v, exec (.uncorrectableError (.register r n)) s = .next u ∧ u.teams = (withTeam s v).teams ∧ (x.tid, n) ∈ v.badReg ∧
      (∀ b ∈ t.badReg, b ∈ v.badReg) ∧ v.threads = t.threads) ∧
  ∀ (s : State) (r : TeamRef) (t : Team) (sp off : Nat), s.placedTeam r = some t → sp < 4 → off < t.storeSize sp →
    ∃ u v, exec (.uncorrectableError (.typedStore r sp off)) s = .next u ∧ u.teams = (withTeam s v).teams ∧ (sp, off / 16) ∈ v.badStore ∧
      (∀ b ∈ t.badStore, b ∈ v.badStore) ∧ v.threads = t.threads

/-! ### Events of engines -/

namespace Sys2Proof.Spec

open Sys2Proof.Machine

/-- The work of each card type (R288). -/
def cardWorks : List ((TeamRef → Nat → Instr) × Nat × (Card → State → Eng Unit)) :=
  [(.copy, 0x01, copyWork), (.gather, 0x02, gatherWork), (.scatter, 0x03, scatterWork), (.xpose, 0x04, xposeWork), (.quant, 0x05, quantWork),
   (.mxpre, 0x06, mxpreWork), (.proj, 0x10, projWork), (.bin, 0x11, binWork), (.blend, 0x12, blendWork), (.back, 0x13, backWork)]

/-- The team with a card in another phase since an instant. -/
def cardAt (t : Team) (k : Card) (p : CardPhase) (since : Nat) : Team :=
  { t with ring := { t.ring with cards := t.ring.cards.map fun c => if c.seq == k.seq then { c with phase := p, since := since } else c } }

end Sys2Proof.Spec

/-- R107, R286 and R288: a card of each type, once its edges, handle and time admit it, starts, its handle making the start
transition, and performs its work as one act; where an access waits for a translation, it has started and nothing of its work
is performed, and the retry tries the work again. A COPY of one row between two typed stores writes the X bytes of its source
at its destination, and changes nothing else (R289). -/
def Obligations.CardResults : Prop :=
  (∀ p ∈ cardWorks, ∀ (s : State) (r : TeamRef) (t : Team) (k : Card), t.card? k.seq = some k → cardType k.bytes = p.2.1 →
    let work := fun (t : Team) => p.2.2 k (s.asTeam (cardAt t k .moved s.time))
    let done := fun (s' : State) => { s'.setTeam s'.tm with th := s.th, tm := s.tm }
    (s.runningTeam r = some t → cardReady s t k = true →
      (∀ s', work (t.startCard k) = .ok ((), s') → exec (p.1 r k.seq) s = .next (done s')) ∧
      (work (t.startCard k) = .error (.wait none) → exec (p.1 r k.seq) s = .next (s.setTeam (cardAt (t.startCard k) k .started s.time))) ∧
      (work (t.startCard k) = .error .kill →
        exec (p.1 r k.seq) s = .next ((s.setTeam (cardAt (t.startCard k) k .started s.time)).killContext t.ref.ctx 0x40 0))) ∧
    (s.placedTeam r = some t → k.phase = .started →
      (∀ s', work t = .ok ((), s') → exec (.engineFaultRetry r k.seq) s = .next (done s')) ∧
      (work t = .error (.wait none) → exec (.engineFaultRetry r k.seq) s = .next (s.setTeam (cardAt t k .started k.since))))) ∧
  ∀ (k : Card) (s : State),
    let x := field k.blk 8 4
    let sp := regionSpace (cardRbase k.bytes)
    let dp := regionSpace (cardWbase k.bytes)
    let so := regionOffset (cardRbase k.bytes)
    let d := regionOffset (cardWbase k.bytes)
    regionIsStore (cardRbase k.bytes) = true → regionIsStore (cardWbase k.bytes) = true → field k.blk 12 4 = 1 → field k.blk 16 4 = 1 →
    s.tm.badStore = [] → k.early = none →
    copyWork k s = .ok ((), { s with tm := storedTeam s.tm dp d ((s.tm.store sp).read so x) })

/-- R117, R152, R276, R277, R283, R286, R451 and R481: acceptance, completion and retirement of cards, and the life of a matrix
operation, where their conditions hold. That all operands are read as one act at MXOP_READS_COMPLETE, and C again at completion, is
the model's choice (log entry 22). -/
def Obligations.EngineEventResults : Prop :=
  (∀ (s : State) (r : TeamRef) (t : Team), s.runningTeam r = some t →
    let n := t.ring.accepted
    let at' := 32 + 32 * (n.toNat % t.ring.size)
    let c := t.lst.read at' 32
    let ahead := (BitVec.ofNat 32 (t.lst.readNat 0 4) - n).toNat
    0 < t.ring.size → t.ring.stopped = false → t.ring.again = [] → 1 ≤ ahead → ahead ≤ t.ring.size → t.ring.cards.length < t.ring.size → t.badStore = [] →
    (∀ e, cardCheck (decide (s.iod.service = .reduced)) t c = some e → exec (.cardAccept r) s =
      .next (withTeam s { t with ring := { t.ring with stopped := true }, imprecise := t.imprecise ++ [(cEngineCard, at')] })) ∧
    (cardCheck (decide (s.iod.service = .reduced)) t c = none →
      ∃ u k, exec (.cardAccept r) s = .next u ∧ u.teams = (withTeam s { t with ring := { t.ring with
          accepted := n + 1, cards := t.ring.cards ++ [k], appends := t.ring.appends.filter fun x => countBefore (n + 1) x.upto } }).teams ∧
        k.seq = n.toNat ∧ k.bytes = c ∧ k.blk = t.lst.read (cardParam c) (paramSize (cardType c)) ∧ k.phase = .waiting ∧ k.since = s.time ∧ u.ms = s.ms)) ∧
  -- a card accepted before the team was saved is accepted again, on a ring that has stopped as on one that has not (R283, R451)
  (∀ (s : State) (r : TeamRef) (t : Team) (a : Append) (rest : List Append), s.runningTeam r = some t → t.ring.again = a :: rest →
    0 < t.ring.size → t.ring.cards.length < t.ring.size → t.badStore = [] →
    let c := t.lst.read (32 + 32 * ((a.upto - 1).toNat % t.ring.size)) 32
    cardCheck (decide (s.iod.service = .reduced)) { t with ring := { t.ring with stopped := false } } c = none →
    ∃ u k, exec (.cardAccept r) s = .next u ∧
      u.teams = (withTeam s { t with ring := { t.ring with cards := t.ring.cards ++ [k], again := rest } }).teams ∧
      k.seq = (a.upto - 1).toNat ∧ k.place = a.place ∧ k.bytes = c ∧ k.phase = .waiting) ∧
  (∀ (s : State) (r : TeamRef) (t : Team) (k : Card), s.placedTeam r = some t → t.card? k.seq = some k → cardHandle k.bytes = 0xFF →
    (k.phase = .moved → exec (.cardReadsComplete r k.seq) s = .next (withTeam s { t with ring := { t.ring with
      cards := t.ring.cards.map fun c => if c.seq == k.seq then { c with phase := .readsDone, since := s.time } else c } })) ∧
    (k.phase = .readsDone → s.ms.podOut = [] → exec (.cardRetire r k.seq) s = .next (withTeam s { t with ring := { t.ring with
      cards := t.ring.cards.filter fun c => c.seq != k.seq } }))) ∧
  (∀ (s : State) (r : TeamRef) (t : Team) (n : Nat) (m tk : Word) (j : MxJob) (rest : List MxJob), s.runningTeam r = some t →
    t.decl.det = 0 → t.streams[n]? = some ⟨m, tk, j :: rest, none⟩ → (MxBlk.ofBytes j.blk).readers = [] → (MxBlk.ofBytes j.blk).hc = 0xFF →
    exec (.mxopStart r n) s = .next (withTeam s { t with streams := t.streams.set n ⟨m, tk, rest, some ⟨j, none, none, []⟩⟩ })) ∧
  ∀ (s : State) (r : TeamRef) (t : Team) (n : Nat) (m tk : Word) (q : List MxJob) (j : MxJob), s.placedTeam r = some t →
    t.badStore = [] → (MxBlk.ofBytes j.blk).readers = [] → (MxBlk.ofBytes j.blk).hc = 0xFF →
    let b := MxBlk.ofBytes j.blk
    let ops := readOperands t b
    (t.streams[n]? = some ⟨m, tk, q, some ⟨j, none, none, []⟩⟩ →
      (mxHeadersFaulty b ops = false →
        exec (.mxopReadsComplete r n) s = .next (withTeam s { t with streams := t.streams.set n ⟨m, tk, q, some ⟨j, some ops, none, []⟩⟩ })) ∧
      (mxHeadersFaulty b ops = true → exec (.mxopAbandon r n) s = .next (withTeam s { t with
        streams := t.streams.set n ⟨m, tk, q, none⟩, imprecise := t.imprecise ++ [(cTensor, j.off)] }))) ∧
    ∀ o e, t.streams[n]? = some ⟨m, tk, q, some ⟨j, some o, e, []⟩⟩ →
      let res := mxResult b o (b.fpC.read t.cst) j.ser
      exec (.mxopComplete r n) s = .next (withTeam s { t with
        cst := b.fpC.write t.cst res.1, streams := t.streams.set n ⟨res.2, tk, q, none⟩ })

/-! ### Launches, placement and retirement -/

namespace Sys2Proof.Spec

open Sys2Proof.Machine

/-- A grid is the only one of its name, and nothing of it waits elsewhere. -/
def TheGrid (s : State) (g : Grid) : Prop := s.gridOf g.ctx g.gid = g ∧ ∃ x ∈ s.grids, x.ctx = g.ctx ∧ x.gid = g.gid

/-- A team at its start (R11, R30, R36, R188). -/
def AtStart (t : Team) (g : Grid) (i bay w : Nat) : Prop :=
  t.ref = ⟨g.ctx, g.gid, i⟩ ∧ t.st = .running ∧ t.bay = bay ∧ t.grant = w ∧ t.decl = g.decl ∧ t.ftab = g.ftab ∧ t.trapv = 0#64 ∧
  t.lst = ⟨[]⟩ ∧ t.ast = ⟨[]⟩ ∧ t.wst = ⟨[]⟩ ∧ t.cst = ⟨[]⟩ ∧ t.handles = List.replicate g.decl.handles ⟨0, 0, .free, 0⟩ ∧
  t.streams = List.replicate g.decl.streams ⟨0, 0, [], none⟩ ∧ (t.threads.map (·.tid)) = List.range g.decl.dim ∧
  ∀ x ∈ t.threads, x.pc = g.decl.entry ∧ x.seg = 1 ∧ x.status = .boundary ∧ x.bay = bay ∧ x.sup = false ∧ x.tl = false ∧ x.pending = [] ∧
    x.regs = (g.args.setWidth 32) :: (g.args.extractLsb' 32 32) :: List.replicate 62 0 ∧
    x.preds = true :: List.replicate 47 false ∧ x.fpc = 0 ∧ x.fps = 0 ∧ x.rngk = g.rngkey ∧ x.rngc = 0 ∧ x.timeout = 10000000

end Sys2Proof.Spec

namespace Sys2Proof.Spec

open Sys2Proof.Machine

/-- A launch descriptor's fields within their limits (R389, R390); of LAUNCH, with its priority. -/
structure DescriptorOk (d : List Byte) (child : Bool) : Prop where
  kind : field d 0 1 ≤ 1
  flags : field d 1 1 < 4
  group : field d 2 1 ≤ 8
  prio : child = true → field d 3 1 ≤ 7
  teams : 1 ≤ field d 4 4 ∧ field d 4 4 ≤ 16777216
  krec : field d 8 8 % 64 = 0
  dep : field d 32 8 % 4 = 0
  reserved : field d 44 4 = 0
  signal : field d 48 8 % 4 = 0
  ext : field d 56 8 % 64 = 0
  needed : field d 0 1 = 1 ∨ (field d 1 1).testBit 1 = true → field d 56 8 ≠ 0

/-- An extension record's (R390). -/
structure ExtensionOk (d x : List Byte) : Prop where
  pred : field x 8 8 % 4 = 0 ∧ (field x 8 8 ≠ 0 ↔ field d 0 1 = 1)
  log : field x 16 8 % 4096 = 0 ∧ field x 24 8 % 4096 = 0
  cmpl : field x 32 8 % 64 = 0
  reserved : field x 40 24 = 0

/-- A kernel record's (R335, R342, R388), whose entry packet's line has the word `last` at its end. -/
structure KernelOk (k : List Byte) : Prop where
  team : 1 ≤ field k 8 2 ∧ field k 8 2 ≤ 1024
  width : field k 10 1 ∈ [8, 16, 32, 64]
  stores : field k 12 4 % 4096 = 0 ∧ field k 16 4 % 4096 = 0 ∧ field k 20 4 % 16384 = 0 ∧ field k 24 4 % 4096 = 0
  ring : field k 32 2 = 0 ∨ (4 ≤ field k 32 2 ∧ ∃ n, field k 32 2 = 2 ^ n)
  det : field k 36 4 ≤ 65536
  reserved : field k 34 2 = 0 ∧ field k 44 4 = 0
  entry : field k 48 8 % 64 ∈ [0, 12, 24, 36, 48] ∧ field k 48 8 < 2 ^ 56
  ftab : field k 56 8 % 4096 = 0

/-- A kernel's declarations within R37 and, of class 0, within F1 (R348); a ring lies inside the L-store (R280). -/
def DeclaredOk (k : List Byte) : Prop :=
  let within := fun (l a w c h s p cp r : Nat) =>
    field k 12 4 ≤ l ∧ field k 16 4 ≤ a ∧ field k 20 4 ≤ w ∧ field k 24 4 ≤ c ∧ field k 28 1 ≤ h ∧ field k 29 1 ≤ s ∧ field k 30 1 ≤ p ∧
      field k 31 1 ≤ cp ∧ field k 32 2 ≤ r
  within 262144 524288 524288 262144 64 4 16 8 1024 ∧ (field k 32 2 ≠ 0 → 32 * (field k 32 2 + 1) ≤ field k 12 4) ∧
    (field k 11 1 = 1 ∨ (field k 11 1 = 0 ∧ within 131072 262144 262144 131072 32 2 8 4 64))

/-- How the front end's reading of a record ends: with a fault, which is recorded where it is a translation fault (R442). -/
def Unread (s : State) (ctx va n : Nat) (u : State) : Prop :=
  (feRead s ctx 0 va n = .error .fault ∧ u = s) ∨
    ∃ a lv, feRead s ctx 0 va n = .error (.unmapped a lv) ∧ u = faultRecord s (frontAccessor ctx 0) .unit a lv

end Sys2Proof.Spec

/-- R388 to R391: what acceptance makes of a descriptor, at the first check that fails, in their order, with the REASON of each; one
that passes them all becomes a grid under a GRIDID of its own. The order among the reads of one record is the model's own, and so are
the refusal of an entry that its line does not mark (log entry 70) and of PREDADDR without KIND 1 (log entry 71). -/
def Obligations.LaunchDescriptorChecks : Prop :=
  ∀ (s : State) (c : Ctx) (d : List Byte) (prio depth : Nat) (parent : Option TeamRef),
    let verdict := acceptDesc s c d prio depth parent
    let ext := field d 56 8
    -- 2
    (¬ DescriptorOk d parent.isSome → verdict = .refused 1 0 s) ∧
    (DescriptorOk d parent.isSome →
      -- 3, 4
      (∀ u, ext ≠ 0 → Unread s c.id ext 64 u → verdict = .refused 6 0 u) ∧
      (ext ≠ 0 → feRead s c.id 0 ext 64 = .error .locked → verdict = .stall .locked) ∧
      (∀ x s1, ext ≠ 0 → feRead s c.id 0 ext 64 = .ok (x, s1) → ¬ ExtensionOk d x →
        verdict = .refused 1 (if field x 32 8 % 64 = 0 then field x 32 8 else 0) s1) ∧
      ∀ x s1, ((ext = 0 ∧ x = List.replicate 64 0 ∧ s1 = s) ∨ (ext ≠ 0 ∧ feRead s c.id 0 ext 64 = .ok (x, s1) ∧ ExtensionOk d x)) →
        let cmpl := field x 32 8
        -- 5, 6
        (∀ u, Unread s1 c.id (field d 8 8) 64 u → verdict = .refused 6 cmpl u) ∧
        (feRead s1 c.id 0 (field d 8 8) 64 = .error .locked → verdict = .stall .locked) ∧
        ∀ k s2, feRead s1 c.id 0 (field d 8 8) 64 = .ok (k, s2) →
          (¬ KernelOk k → verdict = .refused 2 cmpl s2) ∧
          ∀ last s3, KernelOk k → feRead s2 c.id 0 (field k 48 8 / 64 * 64 + 60) 4 = .ok (last, s3) →
            ((ofBytes last).testBit (field k 48 8 % 64 / 12) = false → verdict = .refused 2 cmpl s3) ∧
            ((ofBytes last).testBit (field k 48 8 % 64 / 12) = true →
              let ftab := field k 56 8
              -- 7, 8
              (∀ u, ftab ≠ 0 → Unread s3 c.id ftab 4096 u → verdict = .refused 6 cmpl u) ∧
              (∀ t s4, ftab ≠ 0 → feRead s3 c.id 0 ftab 4096 = .ok (t, s4) → ftabOfBytes t = none → verdict = .refused 7 cmpl s4) ∧
              ∀ tab s4, ((ftab = 0 ∧ tab = trigA ∧ s4 = s3) ∨
                  (ftab ≠ 0 ∧ ∃ t, feRead s3 c.id 0 ftab 4096 = .ok (t, s4) ∧ ftabOfBytes t = some tab)) →
                let det := field k 36 4
                let group := if field d 2 1 = 0 then 1 else field d 2 1
                let cores := (field d 1 1).testBit 0
                let fromDet := ∃ r, parent = some r ∧ (s4.gridOf r.ctx r.gid).decl.det ≠ 0
                let wide := ∃ b ∈ partBays s4 c.part, field k 10 1 ≤ bayCap s4 b
                let bad := fromDet ∨ (det ≠ 0 ∧ (cores = true ∨ det % group ≠ 0 ∨ ¬ wide))
                -- 9, 10, 11
                (¬ DeclaredOk k → verdict = .refused 3 cmpl s4) ∧
                (DeclaredOk k → bad → verdict = .refused 5 cmpl s4) ∧
                (DeclaredOk k → ¬ bad → cores = true → coResidentFits s4 c.part (declOf k) (field d 4 4) group = false →
                  verdict = .refused 4 cmpl s4) ∧
                (DeclaredOk k → ¬ bad → (cores = true → coResidentFits s4 c.part (declOf k) (field d 4 4) group = true) →
                  ∃ gid u, verdict = .ok gid u ∧ ∃ g ∈ u.grids, g.ctx = c.id ∧ g.gid = gid ∧ g.st = .waiting ∧ g.decl = declOf k ∧ g.ftab = tab ∧
                    g.nteams = field d 4 4 ∧ g.args.toNat = field d 16 8 % 2 ^ 64 ∧ g.rngkey.toNat = field d 24 8 % 2 ^ 64 ∧ g.prio = prio ∧
                    g.depth = depth ∧ g.parent = parent ∧ g.cmpl = cmpl ∧ g.cond = decide (field d 0 1 = 1) ∧ g.cores = cores ∧
                    g.timed = (field d 1 1).testBit 1 ∧ u.teams = s4.teams)))

/-- R35, R391 to R400, R401 to R403, R408, R409 and R450 to R455: launches, dependences, placement, shuttering, saving,
resumption, retirement and the end of a kill, where their conditions hold. That the queue descriptors stand at the physical address
LQTB is the model's choice (log entry 56); what acceptance checks is LaunchDescriptorChecks. -/
def Obligations.LaunchEventResults : Prop :=
  (∀ (s : State) (v : BitVec 64),
    let q := v.toNat % 64
    let tail := BitVec.ofNat 32 (v.toNat / 2 ^ 32)
    let h := s.iod.queues.getD q ⟨0, 0⟩
    let qd := homeRead s.ms (s.iod.lqtb + 32 * q) 32
    s.iod.queues.length = 64 → s.iod.lqtb ≠ 0 → zeroBytes qd 22 10 = true → (field qd 20 1).testBit 0 = true → (tail - h.head).toNat ≤ 2 ^ field qd 19 1 →
    exec (.lqdbWrite v) s = .next { s with iod := { s.iod with queues := s.iod.queues.set q { h with tail := tail } } }) ∧
  (∀ (s : State) (v : BitVec 64), s.iod.lqtb = 0 → exec (.lqdbWrite v) s = .next s) ∧
  (∀ (s : State) (q part : Nat) (c : Ctx) (s1 s2 s3 : State) (d : List Byte) (gid : Nat),
    let h := s.iod.queues.getD q ⟨0, 0⟩
    let qd := homeRead s.ms (s.iod.lqtb + 32 * q) 32
    let id := field qd 16 2
    let p : QueuePass := ⟨q, id, 0, 0, field qd 8 8⟩
    s.iod.lqtb ≠ 0 → s.iod.ctxtb ≠ 0 → zeroBytes qd 22 10 = true → (∀ p ∈ s.iod.passes, p.queue ≠ q) → (field qd 20 1).testBit 0 = true → (field qd 21 1).testBit 0 = false → h.head ≠ h.tail →
    s.inService = true → queuePart s q = some part → partGrids s part < 16384 → ctxFor s part id = .ok c s1 →
    feRead s1 id 0 (field qd 0 8 + 64 * (h.head.toNat % 2 ^ field qd 19 1)) 64 = .ok (d, s2) →
    acceptDesc s2 c d (field qd 18 1 % 8) 0 none = .ok gid s3 →
    exec (.launchAccept (.queue q)) s = .next (passSlot (judgeSlot (registerDep s3 (s3.gridOf id gid)) p) p)) ∧
  (∀ (s : State) (ctx gid : Nat), let g := s.gridOf ctx gid
    (g.st = .waiting → s.alive ctx = true → gridLatch s g = none → g.depaddr = 0 → g.cond = false →
      exec (.dependenceMet ctx gid) s = .next (s.setGrid { g with st := .ready, waitSince := s.time })) ∧
    (g.st ≠ .retired → g.timed = true → g.tstart ≤ s.time → exec (.gridTimedStart ctx gid) s = .next (s.setGrid { g with timed := false }))) ∧
  (∀ (s : State) (g : Grid) (i bay w pcap : Nat), TheGrid s g → placing s = true → gridOffers s g = true → nextTeam s g = some i →
    noEarlier s g.prio g.order i = true → g.cores = false → g.group = 1 → fitsNew s g i bay = some (w, pcap) →
    ∃ u t, exec (.teamPlace ⟨g.ctx, g.gid, i⟩ bay) s = .next u ∧ u.teams = s.teams ++ [t] ∧ AtStart t g i bay w ∧ t.pcap = pcap ∧
      ∀ c ∈ u.ms.caches, ofCluster (clusterOf bay) c.own = true →
        ∃ d ∈ u.ms.caches, ofCluster (clusterOf bay) d.own = true ∧ d.sec = c.sec ∧ d.dirty = true) ∧
  (∀ (s : State) (g : Grid) (o : Offer) (bay : Nat) (t : Team), TheGrid s g → placing s = true → nextOffer s g = some o →
    let fits := fun (s : State) (b : Nat) => match o.saved with | none => (fitsNew s g o.team b).isSome | some t => (fitsSaved s t b).isSome
    s.iod.priwt < s.time - g.waitSince → o.fits s = false →
    ((List.range 768).filter fun b => (victim s b g.prio).isSome && fits (without s b g.prio) b) = [bay] →
    victim s bay g.prio = some t → t.decl.det = 0 → (s.gridOf t.ref.ctx t.ref.gid).cores = false →
    exec (.priorityPreempt g.ctx g.gid) s = .next (shutterTeam false s t.ref)) ∧
  (∀ (s : State) (r : TeamRef) (t : Team), s.placedTeam r = some t → t.decl.det = 0 → (∀ x ∈ t.threads, x.status = .exited) →
    t.unretired = 0 → (∀ x ∈ t.streams, x.jobs = []) → t.imprecise = [] →
    ∃ u v, exec (.teamRetire r) s = .next u ∧ u.teams = (withTeam s v).teams ∧ v.ref = t.ref ∧ v.st = .retired ∧ v.threads = [] ∧ v.lst = ⟨[]⟩ ∧
      u.grids = (s.setGrid { s.gridOf r.ctx r.gid with retired := (s.gridOf r.ctx r.gid).retired + 1 }).grids) ∧
  (∀ (s : State) (g : Grid), TheGrid s g → s.alive g.ctx = true → gridDone s g = true → g.retiring = none → g.cmpl = 0 → g.sigaddr = 0 →
    let sent := (performAll s (retireRef g.ctx g.gid)).ms.unacked
    (sent = [] →
      ∃ u, exec (.gridRetire g.ctx g.gid) s = .next u ∧
        u.grids = (s.setGrid { g with st := .retired, status := if g.status = 2 then 2 else 1, cmpl := 0, retiring := some (3, []) }).grids ∧
        u.teams = s.teams.filter fun t => !(t.ref.ctx == g.ctx && t.ref.gid == g.gid)) ∧
    -- what peers have not acknowledged is awaited before the record is written (R136)
    (sent ≠ [] →
      ∃ u, exec (.gridRetire g.ctx g.gid) s = .next u ∧ u.grids = (s.setGrid { g with retiring := some (1, sent) }).grids ∧ u.teams = s.teams)) ∧
  (∀ (s : State) (g : Grid), TheGrid s g → g.st = .ready → g.decl.det ≠ 0 → s.alive g.ctx = true → phaseTeams g ≠ [] →
    (∀ i ∈ phaseTeams g, ∃ t, (s.teams.find? fun t => t.ref == ⟨g.ctx, g.gid, i⟩ && t.st == .retired) = some t) →
    ∃ u, exec (.phaseCommit g.ctx g.gid) s = .next u ∧
      u.grids = (s.setGrid { g with phases := g.phases + 1, phaseImg := ⟨[]⟩, phaseHeld := [] }).grids ∧
      (∀ o ∈ u.ms.owners, ¬ (o.ctx = g.ctx ∧ o.gid = g.gid)) ∧ ∀ t ∈ u.teams, t.ref.ctx = g.ctx → t.ref.gid = g.gid → t.log = []) ∧
  (∀ (s : State) (r : TeamRef) (t : Team), s.team? r = some t → t.decl.det ≠ 0 → t.st ≠ .retired → s.alive r.ctx = true →
    ∃ u, exec (.detTeamAbort r) s = .next u ∧ u.teams = s.teams.filter (fun x => x.ref != r) ∧
      (∀ l ∈ u.iod.launches, l.who.team ≠ r) ∧ ∀ l ∈ u.ms.latches, ∀ q, l.who = .thread q → q.team ≠ r) ∧
  (∀ (s : State) (r : TeamRef) (t : Team), s.team? r = some t → t.st = .shuttered → s.alive r.ctx = true →
    (∀ x ∈ t.threads, threadStopped x = true) → enginesStopped s t = true →
    (∀ x ∈ t.threads, x.status = .blocked .fence → fenceStays s t x = true) → t.image = 0 →
    ∃ u, exec (.teamSaved r) s = .next u ∧ u.teams = (withTeam s { t with
      st := .saved, hold := none, convAcc := t.convAcc.map fun _ => 0, ring := t.ring.unaccept,
      threads := t.threads.map fun x => { written x with held := false, issued := [] } }).teams) ∧
  (∀ (s u : State) (r : TeamRef) (t : Team) (bay : Nat), s.team? r = some t → placing s = true → t.st = .saved → t.shutMb = false →
    resumeUnit s t = [t] → teamOffered s t = true →
    noEarlier s (s.gridOf r.ctx r.gid).prio (s.gridOf r.ctx r.gid).order t.ref.team = true → resumeOne s t bay = some u →
    exec (.teamResume r bay) s = .next (resumeCauses u t)) ∧
  ∀ (s : State) (c : Ctx), s.ctx? c.id = some c → c.st = .killing → (∀ g ∈ s.grids, g.ctx = c.id → g.st = .retired) →
    (performAll (dropIssued s c.id) (retireRef c.id 0)).ms.unacked = [] →
    ∃ u, exec (.contextKillComplete c.id) s = .next u ∧ u.ctxs = (s.setCtx { c with st := .killed }).ctxs ∧ u.grids = s.grids ∧
      u.teams = s.teams.filter (fun t => t.ref.ctx != c.id) ∧ ∀ o ∈ u.ms.owners, o.ctx ≠ c.id

/-! ### The management mailbox -/

namespace Sys2Proof.Spec

open Sys2Proof.Machine

/-- The mailbox has taken a record of a command whose reserved bytes are zero (R468, R469). -/
structure Commanded (s : State) (at' cmd : Nat) (r : List Byte) (used : List (Nat × Nat)) : Prop where
  busy : s.iod.mb = some at'
  record : s.iod.mbrec.take 64 = r
  command : field r 0 1 = cmd
  reserved : ∀ i, 2 ≤ i → i < 64 → r.getD i 0 = 0#8 ∨ (8 ≤ i ∧ ∃ u ∈ used, u.1 ≤ i ∧ i < u.1 + u.2)

/-- The command ends: STATUS in byte 1 of its record, with a system-scope release, and the mailbox free. -/
def answered (s : State) (at' status : Nat) : State :=
  { s with
    ms := sysWrite s.ms (at' + 1) (toBytes 1 status)
    iod := { s.iod with mb := none, mbrec := [], shootq := s.iod.shootq.filter (· != 0) } }

/-- No context is resident or being killed. -/
def Idle (s : State) : Prop := ∀ c ∈ s.ctxs, c.st ≠ .resident ∧ c.st ≠ .killing

/-- A translation request of a kind (R425): its record, and the partition of its ASID. -/
structure Requested (s : State) (at' cmd : Nat) (r q : List Byte) (p : Nat) : Prop extends Commanded s at' 3 r [(8, 8)] where
  service : s.iod.service = .full
  place : field r 8 8 % 64 = 0
  request : s.iod.mbrec.drop 64 = q
  kind : field q 0 1 = cmd
  format : trFormatOk q cmd = true
  part : asidPart s (field q 2 2) = some p

end Sys2Proof.Spec

/-- R375, R385, R425 to R430, R433, R450, R455, R461, R465 and R468 to R476: the mailbox and its commands in full service. The
model's choices in it are that a shootdown drops every code line of the partition's bays (log entry 37), that the low six bits of
a MBCTL write are dropped and the format judged before what refuses the command (log entry 40), the statuses of a SHUTTER of a
context without teams (log entry 41), and that records stand at physical addresses (log entry 56). -/
def Obligations.MailboxResults : Prop :=
  (∀ (s : State) (a : Nat), s.iod.service ≠ .off →
    (s.iod.mb ≠ none → exec (.mbctlWriteWhileBusy a) s = .next { s with iod := { s.iod with mbdrop := (s.iod.mbdrop + 1) % 2 ^ 32 } }) ∧
    (s.iod.mb = none →
      let at' := a / 64 * 64
      let r := homeRead s.ms at' 64
      let q := if field r 0 1 = 3 ∧ field r 8 8 % 64 = 0 then homeRead s.ms (field r 8 8) 64 else []
      -- the record is taken; a shootdown or a bias flip takes its place in their order (R427)
      let took := { s with iod := { s.iod with
        mb := some at', mbrec := r ++ q
        shootq := if field r 0 1 = 3 ∧ (field q 0 1 = 1 ∨ field q 0 1 = 3) then s.iod.shootq ++ [0] else s.iod.shootq } }
      (mbKnown r q = true → exec (.mbctlWriteWhileBusy a) s = .next took) ∧
      (field r 0 1 = 0 ∨ 0x0B < field r 0 1 → exec (.mbctlWriteWhileBusy a) s = .next (answered took at' 2)))) ∧
  (∀ (s : State) (a : Nat) (r : List Byte), s.iod.service = .full →
    let arg := field r 8 8
    let ends := fun (i : Instr) (t : State) (st : Nat) => exec i s = .next (answered t a st)
    (Commanded s a 1 r [(8, 8)] → arg % 64 = 0 → ends .resync { sampleErrors s with ms := sysWrite s.ms arg (resyncRecord (sampleErrors s)) } 1) ∧
    (Commanded s a 2 r [(8, 1), (9, 1), (10, 1), (16, 8)] →
      let reg := field r 8 1
      let p := field r 9 1
      let n := field r 10 1
      let v := field r 16 8
      (reg = 1 → p = 0 → n = 0 → v % 4096 = 0 → Idle s → ends .setregCtxtb { s with iod := { s.iod with ctxtb := v } } 1) ∧
      (reg = 1 → p = 0 → n = 0 → v % 4096 = 0 → ¬ Idle s → ends .setregCtxtb s 3) ∧
      (reg = 2 → p = 0 → n = 0 → v % 64 = 0 → ends .setregLqtb { s with iod := { s.iod with lqtb := v } } 1) ∧
      (reg = 3 → p < 8 → 6 ≤ n → n ≤ 16 → v % 4096 = 0 → ends .setregFqb { s with iod := { s.iod with fqb := s.iod.fqb.set p (v, n) } } 1) ∧
      (reg = 4 → p = 0 → n = 0 → ends .setregPriwt { s with iod := { s.iod with priwt := v } } 1) ∧
      (reg = 5 → p = 0 → 4 ≤ n → n ≤ 20 → v % 4096 = 0 → (∀ l ∈ s.ms.latches, l.place ≠ .overflow) →
        ends .setregLovb { s with iod := { s.iod with lovb := v, lovs := n, lovNext := none } } 1) ∧
      (reg = 6 → p = 0 → n = 0 → 1000 ≤ v → v ≤ 10000000 → ends .setregLto { s with iod := { s.iod with lto := v } } 1) ∧
      (reg = 6 → (v < 1000 ∨ 10000000 < v) → ends .setregLto s 2)) ∧
    (Commanded s a 4 r [(8, 2), (10, 1), (16, 4), (20, 4)] → field r 10 1 ≤ 1 → s.alive (field r 8 2) = true →
      ((∀ t ∈ s.teams, t.ref.ctx ≠ field r 8 2) → ends .shutter s 3) ∧
      ∀ t, s.teams = [t] → t.st = .running → t.shutMb = false → field r 10 1 = 1 → t.ref.ctx = field r 8 2 →
        exec .shutter s = .next (shutterTeam true s t.ref)) ∧
    (Commanded s a 5 r [(8, 2)] → field r 8 2 < 4096 →
      (s.ctx? (field r 8 2) = none → ends .kill s 1) ∧
      ∀ c, s.ctx? (field r 8 2) = some c → c.st = .resident → exec .kill s = .next (s.killContext (field r 8 2) 0x44 0)) ∧
    (Commanded s a 6 r [(8, 8)] → arg % 64 = 0 → Idle s → partTableOk (homeRead s.ms arg 1024) = true →
      ends .partset { s with iod := { s.iod with parts := (List.range 8).map (partOf (homeRead s.ms arg 1024)) } } 1) ∧
    (Commanded s a 7 r [(8, 1), (10, 2)] → field r 8 1 ≤ 14 →
      let d := field r 8 1
      let w := field r 10 2
      let most := if d < 8 then 740 else if d < 12 then 120 else if d < 14 then 150 else 200
      (w ≤ most → most ≤ 2 * w → ∀ x, s.iod.dies[d]? = some x →
        ends .powercap { s with iod := { s.iod with dies := s.iod.dies.set d { x with cap := w } } } 1) ∧
      (most < w → ends .powercap s 3)) ∧
    (Commanded s a 8 r [(8, 2), (10, 1), (16, 8)] → field r 8 2 < 4096 + 32768 → 32768 ≤ field r 8 2 → field r 10 1 = 0 → Idle s →
      ends .podcfg { s with iod := { s.iod with node := some (field r 8 2 - 32768), exports := [], syncCount := 0, syncRate := 0 } } 1) ∧
    (Commanded s a 9 r [(8, 8)] →
      (s.iod.everResident = false → ends .timeset { s with time := arg } 1) ∧ (s.iod.everResident = true → ends .timeset s 3)) ∧
    (Commanded s a 0x0A r [(8, 8), (16, 8)] → Idle s →
      let image := homeRead s.ms arg (field r 16 8)
      (s.iod.fwwrite = none → imageOk image = false → ends .fwload s 4) ∧
      (s.iod.fwwrite = none → imageOk image = true →
        exec .fwload s = .next { s with iod := { s.iod with fwwrite := some image, fwok := false } }) ∧
      (∀ image, s.iod.fwwrite = some image → ∃ u, exec .fwload s = .next u ∧ u.iod.fwok = true ∧ u.iod.fwimage = image ∧ u.iod.service = .off ∧ u.ctxs = [] ∧
        u.teams = [] ∧ u.grids = [] ∧ u.time = 0 ∧ u.ms.caches = [] ∧ u.ms.tlb = [] ∧ u.ms.mem = settledMem (answered s a 1).ms)) ∧
    (Commanded s a 0x0B r [(8, 8), (16, 8)] → field r 16 8 % 64 = 0 →
      ends .attest { s with ms := sysWrite s.ms (field r 16 8) (attestReport s (homeRead s.ms arg 48)) } 1)) ∧
  ∀ (s : State) (a : Nat) (r q : List Byte) (p : Nat), s.teams = [] →
    let asid := field q 2 2
    let va := field q 8 8
    let len := field q 16 8
    let cdmask := (s.iod.parts.getD p Part.unused).cdmask
    -- what a shootdown drops
    let dropped := fun (ms : MemSys) (base size : Nat) => { ms with
      tlb := ms.tlb.filter fun e => !(e.asid == asid && (size == 0 || (e.base < base + size && base < e.base + e.size)))
      walks := ms.walks.filter fun e => !(e.asid == asid && (size == 0 || (e.base < base + size && base < e.base + e.size)))
      icache := ms.icache.filter fun c => !cdmask.testBit (c.bay / 96) }
    let ends := fun (i : Instr) (t : State) (n : Nat) =>
      exec i s = .next (answered (trFinish { t with iod := { t.iod with transreq := none } } q 1 n) a 1)
    -- a shootdown, in its turn
    (Requested s a 1 r q p → field q 1 1 = 0 → s.ms.podOut = [] →
      (s.iod.shootq.head? = some 0 → ends .shootdown { s with ms := dropped s.ms va len } 0) ∧
      (s.iod.shootq.head? ≠ some 0 → exec .shootdown s = .next s)) ∧
    -- a migration goes to its engine, and the command is done
    (∀ l, Requested s a 2 r q p → s.iod.movers[field q 37 1]? = some l → exec .migrate s = .next (answered { s with
      iod := { s.iod with movers := s.iod.movers.set (field q 37 1) (l ++ [⟨q, p, 0, 0, 0, 0, 0, 0, 0, false⟩]) } } a 1)) ∧
    (∀ e k at', s.ms.podOut = [] →
      let owner := ((asidCtx s asid).map (·.id)).getD 0
      -- engine 0: lock, shoot down, write back, copy, replace, shoot down, finish
      (∀ j : TransJob, s.iod.mb = none → s.iod.movers = [[j], []] → j.record = q → j.part = p → field q 37 1 = 0 →
        let goesOn := fun (ms : MemSys) (turns : List Nat) (j : TransJob) =>
          exec .migrate s = .next { s with ms := ms, iod := { s.iod with movers := [[j], []], shootq := turns } }
        let turns := s.iod.shootq
        let src := physHa (leafHa j.entry (2 ^ j.k) 0)
        (j.stage = 0 → trWalk s asid va = (some (e, k, at'), s) → field q 24 8 % 2 ^ k = 0 → leafLock e = false → leafHC e = false →
          destinationOk s p (movedEntry q e) k (field q 24 8) = true → homeNat s.ms at' 8 = e →
          goesOn (homeWrite s.ms at' (toBytes 8 (e + 32))) (turns ++ [1])
            { j with ctx := owner, entryAt := at', entry := e, k := k, stage := 1 }) ∧
        (j.stage = 1 ∨ j.stage = 9 →
          (turns.head? ≠ some 1 → exec .migrate s = .next s) ∧
          (turns.head? = some 1 → j.shot = false → goesOn (dropped s.ms (va / 2 ^ j.k * 2 ^ j.k) (2 ^ j.k)) turns { j with shot := true })) ∧
        (j.stage = 1 → turns.head? = some 1 → j.shot = true →
          goesOn (purgePage s.ms (engineRef j) src (2 ^ j.k)) turns.tail { j with shot := false, stage := 2 }) ∧
        (j.stage = 2 → s.ms.failed = [] → portDown s.ms src = false →
          exec .migrate s = .next { copyPage s j with iod := { (copyPage s j).iod with movers := [[{ j with stage := 3 }], []] } }) ∧
        (j.stage = 3 → leafLock j.entry = false →
          (homeNat s.ms j.entryAt 8 = j.entry + 32 →
            goesOn (homeWrite s.ms j.entryAt (toBytes 8 (movedEntry q j.entry))) (turns ++ [1]) { j with stage := 9, status := 1, pages := 1 }) ∧
          (homeNat s.ms j.entryAt 8 ≠ j.entry + 32 → goesOn s.ms (turns ++ [1]) { j with stage := 9, status := 5, pages := 0 })) ∧
        (j.stage = 9 → turns.head? = some 1 → j.shot = true → exec .migrate s =
          .next (trFinish { s with iod := { s.iod with movers := [[], []], shootq := turns.tail } } q j.status j.pages))) ∧
      -- a bias flip, in its turn: lock, shoot down, drain and flip, shoot down, finish
      (Requested s a 3 r q p → s.iod.shootq.head? = some 0 → leafLock e = false →
        let goesOn := fun (ms : MemSys) (stage status : Nat) (shot : Bool) => exec .biasFlip s =
          .next { s with ms := ms, iod := { s.iod with transreq := some ⟨q, p, owner, at', e, k, stage, status, status, shot⟩ } }
        let at1 := fun (stage status : Nat) (shot : Bool) => s.iod.transreq = some ⟨q, p, owner, at', e, k, stage, status, status, shot⟩
        let drained := fun (j : TransJob) =>
          if field q 36 1 = 1 then purgePage s.ms (engineRef j) (physHa (leafHa e (2 ^ k) 0)) (2 ^ k) else s.ms
        let base := va / 2 ^ k * 2 ^ k
        (s.iod.transreq = none → trWalk s asid va = (some (e, k, at'), s) → leafHC e = true → biasedEntry q e ≠ e → homeNat s.ms at' 8 = e →
          goesOn (homeWrite s.ms at' (toBytes 8 (e + 32))) 1 0 false) ∧
        (at1 1 0 false → goesOn (dropped s.ms base (2 ^ k)) 1 0 true) ∧
        (∀ j, s.iod.transreq = some j → at1 1 0 true → homeNat (drained j) at' 8 = e + 32 →
          goesOn (homeWrite (drained j) at' (toBytes 8 (biasedEntry q e))) 9 1 false) ∧
        (at1 9 1 false → goesOn (dropped s.ms base (2 ^ k)) 9 1 true) ∧
        (at1 9 1 true → ends .biasFlip s 1)))

/-! ### Bring-up, dies, clocks and time -/

namespace Sys2Proof.Spec

open Sys2Proof.Machine

/-- One die changed. -/
def withDie (s : State) (n : Nat) (d : Die) : State := { s with iod := { s.iod with dies := s.iod.dies.set n d } }

end Sys2Proof.Spec

/-- R461, R463 to R467, R472, R473 and R475: bring-up, the failure of a die, the reference clock, power and pod time. -/
def Obligations.BringUpResults : Prop :=
  (∀ s : State, s.iod.service = .off →
    (s.iod.fwok = false → ∃ u, exec .powerOnReset s = .next u ∧ u.iod.service = .recovery ∧ u.teams = s.teams ∧ u.ctxs = s.ctxs) ∧
    (s.iod.fwok = true → ∃ u, exec .powerOnReset s = .next u ∧ u.iod.service = .reduced ∧ u.iod.fwok = true ∧
      (∀ n, n ≠ 14 → u.iod.dies[n]? = s.iod.dies[n]?) ∧ (∀ x ∈ u.iod.hbm, x = .training) ∧ u.iod.hbm.length = s.iod.hbm.length)) ∧
  (∀ s : State, s.iod.service ≠ .off → s.iod.fwwrite ≠ none →
    ∃ u, exec .powerOnReset s = .next u ∧ u.iod.service = .off ∧ u.iod.fwok = false ∧ u.iod.fwwrite = none ∧ u.teams = [] ∧ u.ctxs = []) ∧
  (∀ s : State, s.iod.service = .reduced → (s.die 0).st = .training → (s.die 8).st = .training → s.iod.hbm[0]? = some .training →
    ∃ u, exec .reducedServiceStart s = .next u ∧ (u.die 0).st = .ready ∧ (u.die 8).st = .ready ∧ u.iod.hbm[0]? = some .ready ∧
      (∀ n, n ≠ 0 → n ≠ 8 → u.iod.dies[n]? = s.iod.dies[n]?)) ∧
  (∀ s : State, s.iod.service = .reduced → s.iod.trained = false → (∀ n < 14, (s.die n).st ≠ .off) → (∀ t ∈ s.teams, t.st ≠ .running) →
    ∃ u, exec .trainingEnd s = .next u ∧ u.iod.trained = true ∧ (∀ d ∈ u.iod.dies, d.st ≠ .training) ∧ (∀ d ∈ u.iod.hbm, d ≠ .training) ∧
      placing u = false ∧ u.teams = s.teams) ∧
  (∀ s : State, s.iod.service = .reduced → s.iod.trained = true → (∀ t ∈ s.teams, t.placedHere = false) →
    exec .fullServiceStart s = .next { s with iod := { s.iod with service := .full, trained := false } }) ∧
  (∀ (s : State) (n : Nat) (d : Die), s.iod.dies[n]? = some d →
    -- the dies start in their order: near-tier dies, far-tier dies, compute dies (R467)
    (s.iod.service = .reduced → n < 14 → d.st = .off →
      (∀ m < 14, (n < 8 ∧ (8 ≤ m ∨ m < n)) ∨ (8 ≤ n ∧ 8 ≤ m ∧ m < n) → (s.die m).st ≠ .off) →
      exec (.bayStartBatch n) s = .next (withDie s n { d with st := .training })) ∧
    -- eight bays at a time, 2 µs apart, the dies in order
    (n < 8 → d.st = .ready → s.iod.service = .full → (∀ m < 14, (s.die m).st ≠ .off) →
      let due := (d.bays = 0 ∧ d.batchAt = 0) ∨ d.batchAt + 2000 ≤ s.time
      (due → d.bays < 96 → (∀ m < n, (s.die m).bays = 96 ∨ (s.die m).st = .failed) →
        exec (.bayStartBatch n) s = .next (withDie s n { d with bays := min 96 (d.bays + 8), batchAt := s.time })) ∧
      (due → d.bays = 96 → d.gated ≠ [] →
        exec (.bayStartBatch n) s = .next (withDie s n { d with gated := d.gated.drop 8, batchAt := s.time })) ∧
      (¬ due → exec (.bayStartBatch n) s = .next s)) ∧
    -- a die that has not heard from the I/O die for 2 × LTO, in ticks of 10 ns (R464)
    (n < 14 → d.st = .ready →
      (s.time < d.heard + 20 * s.iod.lto → exec (.dieFailed n) s = .next s) ∧
      (d.heard + 20 * s.iod.lto ≤ s.time →
        ((∀ c ∈ s.ctxs, c.st = .free) → exec (.dieFailed n) s = .next (withDie s n { d with st := .failed })) ∧
        ∀ c, s.ctxs = [c] → c.st = .resident → (∃ t ∈ s.teams, t.ref.ctx = c.id ∧ t.placedHere = true ∧ t.bay / 96 = n) →
          exec (.dieFailed n) s = .next ((withDie s n { d with st := .failed }).killContext c.id 0x40 0))) ∧
    -- the backup oscillator counts what is outstanding on the die (R463)
    (n < 14 → d.st = .ready → exec (.referenceClockLoss n) s =
      .next { withDie s n { d with refLost := true, st := .degraded } with
        teams := s.teams.map fun t => { t with threads := t.threads.map fun x => if x.bay / 96 = n then { x with
          asked := x.asked.map fun a => { a with backup := true }
          sent := x.sent.map fun w => { w with backup := true } } else x } }) ∧
    (d.refLost = true → d.st = .degraded → exec (.referenceClockReturn n) s = .next (withDie s n { d with refLost := false, st := .ready })) ∧
    (∀ w, n < 8 → d.cap ≤ w → exec (.powerCapStretch n w) s = .next (withDie s n { d with stretched := true })) ∧
    (∀ w, n < 8 → w < d.cap → exec (.clockRestore n w) s = .next (withDie s n { d with stretched := false }))) ∧
  -- the source of a module's time is the lowest node it can reach, where that is lower than its own (R461)
  ∀ (s : State) (peer node src : Nat), s.iod.node = some node →
    let reaches := fun (m : Nat) => ∃ r ∈ s.iod.routes, r.1 = m ∧ s.iod.podl.getD r.2 0 = 2
    (reaches peer ∧ peer < node ∧ (∀ m, reaches m → peer ≤ m) →
      ∃ u, exec (.timeSyncMeasure peer src) s = .next u ∧ u.iod.syncCount = s.iod.syncCount + 1 ∧ -100 ≤ u.iod.syncRate ∧ u.iod.syncRate ≤ 100 ∧
        (s.time < src → 0 ≤ u.iod.syncRate) ∧ u.time = s.time) ∧
    (¬ reaches peer ∨ node ≤ peer ∨ (∃ m, reaches m ∧ m < peer) → exec (.timeSyncMeasure peer src) s = .next s)

/-! ### Reset -/

/-- R459, R462, R465 and R470, with the single partition of R385: what the module registers hold after power-on reset. That the
partition's one window takes in all of memory, (0, 2^52), is the model's choice (log entry 63). -/
def Obligations.ResetValues : Prop :=
  let i := State.reset.iod
  i.ctxtb = 0 ∧ i.lqtb = 0 ∧ i.fqb.length = 8 ∧ (∀ f ∈ i.fqb, f.1 = 0) ∧ i.lovb = 0 ∧ i.lovs = 4 ∧ i.priwt = 1000000 ∧ i.lto = 100000 ∧
  i.node = none ∧ i.parts.getD 0 Part.unused = ⟨true, 0xFF, 0, 512, 0, 4096, 2 ^ 64 - 1, [(0, 2 ^ 52)]⟩ ∧ (∀ p ∈ i.parts.drop 1, p.valid = false) ∧
  State.reset.time = 0 ∧ (i.dies.map (·.cap)) = List.replicate 8 740 ++ List.replicate 4 120 ++ List.replicate 2 150 ++ [200] ∧
  -- a register that reads 0 names no region
  (∀ s : State, s.iod.ctxtb = 0 → ∀ q, exec (.launchAccept (.queue q)) s = .next s) ∧
  (∀ s : State, s.iod.lqtb = 0 → ∀ v, exec (.lqdbWrite v) s = .next s) ∧
  (∀ (s : State) (w : Accessor) (k : AccKind) (va lv : Nat), (s.iod.fqb.getD (s.ctxOf w.ctx).part (0, 0)).1 = 0 → faultRecord s w k va lv = s) ∧
  ∀ (s : State) (l : Latch), s.iod.lovb = 0 → (∀ x ∈ s.ms.latches, x.place ≠ .overflow) → latchPlace s l ≠ .overflow

/-! ### A step -/

namespace Sys2Proof.Spec

open Sys2Proof.Machine

/-- The state in which a lone word is performed. -/
def atWord (s : State) (w : Word) : State := { s with grp := ⟨[w], 0, s.th, s.tm, none⟩ }

/-- A thread stands alone, at a boundary or within a segment, in a placed team, and its next group is the one word w, which decodes to i, in a
line fetched for it; no check before the group fails. -/
structure Alone (s : State) (r : ThreadRef) (t : Team) (x : Thread) (line : List Word) (w : Word) (i : Instr) (s' : State) : Prop where
  names : Names s r t x
  running : t.st = .running ∧ t.hold = none ∧ t.imprecise = [] ∧ t.badReg = [] ∧ t.threads = [x]
  ready : (x.status = .boundary ∨ x.status = .within) ∧ x.fin = false ∧ x.yielded = false ∧ x.held = false
  range : x.pc.toNat < 2 ^ 56
  fetched : fetchLine (s.focus r) (s.focus r).accessor x.pc.toNat = (.line line, s')
  group : groupWords line (x.pc.toNat % 64) = [w]
  word : decode w = .ok i
  sound : groupFault (atWord s' w) line [w] = none
  -- the die of its bay has its reference clock and its requests are answered at once (R462, R463); no line is held from before
  linked : (s.focus r).linkFree = true
  fresh : s'.th.fetched = []
  store : s'.tm.badReg = []

/-- What the issue adds around exec: the thread waits for its gang where the group has not stopped, its context lives and no
word of the group takes it elsewhere; it is written back among the teams; parked threads form a gang; the gang passes; its
members bear the turn of the issue, the fairness counters of gang and cohort begin anew, and a YIELD that every other gang of
the quadrant has passed ends. -/
def settled (s : State) (r : ThreadRef) (t : Team) (x : Thread) (w : Word) (i : Instr) (u : State) : State :=
  let v := if u.grp.stop = none ∧ u.alive u.tm.ref.ctx = true ∧ leavesGroup i = false then
      withThread u { u.th with fin := true, status := .within, issued := [w] } else u
  let v := v.flush
  let v := match v.team? r.team with | none => v | some t => v.setTeam (joinParked [x] t)
  let v := (passGang v r.team x).unfocus
  markPassed x.bay (quadOf s t x) (afterIssue v t x)

end Sys2Proof.Spec

/-- A step runs the decoded instruction. A turn of the agenda lets its time pass, performs the stores and reductions that threads
have passed where the act comes after them (log entries 7 and 31), and fills again what bays have dropped of the images of
placed teams (R381). One that issues a thread alone in its gang, whose group is one word that decodes to i,
performs it by exec i on the state in which the thread stands at it, and settles what exec answers (no word changes what group
it stands in). An event is exec of it; an instruction word is performed by an issue alone. -/
def Obligations.StepRunsDecodedInstruction : Prop :=
  (∀ (s : State) (i : Instr) (rest : List Turn) (n m : Nat), s.agenda = ⟨n, m, .event i⟩ :: rest →
    let s1 := beforeAct (.event i) (advance n m { s with agenda := rest })
    (i.hasWord = false → step s = exec i s1) ∧ (i.hasWord = true → step s = .next s1)) ∧
  ∀ (s s' u : State) (r : ThreadRef) (rest : List Turn) (n m : Nat) (t : Team) (x : Thread) (line : List Word) (w : Word) (i : Instr),
    s.agenda = ⟨n, m, .issue r⟩ :: rest →
    let s1 := lateBefore r (beforeAct (.issue r) (advance n m { s with agenda := rest }))
    Alone s1 r t x line w i s' →
    exec i (atWord s' w) = .next u → u.grp.words = [w] → u.grp.pos = 0 → step s = .next (settled s1 r t x w i u)

/-! ### Guards -/

namespace Sys2Proof.Spec

open Sys2Proof.Machine

/-- The words of which every thread of a cohort or team must take part, guard or no guard (R27, R28, R40). -/
def convergentInstr : Instr → Bool
  | .shfl _ | .shflx _ | .lswap _ | .vote _ | .lred _ | .lscan _ | .tred _ | .lbcst _ | .migr _ | .migrh _ => true
  | _ => false

end Sys2Proof.Spec

/-- R165 and R243: a guarded word whose guard is false leaves the whole state as it was, whatever instruction it is; the
words at which threads converge take part all the same. -/
def Obligations.GuardedWordsDoNothing : Prop :=
  ∀ (i : Instr) (s : State), i.hasWord = true → i.wellFormed = true → guardBit (encode i) = true →
    convergentInstr i = false → s.guardOn = false → exec i s = .next s

/-! ### Recovery -/

namespace Sys2Proof.Spec

open Sys2Proof.Machine

/-- The module has not started, or stands in recovery: its firmware image does not verify, and nothing runs on it. -/
structure InRecovery (s : State) : Prop where
  service : s.iod.service = .off ∨ s.iod.service = .recovery
  image : s.iod.fwok = false
  noTeams : s.teams = []
  noGrids : s.grids = []
  noCtxs : s.ctxs = []
  noLaunches : s.iod.launches = []
  noLatches : s.ms.latches = []
  noNode : s.iod.node = none
  verified : ∀ image, s.iod.fwwrite = some image → imageOk image = true

end Sys2Proof.Spec

/-- R475, of every state and every step, whatever act the agenda or the device chooses: in recovery nothing is launched,
placed or run, and the one way out is an FWLOAD of an image that verifies, which resets the module. -/
def Obligations.RecoveryEndsOnlyByFirmwareLoad : Prop :=
  ∀ s t : State, InRecovery s → step s = .next t →
    InRecovery t ∨ (t.iod.fwok = true ∧ t.iod.service = .off ∧ t.teams = [] ∧ t.grids = [] ∧ t.ctxs = [] ∧ imageOk t.iod.fwimage = true)

/-- A module at power-on whose firmware image does not verify is in that invariant, and POWER_ON_RESET takes it to recovery. -/
def Obligations.RecoveryHoldsAtReset : Prop :=
  let s := { State.reset with iod := { State.reset.iod with fwok := false } }
  InRecovery s ∧ ∃ t, exec .powerOnReset s = .next t ∧ t.iod.service = .recovery ∧ InRecovery t
end

