-- ==== Sys2Proof/Laws/Access.lean ====
section
/-! SUPPORT. What translation, the checks of a memory word, a fetch, a transfer and the delivery of a trap do, once each:
for a leaf that the bay's L1 TLB holds, and for every check that fails before one is looked up. -/

namespace Sys2Proof.Machine

/-! ### Addresses -/

/-- The effective address of R247, as an exact sum modulo 2^64. -/
theorem State.eaM_eq (s : State) (o : MFmt) :
    s.eaM o = ((((s.srcPair o.a).toNat : Int) + o.imm.toInt * (memSize o.w : Int)) % 2 ^ 64).toNat := by
  unfold State.eaM
  generalize s.srcPair o.a = x
  have hn : memSize o.w < 2 ^ 64 := by
    unfold memSize
    have := o.w.isLt
    interval_cases o.w.toNat <;> decide
  rw [← BitVec.toInt_signExtend_of_le (x := o.imm) (v := 64) (by omega)]
  generalize o.imm.signExtend 64 = y
  rw [BitVec.toNat_add, BitVec.toNat_mul, BitVec.toNat_ofNat, Nat.mod_eq_of_lt hn, BitVec.toInt_eq_toNat_bmod]
  generalize memSize o.w = n
  obtain ⟨c, h⟩ : ∃ c : ℤ, (y.toNat : ℤ).bmod (2 ^ 64) = y.toNat + (2 ^ 64 : ℕ) * c := by
    rw [Int.bmod_def]
    split
    · exact ⟨0, by omega⟩
    · exact ⟨-1, by omega⟩
  have e : ((x.toNat : ℤ) + (y.toNat : ℤ).bmod (2 ^ 64) * n) % (2 ^ 64 : ℕ) = ((x.toNat + y.toNat * n : ℕ) : ℤ) % (2 ^ 64 : ℕ) := by
    rw [h, show (x.toNat : ℤ) + (y.toNat + (2 ^ 64 : ℕ) * c) * n = ((x.toNat + y.toNat * n : ℕ) : ℤ) + (2 ^ 64 : ℕ) * (c * n) by push_cast; ring,
      Int.add_mul_emod_self_left]
  have e' := congrArg Int.toNat e
  rw [← Int.natCast_mod, Int.toNat_natCast] at e'
  rw [← Nat.add_mod_mod]
  simpa using e'.symm

/-! ### Translation (R252 steps 5 and 6) -/

/-- An accessor in a bay has its bay's TLB. -/
theorem Accessor.place_bay {w : Accessor} (h : w.outside = false) : w.place = w.bay := by simp [Accessor.place, h]

/-- A leaf in the L1 TLB, not locked, that permits the access. -/
theorem translate_hit {s : State} {w : Accessor} {k : AccKind} {va : Nat} {e : TlbEnt} (h : tlbFind s.ms w.bay (s.ctxOf w.ctx).asid va = some e)
    (hl : leafLock e.leaf.toNat = false) (hd : leafDenied e.leaf.toNat k w = false) (ho : w.outside = false := by rfl) :
    Sys2Proof.Machine.translate s w k va = (.ok e.leaf.toNat (Nat.log2 e.size), s) := by
  unfold Sys2Proof.Machine.translate leafFor
  simp [Accessor.place_bay ho, h, hl, hd]

/-- A locked leaf, and one that denies the access. -/
theorem translate_locked {s : State} {w : Accessor} {va : Nat} {e : TlbEnt} (k : AccKind) (h : tlbFind s.ms w.bay (s.ctxOf w.ctx).asid va = some e)
    (hl : leafLock e.leaf.toNat = true) (ho : w.outside = false := by rfl) : Sys2Proof.Machine.translate s w k va = (.locked, s) := by
  unfold Sys2Proof.Machine.translate leafFor
  simp [Accessor.place_bay ho, h, hl]
theorem translate_denied {s : State} {w : Accessor} {k : AccKind} {va : Nat} {e : TlbEnt} (h : tlbFind s.ms w.bay (s.ctxOf w.ctx).asid va = some e)
    (hl : leafLock e.leaf.toNat = false) (hd : leafDenied e.leaf.toNat k w = true) (ho : w.outside = false := by rfl) :
    Sys2Proof.Machine.translate s w k va = (.fault cProtection, s) := by
  unfold Sys2Proof.Machine.translate leafFor
  simp [Accessor.place_bay ho, h, hl, hd]

/-! ### The checks of a global access (R252) -/

theorem addrOk56_true {a : Nat} (h : a < 2 ^ 56) : addrOk56 a = true := decide_eq_true h
theorem addrOk56_false {a : Nat} (h : 2 ^ 56 ≤ a) : addrOk56 a = false := decide_eq_false (Nat.not_lt.mpr h)

theorem State.checkGlobal_range {s : State} {va : Nat} (n : Nat) (k : AccKind) (al : Alloc) (h : 2 ^ 56 ≤ va) :
    s.checkGlobal va n k al = .stop (s.raise cRange va) := by
  have := addrOk56_false h
  simp [State.checkGlobal, this]

theorem State.checkGlobal_align {s : State} {va n : Nat} (k : AccKind) (al : Alloc) (h : va < 2 ^ 56) (hn : va % n ≠ 0) :
    s.checkGlobal va n k al = .stop (s.raise cAlign va) := by
  have := addrOk56_true h
  simp [State.checkGlobal, this, hn]

/-- A page that the bay's L1 TLB holds needs no walk, so no request of the walker. -/
theorem State.askWalk_hit {s : State} {va : Nat} {e : TlbEnt} (ht : tlbFind s.ms s.th.bay (s.ctxOf s.tm.ref.ctx).asid va = some e) :
    s.askWalk va = .go s := by
  simp [State.askWalk, walkAway, ht]

theorem State.askHome_free {s : State} (h : s.linkFree = true) (leaf ha n : Nat) (k : AccKind) (al : Alloc) :
    s.askHome leaf ha n k al = .go s := by
  simp [State.askHome, h]

/-- Every check passes: the home address, the leaf, and nothing changed. -/
theorem State.checkGlobal_ok {s : State} {va n : Nat} {k : AccKind} {al : Alloc} {e : TlbEnt} (h : va < 2 ^ 56) (hn : va % n = 0)
    (ht : tlbFind s.ms s.th.bay (s.ctxOf s.tm.ref.ctx).asid va = some e) (hl : leafLock e.leaf.toNat = false)
    (hd : leafDenied e.leaf.toNat k s.accessor = false) (hk : s.linkFree = true)
    (hf : failedIn s.ms s.th.bay (s.soundAt e.leaf.toNat al) (leafHa e.leaf.toNat (2 ^ Nat.log2 e.size) va) n (k == .store) = none)
    (hp : isPod (leafHa e.leaf.toNat (2 ^ Nat.log2 e.size) va) = false) :
    s.checkGlobal va n k al = .ok (leafHa e.leaf.toNat (2 ^ Nat.log2 e.size) va) e.leaf.toNat s := by
  have ha := addrOk56_true h
  have ht' := translate_hit (s := s) (w := s.accessor) (k := k) ht hl hd
  unfold State.checkGlobal
  rw [if_neg (by simp [ha]), if_neg (by simp [hn]), State.askWalk_hit ht]
  simp only [ht', hf, State.askHome_free hk]
  simp [podFillFor, hp]

/-- A leaf that denies the access. -/
theorem State.checkGlobal_denied {s : State} {va n : Nat} {k : AccKind} (al : Alloc) {e : TlbEnt} (h : va < 2 ^ 56) (hn : va % n = 0)
    (ht : tlbFind s.ms s.th.bay (s.ctxOf s.tm.ref.ctx).asid va = some e) (hl : leafLock e.leaf.toNat = false)
    (hd : leafDenied e.leaf.toNat k s.accessor = true) : s.checkGlobal va n k al = .stop (s.raise cProtection va) := by
  have ha := addrOk56_true h
  have ht' := translate_denied (s := s) (w := s.accessor) (k := k) ht hl hd
  unfold State.checkGlobal
  rw [if_neg (by simp [ha]), if_neg (by simp [hn]), State.askWalk_hit ht]
  simp only [ht']
  rfl

/-! ### Accesses of an ordinary launch (R127, R419) -/

theorem maxAlloc_eq (a b : Alloc) : maxAlloc a b = max a b := by
  unfold maxAlloc
  split
  · next h => exact (Nat.max_eq_right (Nat.le_of_lt h)).symm
  · next h => exact (Nat.max_eq_left (Nat.not_lt.mp h)).symm

theorem State.gload_ordinary {s : State} (h : s.det = false) (leaf ha n : Nat) (al : Alloc) :
    s.gload leaf ha n al = some ((readMem s.ms s.th.bay (max al (leafAlloc leaf)) ha n).1,
      { s with ms := (readMem s.ms s.th.bay (max al (leafAlloc leaf)) ha n).2 }) := by
  simp [State.gload, h, maxAlloc_eq]

/-- A write whose request loses no sector is the write of all its bytes. -/
theorem State.threadWrite_whole {s : State} (h : s.th.lost = []) (al : Alloc) (ha : Nat) (bs : List Byte) :
    s.threadWrite al ha bs = writeMem s.ms s.th.bay al ha bs := by
  simp [State.threadWrite, h]

theorem State.gstore_ordinary {s : State} (h : s.det = false) (hl : s.th.lost = []) (leaf ha : Nat) (bs : List Byte) (al : Alloc) :
    s.gstore leaf ha bs al = some { s with ms := writeMem s.ms s.th.bay (max al (leafAlloc leaf)) ha bs } := by
  simp [State.gstore, h, maxAlloc_eq, State.threadWrite_whole hl]

theorem State.release_ordinary {s : State} (h : s.det = false) (sc : Nat) : s.release sc = { s with ms := releaseCaches s.ms s.th.bay sc } := by
  simp [State.release, h]

theorem State.acquire_ordinary {s : State} (h : s.det = false) (sc : Nat) :
    s.acquire sc = { s with
      ms := acquireCaches s.ms s.th.bay sc
      tm := { s.tm with acquired := if sc == 0 then s.tm.acquired else s.turns } } := by
  simp [State.acquire, h]

/-- Below system scope a release is its caches' part alone. -/
theorem State.releasing_local {s : State} {sc : Nat} (h : sc ≠ 3) (k : State → State) :
    s.releasing sc k = k (s.release sc) := by
  simp [State.releasing, h]

/-! ### Fetch and transfer (R172) -/

/-- A line that stands in the bay's instruction cache as its home image has it, its page in the L1 TLB. -/
theorem fetchLine_hit {s : State} {w : Accessor} {va : Nat} {e : TlbEnt} {c : CodeLine} (h : tlbFind s.ms w.bay (s.ctxOf w.ctx).asid va = some e)
    (hl : leafLock e.leaf.toNat = false) (hd : leafDenied e.leaf.toNat .fetch w = false)
    (hc : (s.ms.icache.find? fun c => c.bay == w.bay && c.line == leafHa e.leaf.toNat (2 ^ Nat.log2 e.size) va / 64) = some c)
    (hw : lineWords s.ms (64 * (leafHa e.leaf.toNat (2 ^ Nat.log2 e.size) va / 64)) = c.words) (ho : w.outside = false := by rfl) :
    fetchLine s w va = (.line c.words, s) := by
  unfold fetchLine
  rw [translate_hit h hl hd ho]
  simp [hc, hw]

/-- A successor that lies in no packet or beyond the address range. -/
theorem checkTarget_no_packet {s : State} {w : Accessor} {a : Nat} (h : 2 ^ 56 ≤ a ∨ packetOffset a = false) : checkTarget s w a = (.illegal, s) := by
  have : (!addrOk56 a || !packetOffset a) = true := by
    rcases h with h | h
    · simp [addrOk56_false h]
    · simp [h]
  simp [checkTarget, this]

/-- A successor in such a line, by its entry bit. -/
theorem checkTarget_hit {s : State} {w : Accessor} {a : Nat} {e : TlbEnt} {c : CodeLine} (h : a < 2 ^ 56) (hp : packetOffset a = true)
    (ht : tlbFind s.ms w.bay (s.ctxOf w.ctx).asid a = some e) (hl : leafLock e.leaf.toNat = false) (hd : leafDenied e.leaf.toNat .fetch w = false)
    (hc : (s.ms.icache.find? fun c => c.bay == w.bay && c.line == leafHa e.leaf.toNat (2 ^ Nat.log2 e.size) a / 64) = some c)
    (hw : lineWords s.ms (64 * (leafHa e.leaf.toNat (2 ^ Nat.log2 e.size) a / 64)) = c.words) (ho : w.outside = false := by rfl) :
    checkTarget s w a = (if (c.words.getD 15 0).getLsbD (a % 64 / 12) then .legal else .illegal, s) := by
  unfold checkTarget
  rw [fetchLine_hit ht hl hd hc hw ho]
  simp [addrOk56_true h, hp]

theorem State.transfer_legal {s : State} {a : Nat} (h : checkTarget s s.accessor a = (.legal, s)) (k : State → State) :
    s.transfer a k = (k s).enter a := by simp [State.transfer, h]

theorem State.transfer_illegal {s : State} {a : Nat} (h : checkTarget s s.accessor a = (.illegal, s)) (k : State → State) :
    s.transfer a k = s.raise cTarget a := by simp [State.transfer, h]

/-! ### Delivery of a trap (R435, R439, R443, R444) -/

/-- The state in which a trap is delivered: the thread's wait is over. -/
def State.unwaited (s : State) : State :=
  (s.mapMs fun ms => { ms with latches := ms.latches.filter fun l => l.who != .thread s.self }).mapTm fun tm =>
    { tm with hwaits := tm.hwaits.filter fun w => w.tid != s.th.tid }

/-- The one delivery: a kill at trap level, the user handler where the team has one and the cause is a user's, else the supervisor. -/
theorem State.deliver_eq (s : State) (cause addr code slot len : Nat) :
    s.deliver cause addr code slot len =
      if s.th.tl then s.unwaited.killContext s.tm.ref.ctx 0x41 cause
      else if userCause cause && s.tm.trapv != 0 then s.unwaited.toUser (causeWord cause code slot len) addr
      else s.unwaited.toSupervisor (causeWord cause code slot len) addr := rfl

theorem State.deliver_kill {s : State} (h : s.th.tl = true) (cause addr code slot len : Nat) :
    s.deliver cause addr code slot len = s.unwaited.killContext s.tm.ref.ctx 0x41 cause := by
  rw [State.deliver_eq, if_pos h]

theorem State.deliver_user {s : State} {cause : Nat} (h : s.th.tl = false) (hc : userCause cause = true) (ht : s.tm.trapv ≠ 0#64) (addr code slot len : Nat) :
    s.deliver cause addr code slot len = s.unwaited.toUser (causeWord cause code slot len) addr := by
  rw [State.deliver_eq, if_neg (by simp [h]), if_pos (by simp [hc, ht])]

theorem State.deliver_supervisor {s : State} {cause : Nat} (h : s.th.tl = false) (hc : userCause cause = false ∨ s.tm.trapv = 0#64) (addr code slot len : Nat) :
    s.deliver cause addr code slot len = s.unwaited.toSupervisor (causeWord cause code slot len) addr := by
  rw [State.deliver_eq, if_neg (by simp [h]), if_neg (by rcases hc with hc | hc <;> simp [hc])]

end Sys2Proof.Machine
end

