-- ==== Sys2Proof/Laws/Encode.lean ====
section
/-! SUPPORT. Building a word from fields and reading its fields again, format by format (R164, R180 to R183). -/

namespace Sys2Proof

theorem toNat_app {n m : Nat} {x : BitVec n} {y : BitVec m} {a b : Nat} (hx : x.toNat = a) (hy : y.toNat = b) :
    (x ++ y).toNat = a * 2 ^ m + b := by
  subst hx hy
  rw [BitVec.toNat_append, ← Nat.shiftLeft_add_eq_or_of_lt y.isLt, Nat.shiftLeft_eq]

theorem bit1_toNat (b : Bool) : (bit1 b).toNat = b.toNat := by cases b <;> rfl

theorem getLsbD_of_toNat (w : Word) (i : Nat) (b : Bool) (h : w.toNat / 2 ^ i % 2 = b.toNat) : w.getLsbD i = b := by
  rw [BitVec.getLsbD, Nat.testBit_eq_decide_div_mod_eq, h]; cases b <;> rfl

theorem extract_of_toNat (w : Word) (i n : Nat) (x : BitVec n) (h : w.toNat / 2 ^ i % 2 ^ n = x.toNat) :
    w.extractLsb' i n = x := by
  apply BitVec.eq_of_toNat_eq; rw [BitVec.extractLsb'_toNat, Nat.shiftRight_eq_div_pow, h]

theorem buildR_toNat (m : BitVec 6) (f : BitVec 3) (o : RFmt) :
    (buildR m f o).toNat =
      ((((((((bit1 o.c).toNat * 2 + (bit1 o.s).toNat) * 64 + m.toNat) * 2 + (bit1 o.g).toNat) * 4 + o.w.toNat) * 64 + o.d.toNat) * 64 + o.a.toNat) * 64 + o.b.toNat) * 8 + f.toNat :=
  toNat_app (toNat_app (toNat_app (toNat_app (toNat_app (toNat_app (toNat_app (toNat_app rfl rfl) rfl) rfl) rfl) rfl) rfl) rfl) rfl

@[simp] theorem parseR_buildR (m : BitVec 6) (f : BitVec 3) (o : RFmt) : parseR (buildR m f o) = o := by
  have h := buildR_toNat m f o
  obtain ⟨c, s, g, w, d, a, b⟩ := o
  have := (bit1 c).isLt
  have := (bit1 s).isLt
  have := (bit1 g).isLt
  simp only [bit1_toNat] at *
  rw [parseR, RFmt.mk.injEq]
  refine ⟨getLsbD_of_toNat _ _ _ ?_, getLsbD_of_toNat _ _ _ ?_, getLsbD_of_toNat _ _ _ ?_, extract_of_toNat _ _ _ _ ?_, extract_of_toNat _ _ _ _ ?_, extract_of_toNat _ _ _ _ ?_, extract_of_toNat _ _ _ _ ?_⟩ <;> omega

@[simp] theorem majorOf_buildR (m : BitVec 6) (f : BitVec 3) (o : RFmt) : majorOf (buildR m f o) = m := by
  have h := buildR_toNat m f o
  have := (bit1 o.c).isLt
  have := (bit1 o.s).isLt
  have := (bit1 o.g).isLt
  exact extract_of_toNat _ _ _ _ (by omega)

@[simp] theorem fnR_buildR (m : BitVec 6) (f : BitVec 3) (o : RFmt) : fnR (buildR m f o) = f := by
  have h := buildR_toNat m f o
  have := (bit1 o.c).isLt
  have := (bit1 o.s).isLt
  have := (bit1 o.g).isLt
  exact extract_of_toNat _ _ _ _ (by omega)

theorem buildI_toNat (m : BitVec 6) (o : IFmt) :
    (buildI m o).toNat =
      (((((bit1 o.c).toNat * 2 + (bit1 o.s).toNat) * 64 + m.toNat) * 64 + o.d.toNat) * 64 + o.a.toNat) * 4096 + o.imm.toNat :=
  toNat_app (toNat_app (toNat_app (toNat_app (toNat_app rfl rfl) rfl) rfl) rfl) rfl

@[simp] theorem parseI_buildI (m : BitVec 6) (o : IFmt) : parseI (buildI m o) = o := by
  have h := buildI_toNat m o
  obtain ⟨c, s, d, a, imm⟩ := o
  have := (bit1 c).isLt
  have := (bit1 s).isLt
  simp only [bit1_toNat] at *
  rw [parseI, IFmt.mk.injEq]
  refine ⟨getLsbD_of_toNat _ _ _ ?_, getLsbD_of_toNat _ _ _ ?_, extract_of_toNat _ _ _ _ ?_, extract_of_toNat _ _ _ _ ?_, extract_of_toNat _ _ _ _ ?_⟩ <;> omega

@[simp] theorem majorOf_buildI (m : BitVec 6) (o : IFmt) : majorOf (buildI m o) = m := by
  have h := buildI_toNat m o
  have := (bit1 o.c).isLt
  have := (bit1 o.s).isLt
  exact extract_of_toNat _ _ _ _ (by omega)

theorem buildM_toNat (m : BitVec 6) (o : MFmt) :
    (buildM m o).toNat =
      ((((((((bit1 o.c).toNat * 2 + (bit1 o.s).toNat) * 64 + m.toNat) * 2 + (bit1 o.g).toNat) * 4 + o.w.toNat) * 64 + o.d.toNat) * 64 + o.a.toNat) * 8 + o.o.toNat) * 64 + o.imm.toNat :=
  toNat_app (toNat_app (toNat_app (toNat_app (toNat_app (toNat_app (toNat_app (toNat_app rfl rfl) rfl) rfl) rfl) rfl) rfl) rfl) rfl

@[simp] theorem parseM_buildM (m : BitVec 6) (o : MFmt) : parseM (buildM m o) = o := by
  have h := buildM_toNat m o
  obtain ⟨c, s, g, w, d, a, o, imm⟩ := o
  have := (bit1 c).isLt
  have := (bit1 s).isLt
  have := (bit1 g).isLt
  simp only [bit1_toNat] at *
  rw [parseM, MFmt.mk.injEq]
  refine ⟨getLsbD_of_toNat _ _ _ ?_, getLsbD_of_toNat _ _ _ ?_, getLsbD_of_toNat _ _ _ ?_, extract_of_toNat _ _ _ _ ?_, extract_of_toNat _ _ _ _ ?_, extract_of_toNat _ _ _ _ ?_, extract_of_toNat _ _ _ _ ?_, extract_of_toNat _ _ _ _ ?_⟩ <;> omega

@[simp] theorem majorOf_buildM (m : BitVec 6) (o : MFmt) : majorOf (buildM m o) = m := by
  have h := buildM_toNat m o
  have := (bit1 o.c).isLt
  have := (bit1 o.s).isLt
  have := (bit1 o.g).isLt
  exact extract_of_toNat _ _ _ _ (by omega)

theorem buildP_toNat (m : BitVec 6) (f : BitVec 5) (o : PFmt) :
    (buildP m f o).toNat =
      (((((((bit1 o.c).toNat * 2 + (bit1 o.s).toNat) * 64 + m.toNat) * 2 + (bit1 o.g).toNat) * 64 + o.pd.toNat) * 64 + o.a.toNat) * 64 + o.b.toNat) * 32 + f.toNat :=
  toNat_app (toNat_app (toNat_app (toNat_app (toNat_app (toNat_app (toNat_app rfl rfl) rfl) rfl) rfl) rfl) rfl) rfl

@[simp] theorem parseP_buildP (m : BitVec 6) (f : BitVec 5) (o : PFmt) : parseP (buildP m f o) = o := by
  have h := buildP_toNat m f o
  obtain ⟨c, s, g, pd, a, b⟩ := o
  have := (bit1 c).isLt
  have := (bit1 s).isLt
  have := (bit1 g).isLt
  simp only [bit1_toNat] at *
  rw [parseP, PFmt.mk.injEq]
  refine ⟨getLsbD_of_toNat _ _ _ ?_, getLsbD_of_toNat _ _ _ ?_, getLsbD_of_toNat _ _ _ ?_, extract_of_toNat _ _ _ _ ?_, extract_of_toNat _ _ _ _ ?_, extract_of_toNat _ _ _ _ ?_⟩ <;> omega

@[simp] theorem majorOf_buildP (m : BitVec 6) (f : BitVec 5) (o : PFmt) : majorOf (buildP m f o) = m := by
  have h := buildP_toNat m f o
  have := (bit1 o.c).isLt
  have := (bit1 o.s).isLt
  have := (bit1 o.g).isLt
  exact extract_of_toNat _ _ _ _ (by omega)

@[simp] theorem fnP_buildP (m : BitVec 6) (f : BitVec 5) (o : PFmt) : fnP (buildP m f o) = f := by
  have h := buildP_toNat m f o
  have := (bit1 o.c).isLt
  have := (bit1 o.s).isLt
  have := (bit1 o.g).isLt
  exact extract_of_toNat _ _ _ _ (by omega)

theorem buildU_toNat (m : BitVec 6) (o : UFmt) :
    (buildU m o).toNat =
      ((((bit1 o.c).toNat * 2 + (bit1 o.s).toNat) * 64 + m.toNat) * 16 + o.d.toNat) * 1048576 + o.imm.toNat :=
  toNat_app (toNat_app (toNat_app (toNat_app rfl rfl) rfl) rfl) rfl

@[simp] theorem parseU_buildU (m : BitVec 6) (o : UFmt) : parseU (buildU m o) = o := by
  have h := buildU_toNat m o
  obtain ⟨c, s, d, imm⟩ := o
  have := (bit1 c).isLt
  have := (bit1 s).isLt
  simp only [bit1_toNat] at *
  rw [parseU, UFmt.mk.injEq]
  refine ⟨getLsbD_of_toNat _ _ _ ?_, getLsbD_of_toNat _ _ _ ?_, extract_of_toNat _ _ _ _ ?_, extract_of_toNat _ _ _ _ ?_⟩ <;> omega

@[simp] theorem majorOf_buildU (m : BitVec 6) (o : UFmt) : majorOf (buildU m o) = m := by
  have h := buildU_toNat m o
  have := (bit1 o.c).isLt
  have := (bit1 o.s).isLt
  exact extract_of_toNat _ _ _ _ (by omega)

theorem buildX_toNat (m : BitVec 6) (o : XFmt) :
    (buildX m o).toNat =
      ((((bit1 o.c).toNat * 2 + (bit1 o.s).toNat) * 64 + m.toNat) * 64 + o.p.toNat) * 262144 + o.off.toNat :=
  toNat_app (toNat_app (toNat_app (toNat_app rfl rfl) rfl) rfl) rfl

@[simp] theorem parseX_buildX (m : BitVec 6) (o : XFmt) : parseX (buildX m o) = o := by
  have h := buildX_toNat m o
  obtain ⟨c, s, p, off⟩ := o
  have := (bit1 c).isLt
  have := (bit1 s).isLt
  simp only [bit1_toNat] at *
  rw [parseX, XFmt.mk.injEq]
  refine ⟨getLsbD_of_toNat _ _ _ ?_, getLsbD_of_toNat _ _ _ ?_, extract_of_toNat _ _ _ _ ?_, extract_of_toNat _ _ _ _ ?_⟩ <;> omega

@[simp] theorem majorOf_buildX (m : BitVec 6) (o : XFmt) : majorOf (buildX m o) = m := by
  have h := buildX_toNat m o
  have := (bit1 o.c).isLt
  have := (bit1 o.s).isLt
  exact extract_of_toNat _ _ _ _ (by omega)

theorem buildE_toNat (m : BitVec 6) (sub : BitVec 4) (o : EFmt) :
    (buildE m sub o).toNat =
      (((((((bit1 o.c).toNat * 2 + (bit1 o.s).toNat) * 64 + m.toNat) * 64 + o.d.toNat) * 64 + o.a.toNat) * 16 + sub.toNat) * 2 + (bit1 o.g).toNat) * 128 + o.arg.toNat :=
  toNat_app (toNat_app (toNat_app (toNat_app (toNat_app (toNat_app (toNat_app rfl rfl) rfl) rfl) rfl) rfl) rfl) rfl

@[simp] theorem parseE_buildE (m : BitVec 6) (sub : BitVec 4) (o : EFmt) : parseE (buildE m sub o) = o := by
  have h := buildE_toNat m sub o
  obtain ⟨c, s, g, d, a, arg⟩ := o
  have := (bit1 c).isLt
  have := (bit1 s).isLt
  have := (bit1 g).isLt
  simp only [bit1_toNat] at *
  rw [parseE, EFmt.mk.injEq]
  refine ⟨getLsbD_of_toNat _ _ _ ?_, getLsbD_of_toNat _ _ _ ?_, getLsbD_of_toNat _ _ _ ?_, extract_of_toNat _ _ _ _ ?_, extract_of_toNat _ _ _ _ ?_, extract_of_toNat _ _ _ _ ?_⟩ <;> omega

@[simp] theorem majorOf_buildE (m : BitVec 6) (sub : BitVec 4) (o : EFmt) : majorOf (buildE m sub o) = m := by
  have h := buildE_toNat m sub o
  have := (bit1 o.c).isLt
  have := (bit1 o.s).isLt
  have := (bit1 o.g).isLt
  exact extract_of_toNat _ _ _ _ (by omega)

@[simp] theorem subE_buildE (m : BitVec 6) (sub : BitVec 4) (o : EFmt) : subE (buildE m sub o) = sub := by
  have h := buildE_toNat m sub o
  have := (bit1 o.c).isLt
  have := (bit1 o.s).isLt
  have := (bit1 o.g).isLt
  exact extract_of_toNat _ _ _ _ (by omega)

end Sys2Proof
end

