-- ==== Sys2Proof/Laws/Late.lean ====
section
/-! SUPPORT. What performing late stores and reductions can touch: the memory system, the counter of open values and the list of
late words itself. -/

namespace Sys2Proof.Machine

/-- Performing a late word for one thread changes the memory system and the counter of open values only. -/
theorem performFor_eq (l : LateWord) (s : State) (x : Thread) :
    performFor l s x = { s with ms := (performFor l s x).ms, draws := (performFor l s x).draws } := by
  unfold performFor
  split <;> rfl

/-- The same of all its threads. -/
theorem foldl_performFor_eq (l : LateWord) (xs : List Thread) (s : State) :
    xs.foldl (performFor l) s = { s with ms := (xs.foldl (performFor l) s).ms, draws := (xs.foldl (performFor l) s).draws } := by
  induction xs generalizing s with
  | nil => rfl
  | cons x xs ih => rw [List.foldl_cons, ih, performFor_eq l s x]

theorem performWord_eq (s : State) (l : LateWord) :
    performWord s l = { s with ms := (performWord s l).ms, draws := (performWord s l).draws } := foldl_performFor_eq l l.threads s

theorem foldl_performWord_eq (ls : List LateWord) (s : State) :
    ls.foldl performWord s = { s with ms := (ls.foldl performWord s).ms, draws := (ls.foldl performWord s).draws } := by
  induction ls generalizing s with
  | nil => rfl
  | cons l ls ih => rw [List.foldl_cons, ih, performWord_eq s l]

/-- Late words that are performed leave the list, and nothing else changes but the memory system and the counter. -/
theorem performWhere_eq (test : LateWord → Bool) (s : State) :
    performWhere test s = { s with
      late := s.late.filter fun l => !test l, ms := (performWhere test s).ms, draws := (performWhere test s).draws } := by
  unfold performWhere
  rw [foldl_performWord_eq]

@[simp] theorem performWhere_nil (test : LateWord → Bool) (s : State) (h : s.late = []) : performWhere test s = s := by
  unfold performWhere
  rw [h]
  change ({ s with late := [] } : State) = s
  rw [← h]

/-- With no late word, an issue and an act begin as they are. -/
@[simp] theorem lateBefore_nil (r : ThreadRef) (s : State) (h : s.late = []) : lateBefore r s = s := by
  unfold lateBefore
  split
  · rfl
  · simp [h]

@[simp] theorem lateBeforeAct_nil (a : Act) (s : State) (h : s.late = []) : lateBeforeAct a s = s := by
  unfold lateBeforeAct
  split <;> simp [h]

@[simp] theorem performLate_nil (n : Nat) (s : State) (h : s.late = []) : performLate n s = s := by
  simp [performLate, h]

end Sys2Proof.Machine
end

