-- ==== Sys2Proof/Laws/Memory.lean ====
section
/-! SUPPORT. The laws of memory: reading after writing, and that every operation on memory keeps its canonical form. -/

namespace Sys2Proof.Machine

/-! ### Reading after writing -/

theorem getIn_filter_ne {a b : Nat} (h : b ≠ a) (l : List Host.Cell) :
    Memory.getIn b (l.filter fun c => c.1 != a) = Memory.getIn b l := by
  induction l with
  | nil => rfl
  | cons x t ih =>
    obtain ⟨k, v⟩ := x
    by_cases hk : k = a
    · subst hk; simp [Memory.getIn, ih, Ne.symm h]
    · simp [hk, Memory.getIn, ih]

theorem getIn_filter_self (a : Nat) (l : List Host.Cell) : Memory.getIn a (l.filter fun c => c.1 != a) = Memory.default := by
  induction l with
  | nil => rfl
  | cons x t ih =>
    obtain ⟨k, v⟩ := x
    by_cases hk : k = a
    · subst hk; simp [ih]
    · simp [hk, Memory.getIn, ih]

theorem getIn_insertIn (a b : Nat) (v : Byte) (l : List Host.Cell) (ha : ∀ c ∈ l, c.1 ≠ a) :
    Memory.getIn b (Memory.insertIn a v l) = if b = a then v else Memory.getIn b l := by
  induction l with
  | nil =>
    by_cases h : b = a
    · subst h; simp [Memory.insertIn, Memory.getIn]
    · simp [Memory.insertIn, Memory.getIn, h, Ne.symm h]
  | cons x t ih =>
    obtain ⟨k, w⟩ := x
    have hk : k ≠ a := ha (k, w) (by simp)
    have ih := ih fun c hc => ha c (by simp [hc])
    unfold Memory.insertIn
    split
    · by_cases h : b = a
      · subst h; simp [Memory.getIn]
      · simp [Memory.getIn, h, Ne.symm h]
    · by_cases hb : k = b
      · subst hb; simp [Memory.getIn, hk]
      · simp [Memory.getIn, hb, ih]

/-- A byte reads as last written, and every other byte as before. -/
theorem Memory.get_put (m : Memory) (a b : Nat) (v : Byte) : (m.put a v).get b = if b = a then v else m.get b := by
  unfold Memory.put Memory.get Memory.putIn
  dsimp only
  split
  · rename_i h
    by_cases hb : b = a
    · subst hb; simp [getIn_filter_self, eq_of_beq h]
    · simp [hb, getIn_filter_ne hb]
  · rw [getIn_insertIn]
    · by_cases hb : b = a
      · simp [hb]
      · simp [hb, getIn_filter_ne hb]
    · intro c hc; simpa using (List.mem_filter.1 hc).2

/-- Bytes read as last written, and every other byte as before. -/
theorem Memory.get_write (bs : List Byte) (m : Memory) (a b : Nat) :
    (m.write a bs).get b = if a ≤ b ∧ b < a + bs.length then bs.getD (b - a) 0 else m.get b := by
  induction bs generalizing m a with
  | nil => simp only [Memory.write, List.length_nil]; split <;> [omega; rfl]
  | cons x t ih =>
    rw [Memory.write, ih, Memory.get_put]
    by_cases h : b = a
    · subst h; simp
    · by_cases h2 : a + 1 ≤ b ∧ b < a + 1 + t.length
      · have : b - a = (b - (a + 1)) + 1 := by omega
        rw [if_pos h2, if_pos (by simp; omega), this, List.getD_cons_succ]
      · rw [if_neg h2, if_neg h, if_neg (by simp; omega)]

theorem Memory.length_read (n : Nat) (m : Memory) (a : Nat) : (m.read a n).length = n := by
  induction n generalizing a with
  | zero => rfl
  | succ k ih => simp [Memory.read, ih]

theorem Memory.getD_read (n : Nat) (m : Memory) (a i : Nat) (h : i < n) : (m.read a n).getD i 0 = m.get (a + i) := by
  induction n generalizing a i with
  | zero => omega
  | succ k ih =>
    cases i with
    | zero => simp [Memory.read]
    | succ j => rw [Memory.read, List.getD_cons_succ, ih _ _ (by omega)]; congr 1; omega

/-- What was just written is read back. -/
theorem Memory.read_write (m : Memory) (a : Nat) (bs : List Byte) : (m.write a bs).read a bs.length = bs := by
  apply List.ext_getElem (Memory.length_read ..)
  intro i h1 h2
  have h := Memory.getD_read bs.length (m.write a bs) a i h2
  rw [Memory.get_write, if_pos (by omega), show a + i - a = i by omega] at h
  rw [List.getD_eq_getElem _ _ h1, List.getD_eq_getElem _ _ h2] at h
  exact h

/-! ### The canonical form -/

/-- The canonical form as a proposition: addresses strictly rising, no entry equal to the default. -/
theorem wfFrom_iff (lo : Nat) (l : List Host.Cell) :
    Memory.wfFrom lo l = true ↔ (∀ c ∈ l, lo ≤ c.1 ∧ c.2 ≠ Memory.default) ∧ l.Pairwise fun x y => x.1 < y.1 := by
  induction l generalizing lo with
  | nil => simp [Memory.wfFrom]
  | cons x t ih =>
    obtain ⟨k, v⟩ := x
    simp only [Memory.wfFrom, Bool.and_eq_true, decide_eq_true_eq, bne_iff_ne, ne_eq, ih, List.mem_cons, forall_eq_or_imp,
      List.pairwise_cons]
    constructor
    · rintro ⟨⟨h1, h2⟩, h3, h4⟩
      exact ⟨⟨⟨h1, h2⟩, fun c hc => ⟨by have := (h3 c hc).1; omega, (h3 c hc).2⟩⟩, fun c hc => by have := (h3 c hc).1; omega, h4⟩
    · rintro ⟨⟨⟨h1, h2⟩, h3⟩, h4, h5⟩
      exact ⟨⟨h1, h2⟩, fun c hc => ⟨h4 c hc, (h3 c hc).2⟩, h5⟩

theorem mem_insertIn {a : Nat} {v : Byte} {l : List Host.Cell} {c : Host.Cell} (h : c ∈ Memory.insertIn a v l) : c = (a, v) ∨ c ∈ l := by
  induction l with
  | nil => simpa [Memory.insertIn] using h
  | cons x t ih =>
    obtain ⟨k, w⟩ := x
    unfold Memory.insertIn at h
    split at h
    · simpa using h
    · rcases List.mem_cons.1 h with h | h
      · right; simp [h]
      · rcases ih h with h | h <;> simp [h]

theorem pairwise_insertIn {a : Nat} {v : Byte} {l : List Host.Cell} (h : l.Pairwise fun x y => x.1 < y.1) (ha : ∀ c ∈ l, c.1 ≠ a) :
    (Memory.insertIn a v l).Pairwise fun x y => x.1 < y.1 := by
  induction l with
  | nil => simp [Memory.insertIn]
  | cons x t ih =>
    obtain ⟨k, w⟩ := x
    rw [List.pairwise_cons] at h
    unfold Memory.insertIn
    split
    · rename_i hk
      refine List.pairwise_cons.2 ⟨fun c hc => ?_, List.pairwise_cons.2 h⟩
      rcases List.mem_cons.1 hc with rfl | hc
      · exact hk
      · exact lt_trans hk (h.1 c hc)
    · rename_i hk
      refine List.pairwise_cons.2 ⟨fun c hc => ?_, ih h.2 fun c hc => ha c (by simp [hc])⟩
      rcases mem_insertIn hc with rfl | hc
      · have := ha (k, w) (by simp); simp at this ⊢; omega
      · exact h.1 c hc

theorem Memory.wf_put {m : Memory} (h : m.wf = true) (a : Nat) (v : Byte) : (m.put a v).wf = true := by
  unfold Memory.wf at h ⊢
  obtain ⟨h1, h2⟩ := (wfFrom_iff ..).1 h
  refine (wfFrom_iff ..).2 ?_
  unfold Memory.put Memory.putIn
  dsimp only
  have hf : ∀ c ∈ m.cells.filter (fun c => c.1 != a), 0 ≤ c.1 ∧ c.2 ≠ Memory.default := fun c hc => h1 c (List.mem_filter.1 hc).1
  split
  · exact ⟨hf, h2.filter _⟩
  · rename_i hv
    refine ⟨fun c hc => ?_, pairwise_insertIn (h2.filter _) fun c hc => by simpa using (List.mem_filter.1 hc).2⟩
    rcases mem_insertIn hc with rfl | hc
    · exact ⟨Nat.zero_le _, by simpa using hv⟩
    · exact hf c hc

theorem Memory.wf_write (bs : List Byte) {m : Memory} (h : m.wf = true) (a : Nat) : (m.write a bs).wf = true := by
  induction bs generalizing m a with
  | nil => exact h
  | cons x t ih => exact ih (Memory.wf_put h a x) (a + 1)

theorem Memory.wf_writeNat {m : Memory} (h : m.wf = true) (a n v : Nat) : (m.writeNat a n v).wf = true := Memory.wf_write _ h a

theorem Memory.wf_putSector {m : Memory} (h : m.wf = true) (q : Nat) (v : Sec) : (m.putSector q v).wf = true := Memory.wf_writeNat h ..

theorem wf_foldl_put {α : Type} (f : α → Nat) (g : α → Byte) (l : List α) {m : Memory} (h : m.wf = true) :
    (l.foldl (fun m c => m.put (f c) (g c)) m).wf = true := by
  induction l generalizing m with
  | nil => exact h
  | cons x t ih => exact ih (Memory.wf_put h ..)

/-- The copy of a migration keeps the form. -/
theorem wf_moveBytes {m : Memory} (h : m.wf = true) (src dst n : Nat) : (moveBytes m src dst n).wf = true := by
  unfold moveBytes
  refine wf_foldl_put (fun (c : Host.Cell) => dst + (c.1 - src)) (fun (c : Host.Cell) => c.2) _ ?_
  unfold Memory.wf at h ⊢
  obtain ⟨h1, h2⟩ := (wfFrom_iff ..).1 h
  exact (wfFrom_iff ..).2 ⟨fun c hc => h1 c (List.mem_filter.1 hc).1, h2.filter _⟩

theorem State.reset_memory_wf : State.reset.ms.mem.wf = true := rfl

/-- What changes no memory: waking the entries of a line, and what caches do among themselves. -/
@[simp] theorem wakeLine_mem (ms : MemSys) (line : Nat) : (wakeLine ms line).mem = ms.mem := rfl
@[simp] theorem cachePut_mem (ms : MemSys) (own q : Nat) (v : Sec) (dirty stream : Bool) : (cachePut ms own q v dirty stream).mem = ms.mem := rfl
@[simp] theorem cacheDrop_mem (ms : MemSys) (own q : Nat) : (cacheDrop ms own q).mem = ms.mem := rfl
@[simp] theorem pullUp_mem (ms : MemSys) (c q : Nat) : (pullUp ms c q).mem = ms.mem := by unfold pullUp; split <;> rfl
@[simp] theorem l2Fill_mem (ms : MemSys) (q : Nat) : (l2Fill ms q).mem = ms.mem := by unfold l2Fill; split <;> rfl

theorem foldl_mem {α : Type} {f : MemSys → α → MemSys} (hf : ∀ ms x, (f ms x).mem = ms.mem) (l : List α) (ms : MemSys) :
    (l.foldl f ms).mem = ms.mem := by
  induction l generalizing ms with
  | nil => rfl
  | cons x t ih => rw [List.foldl_cons, ih, hf]

@[simp] theorem takeLine_mem (ms : MemSys) (c line keep : Nat) : (takeLine ms c line keep).mem = ms.mem :=
  foldl_mem (f := fun ms (x : CacheSec) => pullUp ms c x.sec) (fun ms x => pullUp_mem ms c x.sec) _ ms

/-- Steps that each keep the form keep it together. -/
theorem wf_foldl {α : Type} {f : MemSys → α → MemSys} (hf : ∀ ms x, ms.mem.wf = true → (f ms x).mem.wf = true) (l : List α) {ms : MemSys}
    (h : ms.mem.wf = true) : (l.foldl f ms).mem.wf = true := by
  induction l generalizing ms with
  | nil => exact h
  | cons x t ih => exact ih (hf ms x h)

/-- A write at a home slice keeps the form of the module's memory. -/
theorem wf_homeWrite {ms : MemSys} (h : ms.mem.wf = true) (ha : Nat) (bs : List Byte) : (homeWrite ms ha bs).mem.wf = true := by
  unfold homeWrite
  dsimp only
  rw [wakeLine_mem]
  split_ifs <;> first | exact Memory.wf_write _ h _ | exact h

/-- Writes of one sector through the caches keep it. -/
theorem wf_writeBack {ms : MemSys} (h : ms.mem.wf = true) (c q : Nat) : (writeBack ms c q).mem.wf = true := by
  unfold writeBack
  dsimp only
  split
  · split
    · exact wf_homeWrite (by simpa using h) _ _
    · simpa using h
  · simpa using h

theorem wf_evict {ms : MemSys} (h : ms.mem.wf = true) (c q : Nat) : (evict ms c q).mem.wf = true := wf_writeBack h c q

theorem wf_makeRoom {ms : MemSys} (h : ms.mem.wf = true) (own : Nat) : (makeRoom ms own).mem.wf = true := by
  unfold makeRoom
  split
  · exact h
  · split
    · simpa using h
    · exact wf_evict h _ _

theorem wf_fillCluster {ms : MemSys} (h : ms.mem.wf = true) (c q : Nat) (st : Bool) : (fillCluster ms c q st).2.mem.wf = true := by
  unfold fillCluster
  dsimp only
  split
  · simpa using h
  · exact wf_makeRoom (ms := l2Fill (pullUp ms c q) q) (by simpa using h) _

theorem wf_readSec {ms : MemSys} (h : ms.mem.wf = true) (bay al q : Nat) : (readSec ms bay al q).2.mem.wf = true := by
  unfold readSec
  dsimp only
  split
  · exact wf_evict h _ _
  · split
    · exact wf_fillCluster h _ _ _
    · split
      · exact h
      · exact wf_makeRoom (wf_fillCluster h _ _ _) _

theorem wf_writeSec {ms : MemSys} (h : ms.mem.wf = true) (bay al ha : Nat) (bs : List Byte) : (writeSec ms bay al ha bs).mem.wf = true := by
  unfold writeSec
  dsimp only
  split
  · exact wf_homeWrite (wf_evict h _ _) _ _
  · split
    · simpa using wf_fillCluster h _ _ _
    · rw [cachePut_mem]
      split
      · simpa using wf_fillCluster h _ _ _
      · exact wf_makeRoom (by simpa using wf_fillCluster h _ _ _) _

theorem wf_readMem {ms : MemSys} (h : ms.mem.wf = true) (bay al ha n : Nat) : (readMem ms bay al ha n).2.mem.wf = true := by
  unfold readMem
  split
  · exact wf_readSec h ..
  · exact wf_readSec (wf_readSec h ..) ..

theorem wf_writeMem {ms : MemSys} (h : ms.mem.wf = true) (bay al ha : Nat) (bs : List Byte) : (writeMem ms bay al ha bs).mem.wf = true := by
  unfold writeMem
  split
  · exact wf_writeSec h ..
  · exact wf_writeSec (wf_writeSec h ..) ..

/-- The release actions of a fence keep it. -/
theorem wf_flushCluster {ms : MemSys} (h : ms.mem.wf = true) (c : Nat) : (flushCluster ms c).mem.wf = true :=
  wf_foldl (fun _ q h => wf_writeBack h c q) _ h

theorem wf_l2WriteBack {ms : MemSys} (h : ms.mem.wf = true) (q : Nat) (drop : Bool) : (l2WriteBack ms q drop).mem.wf = true := by
  unfold l2WriteBack
  dsimp only
  split
  · split
    · exact Memory.wf_putSector h _ _
    · exact h
  · exact h

theorem wf_releaseCaches {ms : MemSys} (h : ms.mem.wf = true) (bay sc : Nat) : (releaseCaches ms bay sc).mem.wf = true := by
  unfold releaseCaches
  dsimp only
  split
  · split
    · exact wf_foldl (fun _ p h => wf_l2WriteBack h p.sec false) _ (wf_flushCluster h _)
    · exact wf_flushCluster h _
  · split
    · exact wf_foldl (fun ms q h => (pullUp_mem ms _ q).symm ▸ h) _ h
    · exact h

end Sys2Proof.Machine
end

