-- ==== Sys2Proof/Laws/Operands.lean ====
section
/-! SUPPORT. What the operand forms do: registers of a group, results short and long, the width-selected words, and the
words at which threads converge. -/

namespace Sys2Proof.Machine

/-! ### Registers of a group -/

/-- A pair read as one number, its low register first (R44, R166). -/
theorem Thread.regsNat_two (t : Thread) (n : Nat) : t.regsNat n 2 = (t.reg n).toNat + 2 ^ 32 * (t.reg (n + 1)).toNat := by
  simp [Thread.regsNat]

theorem Thread.regsNat_one (t : Thread) (n : Nat) : t.regsNat n 1 = (t.reg n).toNat := by simp [Thread.regsNat]

/-- Register n + i of a group of k holds bits 32 i + 31 to 32 i. -/
theorem pendRegs_eq (k n v : Nat) :
    pendRegs n v k = (List.range k).map fun i => .reg (n + i) (BitVec.ofNat 32 (v / 2 ^ (32 * i))) := by
  induction k generalizing n v with
  | zero => rfl
  | succ k ih =>
    rw [pendRegs, ih, List.range_succ_eq_map, List.map_cons, List.map_map]
    refine congrArg₂ List.cons (by simp) (List.map_congr_left fun i _ => ?_)
    have e : 2 ^ 32 * 2 ^ (32 * i) = 2 ^ (32 * (i + 1)) := by rw [← Nat.pow_add]; congr 1; omega
    show Pending.reg (n + 1 + i) (BitVec.ofNat 32 (v / 2 ^ 32 / 2 ^ (32 * i))) = .reg (n + (i + 1)) (BitVec.ofNat 32 (v / 2 ^ (32 * (i + 1))))
    rw [Nat.div_div_eq_div_mul, e, show n + 1 + i = n + (i + 1) by omega]

/-- A long result of one register, and of a pair. -/
theorem pendRegs_one (n : Nat) (v : BitVec 32) : pendRegs n v.toNat 1 = [.reg n v] := by simp [pendRegs]

theorem pendRegs_two (n : Nat) (v : BitVec 64) :
    pendRegs n v.toNat 2 = [.reg n (v.setWidth 32), .reg (n + 1) (v.extractLsb' 32 32)] := by
  simp only [pendRegs, List.cons.injEq, Pending.reg.injEq, true_and, and_true]
  refine ⟨BitVec.eq_of_toNat_eq (by simp), BitVec.eq_of_toNat_eq ?_⟩
  simp [Nat.shiftRight_eq_div_pow]

/-- A short result of one register, and of a pair. -/
theorem State.puts_one (s : State) (r : BitVec 6) (v : BitVec 32) :
    s.puts r 1 v.toNat = { s with th := { s.th with regs := s.th.regs.set r.toNat v } } := by
  simp [State.puts, State.mapTh, Thread.setRegs, Thread.setReg]

theorem State.puts_two (s : State) (r : BitVec 6) (v : BitVec 64) :
    s.puts r 2 v.toNat =
      { s with th := { s.th with regs := (s.th.regs.set r.toNat (v.setWidth 32)).set (r.toNat + 1) (v.extractLsb' 32 32) } } := by
  have h1 : BitVec.ofNat 32 v.toNat = v.setWidth 32 := BitVec.eq_of_toNat_eq (by simp)
  have h2 : BitVec.ofNat 32 (v.toNat / 4294967296) = v.extractLsb' 32 32 :=
    BitVec.eq_of_toNat_eq (by simp [Nat.shiftRight_eq_div_pow])
  simp [State.puts, State.mapTh, Thread.setRegs, Thread.setReg, h1, h2]

/-! ### Width-selected words (R190) -/

/-- A guarded word whose guard is false changes nothing. -/
theorem alu2_off {s : State} {o : RFmt} (h : s.active o.g = false) (c : Class) (f : (n : Nat) → BitVec n → BitVec n → BitVec n) :
    alu2 c f o s = s := by simp [alu2, h]
theorem alu3_off {s : State} {o : RFmt} (h : s.active o.g = false) (c : Class) (f : (n : Nat) → BitVec n → BitVec n → BitVec n → BitVec n) :
    alu3 c f o s = s := by simp [alu3, h]
theorem aluCtl_off {s : State} {o : RFmt} (h : s.active o.g = false) (c : Class) (f : (n : Nat) → BitVec n → Word → BitVec n → BitVec n) :
    aluCtl c f o s = s := by simp [aluCtl, h]

/-- A short word of two operands, at each width. -/
theorem alu2_short32 {s : State} {o : RFmt} (h : s.active o.g = true) (hw : o.w = 0#2) (f : (n : Nat) → BitVec n → BitVec n → BitVec n) :
    alu2 .short f o s = { s with th := { s.th with regs := s.th.regs.set o.d.toNat (f 32 (s.src o.a) (s.src o.b)) } } := by
  simp [alu2, h, hw, State.result, State.puts_one]
theorem alu2_short64 {s : State} {o : RFmt} (h : s.active o.g = true) (hw : o.w = 1#2) (f : (n : Nat) → BitVec n → BitVec n → BitVec n) :
    alu2 .short f o s = { s with th := { s.th with
      regs := (s.th.regs.set o.d.toNat ((f 64 (s.srcPair o.a) (s.srcPair o.b)).setWidth 32)).set (o.d.toNat + 1)
        ((f 64 (s.srcPair o.a) (s.srcPair o.b)).extractLsb' 32 32) } } := by
  simp [alu2, h, hw, State.result, State.puts_two]

/-- A long word of two operands, at each width. -/
theorem alu2_long32 {s : State} {o : RFmt} (h : s.active o.g = true) (hw : o.w = 0#2) (f : (n : Nat) → BitVec n → BitVec n → BitVec n) :
    alu2 .long f o s = s.pend [.reg o.d.toNat (f 32 (s.src o.a) (s.src o.b))] := by
  simp [alu2, h, hw, State.result, State.pendTo, pendRegs_one]
theorem alu2_long64 {s : State} {o : RFmt} (h : s.active o.g = true) (hw : o.w = 1#2) (f : (n : Nat) → BitVec n → BitVec n → BitVec n) :
    alu2 .long f o s = s.pend [.reg o.d.toNat ((f 64 (s.srcPair o.a) (s.srcPair o.b)).setWidth 32),
      .reg (o.d.toNat + 1) ((f 64 (s.srcPair o.a) (s.srcPair o.b)).extractLsb' 32 32)] := by
  simp [alu2, h, hw, State.result, State.pendTo, pendRegs_two]

/-- The same with the destination as a third source (R189). -/
theorem alu3_short32 {s : State} {o : RFmt} (h : s.active o.g = true) (hw : o.w = 0#2) (f : (n : Nat) → BitVec n → BitVec n → BitVec n → BitVec n) :
    alu3 .short f o s = { s with th := { s.th with regs := s.th.regs.set o.d.toNat (f 32 (s.src o.a) (s.src o.b) (s.src o.d)) } } := by
  simp [alu3, h, hw, State.result, State.puts_one]
theorem alu3_short64 {s : State} {o : RFmt} (h : s.active o.g = true) (hw : o.w = 1#2) (f : (n : Nat) → BitVec n → BitVec n → BitVec n → BitVec n) :
    alu3 .short f o s = { s with th := { s.th with
      regs := (s.th.regs.set o.d.toNat ((f 64 (s.srcPair o.a) (s.srcPair o.b) (s.srcPair o.d)).setWidth 32)).set (o.d.toNat + 1)
        ((f 64 (s.srcPair o.a) (s.srcPair o.b) (s.srcPair o.d)).extractLsb' 32 32) } } := by
  simp [alu3, h, hw, State.result, State.puts_two]

/-- The same with a 32-bit count or control in B (R194). -/
theorem aluCtl_short32 {s : State} {o : RFmt} (h : s.active o.g = true) (hw : o.w = 0#2) (f : (n : Nat) → BitVec n → Word → BitVec n → BitVec n) :
    aluCtl .short f o s = { s with th := { s.th with regs := s.th.regs.set o.d.toNat (f 32 (s.src o.a) (s.src o.b) (s.src o.d)) } } := by
  simp [aluCtl, h, hw, State.result, State.puts_one]
theorem aluCtl_short64 {s : State} {o : RFmt} (h : s.active o.g = true) (hw : o.w = 1#2) (f : (n : Nat) → BitVec n → Word → BitVec n → BitVec n) :
    aluCtl .short f o s = { s with th := { s.th with
      regs := (s.th.regs.set o.d.toNat ((f 64 (s.srcPair o.a) (s.src o.b) (s.srcPair o.d)).setWidth 32)).set (o.d.toNat + 1)
        ((f 64 (s.srcPair o.a) (s.src o.b) (s.srcPair o.d)).extractLsb' 32 32) } } := by
  simp [aluCtl, h, hw, State.result, State.puts_two]

/-- An immediate word (R200). -/
theorem aluImm_eq (f : Word → Word → Word) (o : IFmt) (s : State) :
    aluImm f o s = { s with th := { s.th with regs := s.th.regs.set o.d.toNat (f (s.src o.a) (o.imm.signExtend 32)) } } := by
  simp [aluImm, State.puts_one]

/-! ### Convergent words (R27) -/

/-- A thread whose result is fixed takes it. -/
theorem convergent_fixed {s : State} {ps : List Pending} (h : s.th.conv = some ps) (team g : Bool) (f : List Thread → Thread → List Pending) :
    convergent s team g f = { s with th := { s.th with conv := none, pending := s.th.pending ++ ps } } := by
  simp [convergent, h, State.pend, State.mapTh]

/-- A thread that comes before the others blocks. -/
theorem convergent_waits {s : State} {team : Bool} (h : s.th.conv = none) (hm : s.allStand (s.convMembers team) = false) (g : Bool)
    (f : List Thread → Thread → List Pending) :
    convergent s team g f = s.block (if team then .teamConv else .convergent) := by
  simp [convergent, h, hm]

end Sys2Proof.Machine
end

