-- ==== Sys2Proof/Laws/PerInstr.lean ====
section
/-! SUPPORT. Instruction by instruction: the word of a well-formed instruction selects that instruction (R184 steps 1 and 2
read what R179 to R183 write). The operations and events that have no word say nothing. -/

namespace Sys2Proof.Laws.Encodes

/-- The word built from an instruction's fields selects the instruction, with every field. -/
def Statement (i : Instr) : Prop := i.wellFormed = true → i.hasWord = true → select (encode i) = .ok i

theorem of_select {i : Instr} (h : select (encode i) = .ok i) : Statement i := fun _ _ => h

/-- An operation with no word. -/
theorem of_noWord {i : Instr} (h : i.hasWord = false) : Statement i := fun _ h1 => by rw [h] at h1; cases h1

theorem select_01 {w : Word} (h : majorOf w = 1) : select w = (decode01 w) := by unfold select; rw [h]; rfl
theorem select_02 {w : Word} (h : majorOf w = 2) : select w = (decode02 w) := by unfold select; rw [h]; rfl
theorem select_03 {w : Word} (h : majorOf w = 3) : select w = (decode03 w) := by unfold select; rw [h]; rfl
theorem select_04 {w : Word} (h : majorOf w = 4) : select w = (decode04 w) := by unfold select; rw [h]; rfl
theorem select_05 {w : Word} (h : majorOf w = 5) : select w = (decode05 w) := by unfold select; rw [h]; rfl
theorem select_08 {w : Word} (h : majorOf w = 8) : select w = (.ok (.iaddi (parseI w))) := by unfold select; rw [h]; rfl
theorem select_09 {w : Word} (h : majorOf w = 9) : select w = (.ok (.andi (parseI w))) := by unfold select; rw [h]; rfl
theorem select_0A {w : Word} (h : majorOf w = 10) : select w = (.ok (.ori (parseI w))) := by unfold select; rw [h]; rfl
theorem select_0B {w : Word} (h : majorOf w = 11) : select w = (.ok (.xori (parseI w))) := by unfold select; rw [h]; rfl
theorem select_0C {w : Word} (h : majorOf w = 12) : select w = (.ok (.shli (parseI w))) := by unfold select; rw [h]; rfl
theorem select_0D {w : Word} (h : majorOf w = 13) : select w = (.ok (.shri (parseI w))) := by unfold select; rw [h]; rfl
theorem select_0E {w : Word} (h : majorOf w = 14) : select w = (.ok (.sari (parseI w))) := by unfold select; rw [h]; rfl
theorem select_0F {w : Word} (h : majorOf w = 15) : select w = (.ok (.movi (parseI w))) := by unfold select; rw [h]; rfl
theorem select_10 {w : Word} (h : majorOf w = 16) : select w = (decode10 w) := by unfold select; rw [h]; rfl
theorem select_11 {w : Word} (h : majorOf w = 17) : select w = (decode11 w) := by unfold select; rw [h]; rfl
theorem select_12 {w : Word} (h : majorOf w = 18) : select w = (decode12 w) := by unfold select; rw [h]; rfl
theorem select_13 {w : Word} (h : majorOf w = 19) : select w = (decode13 w) := by unfold select; rw [h]; rfl
theorem select_14 {w : Word} (h : majorOf w = 20) : select w = (decode14 w) := by unfold select; rw [h]; rfl
theorem select_15 {w : Word} (h : majorOf w = 21) : select w = (.ok (.cvt (fnR w) (parseR w))) := by unfold select; rw [h]; rfl
theorem select_16 {w : Word} (h : majorOf w = 22) : select w = (decode16 w) := by unfold select; rw [h]; rfl
theorem select_18 {w : Word} (h : majorOf w = 24) : select w = (.ok (.icmp (fnP w) (parseP w))) := by unfold select; rw [h]; rfl
theorem select_19 {w : Word} (h : majorOf w = 25) : select w = (.ok (.fcmp32 (fnP w) (parseP w))) := by unfold select; rw [h]; rfl
theorem select_1A {w : Word} (h : majorOf w = 26) : select w = (.ok (.fcmp64 (fnP w) (parseP w))) := by unfold select; rw [h]; rfl
theorem select_1B {w : Word} (h : majorOf w = 27) : select w = (decode1B w) := by unfold select; rw [h]; rfl
theorem select_20 {w : Word} (h : majorOf w = 32) : select w = (.ok (.ld (parseM w))) := by unfold select; rw [h]; rfl
theorem select_21 {w : Word} (h : majorOf w = 33) : select w = (.ok (.st (parseM w))) := by unfold select; rw [h]; rfl
theorem select_22 {w : Word} (h : majorOf w = 34) : select w = (.ok (.ldl (parseM w))) := by unfold select; rw [h]; rfl
theorem select_23 {w : Word} (h : majorOf w = 35) : select w = (.ok (.stl (parseM w))) := by unfold select; rw [h]; rfl
theorem select_24 {w : Word} (h : majorOf w = 36) : select w = (.ok (.lda (parseM w))) := by unfold select; rw [h]; rfl
theorem select_25 {w : Word} (h : majorOf w = 37) : select w = (.ok (.sta (parseM w))) := by unfold select; rw [h]; rfl
theorem select_26 {w : Word} (h : majorOf w = 38) : select w = (.ok (.ldw (parseM w))) := by unfold select; rw [h]; rfl
theorem select_27 {w : Word} (h : majorOf w = 39) : select w = (.ok (.ldc (parseM w))) := by unfold select; rw [h]; rfl
theorem select_28 {w : Word} (h : majorOf w = 40) : select w = (.ok (.stc (parseM w))) := by unfold select; rw [h]; rfl
theorem select_29 {w : Word} (h : majorOf w = 41) : select w = (.ok (.atom (fnR w) (parseR w))) := by unfold select; rw [h]; rfl
theorem select_2A {w : Word} (h : majorOf w = 42) : select w = (.ok (.atomx (fnR w) (parseR w))) := by unfold select; rw [h]; rfl
theorem select_2B {w : Word} (h : majorOf w = 43) : select w = (.ok (.red (fnR w) (parseR w))) := by unfold select; rw [h]; rfl
theorem select_2C {w : Word} (h : majorOf w = 44) : select w = (if (fnR w).toNat < 5 then .ok (.redx (fnR w) (parseR w)) else .error .undefinedCode) := by unfold select; rw [h]; rfl
theorem select_2D {w : Word} (h : majorOf w = 45) : select w = (decode2D w) := by unfold select; rw [h]; rfl
theorem select_2E {w : Word} (h : majorOf w = 46) : select w = (.ok (.ldra (parseM w))) := by unfold select; rw [h]; rfl
theorem select_2F {w : Word} (h : majorOf w = 47) : select w = (decode2F w) := by unfold select; rw [h]; rfl
theorem select_30 {w : Word} (h : majorOf w = 48) : select w = (decode30 w) := by unfold select; rw [h]; rfl
theorem select_31 {w : Word} (h : majorOf w = 49) : select w = (decode31 w) := by unfold select; rw [h]; rfl
theorem select_32 {w : Word} (h : majorOf w = 50) : select w = (decode32 w) := by unfold select; rw [h]; rfl
theorem select_33 {w : Word} (h : majorOf w = 51) : select w = (decode33 w) := by unfold select; rw [h]; rfl
theorem select_34 {w : Word} (h : majorOf w = 52) : select w = (decode34 w) := by unfold select; rw [h]; rfl
theorem select_38 {w : Word} (h : majorOf w = 56) : select w = (.ok (.luih (parseU w))) := by unfold select; rw [h]; rfl
theorem select_39 {w : Word} (h : majorOf w = 57) : select w = (.ok (.adrh (parseU w))) := by unfold select; rw [h]; rfl
theorem select_3A {w : Word} (h : majorOf w = 58) : select w = (.ok (.next (parseU w))) := by unfold select; rw [h]; rfl
theorem select_3B {w : Word} (h : majorOf w = 59) : select w = (.ok (.call (parseU w))) := by unfold select; rw [h]; rfl
theorem select_3C {w : Word} (h : majorOf w = 60) : select w = (.ok (.nextp (parseX w))) := by unfold select; rw [h]; rfl
theorem select_3D {w : Word} (h : majorOf w = 61) : select w = (.ok (.nextn (parseX w))) := by unfold select; rw [h]; rfl
theorem select_3E {w : Word} (h : majorOf w = 62) : select w = (decode3E w) := by unfold select; rw [h]; rfl

theorem iadd (o : RFmt) : Statement (.iadd o) := by
  apply of_select; unfold encode; rw [select_01 (majorOf_buildR ..)]
  unfold decode01; rw [fnR_buildR, parseR_buildR]; rfl

theorem isub (o : RFmt) : Statement (.isub o) := by
  apply of_select; unfold encode; rw [select_01 (majorOf_buildR ..)]
  unfold decode01; rw [fnR_buildR, parseR_buildR]; rfl

theorem imin (o : RFmt) : Statement (.imin o) := by
  apply of_select; unfold encode; rw [select_01 (majorOf_buildR ..)]
  unfold decode01; rw [fnR_buildR, parseR_buildR]; rfl

theorem imax (o : RFmt) : Statement (.imax o) := by
  apply of_select; unfold encode; rw [select_01 (majorOf_buildR ..)]
  unfold decode01; rw [fnR_buildR, parseR_buildR]; rfl

theorem iminu (o : RFmt) : Statement (.iminu o) := by
  apply of_select; unfold encode; rw [select_01 (majorOf_buildR ..)]
  unfold decode01; rw [fnR_buildR, parseR_buildR]; rfl

theorem imaxu (o : RFmt) : Statement (.imaxu o) := by
  apply of_select; unfold encode; rw [select_01 (majorOf_buildR ..)]
  unfold decode01; rw [fnR_buildR, parseR_buildR]; rfl

theorem iabs (o : RFmt) : Statement (.iabs o) := by
  apply of_select; unfold encode; rw [select_01 (majorOf_buildR ..)]
  unfold decode01; rw [fnR_buildR, parseR_buildR]; rfl

theorem ineg (o : RFmt) : Statement (.ineg o) := by
  apply of_select; unfold encode; rw [select_01 (majorOf_buildR ..)]
  unfold decode01; rw [fnR_buildR, parseR_buildR]; rfl

theorem and (o : RFmt) : Statement (.and o) := by
  apply of_select; unfold encode; rw [select_02 (majorOf_buildR ..)]
  unfold decode02; rw [fnR_buildR, parseR_buildR]; rfl

theorem or (o : RFmt) : Statement (.or o) := by
  apply of_select; unfold encode; rw [select_02 (majorOf_buildR ..)]
  unfold decode02; rw [fnR_buildR, parseR_buildR]; rfl

theorem xor (o : RFmt) : Statement (.xor o) := by
  apply of_select; unfold encode; rw [select_02 (majorOf_buildR ..)]
  unfold decode02; rw [fnR_buildR, parseR_buildR]; rfl

theorem andn (o : RFmt) : Statement (.andn o) := by
  apply of_select; unfold encode; rw [select_02 (majorOf_buildR ..)]
  unfold decode02; rw [fnR_buildR, parseR_buildR]; rfl

theorem not (o : RFmt) : Statement (.not o) := by
  apply of_select; unfold encode; rw [select_02 (majorOf_buildR ..)]
  unfold decode02; rw [fnR_buildR, parseR_buildR]; rfl

theorem sel (o : RFmt) : Statement (.sel o) := by
  apply of_select; unfold encode; rw [select_02 (majorOf_buildR ..)]
  unfold decode02; rw [fnR_buildR, parseR_buildR]; rfl

theorem mov (o : RFmt) : Statement (.mov o) := by
  apply of_select; unfold encode; rw [select_02 (majorOf_buildR ..)]
  unfold decode02; rw [fnR_buildR, parseR_buildR]; rfl

theorem popc (o : RFmt) : Statement (.popc o) := by
  apply of_select; unfold encode; rw [select_02 (majorOf_buildR ..)]
  unfold decode02; rw [fnR_buildR, parseR_buildR]; rfl

theorem shl (o : RFmt) : Statement (.shl o) := by
  apply of_select; unfold encode; rw [select_03 (majorOf_buildR ..)]
  unfold decode03; rw [fnR_buildR, parseR_buildR]; rfl

theorem shr (o : RFmt) : Statement (.shr o) := by
  apply of_select; unfold encode; rw [select_03 (majorOf_buildR ..)]
  unfold decode03; rw [fnR_buildR, parseR_buildR]; rfl

theorem sar (o : RFmt) : Statement (.sar o) := by
  apply of_select; unfold encode; rw [select_03 (majorOf_buildR ..)]
  unfold decode03; rw [fnR_buildR, parseR_buildR]; rfl

theorem rol (o : RFmt) : Statement (.rol o) := by
  apply of_select; unfold encode; rw [select_03 (majorOf_buildR ..)]
  unfold decode03; rw [fnR_buildR, parseR_buildR]; rfl

theorem clz (o : RFmt) : Statement (.clz o) := by
  apply of_select; unfold encode; rw [select_03 (majorOf_buildR ..)]
  unfold decode03; rw [fnR_buildR, parseR_buildR]; rfl

theorem brev (o : RFmt) : Statement (.brev o) := by
  apply of_select; unfold encode; rw [select_03 (majorOf_buildR ..)]
  unfold decode03; rw [fnR_buildR, parseR_buildR]; rfl

theorem bfx (o : RFmt) : Statement (.bfx o) := by
  apply of_select; unfold encode; rw [select_03 (majorOf_buildR ..)]
  unfold decode03; rw [fnR_buildR, parseR_buildR]; rfl

theorem bfi (o : RFmt) : Statement (.bfi o) := by
  apply of_select; unfold encode; rw [select_03 (majorOf_buildR ..)]
  unfold decode03; rw [fnR_buildR, parseR_buildR]; rfl

theorem imul (o : RFmt) : Statement (.imul o) := by
  apply of_select; unfold encode; rw [select_04 (majorOf_buildR ..)]
  unfold decode04; rw [fnR_buildR, parseR_buildR]; rfl

theorem imulh (o : RFmt) : Statement (.imulh o) := by
  apply of_select; unfold encode; rw [select_04 (majorOf_buildR ..)]
  unfold decode04; rw [fnR_buildR, parseR_buildR]; rfl

theorem imulhu (o : RFmt) : Statement (.imulhu o) := by
  apply of_select; unfold encode; rw [select_04 (majorOf_buildR ..)]
  unfold decode04; rw [fnR_buildR, parseR_buildR]; rfl

theorem imad (o : RFmt) : Statement (.imad o) := by
  apply of_select; unfold encode; rw [select_04 (majorOf_buildR ..)]
  unfold decode04; rw [fnR_buildR, parseR_buildR]; rfl

theorem idiv (o : RFmt) : Statement (.idiv o) := by
  apply of_select; unfold encode; rw [select_04 (majorOf_buildR ..)]
  unfold decode04; rw [fnR_buildR, parseR_buildR]; rfl

theorem irem (o : RFmt) : Statement (.irem o) := by
  apply of_select; unfold encode; rw [select_04 (majorOf_buildR ..)]
  unfold decode04; rw [fnR_buildR, parseR_buildR]; rfl

theorem idivu (o : RFmt) : Statement (.idivu o) := by
  apply of_select; unfold encode; rw [select_04 (majorOf_buildR ..)]
  unfold decode04; rw [fnR_buildR, parseR_buildR]; rfl

theorem iremu (o : RFmt) : Statement (.iremu o) := by
  apply of_select; unfold encode; rw [select_04 (majorOf_buildR ..)]
  unfold decode04; rw [fnR_buildR, parseR_buildR]; rfl

theorem lea (o : RFmt) : Statement (.lea o) := by
  apply of_select; unfold encode; rw [select_05 (majorOf_buildR ..)]
  unfold decode05; rw [fnR_buildR, parseR_buildR]; rfl

theorem leaX2 (o : RFmt) : Statement (.leaX2 o) := by
  apply of_select; unfold encode; rw [select_05 (majorOf_buildR ..)]
  unfold decode05; rw [fnR_buildR, parseR_buildR]; rfl

theorem leaX4 (o : RFmt) : Statement (.leaX4 o) := by
  apply of_select; unfold encode; rw [select_05 (majorOf_buildR ..)]
  unfold decode05; rw [fnR_buildR, parseR_buildR]; rfl

theorem leaX8 (o : RFmt) : Statement (.leaX8 o) := by
  apply of_select; unfold encode; rw [select_05 (majorOf_buildR ..)]
  unfold decode05; rw [fnR_buildR, parseR_buildR]; rfl

theorem iaddc (o : RFmt) : Statement (.iaddc o) := by
  apply of_select; unfold encode; rw [select_05 (majorOf_buildR ..)]
  unfold decode05; rw [fnR_buildR, parseR_buildR]; rfl

theorem isubb (o : RFmt) : Statement (.isubb o) := by
  apply of_select; unfold encode; rw [select_05 (majorOf_buildR ..)]
  unfold decode05; rw [fnR_buildR, parseR_buildR]; rfl

theorem iaddi (o : IFmt) : Statement (.iaddi o) := by
  apply of_select; unfold encode; rw [select_08 (majorOf_buildI ..), parseI_buildI]

theorem andi (o : IFmt) : Statement (.andi o) := by
  apply of_select; unfold encode; rw [select_09 (majorOf_buildI ..), parseI_buildI]

theorem ori (o : IFmt) : Statement (.ori o) := by
  apply of_select; unfold encode; rw [select_0A (majorOf_buildI ..), parseI_buildI]

theorem xori (o : IFmt) : Statement (.xori o) := by
  apply of_select; unfold encode; rw [select_0B (majorOf_buildI ..), parseI_buildI]

theorem shli (o : IFmt) : Statement (.shli o) := by
  apply of_select; unfold encode; rw [select_0C (majorOf_buildI ..), parseI_buildI]

theorem shri (o : IFmt) : Statement (.shri o) := by
  apply of_select; unfold encode; rw [select_0D (majorOf_buildI ..), parseI_buildI]

theorem sari (o : IFmt) : Statement (.sari o) := by
  apply of_select; unfold encode; rw [select_0E (majorOf_buildI ..), parseI_buildI]

theorem movi (o : IFmt) : Statement (.movi o) := by
  apply of_select; unfold encode; rw [select_0F (majorOf_buildI ..), parseI_buildI]

theorem luih (o : UFmt) : Statement (.luih o) := by
  apply of_select; unfold encode; rw [select_38 (majorOf_buildU ..), parseU_buildU]

theorem adrh (o : UFmt) : Statement (.adrh o) := by
  apply of_select; unfold encode; rw [select_39 (majorOf_buildU ..), parseU_buildU]

theorem fadd (o : RFmt) : Statement (.fadd o) := by
  apply of_select; unfold encode; rw [select_10 (majorOf_buildR ..)]
  unfold decode10; rw [fnR_buildR, parseR_buildR]; rfl

theorem fsub (o : RFmt) : Statement (.fsub o) := by
  apply of_select; unfold encode; rw [select_10 (majorOf_buildR ..)]
  unfold decode10; rw [fnR_buildR, parseR_buildR]; rfl

theorem fmul (o : RFmt) : Statement (.fmul o) := by
  apply of_select; unfold encode; rw [select_10 (majorOf_buildR ..)]
  unfold decode10; rw [fnR_buildR, parseR_buildR]; rfl

theorem fma (o : RFmt) : Statement (.fma o) := by
  apply of_select; unfold encode; rw [select_10 (majorOf_buildR ..)]
  unfold decode10; rw [fnR_buildR, parseR_buildR]; rfl

theorem fmin (o : RFmt) : Statement (.fmin o) := by
  apply of_select; unfold encode; rw [select_10 (majorOf_buildR ..)]
  unfold decode10; rw [fnR_buildR, parseR_buildR]; rfl

theorem fmax (o : RFmt) : Statement (.fmax o) := by
  apply of_select; unfold encode; rw [select_10 (majorOf_buildR ..)]
  unfold decode10; rw [fnR_buildR, parseR_buildR]; rfl

theorem fdiv (o : RFmt) : Statement (.fdiv o) := by
  apply of_select; unfold encode; rw [select_10 (majorOf_buildR ..)]
  unfold decode10; rw [fnR_buildR, parseR_buildR]; rfl

theorem fsqrt (o : RFmt) : Statement (.fsqrt o) := by
  apply of_select; unfold encode; rw [select_10 (majorOf_buildR ..)]
  unfold decode10; rw [fnR_buildR, parseR_buildR]; rfl

theorem fadd64 (o : RFmt) : Statement (.fadd64 o) := by
  apply of_select; unfold encode; rw [select_11 (majorOf_buildR ..)]
  unfold decode11; rw [fnR_buildR, parseR_buildR]; rfl

theorem fsub64 (o : RFmt) : Statement (.fsub64 o) := by
  apply of_select; unfold encode; rw [select_11 (majorOf_buildR ..)]
  unfold decode11; rw [fnR_buildR, parseR_buildR]; rfl

theorem fmul64 (o : RFmt) : Statement (.fmul64 o) := by
  apply of_select; unfold encode; rw [select_11 (majorOf_buildR ..)]
  unfold decode11; rw [fnR_buildR, parseR_buildR]; rfl

theorem fma64 (o : RFmt) : Statement (.fma64 o) := by
  apply of_select; unfold encode; rw [select_11 (majorOf_buildR ..)]
  unfold decode11; rw [fnR_buildR, parseR_buildR]; rfl

theorem fmin64 (o : RFmt) : Statement (.fmin64 o) := by
  apply of_select; unfold encode; rw [select_11 (majorOf_buildR ..)]
  unfold decode11; rw [fnR_buildR, parseR_buildR]; rfl

theorem fmax64 (o : RFmt) : Statement (.fmax64 o) := by
  apply of_select; unfold encode; rw [select_11 (majorOf_buildR ..)]
  unfold decode11; rw [fnR_buildR, parseR_buildR]; rfl

theorem fdiv64 (o : RFmt) : Statement (.fdiv64 o) := by
  apply of_select; unfold encode; rw [select_11 (majorOf_buildR ..)]
  unfold decode11; rw [fnR_buildR, parseR_buildR]; rfl

theorem fsqrt64 (o : RFmt) : Statement (.fsqrt64 o) := by
  apply of_select; unfold encode; rw [select_11 (majorOf_buildR ..)]
  unfold decode11; rw [fnR_buildR, parseR_buildR]; rfl

theorem faddH2 (o : RFmt) : Statement (.faddH2 o) := by
  apply of_select; unfold encode; rw [select_12 (majorOf_buildR ..)]
  unfold decode12; rw [fnR_buildR, parseR_buildR]; rfl

theorem fsubH2 (o : RFmt) : Statement (.fsubH2 o) := by
  apply of_select; unfold encode; rw [select_12 (majorOf_buildR ..)]
  unfold decode12; rw [fnR_buildR, parseR_buildR]; rfl

theorem fmulH2 (o : RFmt) : Statement (.fmulH2 o) := by
  apply of_select; unfold encode; rw [select_12 (majorOf_buildR ..)]
  unfold decode12; rw [fnR_buildR, parseR_buildR]; rfl

theorem fmaH2 (o : RFmt) : Statement (.fmaH2 o) := by
  apply of_select; unfold encode; rw [select_12 (majorOf_buildR ..)]
  unfold decode12; rw [fnR_buildR, parseR_buildR]; rfl

theorem fminH2 (o : RFmt) : Statement (.fminH2 o) := by
  apply of_select; unfold encode; rw [select_12 (majorOf_buildR ..)]
  unfold decode12; rw [fnR_buildR, parseR_buildR]; rfl

theorem fmaxH2 (o : RFmt) : Statement (.fmaxH2 o) := by
  apply of_select; unfold encode; rw [select_12 (majorOf_buildR ..)]
  unfold decode12; rw [fnR_buildR, parseR_buildR]; rfl

theorem fdivH2 (o : RFmt) : Statement (.fdivH2 o) := by
  apply of_select; unfold encode; rw [select_12 (majorOf_buildR ..)]
  unfold decode12; rw [fnR_buildR, parseR_buildR]; rfl

theorem fsqrtH2 (o : RFmt) : Statement (.fsqrtH2 o) := by
  apply of_select; unfold encode; rw [select_12 (majorOf_buildR ..)]
  unfold decode12; rw [fnR_buildR, parseR_buildR]; rfl

theorem faddB2 (o : RFmt) : Statement (.faddB2 o) := by
  apply of_select; unfold encode; rw [select_13 (majorOf_buildR ..)]
  unfold decode13; rw [fnR_buildR, parseR_buildR]; rfl

theorem fsubB2 (o : RFmt) : Statement (.fsubB2 o) := by
  apply of_select; unfold encode; rw [select_13 (majorOf_buildR ..)]
  unfold decode13; rw [fnR_buildR, parseR_buildR]; rfl

theorem fmulB2 (o : RFmt) : Statement (.fmulB2 o) := by
  apply of_select; unfold encode; rw [select_13 (majorOf_buildR ..)]
  unfold decode13; rw [fnR_buildR, parseR_buildR]; rfl

theorem fmaB2 (o : RFmt) : Statement (.fmaB2 o) := by
  apply of_select; unfold encode; rw [select_13 (majorOf_buildR ..)]
  unfold decode13; rw [fnR_buildR, parseR_buildR]; rfl

theorem fminB2 (o : RFmt) : Statement (.fminB2 o) := by
  apply of_select; unfold encode; rw [select_13 (majorOf_buildR ..)]
  unfold decode13; rw [fnR_buildR, parseR_buildR]; rfl

theorem fmaxB2 (o : RFmt) : Statement (.fmaxB2 o) := by
  apply of_select; unfold encode; rw [select_13 (majorOf_buildR ..)]
  unfold decode13; rw [fnR_buildR, parseR_buildR]; rfl

theorem fdivB2 (o : RFmt) : Statement (.fdivB2 o) := by
  apply of_select; unfold encode; rw [select_13 (majorOf_buildR ..)]
  unfold decode13; rw [fnR_buildR, parseR_buildR]; rfl

theorem fsqrtB2 (o : RFmt) : Statement (.fsqrtB2 o) := by
  apply of_select; unfold encode; rw [select_13 (majorOf_buildR ..)]
  unfold decode13; rw [fnR_buildR, parseR_buildR]; rfl

theorem frcp (o : RFmt) : Statement (.frcp o) := by
  apply of_select; unfold encode; rw [select_14 (majorOf_buildR ..)]
  unfold decode14; rw [fnR_buildR, parseR_buildR]; rfl

theorem frsq (o : RFmt) : Statement (.frsq o) := by
  apply of_select; unfold encode; rw [select_14 (majorOf_buildR ..)]
  unfold decode14; rw [fnR_buildR, parseR_buildR]; rfl

theorem frred (o : RFmt) : Statement (.frred o) := by
  apply of_select; unfold encode; rw [select_14 (majorOf_buildR ..)]
  unfold decode14; rw [fnR_buildR, parseR_buildR]; rfl

theorem fsinr (o : RFmt) : Statement (.fsinr o) := by
  apply of_select; unfold encode; rw [select_14 (majorOf_buildR ..)]
  unfold decode14; rw [fnR_buildR, parseR_buildR]; rfl

theorem fcosr (o : RFmt) : Statement (.fcosr o) := by
  apply of_select; unfold encode; rw [select_14 (majorOf_buildR ..)]
  unfold decode14; rw [fnR_buildR, parseR_buildR]; rfl

theorem fexp2 (o : RFmt) : Statement (.fexp2 o) := by
  apply of_select; unfold encode; rw [select_14 (majorOf_buildR ..)]
  unfold decode14; rw [fnR_buildR, parseR_buildR]; rfl

theorem flog2 (o : RFmt) : Statement (.flog2 o) := by
  apply of_select; unfold encode; rw [select_14 (majorOf_buildR ..)]
  unfold decode14; rw [fnR_buildR, parseR_buildR]; rfl

theorem feval (o : RFmt) : Statement (.feval o) := by
  apply of_select; unfold encode; rw [select_14 (majorOf_buildR ..)]
  unfold decode14; rw [fnR_buildR, parseR_buildR]; rfl

theorem cvt (f : BitVec 3) (o : RFmt) : Statement (.cvt f o) := by
  apply of_select; unfold encode; rw [select_15 (majorOf_buildR ..), fnR_buildR, parseR_buildR]

theorem icmp (f : BitVec 5) (o : PFmt) : Statement (.icmp f o) := by
  apply of_select; unfold encode; rw [select_18 (majorOf_buildP ..), fnP_buildP, parseP_buildP]

theorem fcmp32 (f : BitVec 5) (o : PFmt) : Statement (.fcmp32 f o) := by
  apply of_select; unfold encode; rw [select_19 (majorOf_buildP ..), fnP_buildP, parseP_buildP]

theorem fcmp64 (f : BitVec 5) (o : PFmt) : Statement (.fcmp64 f o) := by
  apply of_select; unfold encode; rw [select_1A (majorOf_buildP ..), fnP_buildP, parseP_buildP]

theorem pand (o : PFmt) : Statement (.pand o) := by
  apply of_select; unfold encode; rw [select_1B (majorOf_buildP ..)]
  unfold decode1B; rw [fnP_buildP, parseP_buildP]; rfl

theorem por (o : PFmt) : Statement (.por o) := by
  apply of_select; unfold encode; rw [select_1B (majorOf_buildP ..)]
  unfold decode1B; rw [fnP_buildP, parseP_buildP]; rfl

theorem pxor (o : PFmt) : Statement (.pxor o) := by
  apply of_select; unfold encode; rw [select_1B (majorOf_buildP ..)]
  unfold decode1B; rw [fnP_buildP, parseP_buildP]; rfl

theorem pnot (o : PFmt) : Statement (.pnot o) := by
  apply of_select; unfold encode; rw [select_1B (majorOf_buildP ..)]
  unfold decode1B; rw [fnP_buildP, parseP_buildP]; rfl

theorem pmov (o : PFmt) : Statement (.pmov o) := by
  apply of_select; unfold encode; rw [select_1B (majorOf_buildP ..)]
  unfold decode1B; rw [fnP_buildP, parseP_buildP]; rfl

theorem pset (o : PFmt) : Statement (.pset o) := by
  apply of_select; unfold encode; rw [select_1B (majorOf_buildP ..)]
  unfold decode1B; rw [fnP_buildP, parseP_buildP]; rfl

theorem pfrom (o : PFmt) : Statement (.pfrom o) := by
  apply of_select; unfold encode; rw [select_1B (majorOf_buildP ..)]
  unfold decode1B; rw [fnP_buildP, parseP_buildP]; rfl

theorem pto (o : PFmt) : Statement (.pto o) := by
  apply of_select; unfold encode; rw [select_1B (majorOf_buildP ..)]
  unfold decode1B; rw [fnP_buildP, parseP_buildP]; rfl

theorem shfl (o : RFmt) : Statement (.shfl o) := by
  apply of_select; unfold encode; rw [select_16 (majorOf_buildR ..)]
  unfold decode16; rw [fnR_buildR, parseR_buildR]; rfl

theorem shflx (o : RFmt) : Statement (.shflx o) := by
  apply of_select; unfold encode; rw [select_16 (majorOf_buildR ..)]
  unfold decode16; rw [fnR_buildR, parseR_buildR]; rfl

theorem lswap (o : RFmt) : Statement (.lswap o) := by
  apply of_select; unfold encode; rw [select_16 (majorOf_buildR ..)]
  unfold decode16; rw [fnR_buildR, parseR_buildR]; rfl

theorem vote (o : RFmt) : Statement (.vote o) := by
  apply of_select; unfold encode; rw [select_16 (majorOf_buildR ..)]
  unfold decode16; rw [fnR_buildR, parseR_buildR]; rfl

theorem lred (o : RFmt) : Statement (.lred o) := by
  apply of_select; unfold encode; rw [select_16 (majorOf_buildR ..)]
  unfold decode16; rw [fnR_buildR, parseR_buildR]; rfl

theorem lscan (o : RFmt) : Statement (.lscan o) := by
  apply of_select; unfold encode; rw [select_16 (majorOf_buildR ..)]
  unfold decode16; rw [fnR_buildR, parseR_buildR]; rfl

theorem tred (o : RFmt) : Statement (.tred o) := by
  apply of_select; unfold encode; rw [select_16 (majorOf_buildR ..)]
  unfold decode16; rw [fnR_buildR, parseR_buildR]; rfl

theorem lbcst (o : RFmt) : Statement (.lbcst o) := by
  apply of_select; unfold encode; rw [select_16 (majorOf_buildR ..)]
  unfold decode16; rw [fnR_buildR, parseR_buildR]; rfl

theorem next (o : UFmt) : Statement (.next o) := by
  apply of_select; unfold encode; rw [select_3A (majorOf_buildU ..), parseU_buildU]

theorem call (o : UFmt) : Statement (.call o) := by
  apply of_select; unfold encode; rw [select_3B (majorOf_buildU ..), parseU_buildU]

theorem nextp (o : XFmt) : Statement (.nextp o) := by
  apply of_select; unfold encode; rw [select_3C (majorOf_buildX ..), parseX_buildX]

theorem nextn (o : XFmt) : Statement (.nextn o) := by
  apply of_select; unfold encode; rw [select_3D (majorOf_buildX ..), parseX_buildX]

theorem nexti (o : RFmt) : Statement (.nexti o) := by
  apply of_select; unfold encode; rw [select_3E (majorOf_buildR ..)]
  unfold decode3E; rw [fnR_buildR, parseR_buildR]; rfl

theorem calli (o : RFmt) : Statement (.calli o) := by
  apply of_select; unfold encode; rw [select_3E (majorOf_buildR ..)]
  unfold decode3E; rw [fnR_buildR, parseR_buildR]; rfl

theorem ret (o : RFmt) : Statement (.ret o) := by
  apply of_select; unfold encode; rw [select_3E (majorOf_buildR ..)]
  unfold decode3E; rw [fnR_buildR, parseR_buildR]; rfl

theorem exit (o : RFmt) : Statement (.exit o) := by
  apply of_select; unfold encode; rw [select_3E (majorOf_buildR ..)]
  unfold decode3E; rw [fnR_buildR, parseR_buildR]; rfl

theorem rcv (o : RFmt) : Statement (.rcv o) := by
  apply of_select; unfold encode; rw [select_3E (majorOf_buildR ..)]
  unfold decode3E; rw [fnR_buildR, parseR_buildR]; rfl

theorem yield (o : RFmt) : Statement (.yield o) := by
  apply of_select; unfold encode; rw [select_3E (majorOf_buildR ..)]
  unfold decode3E; rw [fnR_buildR, parseR_buildR]; rfl

theorem nop (o : RFmt) : Statement (.nop o) := by
  apply of_select; unfold encode; rw [select_3E (majorOf_buildR ..)]
  unfold decode3E; rw [fnR_buildR, parseR_buildR]; rfl

theorem ld (o : MFmt) : Statement (.ld o) := by
  apply of_select; unfold encode; rw [select_20 (majorOf_buildM ..), parseM_buildM]

theorem st (o : MFmt) : Statement (.st o) := by
  apply of_select; unfold encode; rw [select_21 (majorOf_buildM ..), parseM_buildM]

theorem ldl (o : MFmt) : Statement (.ldl o) := by
  apply of_select; unfold encode; rw [select_22 (majorOf_buildM ..), parseM_buildM]

theorem stl (o : MFmt) : Statement (.stl o) := by
  apply of_select; unfold encode; rw [select_23 (majorOf_buildM ..), parseM_buildM]

theorem lda (o : MFmt) : Statement (.lda o) := by
  apply of_select; unfold encode; rw [select_24 (majorOf_buildM ..), parseM_buildM]

theorem sta (o : MFmt) : Statement (.sta o) := by
  apply of_select; unfold encode; rw [select_25 (majorOf_buildM ..), parseM_buildM]

theorem ldw (o : MFmt) : Statement (.ldw o) := by
  apply of_select; unfold encode; rw [select_26 (majorOf_buildM ..), parseM_buildM]

theorem ldc (o : MFmt) : Statement (.ldc o) := by
  apply of_select; unfold encode; rw [select_27 (majorOf_buildM ..), parseM_buildM]

theorem stc (o : MFmt) : Statement (.stc o) := by
  apply of_select; unfold encode; rw [select_28 (majorOf_buildM ..), parseM_buildM]

theorem ldra (o : MFmt) : Statement (.ldra o) := by
  apply of_select; unfold encode; rw [select_2E (majorOf_buildM ..), parseM_buildM]

theorem atom (f : BitVec 3) (o : RFmt) : Statement (.atom f o) := by
  apply of_select; unfold encode; rw [select_29 (majorOf_buildR ..), fnR_buildR, parseR_buildR]

theorem atomx (f : BitVec 3) (o : RFmt) : Statement (.atomx f o) := by
  apply of_select; unfold encode; rw [select_2A (majorOf_buildR ..), fnR_buildR, parseR_buildR]

theorem red (f : BitVec 3) (o : RFmt) : Statement (.red f o) := by
  apply of_select; unfold encode; rw [select_2B (majorOf_buildR ..), fnR_buildR, parseR_buildR]

theorem redx (f : BitVec 3) (o : RFmt) : Statement (.redx f o) := by
  intro h _
  have h : f.toNat < 5 := by simp [Instr.wellFormed, Machine.reservedCode] at h; omega
  unfold encode; rw [select_2C (majorOf_buildR ..), fnR_buildR, parseR_buildR, if_pos h]

theorem fence (o : RFmt) : Statement (.fence o) := by
  apply of_select; unfold encode; rw [select_2D (majorOf_buildR ..)]
  unfold decode2D; rw [fnR_buildR, parseR_buildR]; rfl

theorem cwb (o : RFmt) : Statement (.cwb o) := by
  apply of_select; unfold encode; rw [select_2D (majorOf_buildR ..)]
  unfold decode2D; rw [fnR_buildR, parseR_buildR]; rfl

theorem cinv (o : RFmt) : Statement (.cinv o) := by
  apply of_select; unfold encode; rw [select_2D (majorOf_buildR ..)]
  unfold decode2D; rw [fnR_buildR, parseR_buildR]; rfl

theorem iinv (o : RFmt) : Statement (.iinv o) := by
  apply of_select; unfold encode; rw [select_2D (majorOf_buildR ..)]
  unfold decode2D; rw [fnR_buildR, parseR_buildR]; rfl

theorem fbar (o : RFmt) : Statement (.fbar o) := by
  apply of_select; unfold encode; rw [select_2D (majorOf_buildR ..)]
  unfold decode2D; rw [fnR_buildR, parseR_buildR]; rfl

theorem pref (o : RFmt) : Statement (.pref o) := by
  apply of_select; unfold encode; rw [select_2D (majorOf_buildR ..)]
  unfold decode2D; rw [fnR_buildR, parseR_buildR]; rfl

theorem pstb (o : RFmt) : Statement (.pstb o) := by
  apply of_select; unfold encode; rw [select_2F (majorOf_buildR ..)]
  unfold decode2F; rw [fnR_buildR, parseR_buildR]; rfl

theorem pldb (o : RFmt) : Statement (.pldb o) := by
  apply of_select; unfold encode; rw [select_2F (majorOf_buildR ..)]
  unfold decode2F; rw [fnR_buildR, parseR_buildR]; rfl

theorem mxop (o : EFmt) : Statement (.mxop o) := by
  apply of_select; unfold encode; rw [select_30 (majorOf_buildE ..)]
  unfold decode30; rw [subE_buildE, parseE_buildE]; rfl

theorem mxwait (o : EFmt) : Statement (.mxwait o) := by
  apply of_select; unfold encode; rw [select_30 (majorOf_buildE ..)]
  unfold decode30; rw [subE_buildE, parseE_buildE]; rfl

theorem enq (o : EFmt) : Statement (.enq o) := by
  apply of_select; unfold encode; rw [select_30 (majorOf_buildE ..)]
  unfold decode30; rw [subE_buildE, parseE_buildE]; rfl

theorem hsetBind (o : EFmt) : Statement (.hsetBind o) := by
  intro h _
  have h : o.d = 0#6 := by revert h; unfold Instr.wellFormed Machine.fieldsOk; dsimp only; simp +contextual
  unfold encode; rw [select_30 (majorOf_buildE ..)]
  unfold decode30; rw [subE_buildE, parseE_buildE]; rw [h]; rfl

theorem hsetFull (o : EFmt) : Statement (.hsetFull o) := by
  intro h _
  have h : o.d = 1#6 := by revert h; unfold Instr.wellFormed Machine.fieldsOk; dsimp only; simp +contextual
  unfold encode; rw [select_30 (majorOf_buildE ..)]
  unfold decode30; rw [subE_buildE, parseE_buildE]; rw [h]; rfl

theorem hsetFree (o : EFmt) : Statement (.hsetFree o) := by
  intro h _
  have h : o.d = 2#6 := by revert h; unfold Instr.wellFormed Machine.fieldsOk; dsimp only; simp +contextual
  unfold encode; rw [select_30 (majorOf_buildE ..)]
  unfold decode30; rw [subE_buildE, parseE_buildE]; rw [h]; rfl

theorem hwait (o : EFmt) : Statement (.hwait o) := by
  apply of_select; unfold encode; rw [select_30 (majorOf_buildE ..)]
  unfold decode30; rw [subE_buildE, parseE_buildE]; rfl

theorem hq (o : EFmt) : Statement (.hq o) := by
  apply of_select; unfold encode; rw [select_30 (majorOf_buildE ..)]
  unfold decode30; rw [subE_buildE, parseE_buildE]; rfl

theorem ftld (o : EFmt) : Statement (.ftld o) := by
  apply of_select; unfold encode; rw [select_30 (majorOf_buildE ..)]
  unfold decode30; rw [subE_buildE, parseE_buildE]; rfl

theorem launch (o : EFmt) : Statement (.launch o) := by
  apply of_select; unfold encode; rw [select_30 (majorOf_buildE ..)]
  unfold decode30; rw [subE_buildE, parseE_buildE]; rfl

theorem chwait (o : EFmt) : Statement (.chwait o) := by
  intro h _
  have h : o.arg = 0#7 := by revert h; unfold Instr.wellFormed Machine.fieldsOk; dsimp only; simp +contextual
  unfold encode; rw [select_30 (majorOf_buildE ..)]
  unfold decode30; rw [subE_buildE, parseE_buildE]; rw [h]; rfl

theorem chwaitAll (o : EFmt) : Statement (.chwaitAll o) := by
  intro h _
  have h : o.arg = 1#7 := by revert h; unfold Instr.wellFormed Machine.fieldsOk; dsimp only; simp +contextual
  unfold encode; rw [select_30 (majorOf_buildE ..)]
  unfold decode30; rw [subE_buildE, parseE_buildE]; rw [h]; rfl

theorem twinit (o : EFmt) : Statement (.twinit o) := by
  apply of_select; unfold encode; rw [select_31 (majorOf_buildE ..)]
  unfold decode31; rw [subE_buildE, parseE_buildE]; rfl

theorem twstep (o : EFmt) : Statement (.twstep o) := by
  apply of_select; unfold encode; rw [select_31 (majorOf_buildE ..)]
  unfold decode31; rw [subE_buildE, parseE_buildE]; rfl

theorem twgetVal (o : EFmt) : Statement (.twgetVal o) := by
  intro h _
  have h : o.arg = 0#7 := by revert h; unfold Instr.wellFormed Machine.fieldsOk; dsimp only; simp +contextual
  unfold encode; rw [select_31 (majorOf_buildE ..)]
  unfold decode31; rw [subE_buildE, parseE_buildE]; rw [h]; rfl

theorem twgetSt (o : EFmt) : Statement (.twgetSt o) := by
  intro h _
  have h : o.arg = 1#7 := by revert h; unfold Instr.wellFormed Machine.fieldsOk; dsimp only; simp +contextual
  unfold encode; rw [select_31 (majorOf_buildE ..)]
  unfold decode31; rw [subE_buildE, parseE_buildE]; rw [h]; rfl

theorem twend (o : EFmt) : Statement (.twend o) := by
  apply of_select; unfold encode; rw [select_31 (majorOf_buildE ..)]
  unfold decode31; rw [subE_buildE, parseE_buildE]; rfl

theorem phreg (o : EFmt) : Statement (.phreg o) := by
  apply of_select; unfold encode; rw [select_32 (majorOf_buildE ..)]
  unfold decode32; rw [subE_buildE, parseE_buildE]; rfl

theorem pharr (o : EFmt) : Statement (.pharr o) := by
  apply of_select; unfold encode; rw [select_32 (majorOf_buildE ..)]
  unfold decode32; rw [subE_buildE, parseE_buildE]; rfl

theorem phwait (o : EFmt) : Statement (.phwait o) := by
  apply of_select; unfold encode; rw [select_32 (majorOf_buildE ..)]
  unfold decode32; rw [subE_buildE, parseE_buildE]; rfl

theorem phaw (o : EFmt) : Statement (.phaw o) := by
  apply of_select; unfold encode; rw [select_32 (majorOf_buildE ..)]
  unfold decode32; rw [subE_buildE, parseE_buildE]; rfl

theorem phq (o : EFmt) : Statement (.phq o) := by
  apply of_select; unfold encode; rw [select_32 (majorOf_buildE ..)]
  unfold decode32; rw [subE_buildE, parseE_buildE]; rfl

theorem waitu (o : EFmt) : Statement (.waitu o) := by
  apply of_select; unfold encode; rw [select_32 (majorOf_buildE ..)]
  unfold decode32; rw [subE_buildE, parseE_buildE]; rfl

theorem setw (o : EFmt) : Statement (.setw o) := by
  apply of_select; unfold encode; rw [select_33 (majorOf_buildE ..)]
  unfold decode33; rw [subE_buildE, parseE_buildE]; rfl

theorem migr (o : EFmt) : Statement (.migr o) := by
  apply of_select; unfold encode; rw [select_33 (majorOf_buildE ..)]
  unfold decode33; rw [subE_buildE, parseE_buildE]; rfl

theorem migrh (o : EFmt) : Statement (.migrh o) := by
  apply of_select; unfold encode; rw [select_33 (majorOf_buildE ..)]
  unfold decode33; rw [subE_buildE, parseE_buildE]; rfl

theorem rdsr (o : EFmt) : Statement (.rdsr o) := by
  apply of_select; unfold encode; rw [select_33 (majorOf_buildE ..)]
  unfold decode33; rw [subE_buildE, parseE_buildE]; rfl

theorem wrsr (o : EFmt) : Statement (.wrsr o) := by
  apply of_select; unfold encode; rw [select_33 (majorOf_buildE ..)]
  unfold decode33; rw [subE_buildE, parseE_buildE]; rfl

theorem gsel (o : EFmt) : Statement (.gsel o) := by
  apply of_select; unfold encode; rw [select_33 (majorOf_buildE ..)]
  unfold decode33; rw [subE_buildE, parseE_buildE]; rfl

theorem rdtime (o : EFmt) : Statement (.rdtime o) := by
  apply of_select; unfold encode; rw [select_33 (majorOf_buildE ..)]
  unfold decode33; rw [subE_buildE, parseE_buildE]; rfl

theorem rand (o : EFmt) : Statement (.rand o) := by
  apply of_select; unfold encode; rw [select_33 (majorOf_buildE ..)]
  unfold decode33; rw [subE_buildE, parseE_buildE]; rfl

theorem trap (o : EFmt) : Statement (.trap o) := by
  apply of_select; unfold encode; rw [select_34 (majorOf_buildE ..)]
  unfold decode34; rw [subE_buildE, parseE_buildE]; rfl

theorem brk (o : EFmt) : Statement (.brk o) := by
  apply of_select; unfold encode; rw [select_34 (majorOf_buildE ..)]
  unfold decode34; rw [subE_buildE, parseE_buildE]; rfl

theorem sysc (o : EFmt) : Statement (.sysc o) := by
  apply of_select; unfold encode; rw [select_34 (majorOf_buildE ..)]
  unfold decode34; rw [subE_buildE, parseE_buildE]; rfl

theorem eret (o : EFmt) : Statement (.eret o) := by
  apply of_select; unfold encode; rw [select_34 (majorOf_buildE ..)]
  unfold decode34; rw [subE_buildE, parseE_buildE]; rfl

theorem rdpr (o : EFmt) : Statement (.rdpr o) := by
  apply of_select; unfold encode; rw [select_34 (majorOf_buildE ..)]
  unfold decode34; rw [subE_buildE, parseE_buildE]; rfl

theorem wrpr (o : EFmt) : Statement (.wrpr o) := by
  apply of_select; unfold encode; rw [select_34 (majorOf_buildE ..)]
  unfold decode34; rw [subE_buildE, parseE_buildE]; rfl

theorem ctxfl (o : EFmt) : Statement (.ctxfl o) := by
  apply of_select; unfold encode; rw [select_34 (majorOf_buildE ..)]
  unfold decode34; rw [subE_buildE, parseE_buildE]; rfl

theorem halt (o : EFmt) : Statement (.halt o) := by
  apply of_select; unfold encode; rw [select_34 (majorOf_buildE ..)]
  unfold decode34; rw [subE_buildE, parseE_buildE]; rfl

theorem longResultWrite (r : ThreadRef) (k : Nat) : Statement (.longResultWrite r k) := of_noWord rfl
theorem reslice (t : TeamRef) : Statement (.reslice t) := of_noWord rfl
theorem setwHoldLapse (t : TeamRef) : Statement (.setwHoldLapse t) := of_noWord rfl
theorem convergenceFault (t : TeamRef) (cohort : Option Nat) : Statement (.convergenceFault t cohort) := of_noWord rfl
theorem rcvHoldExpiry (r : ThreadRef) : Statement (.rcvHoldExpiry r) := of_noWord rfl
theorem yieldHoldEnd (r : ThreadRef) : Statement (.yieldHoldEnd r) := of_noWord rfl
theorem impreciseTrapDelivery (t : TeamRef) : Statement (.impreciseTrapDelivery t) := of_noWord rfl
theorem pageWalk (bay : Nat) (ctx : Nat) (va : Nat) : Statement (.pageWalk bay ctx va) := of_noWord rfl
theorem faultReplayWalk (r : ThreadRef) : Statement (.faultReplayWalk r) := of_noWord rfl
theorem lockedPageRewalk (r : ThreadRef) : Statement (.lockedPageRewalk r) := of_noWord rfl
theorem cacheWriteback (cluster : Nat) (sec : Nat) (evict : Bool) : Statement (.cacheWriteback cluster sec evict) := of_noWord rfl
theorem waituExpiry (r : ThreadRef) : Statement (.waituExpiry r) := of_noWord rfl
theorem latchBayReread (r : ThreadRef) : Statement (.latchBayReread r) := of_noWord rfl
theorem hostLineReread (line : Nat) : Statement (.hostLineReread line) := of_noWord rfl
theorem hostAccess (store : Bool) (pa : Nat) (n : Nat) (v : Nat) : Statement (.hostAccess store pa n v) := of_noWord rfl
theorem podMessageReceive (peer : Nat) (seq : Nat) (ack : Bool) (pa : Nat) (n : Nat) (v : Nat) : Statement (.podMessageReceive peer seq ack pa n v) := of_noWord rfl
theorem podFlagResend (peer : Nat) : Statement (.podFlagResend peer) := of_noWord rfl
theorem podLinkFault (r : ThreadRef) : Statement (.podLinkFault r) := of_noWord rfl
theorem cardAccept (t : TeamRef) : Statement (.cardAccept t) := of_noWord rfl
theorem copy (t : TeamRef) (seq : Nat) : Statement (.copy t seq) := of_noWord rfl
theorem gather (t : TeamRef) (seq : Nat) : Statement (.gather t seq) := of_noWord rfl
theorem scatter (t : TeamRef) (seq : Nat) : Statement (.scatter t seq) := of_noWord rfl
theorem xpose (t : TeamRef) (seq : Nat) : Statement (.xpose t seq) := of_noWord rfl
theorem quant (t : TeamRef) (seq : Nat) : Statement (.quant t seq) := of_noWord rfl
theorem mxpre (t : TeamRef) (seq : Nat) : Statement (.mxpre t seq) := of_noWord rfl
theorem proj (t : TeamRef) (seq : Nat) : Statement (.proj t seq) := of_noWord rfl
theorem bin (t : TeamRef) (seq : Nat) : Statement (.bin t seq) := of_noWord rfl
theorem blend (t : TeamRef) (seq : Nat) : Statement (.blend t seq) := of_noWord rfl
theorem back (t : TeamRef) (seq : Nat) : Statement (.back t seq) := of_noWord rfl
theorem cardRetire (t : TeamRef) (seq : Nat) : Statement (.cardRetire t seq) := of_noWord rfl
theorem engineFaultRetry (t : TeamRef) (seq : Nat) : Statement (.engineFaultRetry t seq) := of_noWord rfl
theorem mxopStart (t : TeamRef) (stream : Nat) : Statement (.mxopStart t stream) := of_noWord rfl
theorem mxopReadsComplete (t : TeamRef) (stream : Nat) : Statement (.mxopReadsComplete t stream) := of_noWord rfl
theorem mxopComplete (t : TeamRef) (stream : Nat) : Statement (.mxopComplete t stream) := of_noWord rfl
theorem mxopAbandon (t : TeamRef) (stream : Nat) : Statement (.mxopAbandon t stream) := of_noWord rfl
theorem lqdbWrite (v : BitVec 64) : Statement (.lqdbWrite v) := of_noWord rfl
theorem launchAccept (src : LaunchSrc) : Statement (.launchAccept src) := of_noWord rfl
theorem dependenceMet (ctx : Nat) (gid : Nat) : Statement (.dependenceMet ctx gid) := of_noWord rfl
theorem gridTimedStart (ctx : Nat) (gid : Nat) : Statement (.gridTimedStart ctx gid) := of_noWord rfl
theorem teamPlace (t : TeamRef) (bay : Nat) : Statement (.teamPlace t bay) := of_noWord rfl
theorem priorityPreempt (ctx : Nat) (gid : Nat) : Statement (.priorityPreempt ctx gid) := of_noWord rfl
theorem teamRetire (t : TeamRef) : Statement (.teamRetire t) := of_noWord rfl
theorem gridRetire (ctx : Nat) (gid : Nat) : Statement (.gridRetire ctx gid) := of_noWord rfl
theorem phaseCommit (ctx : Nat) (gid : Nat) : Statement (.phaseCommit ctx gid) := of_noWord rfl
theorem detTeamAbort (t : TeamRef) : Statement (.detTeamAbort t) := of_noWord rfl
theorem teamSaved (t : TeamRef) : Statement (.teamSaved t) := of_noWord rfl
theorem teamResume (t : TeamRef) (bay : Nat) : Statement (.teamResume t bay) := of_noWord rfl
theorem contextKillComplete (ctx : Nat) : Statement (.contextKillComplete ctx) := of_noWord rfl
theorem timeSyncMeasure (peer : Nat) (sourceCount : Nat) : Statement (.timeSyncMeasure peer sourceCount) := of_noWord rfl
theorem linkTimeout (r : ThreadRef) (addr : Nat) : Statement (.linkTimeout r addr) := of_noWord rfl
theorem dieFailed (die : Nat) : Statement (.dieFailed die) := of_noWord rfl
theorem referenceClockLoss (die : Nat) : Statement (.referenceClockLoss die) := of_noWord rfl
theorem referenceClockReturn (die : Nat) : Statement (.referenceClockReturn die) := of_noWord rfl
theorem powerCapStretch (die : Nat) (watts : Nat) : Statement (.powerCapStretch die watts) := of_noWord rfl
theorem clockRestore (die : Nat) (watts : Nat) : Statement (.clockRestore die watts) := of_noWord rfl
theorem bayStartBatch (die : Nat) : Statement (.bayStartBatch die) := of_noWord rfl
theorem flitCrcRetry (port : Nat) : Statement (.flitCrcRetry port) := of_noWord rfl
theorem podLinkTrainingFail (port : Nat) : Statement (.podLinkTrainingFail port) := of_noWord rfl
theorem uncorrectableError (e : ErrorSite) : Statement (.uncorrectableError e) := of_noWord rfl
theorem nonInstructionWord (w : Word) : Statement (.nonInstructionWord w) := of_noWord rfl
theorem cardReadsComplete (t : TeamRef) (seq : Nat) : Statement (.cardReadsComplete t seq) := of_noWord rfl
theorem mbctlWriteWhileBusy (addr : Nat) : Statement (.mbctlWriteWhileBusy addr) := of_noWord rfl
theorem resync : Statement (.resync) := of_noWord rfl
theorem setregCtxtb : Statement (.setregCtxtb) := of_noWord rfl
theorem setregLqtb : Statement (.setregLqtb) := of_noWord rfl
theorem setregFqb : Statement (.setregFqb) := of_noWord rfl
theorem setregPriwt : Statement (.setregPriwt) := of_noWord rfl
theorem setregLovb : Statement (.setregLovb) := of_noWord rfl
theorem setregLto : Statement (.setregLto) := of_noWord rfl
theorem shootdown : Statement (.shootdown) := of_noWord rfl
theorem migrate : Statement (.migrate) := of_noWord rfl
theorem biasFlip : Statement (.biasFlip) := of_noWord rfl
theorem shutter : Statement (.shutter) := of_noWord rfl
theorem kill : Statement (.kill) := of_noWord rfl
theorem partset : Statement (.partset) := of_noWord rfl
theorem powercap : Statement (.powercap) := of_noWord rfl
theorem podcfg : Statement (.podcfg) := of_noWord rfl
theorem timeset : Statement (.timeset) := of_noWord rfl
theorem fwload : Statement (.fwload) := of_noWord rfl
theorem attest : Statement (.attest) := of_noWord rfl
theorem powerOnReset : Statement (.powerOnReset) := of_noWord rfl
theorem trainingEnd : Statement (.trainingEnd) := of_noWord rfl
theorem fullServiceStart : Statement (.fullServiceStart) := of_noWord rfl
theorem reducedServiceStart : Statement (.reducedServiceStart) := of_noWord rfl

end Sys2Proof.Laws.Encodes
end

