-- ==== Sys2Proof/Laws/State.lean ====
section
/-! SUPPORT. One lemma per field per update of the state, of the issuing thread and of its team. -/

namespace Sys2Proof.Machine

/-! ### State.mapTh -/

@[simp] theorem State.mapTh_th (s : State) (f : Thread → Thread) : (s.mapTh f).th = f s.th := rfl
@[simp] theorem State.mapTh_tm (s : State) (f : Thread → Thread) : (s.mapTh f).tm = s.tm := rfl
@[simp] theorem State.mapTh_grp (s : State) (f : Thread → Thread) : (s.mapTh f).grp = s.grp := rfl
@[simp] theorem State.mapTh_ms (s : State) (f : Thread → Thread) : (s.mapTh f).ms = s.ms := rfl
@[simp] theorem State.mapTh_teams (s : State) (f : Thread → Thread) : (s.mapTh f).teams = s.teams := rfl
@[simp] theorem State.mapTh_grids (s : State) (f : Thread → Thread) : (s.mapTh f).grids = s.grids := rfl
@[simp] theorem State.mapTh_ctxs (s : State) (f : Thread → Thread) : (s.mapTh f).ctxs = s.ctxs := rfl
@[simp] theorem State.mapTh_iod (s : State) (f : Thread → Thread) : (s.mapTh f).iod = s.iod := rfl
@[simp] theorem State.mapTh_time (s : State) (f : Thread → Thread) : (s.mapTh f).time = s.time := rfl
@[simp] theorem State.mapTh_cycle (s : State) (f : Thread → Thread) : (s.mapTh f).cycle = s.cycle := rfl
@[simp] theorem State.mapTh_walked (s : State) (f : Thread → Thread) : (s.mapTh f).walked = s.walked := rfl
@[simp] theorem State.mapTh_sending (s : State) (f : Thread → Thread) : (s.mapTh f).sending = s.sending := rfl
@[simp] theorem State.mapTh_draws (s : State) (f : Thread → Thread) : (s.mapTh f).draws = s.draws := rfl
@[simp] theorem State.mapTh_turns (s : State) (f : Thread → Thread) : (s.mapTh f).turns = s.turns := rfl
@[simp] theorem State.mapTh_late (s : State) (f : Thread → Thread) : (s.mapTh f).late = s.late := rfl
@[simp] theorem State.mapTh_agenda (s : State) (f : Thread → Thread) : (s.mapTh f).agenda = s.agenda := rfl

/-! ### State.mapTm -/

@[simp] theorem State.mapTm_th (s : State) (f : Team → Team) : (s.mapTm f).th = s.th := rfl
@[simp] theorem State.mapTm_tm (s : State) (f : Team → Team) : (s.mapTm f).tm = f s.tm := rfl
@[simp] theorem State.mapTm_grp (s : State) (f : Team → Team) : (s.mapTm f).grp = s.grp := rfl
@[simp] theorem State.mapTm_ms (s : State) (f : Team → Team) : (s.mapTm f).ms = s.ms := rfl
@[simp] theorem State.mapTm_teams (s : State) (f : Team → Team) : (s.mapTm f).teams = s.teams := rfl
@[simp] theorem State.mapTm_grids (s : State) (f : Team → Team) : (s.mapTm f).grids = s.grids := rfl
@[simp] theorem State.mapTm_ctxs (s : State) (f : Team → Team) : (s.mapTm f).ctxs = s.ctxs := rfl
@[simp] theorem State.mapTm_iod (s : State) (f : Team → Team) : (s.mapTm f).iod = s.iod := rfl
@[simp] theorem State.mapTm_time (s : State) (f : Team → Team) : (s.mapTm f).time = s.time := rfl
@[simp] theorem State.mapTm_cycle (s : State) (f : Team → Team) : (s.mapTm f).cycle = s.cycle := rfl
@[simp] theorem State.mapTm_walked (s : State) (f : Team → Team) : (s.mapTm f).walked = s.walked := rfl
@[simp] theorem State.mapTm_sending (s : State) (f : Team → Team) : (s.mapTm f).sending = s.sending := rfl
@[simp] theorem State.mapTm_draws (s : State) (f : Team → Team) : (s.mapTm f).draws = s.draws := rfl
@[simp] theorem State.mapTm_turns (s : State) (f : Team → Team) : (s.mapTm f).turns = s.turns := rfl
@[simp] theorem State.mapTm_late (s : State) (f : Team → Team) : (s.mapTm f).late = s.late := rfl
@[simp] theorem State.mapTm_agenda (s : State) (f : Team → Team) : (s.mapTm f).agenda = s.agenda := rfl

/-! ### State.mapMs -/

@[simp] theorem State.mapMs_th (s : State) (f : MemSys → MemSys) : (s.mapMs f).th = s.th := rfl
@[simp] theorem State.mapMs_tm (s : State) (f : MemSys → MemSys) : (s.mapMs f).tm = s.tm := rfl
@[simp] theorem State.mapMs_grp (s : State) (f : MemSys → MemSys) : (s.mapMs f).grp = s.grp := rfl
@[simp] theorem State.mapMs_ms (s : State) (f : MemSys → MemSys) : (s.mapMs f).ms = f s.ms := rfl
@[simp] theorem State.mapMs_teams (s : State) (f : MemSys → MemSys) : (s.mapMs f).teams = s.teams := rfl
@[simp] theorem State.mapMs_grids (s : State) (f : MemSys → MemSys) : (s.mapMs f).grids = s.grids := rfl
@[simp] theorem State.mapMs_ctxs (s : State) (f : MemSys → MemSys) : (s.mapMs f).ctxs = s.ctxs := rfl
@[simp] theorem State.mapMs_iod (s : State) (f : MemSys → MemSys) : (s.mapMs f).iod = s.iod := rfl
@[simp] theorem State.mapMs_time (s : State) (f : MemSys → MemSys) : (s.mapMs f).time = s.time := rfl
@[simp] theorem State.mapMs_cycle (s : State) (f : MemSys → MemSys) : (s.mapMs f).cycle = s.cycle := rfl
@[simp] theorem State.mapMs_walked (s : State) (f : MemSys → MemSys) : (s.mapMs f).walked = s.walked := rfl
@[simp] theorem State.mapMs_sending (s : State) (f : MemSys → MemSys) : (s.mapMs f).sending = s.sending := rfl
@[simp] theorem State.mapMs_draws (s : State) (f : MemSys → MemSys) : (s.mapMs f).draws = s.draws := rfl
@[simp] theorem State.mapMs_turns (s : State) (f : MemSys → MemSys) : (s.mapMs f).turns = s.turns := rfl
@[simp] theorem State.mapMs_late (s : State) (f : MemSys → MemSys) : (s.mapMs f).late = s.late := rfl
@[simp] theorem State.mapMs_agenda (s : State) (f : MemSys → MemSys) : (s.mapMs f).agenda = s.agenda := rfl

/-! ### State.pend -/

@[simp] theorem State.pend_th (s : State) (ps : List Pending) : (s.pend ps).th = { s.th with pending := s.th.pending ++ ps } := rfl
@[simp] theorem State.pend_tm (s : State) (ps : List Pending) : (s.pend ps).tm = s.tm := rfl
@[simp] theorem State.pend_grp (s : State) (ps : List Pending) : (s.pend ps).grp = s.grp := rfl
@[simp] theorem State.pend_ms (s : State) (ps : List Pending) : (s.pend ps).ms = s.ms := rfl
@[simp] theorem State.pend_teams (s : State) (ps : List Pending) : (s.pend ps).teams = s.teams := rfl
@[simp] theorem State.pend_grids (s : State) (ps : List Pending) : (s.pend ps).grids = s.grids := rfl
@[simp] theorem State.pend_ctxs (s : State) (ps : List Pending) : (s.pend ps).ctxs = s.ctxs := rfl
@[simp] theorem State.pend_iod (s : State) (ps : List Pending) : (s.pend ps).iod = s.iod := rfl
@[simp] theorem State.pend_time (s : State) (ps : List Pending) : (s.pend ps).time = s.time := rfl
@[simp] theorem State.pend_cycle (s : State) (ps : List Pending) : (s.pend ps).cycle = s.cycle := rfl
@[simp] theorem State.pend_walked (s : State) (ps : List Pending) : (s.pend ps).walked = s.walked := rfl
@[simp] theorem State.pend_sending (s : State) (ps : List Pending) : (s.pend ps).sending = s.sending := rfl
@[simp] theorem State.pend_draws (s : State) (ps : List Pending) : (s.pend ps).draws = s.draws := rfl
@[simp] theorem State.pend_turns (s : State) (ps : List Pending) : (s.pend ps).turns = s.turns := rfl
@[simp] theorem State.pend_late (s : State) (ps : List Pending) : (s.pend ps).late = s.late := rfl
@[simp] theorem State.pend_agenda (s : State) (ps : List Pending) : (s.pend ps).agenda = s.agenda := rfl

/-! ### State.put -/

@[simp] theorem State.put_th (s : State) (r : BitVec 6) (v : Word) : (s.put r v).th = s.th.setReg r.toNat v := rfl
@[simp] theorem State.put_tm (s : State) (r : BitVec 6) (v : Word) : (s.put r v).tm = s.tm := rfl
@[simp] theorem State.put_grp (s : State) (r : BitVec 6) (v : Word) : (s.put r v).grp = s.grp := rfl
@[simp] theorem State.put_ms (s : State) (r : BitVec 6) (v : Word) : (s.put r v).ms = s.ms := rfl
@[simp] theorem State.put_teams (s : State) (r : BitVec 6) (v : Word) : (s.put r v).teams = s.teams := rfl
@[simp] theorem State.put_grids (s : State) (r : BitVec 6) (v : Word) : (s.put r v).grids = s.grids := rfl
@[simp] theorem State.put_ctxs (s : State) (r : BitVec 6) (v : Word) : (s.put r v).ctxs = s.ctxs := rfl
@[simp] theorem State.put_iod (s : State) (r : BitVec 6) (v : Word) : (s.put r v).iod = s.iod := rfl
@[simp] theorem State.put_time (s : State) (r : BitVec 6) (v : Word) : (s.put r v).time = s.time := rfl
@[simp] theorem State.put_cycle (s : State) (r : BitVec 6) (v : Word) : (s.put r v).cycle = s.cycle := rfl
@[simp] theorem State.put_walked (s : State) (r : BitVec 6) (v : Word) : (s.put r v).walked = s.walked := rfl
@[simp] theorem State.put_sending (s : State) (r : BitVec 6) (v : Word) : (s.put r v).sending = s.sending := rfl
@[simp] theorem State.put_draws (s : State) (r : BitVec 6) (v : Word) : (s.put r v).draws = s.draws := rfl
@[simp] theorem State.put_turns (s : State) (r : BitVec 6) (v : Word) : (s.put r v).turns = s.turns := rfl
@[simp] theorem State.put_late (s : State) (r : BitVec 6) (v : Word) : (s.put r v).late = s.late := rfl
@[simp] theorem State.put_agenda (s : State) (r : BitVec 6) (v : Word) : (s.put r v).agenda = s.agenda := rfl

/-! ### State.puts -/

@[simp] theorem State.puts_th (s : State) (r : BitVec 6) (k v : Nat) : (s.puts r k v).th = s.th.setRegs r.toNat v k := rfl
@[simp] theorem State.puts_tm (s : State) (r : BitVec 6) (k v : Nat) : (s.puts r k v).tm = s.tm := rfl
@[simp] theorem State.puts_grp (s : State) (r : BitVec 6) (k v : Nat) : (s.puts r k v).grp = s.grp := rfl
@[simp] theorem State.puts_ms (s : State) (r : BitVec 6) (k v : Nat) : (s.puts r k v).ms = s.ms := rfl
@[simp] theorem State.puts_teams (s : State) (r : BitVec 6) (k v : Nat) : (s.puts r k v).teams = s.teams := rfl
@[simp] theorem State.puts_grids (s : State) (r : BitVec 6) (k v : Nat) : (s.puts r k v).grids = s.grids := rfl
@[simp] theorem State.puts_ctxs (s : State) (r : BitVec 6) (k v : Nat) : (s.puts r k v).ctxs = s.ctxs := rfl
@[simp] theorem State.puts_iod (s : State) (r : BitVec 6) (k v : Nat) : (s.puts r k v).iod = s.iod := rfl
@[simp] theorem State.puts_time (s : State) (r : BitVec 6) (k v : Nat) : (s.puts r k v).time = s.time := rfl
@[simp] theorem State.puts_cycle (s : State) (r : BitVec 6) (k v : Nat) : (s.puts r k v).cycle = s.cycle := rfl
@[simp] theorem State.puts_walked (s : State) (r : BitVec 6) (k v : Nat) : (s.puts r k v).walked = s.walked := rfl
@[simp] theorem State.puts_sending (s : State) (r : BitVec 6) (k v : Nat) : (s.puts r k v).sending = s.sending := rfl
@[simp] theorem State.puts_draws (s : State) (r : BitVec 6) (k v : Nat) : (s.puts r k v).draws = s.draws := rfl
@[simp] theorem State.puts_turns (s : State) (r : BitVec 6) (k v : Nat) : (s.puts r k v).turns = s.turns := rfl
@[simp] theorem State.puts_late (s : State) (r : BitVec 6) (k v : Nat) : (s.puts r k v).late = s.late := rfl
@[simp] theorem State.puts_agenda (s : State) (r : BitVec 6) (k v : Nat) : (s.puts r k v).agenda = s.agenda := rfl

/-! ### State.putPred -/

@[simp] theorem State.putPred_th (s : State) (p : BitVec 6) (b : Bool) : (s.putPred p b).th = s.th.setPred p.toNat b := rfl
@[simp] theorem State.putPred_tm (s : State) (p : BitVec 6) (b : Bool) : (s.putPred p b).tm = s.tm := rfl
@[simp] theorem State.putPred_grp (s : State) (p : BitVec 6) (b : Bool) : (s.putPred p b).grp = s.grp := rfl
@[simp] theorem State.putPred_ms (s : State) (p : BitVec 6) (b : Bool) : (s.putPred p b).ms = s.ms := rfl
@[simp] theorem State.putPred_teams (s : State) (p : BitVec 6) (b : Bool) : (s.putPred p b).teams = s.teams := rfl
@[simp] theorem State.putPred_grids (s : State) (p : BitVec 6) (b : Bool) : (s.putPred p b).grids = s.grids := rfl
@[simp] theorem State.putPred_ctxs (s : State) (p : BitVec 6) (b : Bool) : (s.putPred p b).ctxs = s.ctxs := rfl
@[simp] theorem State.putPred_iod (s : State) (p : BitVec 6) (b : Bool) : (s.putPred p b).iod = s.iod := rfl
@[simp] theorem State.putPred_time (s : State) (p : BitVec 6) (b : Bool) : (s.putPred p b).time = s.time := rfl
@[simp] theorem State.putPred_cycle (s : State) (p : BitVec 6) (b : Bool) : (s.putPred p b).cycle = s.cycle := rfl
@[simp] theorem State.putPred_walked (s : State) (p : BitVec 6) (b : Bool) : (s.putPred p b).walked = s.walked := rfl
@[simp] theorem State.putPred_sending (s : State) (p : BitVec 6) (b : Bool) : (s.putPred p b).sending = s.sending := rfl
@[simp] theorem State.putPred_draws (s : State) (p : BitVec 6) (b : Bool) : (s.putPred p b).draws = s.draws := rfl
@[simp] theorem State.putPred_turns (s : State) (p : BitVec 6) (b : Bool) : (s.putPred p b).turns = s.turns := rfl
@[simp] theorem State.putPred_late (s : State) (p : BitVec 6) (b : Bool) : (s.putPred p b).late = s.late := rfl
@[simp] theorem State.putPred_agenda (s : State) (p : BitVec 6) (b : Bool) : (s.putPred p b).agenda = s.agenda := rfl

/-! ### State.pendTo -/

@[simp] theorem State.pendTo_th (s : State) (r : BitVec 6) (k v : Nat) : (s.pendTo r k v).th = { s.th with pending := s.th.pending ++ pendRegs r.toNat v k } := rfl
@[simp] theorem State.pendTo_tm (s : State) (r : BitVec 6) (k v : Nat) : (s.pendTo r k v).tm = s.tm := rfl
@[simp] theorem State.pendTo_grp (s : State) (r : BitVec 6) (k v : Nat) : (s.pendTo r k v).grp = s.grp := rfl
@[simp] theorem State.pendTo_ms (s : State) (r : BitVec 6) (k v : Nat) : (s.pendTo r k v).ms = s.ms := rfl
@[simp] theorem State.pendTo_teams (s : State) (r : BitVec 6) (k v : Nat) : (s.pendTo r k v).teams = s.teams := rfl
@[simp] theorem State.pendTo_grids (s : State) (r : BitVec 6) (k v : Nat) : (s.pendTo r k v).grids = s.grids := rfl
@[simp] theorem State.pendTo_ctxs (s : State) (r : BitVec 6) (k v : Nat) : (s.pendTo r k v).ctxs = s.ctxs := rfl
@[simp] theorem State.pendTo_iod (s : State) (r : BitVec 6) (k v : Nat) : (s.pendTo r k v).iod = s.iod := rfl
@[simp] theorem State.pendTo_time (s : State) (r : BitVec 6) (k v : Nat) : (s.pendTo r k v).time = s.time := rfl
@[simp] theorem State.pendTo_cycle (s : State) (r : BitVec 6) (k v : Nat) : (s.pendTo r k v).cycle = s.cycle := rfl
@[simp] theorem State.pendTo_walked (s : State) (r : BitVec 6) (k v : Nat) : (s.pendTo r k v).walked = s.walked := rfl
@[simp] theorem State.pendTo_sending (s : State) (r : BitVec 6) (k v : Nat) : (s.pendTo r k v).sending = s.sending := rfl
@[simp] theorem State.pendTo_draws (s : State) (r : BitVec 6) (k v : Nat) : (s.pendTo r k v).draws = s.draws := rfl
@[simp] theorem State.pendTo_turns (s : State) (r : BitVec 6) (k v : Nat) : (s.pendTo r k v).turns = s.turns := rfl
@[simp] theorem State.pendTo_late (s : State) (r : BitVec 6) (k v : Nat) : (s.pendTo r k v).late = s.late := rfl
@[simp] theorem State.pendTo_agenda (s : State) (r : BitVec 6) (k v : Nat) : (s.pendTo r k v).agenda = s.agenda := rfl

/-! ### State.setGrid -/

@[simp] theorem State.setGrid_th (s : State) (g : Grid) : (s.setGrid g).th = s.th := rfl
@[simp] theorem State.setGrid_tm (s : State) (g : Grid) : (s.setGrid g).tm = s.tm := rfl
@[simp] theorem State.setGrid_grp (s : State) (g : Grid) : (s.setGrid g).grp = s.grp := rfl
@[simp] theorem State.setGrid_ms (s : State) (g : Grid) : (s.setGrid g).ms = s.ms := rfl
@[simp] theorem State.setGrid_teams (s : State) (g : Grid) : (s.setGrid g).teams = s.teams := rfl
@[simp] theorem State.setGrid_grids (s : State) (g : Grid) : (s.setGrid g).grids = (s.grids.map fun x => if x.ctx == g.ctx && x.gid == g.gid then g else x) := rfl
@[simp] theorem State.setGrid_ctxs (s : State) (g : Grid) : (s.setGrid g).ctxs = s.ctxs := rfl
@[simp] theorem State.setGrid_iod (s : State) (g : Grid) : (s.setGrid g).iod = s.iod := rfl
@[simp] theorem State.setGrid_time (s : State) (g : Grid) : (s.setGrid g).time = s.time := rfl
@[simp] theorem State.setGrid_cycle (s : State) (g : Grid) : (s.setGrid g).cycle = s.cycle := rfl
@[simp] theorem State.setGrid_walked (s : State) (g : Grid) : (s.setGrid g).walked = s.walked := rfl
@[simp] theorem State.setGrid_sending (s : State) (g : Grid) : (s.setGrid g).sending = s.sending := rfl
@[simp] theorem State.setGrid_draws (s : State) (g : Grid) : (s.setGrid g).draws = s.draws := rfl
@[simp] theorem State.setGrid_turns (s : State) (g : Grid) : (s.setGrid g).turns = s.turns := rfl
@[simp] theorem State.setGrid_late (s : State) (g : Grid) : (s.setGrid g).late = s.late := rfl
@[simp] theorem State.setGrid_agenda (s : State) (g : Grid) : (s.setGrid g).agenda = s.agenda := rfl

/-! ### State.setCtx -/

@[simp] theorem State.setCtx_th (s : State) (c : Ctx) : (s.setCtx c).th = s.th := rfl
@[simp] theorem State.setCtx_tm (s : State) (c : Ctx) : (s.setCtx c).tm = s.tm := rfl
@[simp] theorem State.setCtx_grp (s : State) (c : Ctx) : (s.setCtx c).grp = s.grp := rfl
@[simp] theorem State.setCtx_ms (s : State) (c : Ctx) : (s.setCtx c).ms = s.ms := rfl
@[simp] theorem State.setCtx_teams (s : State) (c : Ctx) : (s.setCtx c).teams = s.teams := rfl
@[simp] theorem State.setCtx_grids (s : State) (c : Ctx) : (s.setCtx c).grids = s.grids := rfl
@[simp] theorem State.setCtx_ctxs (s : State) (c : Ctx) : (s.setCtx c).ctxs = (s.ctxs.map fun x => if x.id == c.id then c else x) := rfl
@[simp] theorem State.setCtx_iod (s : State) (c : Ctx) : (s.setCtx c).iod = s.iod := rfl
@[simp] theorem State.setCtx_time (s : State) (c : Ctx) : (s.setCtx c).time = s.time := rfl
@[simp] theorem State.setCtx_cycle (s : State) (c : Ctx) : (s.setCtx c).cycle = s.cycle := rfl
@[simp] theorem State.setCtx_walked (s : State) (c : Ctx) : (s.setCtx c).walked = s.walked := rfl
@[simp] theorem State.setCtx_sending (s : State) (c : Ctx) : (s.setCtx c).sending = s.sending := rfl
@[simp] theorem State.setCtx_draws (s : State) (c : Ctx) : (s.setCtx c).draws = s.draws := rfl
@[simp] theorem State.setCtx_turns (s : State) (c : Ctx) : (s.setCtx c).turns = s.turns := rfl
@[simp] theorem State.setCtx_late (s : State) (c : Ctx) : (s.setCtx c).late = s.late := rfl
@[simp] theorem State.setCtx_agenda (s : State) (c : Ctx) : (s.setCtx c).agenda = s.agenda := rfl

/-! ### Thread.setReg -/

@[simp] theorem Thread.setReg_tid (t : Thread) (n : Nat) (v : Word) : (t.setReg n v).tid = t.tid := rfl
@[simp] theorem Thread.setReg_pc (t : Thread) (n : Nat) (v : Word) : (t.setReg n v).pc = t.pc := rfl
@[simp] theorem Thread.setReg_seg (t : Thread) (n : Nat) (v : Word) : (t.setReg n v).seg = t.seg := rfl
@[simp] theorem Thread.setReg_regs (t : Thread) (n : Nat) (v : Word) : (t.setReg n v).regs = t.regs.set n v := rfl
@[simp] theorem Thread.setReg_preds (t : Thread) (n : Nat) (v : Word) : (t.setReg n v).preds = t.preds := rfl
@[simp] theorem Thread.setReg_gsel (t : Thread) (n : Nat) (v : Word) : (t.setReg n v).gsel = t.gsel := rfl
@[simp] theorem Thread.setReg_fpc (t : Thread) (n : Nat) (v : Word) : (t.setReg n v).fpc = t.fpc := rfl
@[simp] theorem Thread.setReg_fps (t : Thread) (n : Nat) (v : Word) : (t.setReg n v).fps = t.fps := rfl
@[simp] theorem Thread.setReg_rngk (t : Thread) (n : Nat) (v : Word) : (t.setReg n v).rngk = t.rngk := rfl
@[simp] theorem Thread.setReg_rngc (t : Thread) (n : Nat) (v : Word) : (t.setReg n v).rngc = t.rngc := rfl
@[simp] theorem Thread.setReg_trapc (t : Thread) (n : Nat) (v : Word) : (t.setReg n v).trapc = t.trapc := rfl
@[simp] theorem Thread.setReg_trapa (t : Thread) (n : Nat) (v : Word) : (t.setReg n v).trapa = t.trapa := rfl
@[simp] theorem Thread.setReg_trappc (t : Thread) (n : Nat) (v : Word) : (t.setReg n v).trappc = t.trappc := rfl
@[simp] theorem Thread.setReg_timeout (t : Thread) (n : Nat) (v : Word) : (t.setReg n v).timeout = t.timeout := rfl
@[simp] theorem Thread.setReg_sup (t : Thread) (n : Nat) (v : Word) : (t.setReg n v).sup = t.sup := rfl
@[simp] theorem Thread.setReg_tl (t : Thread) (n : Nat) (v : Word) : (t.setReg n v).tl = t.tl := rfl
@[simp] theorem Thread.setReg_spc (t : Thread) (n : Nat) (v : Word) : (t.setReg n v).spc = t.spc := rfl
@[simp] theorem Thread.setReg_scause (t : Thread) (n : Nat) (v : Word) : (t.setReg n v).scause = t.scause := rfl
@[simp] theorem Thread.setReg_saddr (t : Thread) (n : Nat) (v : Word) : (t.setReg n v).saddr = t.saddr := rfl
@[simp] theorem Thread.setReg_sgrp (t : Thread) (n : Nat) (v : Word) : (t.setReg n v).sgrp = t.sgrp := rfl
@[simp] theorem Thread.setReg_sscr (t : Thread) (n : Nat) (v : Word) : (t.setReg n v).sscr = t.sscr := rfl
@[simp] theorem Thread.setReg_status (t : Thread) (n : Nat) (v : Word) : (t.setReg n v).status = t.status := rfl
@[simp] theorem Thread.setReg_pending (t : Thread) (n : Nat) (v : Word) : (t.setReg n v).pending = t.pending := rfl
@[simp] theorem Thread.setReg_ph (t : Thread) (n : Nat) (v : Word) : (t.setReg n v).ph = t.ph := rfl
@[simp] theorem Thread.setReg_walk (t : Thread) (n : Nat) (v : Word) : (t.setReg n v).walk = t.walk := rfl
@[simp] theorem Thread.setReg_step (t : Thread) (n : Nat) (v : Word) : (t.setReg n v).step = t.step := rfl
@[simp] theorem Thread.setReg_bay (t : Thread) (n : Nat) (v : Word) : (t.setReg n v).bay = t.bay := rfl
@[simp] theorem Thread.setReg_migrated (t : Thread) (n : Nat) (v : Word) : (t.setReg n v).migrated = t.migrated := rfl
@[simp] theorem Thread.setReg_gang (t : Thread) (n : Nat) (v : Word) : (t.setReg n v).gang = t.gang := rfl
@[simp] theorem Thread.setReg_conv (t : Thread) (n : Nat) (v : Word) : (t.setReg n v).conv = t.conv := rfl
@[simp] theorem Thread.setReg_since (t : Thread) (n : Nat) (v : Word) : (t.setReg n v).since = t.since := rfl
@[simp] theorem Thread.setReg_yielded (t : Thread) (n : Nat) (v : Word) : (t.setReg n v).yielded = t.yielded := rfl
@[simp] theorem Thread.setReg_passed (t : Thread) (n : Nat) (v : Word) : (t.setReg n v).passed = t.passed := rfl
@[simp] theorem Thread.setReg_held (t : Thread) (n : Nat) (v : Word) : (t.setReg n v).held = t.held := rfl
@[simp] theorem Thread.setReg_woke (t : Thread) (n : Nat) (v : Word) : (t.setReg n v).woke = t.woke := rfl
@[simp] theorem Thread.setReg_sent (t : Thread) (n : Nat) (v : Word) : (t.setReg n v).sent = t.sent := rfl
@[simp] theorem Thread.setReg_issued (t : Thread) (n : Nat) (v : Word) : (t.setReg n v).issued = t.issued := rfl
@[simp] theorem Thread.setReg_copy (t : Thread) (n : Nat) (v : Word) : (t.setReg n v).copy = t.copy := rfl
@[simp] theorem Thread.setReg_relFence (t : Thread) (n : Nat) (v : Word) : (t.setReg n v).relFence = t.relFence := rfl
@[simp] theorem Thread.setReg_fin (t : Thread) (n : Nat) (v : Word) : (t.setReg n v).fin = t.fin := rfl
@[simp] theorem Thread.setReg_entering (t : Thread) (n : Nat) (v : Word) : (t.setReg n v).entering = t.entering := rfl
@[simp] theorem Thread.setReg_asked (t : Thread) (n : Nat) (v : Word) : (t.setReg n v).asked = t.asked := rfl
@[simp] theorem Thread.setReg_lost (t : Thread) (n : Nat) (v : Word) : (t.setReg n v).lost = t.lost := rfl
@[simp] theorem Thread.setReg_fetched (t : Thread) (n : Nat) (v : Word) : (t.setReg n v).fetched = t.fetched := rfl
@[simp] theorem Thread.setReg_stamp (t : Thread) (n : Nat) (v : Word) : (t.setReg n v).stamp = t.stamp := rfl

/-! ### Thread.orFps -/

@[simp] theorem Thread.orFps_tid (t : Thread) (m : Nat) : (t.orFps m).tid = t.tid := rfl
@[simp] theorem Thread.orFps_pc (t : Thread) (m : Nat) : (t.orFps m).pc = t.pc := rfl
@[simp] theorem Thread.orFps_seg (t : Thread) (m : Nat) : (t.orFps m).seg = t.seg := rfl
@[simp] theorem Thread.orFps_regs (t : Thread) (m : Nat) : (t.orFps m).regs = t.regs := rfl
@[simp] theorem Thread.orFps_preds (t : Thread) (m : Nat) : (t.orFps m).preds = t.preds := rfl
@[simp] theorem Thread.orFps_gsel (t : Thread) (m : Nat) : (t.orFps m).gsel = t.gsel := rfl
@[simp] theorem Thread.orFps_fpc (t : Thread) (m : Nat) : (t.orFps m).fpc = t.fpc := rfl
@[simp] theorem Thread.orFps_fps (t : Thread) (m : Nat) : (t.orFps m).fps = t.fps ||| BitVec.ofNat 32 m := rfl
@[simp] theorem Thread.orFps_rngk (t : Thread) (m : Nat) : (t.orFps m).rngk = t.rngk := rfl
@[simp] theorem Thread.orFps_rngc (t : Thread) (m : Nat) : (t.orFps m).rngc = t.rngc := rfl
@[simp] theorem Thread.orFps_trapc (t : Thread) (m : Nat) : (t.orFps m).trapc = t.trapc := rfl
@[simp] theorem Thread.orFps_trapa (t : Thread) (m : Nat) : (t.orFps m).trapa = t.trapa := rfl
@[simp] theorem Thread.orFps_trappc (t : Thread) (m : Nat) : (t.orFps m).trappc = t.trappc := rfl
@[simp] theorem Thread.orFps_timeout (t : Thread) (m : Nat) : (t.orFps m).timeout = t.timeout := rfl
@[simp] theorem Thread.orFps_sup (t : Thread) (m : Nat) : (t.orFps m).sup = t.sup := rfl
@[simp] theorem Thread.orFps_tl (t : Thread) (m : Nat) : (t.orFps m).tl = t.tl := rfl
@[simp] theorem Thread.orFps_spc (t : Thread) (m : Nat) : (t.orFps m).spc = t.spc := rfl
@[simp] theorem Thread.orFps_scause (t : Thread) (m : Nat) : (t.orFps m).scause = t.scause := rfl
@[simp] theorem Thread.orFps_saddr (t : Thread) (m : Nat) : (t.orFps m).saddr = t.saddr := rfl
@[simp] theorem Thread.orFps_sgrp (t : Thread) (m : Nat) : (t.orFps m).sgrp = t.sgrp := rfl
@[simp] theorem Thread.orFps_sscr (t : Thread) (m : Nat) : (t.orFps m).sscr = t.sscr := rfl
@[simp] theorem Thread.orFps_status (t : Thread) (m : Nat) : (t.orFps m).status = t.status := rfl
@[simp] theorem Thread.orFps_pending (t : Thread) (m : Nat) : (t.orFps m).pending = t.pending := rfl
@[simp] theorem Thread.orFps_ph (t : Thread) (m : Nat) : (t.orFps m).ph = t.ph := rfl
@[simp] theorem Thread.orFps_walk (t : Thread) (m : Nat) : (t.orFps m).walk = t.walk := rfl
@[simp] theorem Thread.orFps_step (t : Thread) (m : Nat) : (t.orFps m).step = t.step := rfl
@[simp] theorem Thread.orFps_bay (t : Thread) (m : Nat) : (t.orFps m).bay = t.bay := rfl
@[simp] theorem Thread.orFps_migrated (t : Thread) (m : Nat) : (t.orFps m).migrated = t.migrated := rfl
@[simp] theorem Thread.orFps_gang (t : Thread) (m : Nat) : (t.orFps m).gang = t.gang := rfl
@[simp] theorem Thread.orFps_conv (t : Thread) (m : Nat) : (t.orFps m).conv = t.conv := rfl
@[simp] theorem Thread.orFps_since (t : Thread) (m : Nat) : (t.orFps m).since = t.since := rfl
@[simp] theorem Thread.orFps_yielded (t : Thread) (m : Nat) : (t.orFps m).yielded = t.yielded := rfl
@[simp] theorem Thread.orFps_passed (t : Thread) (m : Nat) : (t.orFps m).passed = t.passed := rfl
@[simp] theorem Thread.orFps_held (t : Thread) (m : Nat) : (t.orFps m).held = t.held := rfl
@[simp] theorem Thread.orFps_woke (t : Thread) (m : Nat) : (t.orFps m).woke = t.woke := rfl
@[simp] theorem Thread.orFps_sent (t : Thread) (m : Nat) : (t.orFps m).sent = t.sent := rfl
@[simp] theorem Thread.orFps_issued (t : Thread) (m : Nat) : (t.orFps m).issued = t.issued := rfl
@[simp] theorem Thread.orFps_copy (t : Thread) (m : Nat) : (t.orFps m).copy = t.copy := rfl
@[simp] theorem Thread.orFps_relFence (t : Thread) (m : Nat) : (t.orFps m).relFence = t.relFence := rfl
@[simp] theorem Thread.orFps_fin (t : Thread) (m : Nat) : (t.orFps m).fin = t.fin := rfl
@[simp] theorem Thread.orFps_entering (t : Thread) (m : Nat) : (t.orFps m).entering = t.entering := rfl
@[simp] theorem Thread.orFps_asked (t : Thread) (m : Nat) : (t.orFps m).asked = t.asked := rfl
@[simp] theorem Thread.orFps_lost (t : Thread) (m : Nat) : (t.orFps m).lost = t.lost := rfl
@[simp] theorem Thread.orFps_fetched (t : Thread) (m : Nat) : (t.orFps m).fetched = t.fetched := rfl
@[simp] theorem Thread.orFps_stamp (t : Thread) (m : Nat) : (t.orFps m).stamp = t.stamp := rfl

/-! ### Thread.setPh -/

@[simp] theorem Thread.setPh_tid (t : Thread) (i : Nat) (r : PhRec) : (t.setPh i r).tid = t.tid := rfl
@[simp] theorem Thread.setPh_pc (t : Thread) (i : Nat) (r : PhRec) : (t.setPh i r).pc = t.pc := rfl
@[simp] theorem Thread.setPh_seg (t : Thread) (i : Nat) (r : PhRec) : (t.setPh i r).seg = t.seg := rfl
@[simp] theorem Thread.setPh_regs (t : Thread) (i : Nat) (r : PhRec) : (t.setPh i r).regs = t.regs := rfl
@[simp] theorem Thread.setPh_preds (t : Thread) (i : Nat) (r : PhRec) : (t.setPh i r).preds = t.preds := rfl
@[simp] theorem Thread.setPh_gsel (t : Thread) (i : Nat) (r : PhRec) : (t.setPh i r).gsel = t.gsel := rfl
@[simp] theorem Thread.setPh_fpc (t : Thread) (i : Nat) (r : PhRec) : (t.setPh i r).fpc = t.fpc := rfl
@[simp] theorem Thread.setPh_fps (t : Thread) (i : Nat) (r : PhRec) : (t.setPh i r).fps = t.fps := rfl
@[simp] theorem Thread.setPh_rngk (t : Thread) (i : Nat) (r : PhRec) : (t.setPh i r).rngk = t.rngk := rfl
@[simp] theorem Thread.setPh_rngc (t : Thread) (i : Nat) (r : PhRec) : (t.setPh i r).rngc = t.rngc := rfl
@[simp] theorem Thread.setPh_trapc (t : Thread) (i : Nat) (r : PhRec) : (t.setPh i r).trapc = t.trapc := rfl
@[simp] theorem Thread.setPh_trapa (t : Thread) (i : Nat) (r : PhRec) : (t.setPh i r).trapa = t.trapa := rfl
@[simp] theorem Thread.setPh_trappc (t : Thread) (i : Nat) (r : PhRec) : (t.setPh i r).trappc = t.trappc := rfl
@[simp] theorem Thread.setPh_timeout (t : Thread) (i : Nat) (r : PhRec) : (t.setPh i r).timeout = t.timeout := rfl
@[simp] theorem Thread.setPh_sup (t : Thread) (i : Nat) (r : PhRec) : (t.setPh i r).sup = t.sup := rfl
@[simp] theorem Thread.setPh_tl (t : Thread) (i : Nat) (r : PhRec) : (t.setPh i r).tl = t.tl := rfl
@[simp] theorem Thread.setPh_spc (t : Thread) (i : Nat) (r : PhRec) : (t.setPh i r).spc = t.spc := rfl
@[simp] theorem Thread.setPh_scause (t : Thread) (i : Nat) (r : PhRec) : (t.setPh i r).scause = t.scause := rfl
@[simp] theorem Thread.setPh_saddr (t : Thread) (i : Nat) (r : PhRec) : (t.setPh i r).saddr = t.saddr := rfl
@[simp] theorem Thread.setPh_sgrp (t : Thread) (i : Nat) (r : PhRec) : (t.setPh i r).sgrp = t.sgrp := rfl
@[simp] theorem Thread.setPh_sscr (t : Thread) (i : Nat) (r : PhRec) : (t.setPh i r).sscr = t.sscr := rfl
@[simp] theorem Thread.setPh_status (t : Thread) (i : Nat) (r : PhRec) : (t.setPh i r).status = t.status := rfl
@[simp] theorem Thread.setPh_pending (t : Thread) (i : Nat) (r : PhRec) : (t.setPh i r).pending = t.pending := rfl
@[simp] theorem Thread.setPh_ph (t : Thread) (i : Nat) (r : PhRec) : (t.setPh i r).ph = t.ph.set i r := rfl
@[simp] theorem Thread.setPh_walk (t : Thread) (i : Nat) (r : PhRec) : (t.setPh i r).walk = t.walk := rfl
@[simp] theorem Thread.setPh_step (t : Thread) (i : Nat) (r : PhRec) : (t.setPh i r).step = t.step := rfl
@[simp] theorem Thread.setPh_bay (t : Thread) (i : Nat) (r : PhRec) : (t.setPh i r).bay = t.bay := rfl
@[simp] theorem Thread.setPh_migrated (t : Thread) (i : Nat) (r : PhRec) : (t.setPh i r).migrated = t.migrated := rfl
@[simp] theorem Thread.setPh_gang (t : Thread) (i : Nat) (r : PhRec) : (t.setPh i r).gang = t.gang := rfl
@[simp] theorem Thread.setPh_conv (t : Thread) (i : Nat) (r : PhRec) : (t.setPh i r).conv = t.conv := rfl
@[simp] theorem Thread.setPh_since (t : Thread) (i : Nat) (r : PhRec) : (t.setPh i r).since = t.since := rfl
@[simp] theorem Thread.setPh_yielded (t : Thread) (i : Nat) (r : PhRec) : (t.setPh i r).yielded = t.yielded := rfl
@[simp] theorem Thread.setPh_passed (t : Thread) (i : Nat) (r : PhRec) : (t.setPh i r).passed = t.passed := rfl
@[simp] theorem Thread.setPh_held (t : Thread) (i : Nat) (r : PhRec) : (t.setPh i r).held = t.held := rfl
@[simp] theorem Thread.setPh_woke (t : Thread) (i : Nat) (r : PhRec) : (t.setPh i r).woke = t.woke := rfl
@[simp] theorem Thread.setPh_sent (t : Thread) (i : Nat) (r : PhRec) : (t.setPh i r).sent = t.sent := rfl
@[simp] theorem Thread.setPh_issued (t : Thread) (i : Nat) (r : PhRec) : (t.setPh i r).issued = t.issued := rfl
@[simp] theorem Thread.setPh_copy (t : Thread) (i : Nat) (r : PhRec) : (t.setPh i r).copy = t.copy := rfl
@[simp] theorem Thread.setPh_relFence (t : Thread) (i : Nat) (r : PhRec) : (t.setPh i r).relFence = t.relFence := rfl
@[simp] theorem Thread.setPh_fin (t : Thread) (i : Nat) (r : PhRec) : (t.setPh i r).fin = t.fin := rfl
@[simp] theorem Thread.setPh_entering (t : Thread) (i : Nat) (r : PhRec) : (t.setPh i r).entering = t.entering := rfl
@[simp] theorem Thread.setPh_asked (t : Thread) (i : Nat) (r : PhRec) : (t.setPh i r).asked = t.asked := rfl
@[simp] theorem Thread.setPh_lost (t : Thread) (i : Nat) (r : PhRec) : (t.setPh i r).lost = t.lost := rfl
@[simp] theorem Thread.setPh_fetched (t : Thread) (i : Nat) (r : PhRec) : (t.setPh i r).fetched = t.fetched := rfl
@[simp] theorem Thread.setPh_stamp (t : Thread) (i : Nat) (r : PhRec) : (t.setPh i r).stamp = t.stamp := rfl

/-! ### Updates in several steps -/

@[simp] theorem Thread.setRegs_one (t : Thread) (n v : Nat) : t.setRegs n v 1 = t.setReg n (BitVec.ofNat 32 v) := rfl

@[simp] theorem Thread.setRegs_two (t : Thread) (n v : Nat) :
    t.setRegs n v 2 = (t.setReg n (BitVec.ofNat 32 v)).setReg (n + 1) (BitVec.ofNat 32 (v / 2 ^ 32)) := rfl

/-- A write of registers changes no other field. -/
theorem Thread.setRegs_eq (t : Thread) (n v k : Nat) : t.setRegs n v k = { t with regs := (t.setRegs n v k).regs } := by
  induction k generalizing t n v with
  | zero => rfl
  | succ k ih => rw [Thread.setRegs, ih]; rfl

/-- A write of a predicate changes no other field. -/
theorem Thread.setPred_eq (t : Thread) (p : Nat) (b : Bool) : t.setPred p b = { t with preds := if p = 0 then t.preds else t.preds.set p b } := by
  unfold Thread.setPred; split <;> simp_all

/-- Writing one outstanding result changes registers, predicates and flags only. -/
theorem Thread.deliverOne_eq (t : Thread) (p : Pending) :
    t.deliverOne p = { t with regs := (t.deliverOne p).regs, preds := (t.deliverOne p).preds, fps := (t.deliverOne p).fps } := by
  cases p with
  | reg n v => rfl
  | pred n b => simp only [Thread.deliverOne]; unfold Thread.setPred; split <;> rfl
  | flags m => rfl

theorem foldl_deliverOne_eq (l : List Pending) (t : Thread) :
    l.foldl Thread.deliverOne t =
      { t with regs := (l.foldl Thread.deliverOne t).regs, preds := (l.foldl Thread.deliverOne t).preds, fps := (l.foldl Thread.deliverOne t).fps } := by
  induction l generalizing t with
  | nil => rfl
  | cons p l ih =>
    rw [List.foldl_cons, ih, Thread.deliverOne_eq t p]

/-- When every outstanding result has been written, only registers, predicates, flags and the list itself have changed. -/
theorem Thread.drain_eq (t : Thread) :
    t.drain = { t with regs := t.drain.regs, preds := t.drain.preds, fps := t.drain.fps, pending := [] } := by
  unfold Thread.drain; rw [foldl_deliverOne_eq]

theorem Thread.pending_drain (t : Thread) : t.drain.pending = [] := rfl

end Sys2Proof.Machine
end

