-- ==== Sys2Proof/Machine/Loader.lean ====
section
/-! DEFINITION. Object files and their loading (R337 to R349, R388): software of the supervisor, given here as a function
from a file to the image it maps, the kernel records it writes and the symbols it exports, or to the error record. -/

namespace Sys2Proof.Machine

/-! ### Records of a file (R337 to R342) -/

/-- A section header with its contents (R338). -/
structure Section where
  kind : Nat
  imgoff : Nat
  bytes : List Byte
  deriving DecidableEq, Repr

/-- A symbol record (R339). -/
structure Symbol where
  name : List Byte
  sect : Nat
  bind : Nat
  kind : Nat
  value : Nat
  size : Nat
  deriving DecidableEq, Repr

/-- A relocation record (R341). -/
structure Reloc where
  place : Nat
  sym : Nat
  kind : Nat
  rsv : Nat
  pair : Nat
  addend : Int
  deriving DecidableEq, Repr

/-- The error record of R347; a field that names nothing holds 0xFFFF_FFFF. -/
structure LoadError where
  reason : Nat
  rel : Nat
  sym : Nat
  kernel : Nat
  value : Nat
  deriving DecidableEq, Repr

/-- An object whose header, sections and symbols have been read. -/
structure Obj where
  pbase : Nat
  imgsize : Nat
  sects : List Section
  syms : List Symbol
  rels : List Reloc
  launch : List (List Byte)
  deriving DecidableEq, Repr

/-- What the loader finds on the device: address ranges of the context that are taken, the base it would take where the
preferred one is not free, and the global symbols of the objects loaded before, in load order (R339, R346). -/
structure LoadEnv where
  taken : List (Nat × Nat)
  other : Nat
  globals : List (List Byte × Nat)
  deriving DecidableEq, Repr

/-- What a mapping allows (R338, R388). -/
inductive MapKind where
  | code
  | readOnly
  | data
  deriving DecidableEq, Repr

/-- A mapping: its address, what it allows, and its bytes, the rest of its last page reading as zero. -/
structure Mapping where
  addr : Nat
  kind : MapKind
  bytes : List Byte
  deriving DecidableEq, Repr

/-- A loaded object (R346): its base, its mappings with the kernel-record area last, and what it exports. -/
structure Loaded where
  base : Nat
  maps : List Mapping
  krecs : Nat
  globals : List (List Byte × Nat)
  deriving DecidableEq, Repr

abbrev Load (α : Type) : Type := Except LoadError α

def noIndex : Nat := 2 ^ 32 - 1

def loadErr (reason : Nat) : LoadError := ⟨reason, noIndex, noIndex, noIndex, 0⟩

/-- The records of n bytes of a table. -/
def recordsOf (n : Nat) : Nat → List Byte → List (List Byte)
  | 0, _ => []
  | k + 1, b => if b.isEmpty then [] else b.take n :: recordsOf n k (b.drop n)

def records (n : Nat) (b : List Byte) : List (List Byte) := recordsOf n b.length b

/-- The bytes before the first zero byte. -/
def cString (b : List Byte) : List Byte := b.takeWhile (· != 0)

/-! ### Step 1 of R346: checks -/

def headerOk (f : List Byte) : Bool :=
  64 ≤ f.length && field f 0 4 == 0x00464F4A && field f 4 2 == 1 && field f 8 8 % 65536 == 0 && field f 16 8 % 65536 == 0 &&
    field f 24 8 + 32 * field f 6 2 ≤ f.length && zeroBytes f 32 32

/-- A section is loaded when its TYPE is 1 to 5. -/
def Section.loaded (x : Section) : Bool := 1 ≤ x.kind && x.kind ≤ 5

/-- The header of a section against its file and the image (R338). -/
def sectHeaderOk (f : List Byte) (imgsize : Nat) (h : List Byte) : Bool :=
  let k := field h 0 1
  1 ≤ k && k ≤ 9 && zeroBytes h 1 7 && field h 16 8 + field h 24 8 ≤ f.length &&
    (if k ≤ 5 then field h 8 8 % 65536 == 0 && field h 8 8 + field h 24 8 ≤ imgsize else field h 8 8 == 0)

def sectOf (f h : List Byte) : Section := ⟨field h 0 1, field h 8 8, (f.drop (field h 16 8)).take (field h 24 8)⟩

/-- Loaded sections with pages of their own. -/
def sectsApart (l : List Section) : Bool :=
  let l := l.filter fun x => x.loaded && !x.bytes.isEmpty
  (List.range l.length).all fun i => (List.range i).all fun j =>
    match l[i]?, l[j]? with
    | some x, some y => x.imgoff + x.bytes.length ≤ y.imgoff || y.imgoff + y.bytes.length ≤ x.imgoff
    | _, _ => true

/-- The contents of the section of one TYPE that is not loaded; none when the file holds two. -/
def tableOf (l : List Section) (kind : Nat) : Option (List Byte) :=
  match l.filter fun x => x.kind == kind with
  | [] => some []
  | [x] => some x.bytes
  | _ => none

def symbolOf (strtab r : List Byte) : Symbol :=
  ⟨cString (strtab.drop (field r 0 4)), field r 4 2, field r 6 1, field r 7 1, field r 8 8, field r 16 8⟩

/-- A symbol record against R339 as reason 2 of R347 has it; record 0 is null. -/
def symbolOk (sects : List Section) (strtab r : List Byte) (k : Nat) : Bool :=
  if k == 0 then zeroBytes r 0 24
  else
    let sect := field r 4 2
    field r 0 4 < strtab.length && field r 6 1 ≤ 1 && field r 7 1 ≤ 3 &&
      (sect == 0 || sect == 0xFFFF || match sects[sect - 1]? with | some x => x.loaded | none => false)

def relocOf (r : List Byte) : Reloc :=
  ⟨field r 0 8, field r 8 4, field r 12 1, field r 13 1, field r 14 2, sextN (field r 16 8) 64⟩

/-- An undefined symbol takes the value of the first global of its name; it is then
absolute, and no global of this object (R339). -/
def resolveSym (globals : List (List Byte × Nat)) (x : Symbol) : Option Symbol :=
  if x.sect != 0 then some x
  else (globals.find? fun g => g.1 == x.name).map fun g => { x with sect := 0xFFFF, bind := 0, value := g.2 }

/-- The checks of the header, the section headers and the symbols, then the resolution of undefined symbols. -/
def readObj (env : LoadEnv) (f : List Byte) : Load Obj :=
  if !headerOk f then .error (loadErr 1)
  else
    let hs := records 32 ((f.drop (field f 24 8)).take (32 * field f 6 2))
    let sects := hs.map (sectOf f)
    if !(hs.all (sectHeaderOk f (field f 16 8)) && sectsApart sects) then .error (loadErr 2)
    else
      match tableOf sects 6, tableOf sects 7, tableOf sects 8, tableOf sects 9 with
      | some symtab, some reltab, some strtab, some launch =>
        if symtab.length % 24 != 0 || reltab.length % 24 != 0 || launch.length % 64 != 0 then .error (loadErr 2)
        else
          let srecs := records 24 symtab
          match (List.range srecs.length).find? fun k => !symbolOk sects strtab (nth srecs k []) k with
          | some k => .error { loadErr 2 with sym := k }
          | none =>
            let syms := srecs.map (symbolOf strtab)
            let found := (List.range syms.length).map fun k => (k, (syms[k]?).bind (resolveSym env.globals))
            match found.find? fun p => p.1 != 0 && p.2.isNone with
            | some p => .error { loadErr 3 with sym := p.1 }
            | none =>
              .ok ⟨field f 8 8, field f 16 8, sects, (List.range syms.length).map fun k =>
                  match syms[k]? with | some x => (resolveSym env.globals x).getD x | none => ⟨[], 0, 0, 0, 0, 0⟩,
                (records 24 reltab).map relocOf, records 64 launch⟩
      | _, _, _, _ => .error (loadErr 2)

/-! ### Step 2: the base -/

/-- The size of the kernel-record area (R388). -/
def Obj.ksz (o : Obj) : Nat := roundUp (64 * o.launch.length) 65536

/-- Whether an object may lie at a base. -/
def baseOk (env : LoadEnv) (o : Obj) (b : Nat) : Bool :=
  let n := o.imgsize + o.ksz
  b % 65536 == 0 && b + n ≤ 2 ^ 56 && env.taken.all fun r => b + n ≤ r.1 || r.1 + r.2 ≤ b

/-- PBASE unless its range is taken, and then the other base that the environment offers (R346). -/
def chooseBase (env : LoadEnv) (o : Obj) : Load Nat :=
  if baseOk env o o.pbase then .ok o.pbase
  else if baseOk env o env.other then .ok env.other
  else .error { loadErr 9 with value := env.other }

/-! ### Step 3: relocation (R343 to R345) -/

/-- The value S of a symbol (R339). -/
def symValue (base : Nat) (x : Symbol) : Nat := if x.sect == 0xFFFF then x.value else base + x.value

/-- The GOT entry of a symbol: the place in the GOT that an ABS64 relocation fills for it (R340). -/
def gotEntry (o : Obj) (sym : Nat) : Option Nat :=
  (o.rels.find? fun r => r.kind == 1 && r.sym == sym &&
    o.sects.any fun x => x.kind == 5 && x.imgoff ≤ r.place && r.place < x.imgoff + x.bytes.length).map Reloc.place

/-- The packet number of an address (R168). -/
def packetNo (a : Nat) : Int := (5 * (a / 64) + a % 64 / 12 : Nat)

/-- The loaded section that holds n bytes at an image offset. -/
def sectAt (l : List Section) (off n : Nat) : Option Section :=
  l.find? fun x => x.loaded && x.imgoff ≤ off && off + n ≤ x.imgoff + x.bytes.length

/-- The n bytes at an image offset. -/
def imageField (l : List Section) (off n : Nat) : Nat :=
  match sectAt l off n with
  | some x => field x.bytes (off - x.imgoff) n
  | none => 0

/-- Writes n bytes at an image offset. -/
def imageWrite (l : List Section) (off n v : Nat) : List Section :=
  l.map fun x =>
    if x.loaded && x.imgoff ≤ off && off + n ≤ x.imgoff + x.bytes.length then
      { x with bytes := x.bytes.take (off - x.imgoff) ++ toBytes n v ++ x.bytes.drop (off - x.imgoff + n) }
    else x

/-- Bytes of the field's place by TYPE. -/
def relocSize (kind : Nat) : Nat := if kind == 1 || kind == 10 then 8 else 4

/-- Whether a place holds what R343 names for a TYPE. -/
def placeOk (l : List Section) (kind off : Nat) : Bool :=
  match sectAt l off (relocSize kind) with
  | none => false
  | some x =>
    let major := imageField l off 4 / 2 ^ 24 % 64
    let word := x.kind == 1 && off % 4 == 0 && off % 64 != 60
    match kind with
    | 1 | 10 => off % 8 == 0
    | 2 => off % 4 == 0
    | 3 | 5 => word && major == 0x39
    | 4 | 6 => word && 0x08 ≤ major && major ≤ 0x0F
    | 7 => word && (major == 0x3A || major == 0x3B)
    | 8 => word && (major == 0x3C || major == 0x3D)
    | 9 => x.kind == 1 && off % 64 == 60
    | _ => false

/-- A kernel symbol of the object: no imported and no absolute one (R344). -/
def Obj.ownKernel (o : Obj) (x : Symbol) : Bool :=
  x.kind == 2 && match o.sects[x.sect - 1]? with | some y => x.sect != 0 && y.kind == 1 | none => false

/-- V of a relocation that stands by itself: S + A for types 1, 2, 7, 8 and 9, S + A − P for type 3, G + A − P for
type 5, K + A for type 10; none where the object has no such entry or record. -/
def relocV (o : Obj) (base : Nat) (r : Reloc) : Option Int :=
  match o.syms[r.sym]? with
  | none => none
  | some x =>
    let p : Int := (base + r.place : Nat)
    let s : Int := symValue base x
    match r.kind with
    | 3 => some (s + r.addend - p)
    | 5 => (gotEntry o r.sym).map fun g => (base + g : Nat) + r.addend - p
    | 10 => ((List.range o.launch.length).find? fun k => field (nth o.launch k []) 0 4 == r.sym && o.ownKernel x).map fun k =>
        (base + o.imgsize + 64 * k : Nat) + r.addend
    | _ => some (s + r.addend)

/-- V, through the paired record for types 4 and 6 (R343, R344). -/
def relocValue (o : Obj) (base : Nat) (r : Reloc) : Option Int :=
  if r.kind == 4 || r.kind == 6 then
    match o.rels[r.pair]? with
    | some q => if q.kind + 1 == r.kind && q.sym == r.sym && q.addend == r.addend then relocV o base q else none
    | none => none
  else if r.pair != 0 then none
  else relocV o base r

/-- hi of a 20-bit relocation. -/
def relocHi (v : Int) : Int := (v + 0x800) / 4096

/-- A range of signed offsets. -/
def fitsSigned (x : Int) (n : Nat) : Bool := -(2 ^ (n - 1) : Nat) ≤ x && x < (2 ^ (n - 1) : Nat)

/-- A value that names a packet. -/
def isPacket (v : Int) : Bool := 0 ≤ v && packetOffset v.toNat

/-- The field that a relocation writes, as the low bit, the width and the contents; none where V does not fit. -/
def relocField (kind p : Nat) (v : Int) : Option (Nat × Nat × Nat) :=
  match kind with
  | 1 | 10 => if 0 ≤ v && v < (2 ^ 56 : Nat) then some (0, 64, v.toNat) else none
  | 2 => if 0 ≤ v && v < (2 ^ 32 : Nat) then some (0, 32, v.toNat) else none
  | 3 | 5 => if fitsSigned (relocHi v) 20 then some (0, 20, wrapN (relocHi v) 20) else none
  | 4 | 6 => some (0, 12, wrapN v 12)
  | 7 =>
    let d := packetNo v.toNat - packetNo p
    if isPacket v && fitsSigned d 20 then some (0, 20, wrapN d 20) else none
  | 8 =>
    let d := packetNo v.toNat - packetNo p
    if isPacket v && fitsSigned d 18 then some (0, 18, wrapN d 18) else none
  | _ => if isPacket v && v.toNat / 64 == p / 64 then some (v.toNat % 64 / 12, 1, 1) else none

/-- Replaces bits lo to lo + n − 1. -/
def putBits (x lo n v : Nat) : Nat := x % 2 ^ lo + v % 2 ^ n * 2 ^ lo + x / 2 ^ (lo + n) * 2 ^ (lo + n)

/-- One relocation. -/
def relocate1 (o : Obj) (base : Nat) (sects : List Section) (k : Nat) (r : Reloc) : Load (List Section) :=
  let bad := fun (reason value : Nat) => ({ loadErr reason with rel := k, sym := r.sym, value := value } : LoadError)
  if !(1 ≤ r.kind && r.kind ≤ 10 && r.rsv == 0 && placeOk sects r.kind r.place) then .error (bad 4 0)
  else if r.sym == 0 then .error (bad 3 0)
  else
    match relocValue o base r with
    | none => .error (bad 4 0)
    | some v =>
      match relocField r.kind (base + r.place) v with
      | none => .error (bad 5 (wrapN v 64))
      | some (lo, n, x) =>
        let size := relocSize r.kind
        .ok (imageWrite sects r.place size (putBits (imageField sects r.place size) lo n x))

/-- Every relocation, in index order (R345). -/
def relocateFrom (o : Obj) (base : Nat) : Nat → List Reloc → List Section → Load (List Section)
  | _, [], sects => .ok sects
  | k, r :: rest, sects =>
    match relocate1 o base sects k r with
    | .error e => .error e
    | .ok sects => relocateFrom o base (k + 1) rest sects

def relocate (o : Obj) (base : Nat) : Load (List Section) := relocateFrom o base 0 o.rels o.sects

/-! ### Step 4: function tables and launch records (R76, R342, R349) -/

/-- The n bytes of the image at an offset, zeros beyond a section's contents in its last page. -/
def imageBytes (l : List Section) (off n : Nat) : List Byte :=
  match l.find? fun x => x.loaded && x.imgoff ≤ off && off < x.imgoff + roundUp x.bytes.length 65536 with
  | some x => let b := (x.bytes.drop (off - x.imgoff)).take n; b ++ List.replicate (n - b.length) 0
  | none => List.replicate n 0

/-- The function tables of an object: those that a symbol names and the rest of its FTAB sections. -/
def tablesOf (o : Obj) : List Nat :=
  ((o.syms.filter fun (x : Symbol) => x.kind == 3 && x.sect != 0xFFFF).map Symbol.value ++
    (o.sects.filter fun (x : Section) => x.kind == 3).flatMap fun (x : Section) =>
      (List.range (ceilDiv x.bytes.length 4096)).map fun k => x.imgoff + 4096 * k).eraseDups

/-- FTAB of a launch record. -/
def launchFtab (o : Obj) (r : List Byte) : Option Symbol := if field r 40 4 == noIndex then none else o.syms[field r 40 4]?

/-- The image offset of a kernel's table, where its record names one of the object. -/
def launchTable (o : Obj) (r : List Byte) : Option Nat :=
  (launchFtab o r).bind fun x => if x.kind == 3 && x.sect != 0xFFFF then some x.value else none

/-- The kernel record of a launch record (R388). -/
def krecOf (o : Obj) (base : Nat) (r : List Byte) : List Byte :=
  r.take 44 ++ toBytes 4 0 ++ toBytes 8 (base + field r 4 4) ++
    toBytes 8 (match launchFtab o r with | some x => symValue base x | none => 0)

/-- A launch record against R342: its names, its reserved bytes, its entry, its units and the limits of R37, and F1
where its CLASS is 0. -/
def launchOk (o : Obj) (base : Nat) (sects : List Section) (r : List Byte) : Bool :=
  let e := field r 4 4
  let k := krecOf o base r
  (match o.syms[field r 0 4]? with | some x => x.kind == 2 | none => false) &&
    (field r 40 4 == noIndex || match o.syms[field r 40 4]? with | some x => x.kind == 3 | none => false) &&
    zeroBytes r 44 20 && krecOk k && declOk (declOf k) &&
    (match sectAt sects e 12 with | some x => x.kind == 1 | none => false) &&
    bitAt (imageField sects (e / 64 * 64 + 60) 4) (e % 64 / 12)

/-- A class that is not the class of this device: RK1 accepts 0 and 1 (R349). -/
def classOk (r : List Byte) : Bool := field r 11 1 ≤ 1

/-- A launch record with a class of another device read as that of this one, for the checks that come before the class. -/
def anyClass (r : List Byte) : List Byte := if classOk r then r else r.set 11 1

/-- Step 4: tables, then record by record the declarations (reason 7) and the class (reason 8). -/
def checkTables (o : Obj) (base : Nat) (sects : List Section) : Load Unit :=
  let ks := List.range o.launch.length
  match (tablesOf o).find? fun a => (ftabOfBytes (imageBytes sects a 4096)).isNone with
  | some a =>
    .error { loadErr 6 with kernel := (ks.find? fun k => launchTable o (nth o.launch k []) == some a).getD noIndex }
  | none =>
    let plain := fun k => launchOk o base sects (anyClass (nth o.launch k []))
    match ks.find? fun k => !(plain k && classOk (nth o.launch k [])) with
    | some k => .error { loadErr (if plain k then 8 else 7) with kernel := k }
    | none => .ok ()

/-! ### Step 5: mapping -/

def mapKindOf (x : Section) : MapKind := if x.kind == 1 then .code else if x.kind == 4 then .data else .readOnly

def mapObj (o : Obj) (base : Nat) (sects : List Section) : Loaded where
  base := base
  maps := (sects.filter fun x => x.loaded && !x.bytes.isEmpty).map (fun x => ⟨base + x.imgoff, mapKindOf x, x.bytes⟩) ++
    (if o.launch.isEmpty then [] else [⟨base + o.imgsize, .readOnly, o.launch.flatMap (krecOf o base)⟩])
  krecs := base + o.imgsize
  globals := (o.syms.filter fun x => x.bind == 1 && x.sect != 0).map fun x => (x.name, symValue base x)

/-- Loading, all or nothing (R346). -/
def load (env : LoadEnv) (f : List Byte) : Load Loaded :=
  match readObj env f with
  | .error e => .error e
  | .ok o =>
    match chooseBase env o with
    | .error e => .error e
    | .ok base =>
      match relocate o base with
      | .error e => .error e
      | .ok sects =>
        match checkTables o base sects with
        | .error e => .error e
        | .ok _ => .ok (mapObj o base sects)

/-- The 32 bytes of an error record (R347). -/
def LoadError.bytes (e : LoadError) : List Byte :=
  toBytes 4 e.reason ++ toBytes 4 e.rel ++ toBytes 4 e.sym ++ toBytes 4 e.kernel ++ toBytes 8 e.value ++ toBytes 8 0

end Sys2Proof.Machine
end

