-- ==== Sys2Proof/Machine/Apcen.lean ====
section
/-! DEFINITION. What apcen makes of the statements of a kernel once their text has been read: packing into packets and code lines,
what words name, and kernel declarations with their launch records (R328, R330 to R336, R342). -/

namespace Sys2Proof.Machine

/-! ### Statements -/

/-- A name of the source, by its characters. -/
abbrev Ident := List Byte

/-- A symbol plus or minus a constant (R329). -/
structure SymExpr where
  sym : Ident
  add : Int
  deriving DecidableEq, Repr

/-- What a word's immediate names (R330): hi20 and lo12 of an expression, gothi and gotlo of a symbol, a segment label. -/
inductive Ref where
  | hi20 (e : SymExpr)
  | lo12 (e : SymExpr)
  | gothi (s : Ident)
  | gotlo (s : Ident)
  | target (l : Ident)
  deriving DecidableEq, Repr

/-- A word as the source writes it: its fields, and what its immediate names if that is a symbol. -/
structure SrcWord where
  instr : Instr
  ref : Option Ref := none
  deriving DecidableEq, Repr

/-- A value of a data directive (R335): a number, an expression with a symbol, a kernel record (R330). -/
inductive Datum where
  | lit (v : Int)
  | sym (e : SymExpr)
  | krec (s : Ident)
  deriving DecidableEq, Repr

/-- A statement inside a kernel (R327, R335): an issue group, `.word`, `.seg` with its label, a label, `.packet`. -/
inductive Stmt where
  | group (ws : List SrcWord)
  | word (v : Datum)
  | seg (label : Ident)
  | label (l : Ident)
  | packet
  deriving DecidableEq, Repr

/-! ### Packing (R331 to R333) -/

/-- A packet as apcen writes it. -/
structure Packet where
  words : List Word
  entry : Bool
  rcv : Bool
  deriving DecidableEq, Repr

/-- A word that names a symbol, by its number in the section, with the number of the word that holds the high part. -/
structure CodeRef where
  word : Nat
  ref : Ref
  pair : Option Nat
  deriving DecidableEq, Repr

/-- A section being packed: packets done; the words of the current packet, whether it is an entry and holds RCV; segment labels with
their packets and other labels with their words, those that wait for a word among them; the words that name symbols, and those of
the current segment that hold high parts; `.word` values that name symbols. -/
structure Packing where
  done : List Packet
  cur : List Word
  entry : Bool
  rcv : Bool
  segs : List (Ident × Nat)
  marks : List (Ident × Nat)
  pend : List Ident
  refs : List CodeRef
  highs : List (Ref × Nat)
  data : List (Nat × Datum)
  deriving DecidableEq, Repr

def Packing.start : Packing := ⟨[], [], false, false, [], [], [], [], [], []⟩

/-- NOP (R332). -/
def nopWord : Word := 0x3E000006

/-- Words with NOPs behind them up to a packet. -/
def fillPacket (ws : List Word) : List Word := ws ++ List.replicate (3 - ws.length) nopWord

/-- Fills the rest of the current packet with NOPs, unless it is empty. -/
def Packing.close (p : Packing) : Packing :=
  if p.cur.isEmpty then p
  else { p with done := p.done ++ [⟨fillPacket p.cur, p.entry, p.rcv⟩], cur := [], entry := false, rcv := false }

/-- C on every word of a group but its last (R332). -/
def chainWords : List Word → List Word
  | [] => []
  | [w] => [w &&& 0x7FFFFFFF]
  | w :: rest => (w ||| 0x80000000) :: chainWords rest

def isRcv : Instr → Bool
  | .rcv _ => true
  | _ => false

def isTwoWay : Instr → Bool
  | .nextp _ | .nextn _ => true
  | _ => false

/-- No two words of a group clash (R175). -/
def noClash : List Word → Bool
  | [] => true
  | w :: rest => rest.all (fun v => !wordsClash w v) && noClash rest

/-- Where an operator may stand (R330). -/
def Ref.allowedIn : Ref → Instr → Bool
  | .hi20 _, .adrh _ | .gothi _, .adrh _ => true
  | .lo12 _, .movi _ | .lo12 _, .iaddi _ | .lo12 _, .ori _ | .lo12 _, .andi _ | .lo12 _, .xori _ => true
  | .gotlo _, .movi _ | .gotlo _, .iaddi _ => true
  | .target _, .next _ | .target _, .call _ | .target _, .nextp _ | .target _, .nextn _ => true
  | _, _ => false

/-- A group that R331 and R332 admit. -/
def groupOk (ws : List SrcWord) : Bool :=
  1 ≤ ws.length && ws.length ≤ 3 && ws.all (fun w => w.instr.wellFormed && w.ref.all (Ref.allowedIn · w.instr)) &&
    !(ws.dropLast.any fun w => isTerminator w.instr) && noClash (ws.map fun w => encode w.instr)

/-- Width of the field that names an address, from bit 0 (R343). -/
def refWidth (w : Word) : Nat :=
  let m := bits w.toNat 29 24
  if m == 0x39 || m == 0x3A || m == 0x3B then 20 else if m == 0x3C || m == 0x3D then 18 else 12

/-- The word of an instruction, with 0 in a field that a symbol fills. -/
def SrcWord.word (w : SrcWord) : Word :=
  let x := encode w.instr
  if w.ref.isSome then BitVec.ofNat 32 (putBits x.toNat 0 (refWidth x) 0) else x

/-- The operator that a low part is paired with. -/
def Ref.high : Ref → Option Ref
  | .lo12 e => some (.hi20 e)
  | .gotlo s => some (.gothi s)
  | _ => none

/-- Takes down what word n names; a low part needs the nearest high part of the same before it in its segment (R330). -/
def Packing.take (p : Packing) (n : Nat) (r : Ref) : Option Packing :=
  match r.high with
  | none =>
    some { p with refs := p.refs ++ [⟨n, r, none⟩]
                  highs := match r with | .target _ => p.highs | _ => (r, n) :: p.highs }
  | some h => (p.highs.find? fun x => x.1 == h).map fun x => { p with refs := p.refs ++ [⟨n, r, some x.2⟩] }

def Packing.takeAll (p : Packing) : Nat → List SrcWord → Option Packing
  | _, [] => some p
  | n, w :: rest =>
    match w.ref with
    | none => p.takeAll (n + 1) rest
    | some r => (p.take n r).bind fun p => p.takeAll (n + 1) rest

/-- Places words behind those of the current packet; labels that wait name the first of them. -/
def Packing.append (p : Packing) (fill : Nat) (ws : List Word) : Packing :=
  let n := 3 * p.done.length + p.cur.length + fill
  let p := { p with
    cur := p.cur ++ List.replicate fill nopWord ++ ws, marks := p.marks ++ p.pend.map fun l => (l, n), pend := []
    rcv := p.rcv || ws.any (okWith isRcv) }
  if p.cur.length == 3 then p.close else p

/-- Places the words of a group. -/
def Packing.put (p : Packing) (ws : List SrcWord) : Option Packing :=
  let n := ws.length
  let term := ws.any fun w => isTerminator w.instr
  let p := if p.cur.length + n ≤ 3 then p else p.close
  let fill := if term then 3 - n - p.cur.length else 0
  (p.takeAll (3 * p.done.length + p.cur.length + fill) ws).map fun p =>
    let p := p.append fill (chainWords (ws.map SrcWord.word))
    let p := if term then { p with highs := [] } else p
    if ws.any fun w => isTwoWay w.instr then { p with entry := true } else p

/-- A value as n bytes, signed or unsigned; none where it does not fit (R331). -/
def litBytes (n : Nat) (v : Int) : Option Nat :=
  if -(2 ^ (8 * n - 1) : Nat) ≤ v && v < (2 ^ (8 * n) : Nat) then some (wrapN v (8 * n)) else none

/-- Places a statement; none where apcen refuses it. Names are checked by whoever calls. -/
def Packing.stmt (p : Packing) (x : Stmt) : Option Packing :=
  match x with
  | .group ws => if groupOk ws then p.put ws else none
  | .word (.lit v) => (litBytes 4 v).map fun w => p.append 0 [BitVec.ofNat 32 w]
  | .word (.sym e) =>
    some ({ p with data := p.data ++ [(3 * p.done.length + p.cur.length, Datum.sym e)] }.append 0 [0])
  | .word (.krec _) => none
  | .seg label =>
    let p := p.close
    some { p with entry := true, segs := p.segs ++ [(label, p.done.length)], highs := [] }
  | .label l => some { p with pend := p.pend ++ [l] }
  | .packet => some p.close

/-- NOP packets up to a code line. An entry bit for a packet that is still to follow falls to the first of them, or waits. -/
def Packing.fillLine (p : Packing) : Packing :=
  let p := p.close
  let n := roundUp p.done.length 5 - p.done.length
  let fill := List.replicate n (⟨fillPacket [], false, false⟩ : Packet)
  { p with
    entry := p.entry && n == 0, done := p.done ++ updAt fill 0 fun x => { x with entry := p.entry }
    marks := p.marks ++ p.pend.map (fun l => (l, 3 * p.done.length)), pend := [], highs := [] }

/-- The target of the terminator of a packet, as an offset in packets (R168, R334). -/
def setTarget (w : Word) (d : Int) : Option Word :=
  let major := w.toNat / 2 ^ 24 % 64
  if major == 0x3A || major == 0x3B then
    if fitsSigned d 20 then some (BitVec.ofNat 32 (putBits w.toNat 0 20 (wrapN d 20))) else none
  else if major == 0x3C || major == 0x3D then
    if fitsSigned d 18 then some (BitVec.ofNat 32 (putBits w.toNat 0 18 (wrapN d 18))) else none
  else none

/-- Whether the last word of a packet is a terminator. -/
def endsSegment (p : Packet) : Bool := okWith isTerminator (nth p.words 2 nopWord)

/-- No run of packets reached by fall-through from an entry is longer than 256 (R334); n counts those of the run. -/
def runsShort : Nat → List Packet → Bool
  | _, [] => true
  | n, p :: rest =>
    let n := if n == 0 && !p.entry then 0 else n + 1
    n ≤ 256 && runsShort (if endsSegment p then 0 else n) rest

/-- The lintel of a line of packets: ISALVL 1, RECONV where a packet holds RCV, ENTRY (R169, R333). -/
def lintelOf (ps : List Packet) : Nat :=
  0x400 + (List.range 5).foldl (fun x k =>
    match ps[k]? with
    | some p => x + (if p.rcv then 2 ^ (5 + k) else 0) + (if p.entry then 2 ^ k else 0)
    | none => x) 0

/-- Code lines of packets, five and their lintel each. -/
def codeLines : Nat → List Packet → List Word
  | 0, _ => []
  | k + 1, ps =>
    if ps.isEmpty then []
    else (ps.take 5).flatMap Packet.words ++ [BitVec.ofNat 32 (lintelOf (ps.take 5))] ++ codeLines k (ps.drop 5)

/-- Image offset of word n of the CODE section (R168). -/
def wordOffset (n : Nat) : Nat := 64 * (n / 15) + 4 * (n % 15)

/-! ### Declarations (R335, R336, R342) -/

/-- What the directives of a kernel declare, with the defaults of R335. -/
structure KernelDecl where
  name : Nat
  entry : Nat
  team : Nat := 64
  width : Nat := 64
  cls : Nat := 0
  lstore : Nat := 0
  astore : Nat := 0
  wstore : Nat := 0
  cstore : Nat := 0
  handles : Nat := 0
  streams : Nat := 0
  phasers : Nat := 0
  cphasers : Nat := 0
  ring : Nat := 0
  det : Nat := 0
  ftab : Nat := noIndex
  deriving DecidableEq, Repr

/-- The launch record of a kernel (R342). -/
def KernelDecl.launchRecord (k : KernelDecl) : List Byte :=
  toBytes 4 k.name ++ toBytes 4 k.entry ++ toBytes 2 k.team ++ toBytes 1 k.width ++ toBytes 1 k.cls ++ toBytes 4 k.lstore ++
    toBytes 4 k.astore ++ toBytes 4 k.wstore ++ toBytes 4 k.cstore ++ toBytes 1 k.handles ++ toBytes 1 k.streams ++
    toBytes 1 k.phasers ++ toBytes 1 k.cphasers ++ toBytes 2 k.ring ++ toBytes 2 0 ++ toBytes 4 k.det ++ toBytes 4 k.ftab ++
    toBytes 20 0

/-- Declarations that apcen admits: the units of R335 and the limits of R37, and of F1 where no class is named (R336),
each value within its field of the record. -/
def KernelDecl.ok (k : KernelDecl) : Bool :=
  let r := k.launchRecord.take 44 ++ toBytes 20 0
  let d := declOf r
  krecOk r && declOk d && d.dim == k.team && d.width == k.width && d.cls == k.cls && d.lstore == k.lstore && d.astore == k.astore &&
    d.wstore == k.wstore && d.cstore == k.cstore && d.handles == k.handles && d.streams == k.streams && d.phasers == k.phasers &&
    d.cphasers == k.cphasers && d.ring == k.ring && d.det == k.det

end Sys2Proof.Machine
end

