-- ==== Sys2Proof/Machine/ObjectFile.lean ====
section
/-! DEFINITION. The object that apcen writes of a source, and what it reports (R330, R331, R334 to R344). -/

namespace Sys2Proof.Machine

/-! ### A source, statement by statement (R335) -/

/-- The directives that declare a number. -/
inductive DeclDir where
  | team | width | lstore | astore | wstore | cstore | handles | streams | phasers | cphasers | ring | det
  deriving DecidableEq, Repr

/-- A statement without its label. -/
inductive Item where
  | kernel (name : Ident)
  | endk
  | decl (d : DeclDir) (n : Nat)
  | cls (id : Ident)
  | ftabFile (name : Ident) (bytes : List Byte)
  | ftabLabel (l : Ident)
  | group (ws : List SrcWord)
  | seg (label : Ident)
  | packet
  | const
  | data
  | align (n : Nat)
  | values (size : Nat) (vs : List Datum)
  | glob (s : Ident)
  | got (s : Ident)
  deriving DecidableEq, Repr

/-- A line: a label and a statement, each optional (R327). -/
structure SrcLine where
  label : Option Ident := none
  item : Option Item := none
  deriving DecidableEq, Repr

/-- The operands that R335 admits. -/
def DeclDir.ok (d : DeclDir) (n : Nat) : Bool :=
  match d with
  | .team => 1 ≤ n && n ≤ 1024
  | .width => n == 8 || n == 16 || n == 32 || n == 64
  | .lstore | .astore | .cstore => n % 4096 == 0
  | .wstore => n % 16384 == 0
  | .ring => n == pow2Floor n && 4 ≤ n && n ≤ 1024
  | .det => 1 ≤ n && n ≤ 65536
  | .handles | .streams | .phasers | .cphasers => true

/-- Takes a declaration down. -/
def DeclDir.set (d : DeclDir) (n : Nat) (k : KernelDecl) : KernelDecl :=
  match d with
  | .team => { k with team := n }
  | .width => { k with width := n }
  | .lstore => { k with lstore := n }
  | .astore => { k with astore := n }
  | .wstore => { k with wstore := n }
  | .cstore => { k with cstore := n }
  | .handles => { k with handles := n }
  | .streams => { k with streams := n }
  | .phasers => { k with phasers := n }
  | .cphasers => { k with cphasers := n }
  | .ring => { k with ring := n }
  | .det => { k with det := n }

/-- A kernel: its name, its first packet, its declarations, its table, and the packet after its last line. -/
structure SrcKernel where
  name : Ident
  first : Nat
  decl : KernelDecl
  table : Option Ident
  stop : Nat
  deriving DecidableEq, Repr

/-- A data section: its bytes, its labels with their offsets, and the values that name symbols, with offset and size. -/
structure DataSect where
  bytes : List Byte
  labels : List (Ident × Nat)
  refs : List (Nat × Nat × Datum)
  deriving DecidableEq, Repr

/-- What has been read: the code, the kernels, the one that is open, the data section that is open (false CONST, true DATA), both data
sections, function tables read from files, `.got` and `.global` names, and every name in the order of its definition. -/
structure Asm where
  code : Packing
  kernels : List SrcKernel
  cur : Option SrcKernel
  sect : Option Bool
  cst : DataSect
  dat : DataSect
  files : List (Ident × List Byte)
  gots : List Ident
  globals : List Ident
  names : List Ident
  deriving DecidableEq, Repr

def Asm.start : Asm := ⟨Packing.start, [], none, none, ⟨[], [], []⟩, ⟨[], [], []⟩, [], [], [], []⟩

/-- A new name; none where it is defined already. -/
def Asm.define (a : Asm) (n : Ident) : Option Asm := if a.names.contains n then none else some { a with names := a.names ++ [n] }

/-- Changes the open data section; none outside one. -/
def Asm.onData (a : Asm) (f : DataSect → Option DataSect) : Option Asm :=
  if a.cur.isSome then none
  else
    match a.sect with
    | none => none
    | some false => (f a.cst).map fun d => { a with cst := d }
    | some true => (f a.dat).map fun d => { a with dat := d }

/-- A label: of the next word in a kernel, of the next byte in a data section. -/
def Asm.label (a : Asm) (l : Ident) : Option Asm :=
  (a.define l).bind fun a =>
    if a.cur.isSome then (a.code.stmt (.label l)).map fun c => { a with code := c }
    else a.onData fun d => some { d with labels := d.labels ++ [(l, d.bytes.length)] }

/-- Appends a value of a size to a data section; a value with a symbol leaves zeros (R330, R343). -/
def DataSect.add (size : Nat) (d : DataSect) (v : Datum) : Option DataSect :=
  let hole := some { d with bytes := d.bytes ++ toBytes size 0, refs := d.refs ++ [(d.bytes.length, size, v)] }
  match v with
  | .lit x => (litBytes size x).map fun n => { d with bytes := d.bytes ++ toBytes size n }
  | .sym _ => if size == 4 || size == 8 then hole else none
  | .krec _ => if size == 8 then hole else none

def DataSect.addAll (size : Nat) (d : DataSect) : List Datum → Option DataSect
  | [] => some d
  | v :: rest => (d.add size v).bind fun d => d.addAll size rest

/-- Places a statement of a kernel; none outside one. -/
def Asm.stmt (a : Asm) (x : Stmt) : Option Asm :=
  if a.cur.isNone then none else (a.code.stmt x).map fun c => { a with code := c }

def Asm.words (a : Asm) : List Datum → Option Asm
  | [] => some a
  | v :: rest => (a.stmt (.word v)).bind fun a => a.words rest

/-- Changes the open kernel; none outside one. -/
def Asm.onKernel (a : Asm) (f : SrcKernel → SrcKernel) : Option Asm := a.cur.map fun k => { a with cur := some (f k) }

/-- RK1. -/
def classRk1 : Ident := [0x52, 0x4B, 0x31]

/-- A statement; none where apcen refuses it, a directive outside its place among them (R335). -/
def Asm.item (a : Asm) (x : Item) : Option Asm :=
  match x with
  | .kernel n =>
    if a.cur.isSome then none
    else (a.define n).map fun a => { a with cur := some ⟨n, a.code.done.length, { name := 0, entry := 0 }, none, 0⟩ }
  | .endk =>
    a.cur.map fun k =>
      let c := a.code.fillLine
      { a with code := c, kernels := a.kernels ++ [{ k with stop := c.done.length }], cur := none }
  | .decl d n => if d.ok n then a.onKernel fun k => { k with decl := d.set n k.decl } else none
  | .cls id => if id == classRk1 then a.onKernel fun k => { k with decl := { k.decl with cls := 1 } } else none
  | .ftabFile n b =>
    (if (a.files.find? fun f => f.1 == n) == some (n, b) then some a
      else if b.length == 4096 then (a.define n).map fun a => { a with files := a.files ++ [(n, b)] } else none).bind fun a =>
      a.onKernel fun k => { k with table := some n }
  | .ftabLabel l => a.onKernel fun k => { k with table := some l }
  | .group ws => a.stmt (.group ws)
  | .seg l =>
    let at' := a.code.close.done.length
    -- the kernel's own name stands for its entry already
    (if a.cur.any fun k => k.name == l && k.first == at' then some a else a.define l).bind fun a => a.stmt (.seg l)
  | .packet => a.stmt .packet
  | .const => if a.cur.isSome then none else some { a with sect := some false }
  | .data => if a.cur.isSome then none else some { a with sect := some true }
  | .align n =>
    if n == pow2Floor n && 1 ≤ n && n ≤ 65536 then
      a.onData fun d => some { d with bytes := d.bytes ++ List.replicate (roundUp d.bytes.length n - d.bytes.length) 0 }
    else none
  | .values size vs => if a.cur.isSome && size == 4 then a.words vs else a.onData fun d => d.addAll size vs
  | .glob s => some { a with globals := a.globals ++ [s] }
  | .got s => if a.cur.isSome then none else some { a with gots := if a.gots.contains s then a.gots else a.gots ++ [s] }

def Asm.line (a : Asm) (l : SrcLine) : Option Asm :=
  (match l.label with | some n => a.label n | none => some a).bind fun a =>
    match l.item with | some x => a.item x | none => some a

def Asm.lines (a : Asm) : List SrcLine → Option Asm
  | [] => some a
  | l :: rest => (a.line l).bind fun a => a.lines rest

/-! ### Sections and symbols (R338 to R340) -/

/-- Symbols that the source names and does not define, in the order of the places that use them. -/
def Asm.imports (a : Asm) : List Ident :=
  let ofRef := fun (r : Ref) => match r with | .hi20 e | .lo12 e => e.sym | .gothi s | .gotlo s | .target s => s
  let ofDatum := fun (d : Datum) => match d with | .sym e => [e.sym] | .krec s => [s] | .lit _ => []
  ((a.code.refs.map fun r => ofRef r.ref) ++ (a.code.data.flatMap fun x => ofDatum x.2) ++ (a.cst.refs.flatMap fun x => ofDatum x.2.2) ++
    (a.dat.refs.flatMap fun x => ofDatum x.2.2) ++ a.gots).eraseDups.filter fun n => !a.names.contains n

/-- Every symbol in the order of its number, from 1 on: names defined, then names imported. -/
def Asm.symbols (a : Asm) : List Ident := a.names ++ a.imports

/-- The number of a symbol; 0 for none. -/
def Asm.symNo (a : Asm) (n : Ident) : Nat := match a.symbols.findIdx? (· == n) with | some i => i + 1 | none => 0

/-- The contents of the loaded sections by TYPE, in their order, code as given. -/
def Asm.contents (a : Asm) (code : List Word) : List (Nat × List Byte) :=
  [(1, code.flatMap fun w => toBytes 4 w.toNat), (2, a.cst.bytes), (3, a.files.flatMap Prod.snd), (4, a.dat.bytes),
    (5, toBytes (8 * a.gots.length) 0)].filter fun x => !x.2.isEmpty

/-- TYPE, image offset and contents of each loaded section: each has pages of its own (R338). -/
def layOut : Nat → List (Nat × List Byte) → List (Nat × Nat × List Byte)
  | _, [] => []
  | o, (k, b) :: rest => (k, o, b) :: layOut (o + roundUp b.length 65536) rest

/-- The number, from 1, and image offset of the section of a TYPE. -/
def sectionOf (l : List (Nat × Nat × List Byte)) (kind : Nat) : Nat × Nat :=
  match l.zipIdx.find? fun x => x.1.1 == kind with
  | some x => (x.2 + 1, x.1.2.1)
  | none => (0, 0)

/-- Where a name is defined: TYPE of its section, offset there, KIND and SIZE (R339). -/
def Asm.whereIs (a : Asm) (n : Ident) : Option (Nat × Nat × Nat × Nat) :=
  let extent := fun (d : DataSect) (o : Nat) => (((d.labels.map Prod.snd).filter (o < ·)).foldl min d.bytes.length) - o
  let table := a.kernels.any fun k => k.table == some n
  match a.kernels.find? fun k => k.name == n with
  | some k => some (1, wordOffset (3 * k.first), 2, wordOffset (3 * k.stop) - wordOffset (3 * k.first))
  | none =>
    match a.code.segs.find? (·.1 == n), a.code.marks.find? (·.1 == n), a.cst.labels.find? (·.1 == n), a.dat.labels.find? (·.1 == n),
      a.files.findIdx? (·.1 == n) with
    | some x, _, _, _, _ => some (1, wordOffset (3 * x.2), 1, 0)
    | _, some x, _, _, _ => some (1, wordOffset x.2, 0, 0)
    | _, _, some x, _, _ => some (2, x.2, if table then 3 else 0, if table then 4096 else extent a.cst x.2)
    | _, _, _, some x, _ => some (4, x.2, 0, extent a.dat x.2)
    | _, _, _, _, some i => some (3, 4096 * i, 3, 4096)
    | _, _, _, _, _ => none

/-- The image offset of a name that lies in the CODE section, which starts the image. -/
def Asm.codeAt (a : Asm) (n : Ident) : Option Nat :=
  match a.whereIs n with
  | some (1, o, _, _) => some o
  | _ => none

/-- A symbol record; its name stands at an offset of STRTAB. -/
def Asm.symRecord (a : Asm) (l : List (Nat × Nat × List Byte)) (n : Ident) (at' : Nat) : List Byte :=
  match a.whereIs n with
  | some (kind, o, k, size) =>
    let (sect, base) := sectionOf l kind
    toBytes 4 at' ++ toBytes 2 sect ++ toBytes 1 (if a.globals.contains n then 1 else 0) ++ toBytes 1 k ++ toBytes 8 (base + o) ++
      toBytes 8 size
  | none => toBytes 4 at' ++ toBytes 20 0

/-- STRTAB: a zero byte, then each name and a zero byte; and where each name stands. -/
def stringTable : List Byte → List Ident → List Byte × List Nat
  | b, [] => (b, [])
  | b, n :: rest =>
    let r := stringTable (b ++ n ++ [0]) rest
    (r.1, b.length :: r.2)

/-! ### What names symbols (R330, R334, R340, R341) -/

/-- A relocation to come: its place, symbol, TYPE, the place it is paired with, and its addend. -/
structure RelocReq where
  place : Nat
  sym : Ident
  kind : Nat
  pair : Option Nat
  add : Int
  deriving DecidableEq, Repr

/-- A word of code that names a symbol: its field filled, where apcen resolves it, or a relocation; none where it is
refused. -/
def Asm.codeRef (a : Asm) (r : CodeRef) (code : List Word) : Option (List Word × List RelocReq) :=
  let w := nth code (r.word + r.word / 15) 0
  let p := wordOffset r.word
  let put := fun (x : Option (Nat × Nat × Nat)) =>
    x.map fun f => (code.set (r.word + r.word / 15) (BitVec.ofNat 32 (putBits w.toNat f.1 f.2.1 f.2.2)), ([] : List RelocReq))
  let ask := fun (s : Ident) (kind : Nat) (add : Int) => some (code, [(⟨p, s, kind, r.pair.map wordOffset, add⟩ : RelocReq)])
  match r.ref with
  | .target l =>
    match a.code.segs.find? (·.1 == l) with
    | some x =>
      (setTarget w ((x.2 : Int) - (r.word / 3 : Nat))).map fun v => (code.set (r.word + r.word / 15) v, [])
    | none => if a.names.contains l then none else ask l (if refWidth w == 18 then 8 else 7) 0
  | .hi20 e =>
    match a.codeAt e.sym with
    | some o => put (relocField 3 p ((o : Int) + e.add - p))
    | none => ask e.sym 3 e.add
  | .lo12 e =>
    match a.codeAt e.sym, r.pair with
    | some o, some q => put (relocField 4 p ((o : Int) + e.add - wordOffset q))
    | _, _ => ask e.sym 4 e.add
  | .gothi s => if a.gots.contains s then ask s 5 0 else none
  | .gotlo s => if a.gots.contains s then ask s 6 0 else none

def Asm.codeRefs (a : Asm) : List CodeRef → List Word → Option (List Word × List RelocReq)
  | [], code => some (code, [])
  | r :: rest, code =>
    (a.codeRef r code).bind fun x => (a.codeRefs rest x.1).map fun y => (y.1, x.2 ++ y.2)

/-- The relocation of a value that names a symbol, at a place; krec only of a kernel of the object. -/
def Asm.datumRef (a : Asm) (place size : Nat) (d : Datum) : Option RelocReq :=
  match d with
  | .sym e => some ⟨place, e.sym, if size == 8 then 1 else 2, none, e.add⟩
  | .krec s => if a.kernels.any fun k => k.name == s then some ⟨place, s, 10, none, 0⟩ else none
  | .lit _ => none

/-- Every element of a list has its value. -/
def allSome {α : Type} : List (Option α) → Option (List α)
  | [] => some []
  | x :: rest => x.bind fun a => (allSome rest).map fun l => a :: l

/-- The relocations of values: those of code, CONST, DATA and the GOT's entries (R340). -/
def Asm.dataRelocs (a : Asm) (l : List (Nat × Nat × List Byte)) : Option (List RelocReq) :=
  let place := fun (kind o : Nat) => (sectionOf l kind).2 + o
  let ofData := fun (kind : Nat) (d : DataSect) => d.refs.map fun x => a.datumRef (place kind x.1) x.2.1 x.2.2
  allSome <|
    (a.code.data.map fun x => a.datumRef (wordOffset x.1) 4 x.2) ++ ofData 2 a.cst ++ ofData 4 a.dat ++
      a.gots.zipIdx.map fun g => some ⟨place 5 (8 * g.2), g.1, 1, none, 0⟩

/-- RELTAB in ascending order of place; PAIR is the index of the paired record there (R341). -/
def Asm.relocTable (a : Asm) (rs : List RelocReq) : List Byte :=
  let rs := sortBy (fun x y => x.place < y.place) rs
  rs.flatMap fun r =>
    let pair := match r.pair with
      | some p => (rs.findIdx? fun x => x.place == p).getD 0
      | none => 0
    toBytes 8 r.place ++ toBytes 4 (a.symNo r.sym) ++ toBytes 1 r.kind ++ toBytes 1 0 ++ toBytes 2 pair ++ toBytes 8 (wrapN r.add 64)

/-! ### The object -/

/-- A kernel's table: a label of CONST whose 4 KiB lie aligned within it, or a file, admitted under R76. -/
def Asm.tableOk (a : Asm) (n : Ident) : Bool :=
  match a.cst.labels.find? (·.1 == n), a.files.find? (·.1 == n) with
  | some x, _ => x.2 % 4096 == 0 && x.2 + 4096 ≤ a.cst.bytes.length && (ftabOfBytes ((a.cst.bytes.drop x.2).take 4096)).isSome
  | none, some f => (ftabOfBytes f.2).isSome
  | none, none => false

/-- The declarations of a kernel with its symbols (R342). -/
def Asm.declared (a : Asm) (k : SrcKernel) : KernelDecl :=
  { k.decl with
    name := a.symNo k.name, entry := wordOffset (3 * k.first), ftab := match k.table with | some n => a.symNo n | none => noIndex }

/-- The preferred base that apcen names. -/
def preferredBase : Nat := 0x40000000

/-- File headers and contents: the loaded sections with their image offsets, then the four tables. -/
def objectBytes (l : List (Nat × Nat × List Byte)) (tables : List (Nat × List Byte)) : List Byte :=
  let all := l ++ tables.map fun t => (t.1, 0, t.2)
  let first := 64 + 32 * all.length
  let image := (l.map fun x => x.2.1 + roundUp x.2.2.length 65536).foldl max 0
  let heads := all.foldl
    (fun (r : List Byte × Nat) x =>
      (r.1 ++ toBytes 8 x.1 ++ toBytes 8 x.2.1 ++ toBytes 8 r.2 ++ toBytes 8 x.2.2.length, r.2 + x.2.2.length)) ([], first)
  toBytes 4 0x00464F4A ++ toBytes 2 1 ++ toBytes 2 all.length ++ toBytes 8 preferredBase ++ toBytes 8 image ++ toBytes 8 64 ++
    toBytes 32 0 ++ heads.1 ++ all.flatMap fun x => x.2.2

/-- The object of what has been read; none where apcen refuses the source. -/
def Asm.object (a : Asm) : Option (List Byte) :=
  let code := codeLines a.code.done.length a.code.done
  let l := layOut 0 (a.contents code)
  let fine :=
    a.cur.isNone && a.globals.all a.names.contains && (a.kernels.all fun k => k.table.all a.tableOk && (a.declared k).ok)
  if !fine then none
  else
    (a.codeRefs a.code.refs code).bind fun c =>
      (a.dataRelocs l).bind fun ds =>
        if !runsShort 0 a.code.done then none
        else
          let strs := stringTable [0] a.symbols
          let syms := toBytes 24 0 ++ (a.symbols.zip strs.2).flatMap fun x => a.symRecord l x.1 x.2
          let launch := a.kernels.flatMap fun k => (a.declared k).launchRecord
          some (objectBytes (layOut 0 (a.contents c.1)) [(6, syms), (7, a.relocTable (c.2 ++ ds)), (8, strs.1), (9, launch)])

/-- The object that apcen writes of a source, or none. -/
def apcen (src : List SrcLine) : Option (List Byte) := (Asm.start.lines src).bind Asm.object

/-! ### What apcen reports (R178, R331) -/

/-- The classes of R179: results that are long. -/
def longResult (i : Instr) : Bool :=
  let w := (encode i).toNat
  let m := bits w 29 24
  let f := w % 8
  let sub := bits w 11 8
  if m == 0x04 then 4 ≤ f
  else if m == 0x10 || m == 0x12 || m == 0x13 then 6 ≤ f
  else if m == 0x33 then sub == 6 || sub == 7
  else [0x11, 0x14, 0x15, 0x16, 0x20, 0x22, 0x24, 0x26, 0x27, 0x29, 0x2A, 0x2E, 0x2F, 0x30, 0x31, 0x32, 0x34].contains m

/-- Predicates read as operands. -/
def readsPreds : Instr → List Nat
  | .pand o | .por o | .pxor o => [o.a.toNat, o.b.toNat]
  | .pnot o | .pmov o | .pto o => [o.a.toNat]
  | .vote o => [o.a.toNat]
  | .nextp o | .nextn o => [o.p.toNat]
  | .pstb o => [o.d.toNat]
  | _ => []

/-- Facts before a statement: registers 0 to 63 and predicates 64 to 111 whose long results may be outstanding, and predicates 112 to
159 that the guard may name. -/
abbrev Facts := List Nat

def factPred (p : Nat) : Nat := 64 + p
def factGuard (p : Nat) : Nat := 112 + p

/-- What a word may read. -/
def wordReads (fs : Facts) (i : Instr) : List Nat :=
  let guarded := guardBit (encode i) || match i with | .sel _ => true | _ => false
  readsRegs i ++ (readsPreds i).map factPred ++ (if guarded then (fs.filter (112 ≤ ·)).map (· - 48) else [])

/-- What a word writes. -/
def wordWrites (i : Instr) : List Nat := writesRegs i ++ (writesPred i).toList.map factPred

/-- The facts after a group: its long results are outstanding, and none is where a word carries the switch marker or ends the segment
(R174, R177). -/
def afterGroup (fs : Facts) (is : List Instr) : Facts :=
  let out := fs.filter (· < 112) ++ (is.filter longResult).flatMap wordWrites
  let out := if is.any fun i => (encode i).getLsbD 30 || isTerminator i then [] else out
  let sel := is.findSome? fun i => match i with | .gsel o => some (factGuard o.a.toNat) | _ => none
  out.eraseDups ++ match sel with | some g => [g] | none => fs.filter (112 ≤ ·)

/-- A report: the statement, whether it reads early or overwrites, and the register or, from 64 on, predicate. -/
structure Report where
  item : Nat
  early : Bool
  what : Nat
  deriving DecidableEq, Repr

def groupReports (n : Nat) (fs : Facts) (is : List Instr) : List Report :=
  let out := fs.filter (· < 112)
  is.flatMap fun i =>
    ((wordReads fs i).filter out.contains).map (⟨n, true, ·⟩) ++ ((wordWrites i).filter out.contains).map (⟨n, false, ·⟩)

/-- The statements that may follow statement n. -/
def flowsTo (items : List Item) (n : Nat) : List Nat :=
  let starts := fun (f : Item → Bool) => ((items.zipIdx.filter fun x => f x.1).map Prod.snd)
  let segs := starts fun x => match x with | .seg _ => true | _ => false
  let calls := starts fun x =>
    match x with
    | .group ws => ws.any fun w => match w.instr with | .call _ | .calli _ => true | _ => false
    | _ => false
  let named := fun (w : SrcWord) =>
    match w.ref with
    | some (.target l) => starts fun x => x == .seg l
    | _ => []
  match items[n]? with
  | some (.group ws) =>
    match ws.getLast? with
    | some w =>
      match w.instr with
      | .next _ => named w
      | .nextp _ | .nextn _ => (n + 1) :: named w
      | .call _ => if named w == [] then [n + 1] else named w
      | .calli _ => (n + 1) :: segs
      | .nexti _ => segs
      | .ret _ => calls.map (· + 1)
      | .exit _ => []
      | _ => [n + 1]
    | none => [n + 1]
  | some .endk => []
  | _ => [n + 1]

/-- The facts after statement n, from those before it. -/
def factsAfter (items : List Item) (fs : Facts) (n : Nat) : Facts :=
  match items[n]? with
  | some (.group ws) => afterGroup fs (ws.map SrcWord.instr)
  | some (.kernel _) => [factGuard 0]
  | _ => fs

/-- One pass: what may hold before each statement, from what may hold before those that flow to it. -/
def flowPass (items : List Item) (fs : List Facts) : List Facts :=
  (List.range items.length).foldl
    (fun fs n => (flowsTo items n).foldl (fun fs m => updAt fs m fun x => (x ++ factsAfter items (nth fs n []) n).eraseDups) fs) fs

def flow (items : List Item) : Nat → List Facts → List Facts
  | 0, fs => fs
  | k + 1, fs => let fs' := flowPass items fs; if fs' == fs then fs else flow items k fs'

/-- What apcen reports of a source: reads of long results before a switch-marked word has made them visible, and overwrites of
outstanding ones. -/
def apcenReports (src : List SrcLine) : List Report :=
  let items : List Item := src.filterMap SrcLine.item
  let fs := flow items (160 * items.length + 1) (items.map fun _ => [])
  (List.range items.length).flatMap fun (n : Nat) =>
    match items[n]? with
    | some (.group ws) => groupReports n (nth fs n []) (ws.map SrcWord.instr)
    | _ => []

end Sys2Proof.Machine
end

