-- ==== Sys2Proof/Safety.lean ====
section
/-! DEFINITION. What counts as safe: a step that answers a next state, memory kept in its canonical form, and a
privileged effect only at supervisor level. -/

namespace Sys2Proof.Safety

open Sys2Proof.Machine

/-- The step goes on. -/
def Goes (s : State) : Prop := ∃ t, step s = .next t

/-- Global memory is in its canonical form. -/
def MemOk (s : State) : Prop := s.ms.mem.wf = true

/-- A state in which the machine goes on, and goes on to a state with its memory in order. -/
def Safe (s : State) : Prop := ∃ t, step s = .next t ∧ MemOk t

/-- No context of the module is being killed or has been. -/
def NoKill (s : State) : Prop := ∀ c ∈ s.ctxs, c.st ≠ .killing ∧ c.st ≠ .killed

end Sys2Proof.Safety
end

