-- ==== Sys2Proof/Tests/Slice0.lean ====
section
/-! SUPPORT. Tests of the model: words of every family written out from the spec's encodings and what they decode to,
ill-formed instructions for every check, results of single instructions by the spec's own tables and worked examples, and for
every statement with hypotheses states and operands that meet them. -/

set_option Elab.async false

namespace Sys2Proof.Tests

open Sys2Proof.Machine Sys2Proof.Spec

/-! ### A small module to test on -/

/-- Register n of the test thread: pairs 4, 6 hold a data and a code address, the others their own number. -/
def regVal (n : Nat) : Word := if n = 4 then 0x30010 else if n = 6 then 0x2000C else if n = 5 ∨ n = 7 then 0 else BitVec.ofNat 32 n

/-- A thread of the test team at a boundary. -/
def labThread (tid : Nat) : Thread :=
  { Thread.blank with tid := tid, pc := 0x20000, seg := 1, status := .boundary, regs := (List.range 64).map regVal }

def labDecl : Decl :=
  { Decl.blank with dim := 2, width := 8, lstore := 4096, astore := 4096, wstore := 16384, cstore := 4096, handles := 4, streams := 2, phasers := 2, ring := 4, entry := 0x20000 }

/-- A team of one context with two threads, the second one exited. -/
def labTeam : Team :=
  { Team.blank with
    ref := ⟨1, 1, 0⟩, decl := labDecl, st := .running, grant := 8, handles := List.replicate 4 ⟨0, 0, .free, 0⟩
    streams := List.replicate 2 ⟨0, 0, [], none⟩, ring := ⟨4, 0, false, [], [], []⟩, convAcc := [0, 0], gangs := 1
    threads := [labThread 0, { labThread 1 with status := .exited }] }

/-- The code page at 0x20000 and the data page at 0x30000. -/
def codeEnt : TlbEnt := ⟨0, 1, 0x20000, 65536, 0x2000B⟩
def dataEnt : TlbEnt := ⟨0, 1, 0x30000, 65536, 0x38007⟩

def labGrid : Grid := { Grid.blank 1 1 with st := .ready, decl := labDecl, placed := 1 }

/-- A line of NOPs, of which every packet is an entry, and memory with a line at 0x20000. -/
def codeLine : List Word := List.replicate 15 0x3E000006 ++ [0x1F]
def codeMem (ws : List Word) : Memory := (⟨[]⟩ : Memory).write 0x20000 (ws.flatMap fun w => toBytes 4 w.toNat)

/-- A module in full service with the test team, its first thread in the focus at a NOP; its pages in the L1 TLB of bay
0, and its code line, of which every packet is an entry. -/
def lab : State :=
  { State.reset with
    th := labThread 0
    tm := labTeam
    grp := ⟨[0x3E000006], 0, labThread 0, labTeam, none⟩
    ms := { MemSys.reset with tlb := [codeEnt, dataEnt], icache := [⟨0, 0x800, codeLine⟩], mem := codeMem codeLine }
    teams := [labTeam]
    grids := [labGrid]
    ctxs := [⟨1, .resident, 0, 1, 11, 0x10000, 0x20000, 2, 0⟩]
    iod := { Iod.reset with service := .full, dies := Iod.reset.dies.map fun d => { d with st := .ready, bays := 96 } } }

/-- The test state with another thread, team or memory system. -/
def labTh (f : Thread → Thread) : State := { lab with th := f lab.th, grp := { lab.grp with view := f lab.th } }
def labTm (f : Team → Team) : State := { lab with tm := f lab.tm, grp := { lab.grp with team := f lab.tm } }
def labMs (f : MemSys → MemSys) : State := { lab with ms := f lab.ms }

/-- Operand records from numbers. -/
def fR (w d a b : Nat) (g : Bool := false) : RFmt := ⟨false, false, g, BitVec.ofNat 2 w, BitVec.ofNat 6 d, BitVec.ofNat 6 a, BitVec.ofNat 6 b⟩
def fI (d a : Nat) (imm : Int) : IFmt := ⟨false, false, BitVec.ofNat 6 d, BitVec.ofNat 6 a, BitVec.ofInt 12 imm⟩
def fM (w d a o : Nat) (imm : Int := 0) (g : Bool := false) : MFmt := ⟨false, false, g, BitVec.ofNat 2 w, BitVec.ofNat 6 d, BitVec.ofNat 6 a, BitVec.ofNat 3 o, BitVec.ofInt 6 imm⟩
def fP (pd a b : Nat) (g : Bool := false) : PFmt := ⟨false, false, g, BitVec.ofNat 6 pd, BitVec.ofNat 6 a, BitVec.ofNat 6 b⟩
def fU (d : Nat) (imm : Int) : UFmt := ⟨false, false, BitVec.ofNat 4 d, BitVec.ofInt 20 imm⟩
def fX (p : Nat) (off : Int) : XFmt := ⟨false, false, BitVec.ofNat 6 p, BitVec.ofInt 18 off⟩
def fE (d a arg : Nat) (g : Bool := false) : EFmt := ⟨false, false, g, BitVec.ofNat 6 d, BitVec.ofNat 6 a, BitVec.ofNat 7 arg⟩

/-- The word decodes to the instruction. -/
def reads (w : Word) (i : Instr) : Bool := match decode w with | .ok j => j == i | .error _ => false

/-- The word is refused at this step of R184. -/
def refuses (w : Word) (e : Reject) : Bool := match decode w with | .ok _ => false | .error f => f == e

/-- The state an instruction leaves. -/
def out (i : Instr) (s : State) : State := match exec i s with | .next t => t | _ => s

/-- The thread an instruction leaves. -/
def outTh (i : Instr) (s : State) : Thread := (out i s).th

/-! ### Decoding: every instruction, from the encodings of R164 and R179 to R183 -/

theorem test_decode_integer_1 : [
    (0b0_1_000001_1_00_001000_010000_011000_000, Instr.iadd ⟨false, true, true, 0, 8, 16, 24⟩),
    (0b0_1_000001_1_00_001000_010000_011000_001, Instr.isub ⟨false, true, true, 0, 8, 16, 24⟩),
    (0b0_1_000001_1_00_001000_010000_011000_010, Instr.imin ⟨false, true, true, 0, 8, 16, 24⟩),
    (0b0_1_000001_1_00_001000_010000_011000_011, Instr.imax ⟨false, true, true, 0, 8, 16, 24⟩),
    (0b0_1_000001_1_00_001000_010000_011000_100, Instr.iminu ⟨false, true, true, 0, 8, 16, 24⟩),
    (0b0_1_000001_1_00_001000_010000_011000_101, Instr.imaxu ⟨false, true, true, 0, 8, 16, 24⟩),
    (0b0_1_000001_1_00_001000_010000_000000_110, Instr.iabs ⟨false, true, true, 0, 8, 16, 0⟩),
    (0b0_1_000001_1_00_001000_010000_000000_111, Instr.ineg ⟨false, true, true, 0, 8, 16, 0⟩),
    (0b0_1_000010_1_00_001000_010000_011000_000, Instr.and ⟨false, true, true, 0, 8, 16, 24⟩),
    (0b0_1_000010_1_00_001000_010000_011000_001, Instr.or ⟨false, true, true, 0, 8, 16, 24⟩),
    (0b0_1_000010_1_00_001000_010000_011000_010, Instr.xor ⟨false, true, true, 0, 8, 16, 24⟩),
    (0b0_1_000010_1_00_001000_010000_011000_011, Instr.andn ⟨false, true, true, 0, 8, 16, 24⟩),
    (0b0_1_000010_1_00_001000_010000_000000_100, Instr.not ⟨false, true, true, 0, 8, 16, 0⟩),
    (0b0_1_000010_0_00_001000_010000_011000_101, Instr.sel ⟨false, true, false, 0, 8, 16, 24⟩),
    (0b0_1_000010_1_00_001000_010000_000000_110, Instr.mov ⟨false, true, true, 0, 8, 16, 0⟩),
    (0b0_1_000010_1_00_001000_010000_000000_111, Instr.popc ⟨false, true, true, 0, 8, 16, 0⟩),
    (0b0_1_000011_1_00_001000_010000_011000_000, Instr.shl ⟨false, true, true, 0, 8, 16, 24⟩),
    (0b0_1_000011_1_00_001000_010000_011000_001, Instr.shr ⟨false, true, true, 0, 8, 16, 24⟩),
    (0b0_1_000011_1_00_001000_010000_011000_010, Instr.sar ⟨false, true, true, 0, 8, 16, 24⟩),
    (0b0_1_000011_1_00_001000_010000_011000_011, Instr.rol ⟨false, true, true, 0, 8, 16, 24⟩)].all (fun p : Word × Instr => reads p.1 p.2) = true := by decide +kernel

theorem test_decode_integer_2 : [
    (0b0_1_000011_1_00_001000_010000_000000_100, Instr.clz ⟨false, true, true, 0, 8, 16, 0⟩),
    (0b0_1_000011_1_00_001000_010000_000000_101, Instr.brev ⟨false, true, true, 0, 8, 16, 0⟩),
    (0b0_1_000011_1_00_001000_010000_011000_110, Instr.bfx ⟨false, true, true, 0, 8, 16, 24⟩),
    (0b0_1_000011_1_00_001000_010000_011000_111, Instr.bfi ⟨false, true, true, 0, 8, 16, 24⟩),
    (0b0_1_000100_1_00_001000_010000_011000_000, Instr.imul ⟨false, true, true, 0, 8, 16, 24⟩),
    (0b0_1_000100_1_00_001000_010000_011000_001, Instr.imulh ⟨false, true, true, 0, 8, 16, 24⟩),
    (0b0_1_000100_1_00_001000_010000_011000_010, Instr.imulhu ⟨false, true, true, 0, 8, 16, 24⟩),
    (0b0_1_000100_1_00_001000_010000_011000_011, Instr.imad ⟨false, true, true, 0, 8, 16, 24⟩),
    (0b0_1_000100_1_00_001000_010000_011000_100, Instr.idiv ⟨false, true, true, 0, 8, 16, 24⟩),
    (0b0_1_000100_1_00_001000_010000_011000_101, Instr.irem ⟨false, true, true, 0, 8, 16, 24⟩),
    (0b0_1_000100_1_00_001000_010000_011000_110, Instr.idivu ⟨false, true, true, 0, 8, 16, 24⟩),
    (0b0_1_000100_1_00_001000_010000_011000_111, Instr.iremu ⟨false, true, true, 0, 8, 16, 24⟩),
    (0b0_1_000101_1_00_001000_010000_011000_000, Instr.lea ⟨false, true, true, 0, 8, 16, 24⟩),
    (0b0_1_000101_1_00_001000_010000_011000_001, Instr.leaX2 ⟨false, true, true, 0, 8, 16, 24⟩),
    (0b0_1_000101_1_00_001000_010000_011000_010, Instr.leaX4 ⟨false, true, true, 0, 8, 16, 24⟩),
    (0b0_1_000101_1_00_001000_010000_011000_011, Instr.leaX8 ⟨false, true, true, 0, 8, 16, 24⟩),
    (0b0_1_000101_1_01_001000_010000_011000_100, Instr.iaddc ⟨false, true, true, 1, 8, 16, 24⟩),
    (0b0_1_000101_1_01_001000_010000_011000_101, Instr.isubb ⟨false, true, true, 1, 8, 16, 24⟩)].all (fun p : Word × Instr => reads p.1 p.2) = true := by decide +kernel

theorem test_decode_immediate : [
    (0b0_1_001000_001000_010000_111111111110, Instr.iaddi ⟨false, true, 8, 16, 4094⟩),
    (0b0_1_001001_001000_010000_111111111110, Instr.andi ⟨false, true, 8, 16, 4094⟩),
    (0b0_1_001010_001000_010000_111111111110, Instr.ori ⟨false, true, 8, 16, 4094⟩),
    (0b0_1_001011_001000_010000_111111111110, Instr.xori ⟨false, true, 8, 16, 4094⟩),
    (0b0_1_001100_001000_010000_000000011111, Instr.shli ⟨false, true, 8, 16, 31⟩),
    (0b0_1_001101_001000_010000_000000011110, Instr.shri ⟨false, true, 8, 16, 30⟩),
    (0b0_1_001110_001000_010000_000000011101, Instr.sari ⟨false, true, 8, 16, 29⟩),
    (0b0_1_001111_001000_000000_111111111110, Instr.movi ⟨false, true, 8, 0, 4094⟩),
    (0b0_1_111000_1000_11111111111111111110, Instr.luih ⟨false, true, 8, 1048574⟩),
    (0b0_1_111001_1000_11111111111111111110, Instr.adrh ⟨false, true, 8, 1048574⟩)].all (fun p : Word × Instr => reads p.1 p.2) = true := by decide +kernel

theorem test_decode_float_1 : [
    (0b0_1_010000_1_00_001000_010000_011000_000, Instr.fadd ⟨false, true, true, 0, 8, 16, 24⟩),
    (0b0_1_010000_1_00_001000_010000_011000_001, Instr.fsub ⟨false, true, true, 0, 8, 16, 24⟩),
    (0b0_1_010000_1_00_001000_010000_011000_010, Instr.fmul ⟨false, true, true, 0, 8, 16, 24⟩),
    (0b0_1_010000_1_00_001000_010000_011000_011, Instr.fma ⟨false, true, true, 0, 8, 16, 24⟩),
    (0b0_1_010000_1_00_001000_010000_011000_100, Instr.fmin ⟨false, true, true, 0, 8, 16, 24⟩),
    (0b0_1_010000_1_00_001000_010000_011000_101, Instr.fmax ⟨false, true, true, 0, 8, 16, 24⟩),
    (0b0_1_010000_1_00_001000_010000_011000_110, Instr.fdiv ⟨false, true, true, 0, 8, 16, 24⟩),
    (0b0_1_010000_1_00_001000_010000_000000_111, Instr.fsqrt ⟨false, true, true, 0, 8, 16, 0⟩),
    (0b0_1_010001_1_01_001000_010000_011000_000, Instr.fadd64 ⟨false, true, true, 1, 8, 16, 24⟩),
    (0b0_1_010001_1_01_001000_010000_011000_001, Instr.fsub64 ⟨false, true, true, 1, 8, 16, 24⟩),
    (0b0_1_010001_1_01_001000_010000_011000_010, Instr.fmul64 ⟨false, true, true, 1, 8, 16, 24⟩),
    (0b0_1_010001_1_01_001000_010000_011000_011, Instr.fma64 ⟨false, true, true, 1, 8, 16, 24⟩),
    (0b0_1_010001_1_01_001000_010000_011000_100, Instr.fmin64 ⟨false, true, true, 1, 8, 16, 24⟩),
    (0b0_1_010001_1_01_001000_010000_011000_101, Instr.fmax64 ⟨false, true, true, 1, 8, 16, 24⟩),
    (0b0_1_010001_1_01_001000_010000_011000_110, Instr.fdiv64 ⟨false, true, true, 1, 8, 16, 24⟩),
    (0b0_1_010001_1_01_001000_010000_000000_111, Instr.fsqrt64 ⟨false, true, true, 1, 8, 16, 0⟩),
    (0b0_1_010010_1_00_001000_010000_011000_000, Instr.faddH2 ⟨false, true, true, 0, 8, 16, 24⟩),
    (0b0_1_010010_1_00_001000_010000_011000_001, Instr.fsubH2 ⟨false, true, true, 0, 8, 16, 24⟩),
    (0b0_1_010010_1_00_001000_010000_011000_010, Instr.fmulH2 ⟨false, true, true, 0, 8, 16, 24⟩),
    (0b0_1_010010_1_00_001000_010000_011000_011, Instr.fmaH2 ⟨false, true, true, 0, 8, 16, 24⟩)].all (fun p : Word × Instr => reads p.1 p.2) = true := by decide +kernel

theorem test_decode_float_2 : [
    (0b0_1_010010_1_00_001000_010000_011000_100, Instr.fminH2 ⟨false, true, true, 0, 8, 16, 24⟩),
    (0b0_1_010010_1_00_001000_010000_011000_101, Instr.fmaxH2 ⟨false, true, true, 0, 8, 16, 24⟩),
    (0b0_1_010010_1_00_001000_010000_011000_110, Instr.fdivH2 ⟨false, true, true, 0, 8, 16, 24⟩),
    (0b0_1_010010_1_00_001000_010000_000000_111, Instr.fsqrtH2 ⟨false, true, true, 0, 8, 16, 0⟩),
    (0b0_1_010011_1_00_001000_010000_011000_000, Instr.faddB2 ⟨false, true, true, 0, 8, 16, 24⟩),
    (0b0_1_010011_1_00_001000_010000_011000_001, Instr.fsubB2 ⟨false, true, true, 0, 8, 16, 24⟩),
    (0b0_1_010011_1_00_001000_010000_011000_010, Instr.fmulB2 ⟨false, true, true, 0, 8, 16, 24⟩),
    (0b0_1_010011_1_00_001000_010000_011000_011, Instr.fmaB2 ⟨false, true, true, 0, 8, 16, 24⟩),
    (0b0_1_010011_1_00_001000_010000_011000_100, Instr.fminB2 ⟨false, true, true, 0, 8, 16, 24⟩),
    (0b0_1_010011_1_00_001000_010000_011000_101, Instr.fmaxB2 ⟨false, true, true, 0, 8, 16, 24⟩),
    (0b0_1_010011_1_00_001000_010000_011000_110, Instr.fdivB2 ⟨false, true, true, 0, 8, 16, 24⟩),
    (0b0_1_010011_1_00_001000_010000_000000_111, Instr.fsqrtB2 ⟨false, true, true, 0, 8, 16, 0⟩)].all (fun p : Word × Instr => reads p.1 p.2) = true := by decide +kernel

theorem test_decode_function : [
    (0b0_1_010100_1_00_001000_010000_000000_000, Instr.frcp ⟨false, true, true, 0, 8, 16, 0⟩),
    (0b0_1_010100_1_00_001000_010000_000000_001, Instr.frsq ⟨false, true, true, 0, 8, 16, 0⟩),
    (0b0_1_010100_1_00_001000_010000_000000_010, Instr.frred ⟨false, true, true, 0, 8, 16, 0⟩),
    (0b0_1_010100_1_00_001000_010000_011000_011, Instr.fsinr ⟨false, true, true, 0, 8, 16, 24⟩),
    (0b0_1_010100_1_00_001000_010000_011000_100, Instr.fcosr ⟨false, true, true, 0, 8, 16, 24⟩),
    (0b0_1_010100_1_00_001000_010000_000000_101, Instr.fexp2 ⟨false, true, true, 0, 8, 16, 0⟩),
    (0b0_1_010100_1_00_001000_010000_000000_110, Instr.flog2 ⟨false, true, true, 0, 8, 16, 0⟩),
    (0b0_1_010100_1_00_001000_010000_111111_111, Instr.feval ⟨false, true, true, 0, 8, 16, 63⟩),
    (0b0_1_010101_1_00_001000_010000_000010_110, Instr.cvt 6 ⟨false, true, true, 0, 8, 16, 2⟩)].all (fun p : Word × Instr => reads p.1 p.2) = true := by decide +kernel

theorem test_decode_cross_lane : [
    (0b0_1_010110_1_00_001000_010000_011000_000, Instr.shfl ⟨false, true, true, 0, 8, 16, 24⟩),
    (0b0_1_010110_1_00_001000_010000_011000_001, Instr.shflx ⟨false, true, true, 0, 8, 16, 24⟩),
    (0b0_1_010110_1_00_001000_010000_000011_010, Instr.lswap ⟨false, true, true, 0, 8, 16, 3⟩),
    (0b0_1_010110_1_01_001000_010000_000010_011, Instr.vote ⟨false, true, true, 1, 8, 16, 2⟩),
    (0b0_1_010110_1_00_001000_010000_001010_100, Instr.lred ⟨false, true, true, 0, 8, 16, 10⟩),
    (0b0_1_010110_1_00_001000_010000_000111_101, Instr.lscan ⟨false, true, true, 0, 8, 16, 7⟩),
    (0b0_1_010110_1_00_001000_010000_000110_110, Instr.tred ⟨false, true, true, 0, 8, 16, 6⟩),
    (0b0_1_010110_1_00_001000_010000_011000_111, Instr.lbcst ⟨false, true, true, 0, 8, 16, 24⟩)].all (fun p : Word × Instr => reads p.1 p.2) = true := by decide +kernel

theorem test_decode_predicate : [
    (0b0_1_011000_1_000101_010000_011000_10110, Instr.icmp 22 ⟨false, true, true, 5, 16, 24⟩),
    (0b0_1_011001_1_000101_010000_011000_01101, Instr.fcmp32 13 ⟨false, true, true, 5, 16, 24⟩),
    (0b0_1_011010_1_000101_010000_011000_01001, Instr.fcmp64 9 ⟨false, true, true, 5, 16, 24⟩),
    (0b0_1_011011_1_000101_010000_011000_00000, Instr.pand ⟨false, true, true, 5, 16, 24⟩),
    (0b0_1_011011_1_000101_010000_011000_00001, Instr.por ⟨false, true, true, 5, 16, 24⟩),
    (0b0_1_011011_1_000101_010000_011000_00010, Instr.pxor ⟨false, true, true, 5, 16, 24⟩),
    (0b0_1_011011_1_000101_010000_000000_00011, Instr.pnot ⟨false, true, true, 5, 16, 0⟩),
    (0b0_1_011011_1_000101_010000_000000_00100, Instr.pmov ⟨false, true, true, 5, 16, 0⟩),
    (0b0_1_011011_1_000101_000001_000000_00101, Instr.pset ⟨false, true, true, 5, 1, 0⟩),
    (0b0_1_011011_1_000101_010000_011111_00110, Instr.pfrom ⟨false, true, true, 5, 16, 31⟩),
    (0b0_1_011011_1_001000_010000_000000_00111, Instr.pto ⟨false, true, true, 8, 16, 0⟩)].all (fun p : Word × Instr => reads p.1 p.2) = true := by decide +kernel

theorem test_decode_memory_1 : [
    (0b0_1_100000_1_00_001000_010000_101_111110, Instr.ld ⟨false, true, true, 0, 8, 16, 5, 62⟩),
    (0b0_1_100001_1_00_001000_010000_010_111110, Instr.st ⟨false, true, true, 0, 8, 16, 2, 62⟩),
    (0b0_1_100010_1_00_001000_010000_111_111110, Instr.ldl ⟨false, true, true, 0, 8, 16, 7, 62⟩),
    (0b0_1_100011_1_00_001000_010000_000_111110, Instr.stl ⟨false, true, true, 0, 8, 16, 0, 62⟩),
    (0b0_1_100100_1_00_001000_010000_000_111110, Instr.lda ⟨false, true, true, 0, 8, 16, 0, 62⟩),
    (0b0_1_100101_1_00_001000_010000_000_111110, Instr.sta ⟨false, true, true, 0, 8, 16, 0, 62⟩),
    (0b0_1_100110_1_00_001000_010000_000_111110, Instr.ldw ⟨false, true, true, 0, 8, 16, 0, 62⟩),
    (0b0_1_100111_1_00_001000_010000_000_111110, Instr.ldc ⟨false, true, true, 0, 8, 16, 0, 62⟩),
    (0b0_1_101000_1_00_001000_010000_000_111110, Instr.stc ⟨false, true, true, 0, 8, 16, 0, 62⟩),
    (0b0_1_101001_1_00_001000_010000_011000_111, Instr.atom 7 ⟨false, true, true, 0, 8, 16, 24⟩),
    (0b0_1_101010_1_00_001000_010000_011000_011, Instr.atomx 3 ⟨false, true, true, 0, 8, 16, 24⟩),
    (0b0_1_101011_1_00_000000_010000_011000_110, Instr.red 6 ⟨false, true, true, 0, 0, 16, 24⟩),
    (0b0_1_101100_1_00_000000_010000_011000_100, Instr.redx 4 ⟨false, true, true, 0, 0, 16, 24⟩),
    (0b0_1_101101_1_01_000000_000000_000010_000, Instr.fence ⟨false, true, true, 1, 0, 0, 2⟩),
    (0b0_1_101101_1_00_000000_010000_011000_001, Instr.cwb ⟨false, true, true, 0, 0, 16, 24⟩),
    (0b0_1_101101_1_00_000000_010000_011000_010, Instr.cinv ⟨false, true, true, 0, 0, 16, 24⟩),
    (0b0_1_101101_1_00_000000_010000_011000_011, Instr.iinv ⟨false, true, true, 0, 0, 16, 24⟩),
    (0b0_1_101101_1_00_000000_000000_000000_100, Instr.fbar ⟨false, true, true, 0, 0, 0, 0⟩),
    (0b0_1_101101_1_00_000000_010000_000000_101, Instr.pref ⟨false, true, true, 0, 0, 16, 0⟩),
    (0b0_1_101110_1_00_001000_010000_110_111110, Instr.ldra ⟨false, true, true, 0, 8, 16, 6, 62⟩)].all (fun p : Word × Instr => reads p.1 p.2) = true := by decide +kernel

theorem test_decode_memory_2 : [
    (0b0_1_101111_1_00_000101_010000_011000_000, Instr.pstb ⟨false, true, true, 0, 5, 16, 24⟩),
    (0b0_1_101111_1_00_000101_010000_011000_001, Instr.pldb ⟨false, true, true, 0, 5, 16, 24⟩)].all (fun p : Word × Instr => reads p.1 p.2) = true := by decide +kernel

theorem test_decode_engine : [
    (0b0_1_110000_001000_010000_0000_1_0000001, Instr.mxop ⟨false, true, true, 8, 16, 1⟩),
    (0b0_1_110000_000000_000000_0001_1_0000001, Instr.mxwait ⟨false, true, true, 0, 0, 1⟩),
    (0b0_1_110000_001000_010000_0010_1_0000000, Instr.enq ⟨false, true, true, 8, 16, 0⟩),
    (0b0_1_110000_000000_010000_0011_1_0000001, Instr.hsetBind ⟨false, true, true, 0, 16, 1⟩),
    (0b0_1_110000_000001_000000_0011_1_0000001, Instr.hsetFull ⟨false, true, true, 1, 0, 1⟩),
    (0b0_1_110000_000010_000000_0011_1_0000001, Instr.hsetFree ⟨false, true, true, 2, 0, 1⟩),
    (0b0_1_110000_000011_000000_0100_1_0000001, Instr.hwait ⟨false, true, true, 3, 0, 1⟩),
    (0b0_1_110000_001000_000000_0101_1_0000001, Instr.hq ⟨false, true, true, 8, 0, 1⟩),
    (0b0_1_110000_000000_010000_0110_1_0000000, Instr.ftld ⟨false, true, true, 0, 16, 0⟩),
    (0b0_1_110000_001000_010000_0111_1_0000000, Instr.launch ⟨false, true, true, 8, 16, 0⟩),
    (0b0_1_110000_000000_010000_1000_1_0000000, Instr.chwait ⟨false, true, true, 0, 16, 0⟩),
    (0b0_1_110000_000000_000000_1000_1_0000001, Instr.chwaitAll ⟨false, true, true, 0, 0, 1⟩),
    (0b0_1_110001_000000_010000_0000_1_0000000, Instr.twinit ⟨false, true, true, 0, 16, 0⟩),
    (0b0_1_110001_001000_010000_0001_1_0000001, Instr.twstep ⟨false, true, true, 8, 16, 1⟩),
    (0b0_1_110001_001000_000000_0010_1_0000000, Instr.twgetVal ⟨false, true, true, 8, 0, 0⟩),
    (0b0_1_110001_001000_000000_0010_1_0000001, Instr.twgetSt ⟨false, true, true, 8, 0, 1⟩),
    (0b0_1_110001_000000_000000_0011_1_0000000, Instr.twend ⟨false, true, true, 0, 0, 0⟩)].all (fun p : Word × Instr => reads p.1 p.2) = true := by decide +kernel

theorem test_decode_sync : [
    (0b0_1_110010_000011_000000_0000_1_0000001, Instr.phreg ⟨false, true, true, 3, 0, 1⟩),
    (0b0_1_110010_000000_000000_0001_1_0000001, Instr.pharr ⟨false, true, true, 0, 0, 1⟩),
    (0b0_1_110010_000000_000000_0010_1_0000001, Instr.phwait ⟨false, true, true, 0, 0, 1⟩),
    (0b0_1_110010_000000_000000_0011_1_0000001, Instr.phaw ⟨false, true, true, 0, 0, 1⟩),
    (0b0_1_110010_001000_000000_0100_1_0000001, Instr.phq ⟨false, true, true, 8, 0, 1⟩),
    (0b0_1_110010_001000_010000_0101_1_0000100, Instr.waitu ⟨false, true, true, 8, 16, 4⟩)].all (fun p : Word × Instr => reads p.1 p.2) = true := by decide +kernel

theorem test_decode_thread : [
    (0b0_1_110011_000000_000000_0000_1_1000000, Instr.setw ⟨false, true, true, 0, 0, 64⟩),
    (0b0_1_110011_000000_010000_0001_1_0000000, Instr.migr ⟨false, true, true, 0, 16, 0⟩),
    (0b0_1_110011_000000_000000_0010_1_0000000, Instr.migrh ⟨false, true, true, 0, 0, 0⟩),
    (0b0_1_110011_001000_000000_0011_1_0101000, Instr.rdsr ⟨false, true, true, 8, 0, 40⟩),
    (0b0_1_110011_000000_010000_0100_1_0100000, Instr.wrsr ⟨false, true, true, 0, 16, 32⟩),
    (0b0_1_110011_000000_010000_0101_0_0000000, Instr.gsel ⟨false, true, false, 0, 16, 0⟩),
    (0b0_1_110011_001000_000000_0110_1_0000000, Instr.rdtime ⟨false, true, true, 8, 0, 0⟩),
    (0b0_1_110011_001000_000000_0111_1_0000000, Instr.rand ⟨false, true, true, 8, 0, 0⟩)].all (fun p : Word × Instr => reads p.1 p.2) = true := by decide +kernel

theorem test_decode_system : [
    (0b0_1_110100_000000_000000_0000_1_0000001, Instr.trap ⟨false, true, true, 0, 0, 1⟩),
    (0b0_1_110100_000000_000000_0001_1_0000001, Instr.brk ⟨false, true, true, 0, 0, 1⟩),
    (0b0_1_110100_000000_000000_0010_1_0000001, Instr.sysc ⟨false, true, true, 0, 0, 1⟩),
    (0b0_1_110100_000000_000000_0011_0_0000000, Instr.eret ⟨false, true, false, 0, 0, 0⟩),
    (0b0_1_110100_001000_000000_0100_0_0010100, Instr.rdpr ⟨false, true, false, 8, 0, 20⟩),
    (0b0_1_110100_000000_010000_0101_0_0010110, Instr.wrpr ⟨false, true, false, 0, 16, 22⟩),
    (0b0_1_110100_001000_010000_0110_0_0000000, Instr.ctxfl ⟨false, true, false, 8, 16, 0⟩),
    (0b0_1_110100_000000_000000_0111_0_0000001, Instr.halt ⟨false, true, false, 0, 0, 1⟩)].all (fun p : Word × Instr => reads p.1 p.2) = true := by decide +kernel

theorem test_decode_control : [
    (0b0_1_111010_0000_11111111111111111110, Instr.next ⟨false, true, 0, 1048574⟩),
    (0b0_1_111011_0000_11111111111111111110, Instr.call ⟨false, true, 0, 1048574⟩),
    (0b0_1_111100_000101_111111111111111110, Instr.nextp ⟨false, true, 5, 262142⟩),
    (0b0_1_111101_000101_111111111111111110, Instr.nextn ⟨false, true, 5, 262142⟩),
    (0b0_1_111110_0_00_000000_010000_000000_000, Instr.nexti ⟨false, true, false, 0, 0, 16, 0⟩),
    (0b0_1_111110_0_00_000000_010000_000000_001, Instr.calli ⟨false, true, false, 0, 0, 16, 0⟩),
    (0b0_1_111110_0_00_000000_000000_000000_010, Instr.ret ⟨false, true, false, 0, 0, 0, 0⟩),
    (0b0_1_111110_0_00_000000_000000_000000_011, Instr.exit ⟨false, true, false, 0, 0, 0, 0⟩),
    (0b0_1_111110_0_00_000000_000000_000000_100, Instr.rcv ⟨false, true, false, 0, 0, 0, 0⟩),
    (0b0_1_111110_0_00_000000_000000_000000_101, Instr.yield ⟨false, true, false, 0, 0, 0, 0⟩),
    (0b0_1_111110_0_00_000000_000000_000000_110, Instr.nop ⟨false, true, false, 0, 0, 0, 0⟩)].all (fun p : Word × Instr => reads p.1 p.2) = true := by decide +kernel

/-! ### Ill-formed instructions, one list for each check (R165, R166, R171, R179 to R183) -/

/-- Register groups that are not aligned (R166). -/
theorem test_ill_alignment : ([.iadd (fR 1 5 4 6), .iadd (fR 1 4 5 6), .iadd (fR 1 4 6 7), .fadd64 (fR 1 5 6 8), .icmp 16 (fP 1 3 4),
    .fcmp64 0 (fP 1 2 5), .frred (fR 0 5 4 0), .adrh (fU 5 1), .ld (fM 0 4 5 0), .ld (fM 2 6 4 0), .st (fM 3 4 8 0), .ldl (fM 1 3 4 0),
    .atomx 2 (fR 2 5 4 6), .redx 1 (fR 0 0 4 7), .cwb (fR 0 0 5 8), .nexti (fR 0 0 5 0), .enq (fE 3 12 0), .hsetBind (fE 0 10 3), .ftld (fE 0 5 0),
    .launch (fE 6 5 0), .twstep (fE 6 0 0), .twgetVal (fE 2 0 0), .waitu (fE 2 12 0), .migr (fE 0 5 0), .rdsr (fE 5 0 0x18), .wrsr (fE 0 5 0x20),
    .rdpr (fE 5 0 0x14), .wrpr (fE 0 5 0x14), .rdtime (fE 7 0 0), .pldb (fR 0 4 5 6), .iaddc (fR 1 8 10 13), .cvt 0 (fR 0 5 4 0),
    .shfl (fR 1 5 4 6), .vote (fR 1 7 4 2)] : List Instr).all (fun i => !i.wellFormed) = true := by decide +kernel

/-- Predicates beyond p47 (R165). -/
theorem test_ill_predicate : ([.icmp 0 (fP 48 1 2), .fcmp32 0 (fP 48 1 2), .pand (fP 1 48 2), .por (fP 1 2 63), .pto (fP 3 48 0), .nextp (fX 48 1),
    .gsel (fE 0 48 0), .vote (fR 0 48 4 0), .vote (fR 0 4 48 1), .pstb (fR 0 48 4 6), .waitu (fE 48 16 0)] : List Instr).all
    (fun i => !i.wellFormed) = true := by decide +kernel

/-- Reserved fields that are not zero, and widths a word does not have (R165, R190). -/
theorem test_ill_reserved_field : ([.iabs (fR 0 1 2 3), .not (fR 0 1 2 3), .clz (fR 0 1 2 3), .fsqrt (fR 0 1 2 3), .frcp (fR 0 1 2 3), .movi (fI 1 1 5),
    .iadd (fR 2 4 4 4), .fadd (fR 1 4 4 4), .fadd64 (fR 0 4 4 4), .frcp (fR 1 4 4 0), .iaddc (fR 0 4 4 4), .lea (fR 2 4 4 4), .cvt 0 (fR 1 4 4 2),
    .next (fU 1 2), .call (fU 1 2), .ret (fR 0 0 2 0), .exit (fR 0 1 0 0), .nop (fR 0 0 0 1), .rcv (fR 1 0 0 0), .yield (fR 0 0 0 0 true),
    .red 0 (fR 0 1 4 6), .fence (fR 0 1 0 0), .fbar (fR 0 0 0 1), .pref (fR 0 0 4 1), .pnot (fP 1 2 3), .pset (fP 1 0 3), .mxwait (fE 1 0 0),
    .hwait (fE 1 1 0), .hq (fE 1 1 0), .chwait (fE 1 4 0), .twend (fE 0 1 0), .phaw (fE 1 0 2), .phreg (fE 1 1 0), .setw (fE 1 0 8), .rand (fE 1 1 0),
    .trap (fE 1 0 0), .eret (fE 0 0 1), .halt (fE 0 1 5), .twstep (fE 4 1 0)] : List Instr).all (fun i => !i.wellFormed) = true := by decide +kernel

/-- Operands outside the range of their word (R182, R200, R205, R224, R228, R232, R241, R254, R273). -/
theorem test_ill_range : ([.shli (fI 1 2 32), .sari (fI 1 2 (-1)), .pset (fP 1 2 0), .pfrom (fP 1 2 32), .lswap (fR 0 1 2 4), .mxop (fE 1 2 4), .hq (fE 1 0 64),
    .hwait (fE 4 0 0), .phaw (fE 0 0 0x60), .phreg (fE 4 0 0), .waitu (fE 1 16 1), .setw (fE 0 0 12), .setw (fE 0 0 0), .ldra (fM 3 8 6 6),
    .ldra (fM 0 8 6 5), .ldw (fM 0 8 6 4), .ldl (fM 0 8 6 1), .pref (fR 3 0 4 0), .twstep (fE 4 0 2), .enq (fE 3 16 1), .wrsr (fE 0 4 4)] : List Instr).all
    (fun i => !i.wellFormed) = true := by decide +kernel

/-- Words that are never guarded, and terminators that chain (R171, R175, R193, R243, R366). -/
theorem test_ill_guard_and_chain : ([.sel (fR 0 1 2 3 true), .gsel (fE 0 3 0 true), .eret (fE 0 0 0 true), .rdpr (fE 4 0 0 true), .wrpr (fE 0 4 2 true),
    .ctxfl (fE 4 5 0 true), .halt (fE 0 0 1 true), .next ⟨true, false, 0, 1⟩, .nextp ⟨true, false, 3, 1⟩, .ret ⟨true, false, false, 0, 0, 0, 0⟩,
    .exit ⟨true, false, false, 0, 0, 0, 0⟩] : List Instr).all (fun i => !i.wellFormed) = true := by decide +kernel

/-- Reserved codes in operand fields are undefined, not illegal (R184 step 2). -/
theorem test_ill_reserved_code : ([.cvt 0 (fR 0 4 4 0x12), .cvt 0 (fR 0 4 4 0x34), .icmp 10 (fP 1 2 4), .fcmp32 14 (fP 1 2 4), .vote (fR 0 4 4 4),
    .lred (fR 0 4 4 11), .tred (fR 0 4 4 63), .ld (fM 0 4 4 3), .st (fM 0 4 4 3), .fence (fR 0 0 0 4), .redx 5 (fR 0 0 4 4), .rdsr (fE 4 0 0x0A),
    .wrsr (fE 0 4 0x7F), .rdpr (fE 4 0 0x01), .wrpr (fE 0 4 0x25)] : List Instr).all (fun i => !i.wellFormed && reservedCode i) = true := by decide +kernel

/-- The words of R185 and their fates, of R202, R228 and R444. -/
theorem test_words_of_R185 : refuses 0x00000000 .badMajor = true ∧ refuses 0x07000000 .undefinedCode = true ∧ refuses 0x05000006 .undefinedCode = true ∧
    refuses 0x0F041005 .badField = true ∧ reads 0x11220C40 (.fadd64 (fR 1 4 6 8)) = true ∧ refuses 0x11228C40 .badField = true := by decide +kernel

theorem test_words_of_examples : reads 0x39400034 (.adrh (fU 4 0x34)) = true ∧ reads 0x0F180B4F (.movi (fI 6 0 (-1201))) = true ∧
    reads 0x05220830 (.lea (fR 1 4 4 6)) = true ∧ reads 0x320C0021 (.phreg (fE 3 0 0x21)) = true ∧ reads 0x32000302 (.phaw (fE 0 0 2)) = true ∧
    reads 0x81020A30 (.iadd ⟨true, false, false, 0, 4, 5, 6⟩) = true := by decide +kernel

/-! ### Results of single instructions, from the tables and worked examples of the spec -/

/-- The test thread with two source registers. -/
def with2 (n : Nat) (v : Word) (m : Nat) (w : Word) : State := labTh fun t => { t with regs := (t.regs.set n v).set m w }

/-- Register d after an instruction, and after its long results are written. -/
def regAfter (i : Instr) (s : State) (d : Nat) : Word := (outTh i s).reg d
def longAfter (i : Instr) (s : State) (d : Nat) : Word := (written (outTh i s)).reg d
def flagsAfter (i : Instr) (s : State) : Word := (written (outTh i s)).fps

/-- R192, R200: sums wrap; the absolute value of the most negative number is itself. -/
theorem test_iadd_wraps : regAfter (.iadd (fR 0 10 8 9)) (with2 8 0xFFFFFFFF 9 2) 10 = 1 ∧
    regAfter (.iadd (fR 1 10 8 12)) (labTh fun t => { t with regs := ((t.regs.set 8 0xFFFFFFFF).set 9 0).set 12 1 |>.set 13 0 }) 11 = 1 := by decide +kernel
theorem test_iabs_most_negative : regAfter (.iabs (fR 0 10 8 0)) (with2 8 0x80000000 9 0) 10 = 0x80000000 := by decide +kernel
theorem test_iaddi_negative : regAfter (.iaddi (fI 10 8 (-1))) (with2 8 0 9 0) 10 = 0xFFFFFFFF := by decide +kernel

/-- The examples of R195. -/
theorem test_bfx : regAfter (.bfx (fR 0 10 8 9)) (with2 8 0x0000F0A5 9 0x00010804) 10 = 0x0000000A ∧
    regAfter (.bfx (fR 0 10 8 9)) (with2 8 0x00000F50 9 0x00010804) 10 = 0xFFFFFFF5 := by decide +kernel
theorem test_bfi_unchanged : regAfter (.bfi (fR 0 10 8 9)) (with2 8 0xFFFFFFFF 9 0x00000020) 10 = 10 := by decide +kernel

/-- The examples of R197, and its borderline cases. -/
theorem test_idiv : longAfter (.idiv (fR 0 10 8 9)) (with2 8 0xFFFFFFF9 9 2) 10 = 0xFFFFFFFD ∧
    longAfter (.irem (fR 0 10 8 9)) (with2 8 0xFFFFFFF9 9 2) 10 = 0xFFFFFFFF ∧
    longAfter (.idivu (fR 0 10 8 9)) (with2 8 0xFFFFFFF9 9 2) 10 = 0x7FFFFFFC := by decide +kernel
theorem test_idiv_by_zero : longAfter (.idiv (fR 0 10 8 9)) (with2 8 5 9 0) 10 = 0xFFFFFFFF ∧
    longAfter (.iremu (fR 0 10 8 9)) (with2 8 5 9 0) 10 = 5 ∧
    longAfter (.idiv (fR 0 10 8 9)) (with2 8 0x80000000 9 0xFFFFFFFF) 10 = 0x80000000 := by decide +kernel

/-- The limbs of R199. -/
theorem test_iaddc : regAfter (.iaddc (fR 1 20 10 12)) (labTh fun t => { t with regs := (((t.regs.set 10 0xFFFFFFFF).set 11 0).set 12 1) }) 20 = 0 ∧
    regAfter (.iaddc (fR 1 20 10 12)) (labTh fun t => { t with regs := (((t.regs.set 10 0xFFFFFFFF).set 11 0).set 12 1) }) 21 = 1 ∧
    regAfter (.iaddc (fR 1 22 14 16)) (labTh fun t => { t with regs := (((t.regs.set 14 1).set 15 1).set 16 0) }) 22 = 2 ∧
    regAfter (.iaddc (fR 1 22 14 16)) (labTh fun t => { t with regs := (((t.regs.set 14 1).set 15 1).set 16 0) }) 23 = 0 := by decide +kernel
theorem test_isubb_borrows : regAfter (.isubb (fR 1 20 10 12)) (labTh fun t => { t with regs := (((t.regs.set 10 0).set 11 1).set 12 0xFFFFFFFF) }) 20 = 0 ∧
    regAfter (.isubb (fR 1 20 10 12)) (labTh fun t => { t with regs := (((t.regs.set 10 0).set 11 1).set 12 0xFFFFFFFF) }) 21 = 1 := by decide +kernel

/-- The address of R202: ADRH at P, MOVI and LEA leave S. -/
theorem test_adrh : regAfter (.adrh (fU 4 0x34)) (labTh fun t => { t with pc := 0x7F0000100A18 }) 4 = 0x00134A18 ∧
    regAfter (.adrh (fU 4 0x34)) (labTh fun t => { t with pc := 0x7F0000100A18 }) 5 = 0x00007F00 := by decide +kernel
theorem test_lea_signed : regAfter (.lea (fR 1 4 4 6)) (labTh fun t => { t with regs := ((t.regs.set 4 0x00134A18).set 5 0x7F00).set 6 0xFFFFFB4F }) 4 = 0x00134567 ∧
    regAfter (.movi (fI 6 0 (-1201))) lab 6 = 0xFFFFFB4F := by decide +kernel

/-- R204: an unordered comparison holds of the unordered conditions only; LT signals on a quiet NaN. -/
theorem test_fcmp : (outTh (.fcmp32 2 (fP 5 8 9)) (with2 8 0x7FC00000 9 0)).pred 5 = false ∧
    (outTh (.fcmp32 2 (fP 5 8 9)) (with2 8 0xBF800000 9 0)).pred 5 = true := by decide +kernel
theorem test_icmp_signs : (outTh (.icmp 2 (fP 5 8 9)) (with2 8 0xFFFFFFFF 9 0)).pred 5 = true ∧
    (outTh (.icmp 6 (fP 5 8 9)) (with2 8 0xFFFFFFFF 9 0)).pred 5 = false ∧ (outTh (.icmp 0 (fP 0 8 8)) lab).pred 0 = true := by decide +kernel

/-- Specials of R207: an infinity less an infinity, one divided by zero. -/
theorem test_fadd_invalid : regAfter (.fadd (fR 0 10 8 9)) (with2 8 0x7F800000 9 0xFF800000) 10 = 0x7FC00000 ∧
    flagsAfter (.fadd (fR 0 10 8 9)) (with2 8 0x7F800000 9 0xFF800000) = 0x10 := by decide +kernel
theorem test_fdiv_by_zero : longAfter (.fdiv (fR 0 10 8 9)) (with2 8 0xBF800000 9 0) 10 = 0xFF800000 ∧
    flagsAfter (.fdiv (fR 0 10 8 9)) (with2 8 0xBF800000 9 0) = 8 := by decide +kernel

/-- The table of R211. -/
theorem test_frcp : longAfter (.frcp (fR 0 10 8 0)) (with2 8 0x80000000 9 0) 10 = 0xFF800000 ∧
    longAfter (.frcp (fR 0 10 8 0)) (with2 8 0x40000000 9 0) 10 = 0x3F000000 := by decide +kernel
theorem test_frsq : longAfter (.frsq (fR 0 10 8 0)) (with2 8 0xBF800000 9 0) 10 = 0x7FC00000 ∧
    longAfter (.frsq (fR 0 10 8 0)) (with2 8 0x40800000 9 0) 10 = 0x3F000000 := by decide +kernel

/-- A conversion of v8: result and flags. -/
def cvtAfter (f code : Nat) (v : Word) : Word × Word :=
  (longAfter (.cvt (BitVec.ofNat 3 f) (fR 0 10 8 code)) (with2 8 v 9 0) 10, flagsAfter (.cvt (BitVec.ofNat 3 f) (fR 0 10 8 code)) (with2 8 v 9 0))

/-- Rows of R217. -/
theorem test_cvt_to_integers : cvtAfter 1 0x20 0xC0200000 = (0xFFFFFFFE, 1) ∧ cvtAfter 5 0x20 0xC0200000 = (0xFFFFFFFD, 1) ∧
    cvtAfter 3 0x20 0xC0200000 = (0xFFFFFFFD, 1) ∧ cvtAfter 1 0x21 0xBE99999A = (0, 1) ∧ cvtAfter 1 0x21 0xBF333333 = (0, 0x10) ∧
    cvtAfter 0 0x20 0x7FC00000 = (0, 0x10) := by decide +kernel
theorem test_cvt_to_small_floats : cvtAfter 0 0x08 0x47800000 = (0x7C, 5) ∧ cvtAfter 7 0x08 0x7F800000 = (0x7B, 0) ∧
    cvtAfter 0 0x0A 0x7FC00000 = (0, 0x10) ∧ cvtAfter 0 0x0A 0x40200000 = (4, 1) := by decide +kernel

/-- R67, R68: with key and counter 0 the draw is 0, and the count advances. -/
theorem test_rand : longAfter (.rand (fE 9 0 0)) lab 9 = 0 ∧ (outTh (.rand (fE 9 0 0)) lab).rngc = 1 := by decide +kernel

/-- R168: the packets of one line and the next. -/
theorem test_next_over_a_line : (outTh (.next (fU 0 1)) (labTh fun t => { t with pc := 0x20024 })).pc = 0x20030 ∧
    packetOff (labTh fun t => { t with pc := 0x20030 }) 1 = 0x20040 := by decide +kernel

/-- R186: CALL leaves the address of the next packet in v62:63. -/
theorem test_call_link : (outTh (.call (fU 0 2)) lab).pc = 0x20018 ∧ (outTh (.call (fU 0 2)) lab).reg 62 = 0x2000C := by decide +kernel

/-- R120, step 5: HSET to free of the draining handle 3. -/
theorem test_hstat : (out (.hsetFree (fE 2 0 3)) (labTm fun t => { t with handles := t.handles.set 3 ⟨0, 0, .draining, 0⟩ })).tm.hstat = 0x8003010B := by
  decide +kernel

/-- R444: the second word of a group of two, at packet 3 of a line, is undefined; the delivery at supervisor level. -/
def lab444 : State :=
  { lab with
    th := { lab.th with pc := 0x40000024 }
    grp := ⟨[0x81020A30, 0x07000000], 1, lab.th, lab.tm, none⟩
    ctxs := lab.ctxs.map fun c => { c with svec := 0x2000C } }
theorem test_supervisor_delivery : (outTh (.nonInstructionWord 0x07000000) lab444).spc = 0x40000024 ∧
    (outTh (.nonInstructionWord 0x07000000) lab444).scause = 0x602 ∧ (outTh (.nonInstructionWord 0x07000000) lab444).saddr = 0 ∧
    (outTh (.nonInstructionWord 0x07000000) lab444).sgrp = [0x81020A30, 0x07000000, 0] := by decide +kernel
theorem test_kill_at_trap_level_1 : ((out (.nonInstructionWord 0x07000000) { lab444 with th := { lab444.th with tl := true } }).ctxs.map (·.killn)) = [0x241] := by
  decide +kernel

/-- R369: ERET to slot 2 of the packet, at user level, with the packet count of the segment at 1. -/
theorem test_eret : (outTh (.eret (fE 0 0 0)) (labTh fun t => { t with sup := true, tl := true, spc := 0x4000002C })).pc = 0x4000002C ∧
    (outTh (.eret (fE 0 0 0)) (labTh fun t => { t with sup := true, tl := true, spc := 0x4000002C })).sup = false ∧
    (outTh (.eret (fE 0 0 0)) (labTh fun t => { t with sup := true, tl := true, spc := 0x4000002C })).seg = 1 := by decide +kernel

/-- A store and the load behind it, bytes in little-endian order (R44). -/
def stored : State := out (.st (fM 1 8 4 0 1)) (labTh fun t => { t with regs := (t.regs.set 8 0x44332211).set 9 0x88776655 })
theorem test_store_then_load : longAfter (.ld (fM 0 12 4 0 3)) stored 12 = 0x88776655 ∧
    (readMem stored.ms 0 0 0x30018 1).1 = [0x11] ∧ (readMem stored.ms 0 0 0x30017 1).1 = [0] := by decide +kernel

/-- R256, R259: the old value comes back; the sum is at the address. -/
theorem test_atom_add : longAfter (.atom 0 (fR 2 10 4 8)) (out (.red 0 (fR 2 0 4 9)) lab) 10 = 9 ∧
    longAfter (.ld (fM 0 12 4 5)) (out (.atom 0 (fR 2 10 4 8)) (out (.red 0 (fR 2 0 4 9)) lab)) 12 = 17 := by decide +kernel

/-- R252: range comes before alignment. -/
theorem test_memory_stops : ((out (.ld (fM 1 8 4 0)) (with2 4 1 5 0x01000000)).grp.stop) = some (.trap cRange 0x100000000000001 0) ∧
    ((out (.ld (fM 1 8 4 0)) (with2 4 0x30004 5 0)).grp.stop) = some (.trap cAlign 0x30004 0) ∧
    ((out (.ldl (fM 0 8 4 0)) lab).grp.stop) = some (.trap cBounds 0x30010 0) := by decide +kernel

/-- R225: a ballot of one thread in lane 0 whose predicate is set. -/
theorem test_vote_ballot : longAfter (.vote (fR 1 10 0 2)) lab 10 = 1 := by decide +kernel

/-- R187: p0 is true and writes to it are discarded. -/
theorem test_p0 : (outTh (.pset (fP 0 0 0)) lab).pred 0 = true ∧ (outTh (.pto (fP 9 0 0)) lab).reg 9 = 1 := by decide +kernel

/-! ### Hypotheses that are met: words -/

theorem witness_DecodeEncodeRoundTrip : ∃ i : Instr, i.hasWord = true ∧ i.wellFormed = true := ⟨.nop (fR 0 0 0 0), by decide, by decide⟩

theorem witness_DecodedWordIsEncoding : ∃ i, decode 0x3E000006 = .ok i := ⟨_, rfl⟩

/-- An unguarded and a guarded word are performed in the test thread; p0 guards at team start. -/
theorem witness_active : lab.active false = true ∧ lab.active true = true := by decide +kernel

theorem witness_IntegerArithmeticResults : lab.active (fR 0 63 0 63).g = true ∧ (fR 0 63 0 63).w = 0#2 ∧ lab.active (fR 1 62 0 62 true).g = true ∧
    (fR 1 62 0 62 true).w = 1#2 ∧ (Instr.iabs (fR 1 62 0 0)).wellFormed = true := by decide +kernel

theorem witness_LogicResults : lab.active (fR 0 1 2 3).g = true ∧ (fR 0 1 2 3).w = 0#2 ∧ (fR 1 2 4 6).w = 1#2 ∧ (fR 1 2 4 6).g = false ∧
    (Instr.sel (fR 1 2 4 6)).wellFormed = true ∧ (Instr.popc (fR 0 1 2 0)).wellFormed = true := by decide +kernel

theorem witness_ShiftAndFieldResults : lab.active (fR 0 1 2 3).g = true ∧ (fR 0 1 2 3).w = 0#2 ∧ (fR 1 2 4 6).w = 1#2 ∧
    (Instr.bfi (fR 1 2 4 6)).wellFormed = true ∧ (Instr.clz (fR 0 1 2 0)).wellFormed = true := by decide +kernel

/-- The corners of R197 at each width, and operands that are no corner. -/
theorem witness_ProductAndDivisionResults : lab.active (fR 0 1 2 3).g = true ∧ (fR 0 1 2 3).w = 0#2 ∧ (fR 1 2 4 6).w = 1#2 ∧
    (0#32 = 0#32) ∧ BitVec.intMin 64 = 0x8000000000000000#64 ∧ BitVec.allOnes 64 = 0xFFFFFFFFFFFFFFFF#64 ∧
    (5#32 ≠ 0#32 ∧ (5#32 ≠ BitVec.intMin 32 ∨ 5#32 ≠ BitVec.allOnes 32)) := by decide +kernel

theorem witness_LeaAndCarryResults : lab.active (fR 1 2 4 5).g = true ∧ (fR 1 2 4 5).w = 1#2 ∧ (fR 1 2 4 5).d.toNat % 2 = 0 ∧ (fR 1 2 4 5).a.toNat % 2 = 0 ∧
    (fR 0 1 3 5).w = 0#2 := by decide +kernel

theorem witness_ImmediateResults : (fI 1 2 31).imm.toNat < 32 ∧ (fI 1 2 0).imm.toNat < 32 := by decide +kernel

theorem witness_UpperImmediateResults : (0x7FFFF7FF#32).toInt < 2 ^ 31 - 0x800 ∧ (0x80000000#32).toInt < 2 ^ 31 - 0x800 := by decide +kernel

theorem witness_PredicateResults : (Instr.icmp 25 (fP 47 2 4)).wellFormed = true ∧ (25#5).getLsbD 4 = true ∧ (25#5).toNat % 16 < 10 ∧
    lab.active (fP 47 2 4).g = true ∧ majorOf 0x1B000008 = 0x1B#6 ∧ 8 ≤ (fnP 0x1B000008).toNat := by decide +kernel

/-- Below, at and above the middle of two multiples of 4, and at one. -/
theorem witness_RoundingModesDeliver : (0 : Int) < 2 ∧ 2 * (1 % 2 ^ 2) < 2 ^ 2 ∧ 2 ^ 2 < 2 * (3 % 2 ^ 2) ∧ 2 * (2 % 2 ^ 2) = 2 ^ 2 ∧ 1 % 2 ^ 2 ≠ 0 := by decide

theorem witness_FloatWordsWriteResultAndFlags : lab.active (fR 0 1 2 3).g = true ∧ lab.active (fR 1 2 4 6).g = true := by decide +kernel

/-- 1, 2, -1, 0, an infinity and a NaN of FP32: results that are not zero and results that are. -/
theorem witness_FloatSpecialCases : 0 < (1 : Nat) ∧ fmt32.readDaz false 0x3F800000 = .fin false (2 ^ 23) (-23) ∧ fmt32.readDaz true 0xBF800000 = .fin true (2 ^ 23) (-23) ∧
    ratOf false (2 ^ 23) (-23) + ratOf true (2 ^ 23) (-23) = 0 ∧ ratOf false (2 ^ 23) (-23) - ratOf false (2 ^ 23) (-23) = 0 ∧
    ratOf false (2 ^ 23) (-23) * ratOf true (2 ^ 23) (-23) + ratOf false (2 ^ 23) (-23) = 0 ∧
    fmt32.readDaz false 0x7FC00000 = .nan false ∧ fmt32.readDaz false 0x7F800000 = .inf false ∧ fmt32.readDaz false 0xFF800000 = .inf true := by
  refine ⟨by decide, by decide +kernel, by decide +kernel, ?_, ?_, ?_, by decide +kernel, by decide +kernel, by decide +kernel⟩ <;> norm_num [ratOf]

theorem witness_FloatResultsRound : fmt32.readDaz false 0x40000000 = .fin false (2 ^ 23) (-22) ∧ fmt32.readDaz true 0 = .fin false 0 (-149) ∧
    ratOf false (2 ^ 23) (-22) = 2 ∧ ratOf false (2 ^ 23) (-23) = 1 ∧ ratOf false 0 (-149) = 0 := by
  refine ⟨by decide +kernel, by decide +kernel, ?_, ?_, ?_⟩ <;> norm_num [ratOf]

theorem witness_FloatCompareResults : (13#5).toNat % 16 < 14 ∧ (0#5).toNat % 16 < 14 ∧ lab.active (fP 1 2 4).g = true := by decide +kernel

theorem witness_FunctionLaneResults : lab.active (fR 0 2 4 63).g = true := by decide +kernel

theorem witness_ConversionResults : cvtShape (fR 0 8 16 0x33).b.toNat = some (0, 3) ∧ cvtShape (fR 0 8 16 0).b.toNat = some (1, 0) ∧
    lab.active (fR 0 8 16 0).g = true ∧ (-128 : Int) ≤ 127 := by decide +kernel

/-- The one live thread of the test team meets itself at a convergent word, of its cohort and of its team. -/
theorem meets_lab : Meets lab false ∧ Meets lab true := ⟨⟨by decide +kernel, by decide +kernel⟩, ⟨by decide +kernel, by decide +kernel⟩⟩

theorem witness_LaneMovesAndVotes : Meets lab false ∧ (fR 1 10 4 0).b = 0#6 ∧ (fR 1 10 4 1).b = 1#6 ∧ (fR 1 10 4 2).b = 2#6 ∧ (fR 1 10 4 3).b = 3#6 :=
  ⟨meets_lab.1, by decide, by decide, by decide, by decide⟩

theorem witness_ReductionResults : Meets lab false ∧ lab.tm.grant ∈ [8, 16, 32, 64] ∧ Meets lab true ∧ lab.th.migrated = false ∧
    (combTable false 5 6)[0]? = some 11 ∧ (combTable true 5 6)[10]? ≠ none :=
  ⟨meets_lab.1, by decide, meets_lab.2, by decide, by decide +kernel, by decide +kernel⟩

/-- A thread whose neighbour has not come to the word yet; one whose result is fixed; one that has migrated. -/
def labApart : State := labTm fun t => { t with threads := [labThread 0, { labThread 1 with pc := 0x20004, status := .within }] }
theorem witness_ConvergentWordsWait : labApart.th.conv = none ∧ labApart.allStand (labApart.convMembers false) = false ∧
    (labTh fun t => { t with conv := some [.reg 1 2] }).th.conv = some [.reg 1 2] ∧
    (labTh fun t => { t with migrated := true }).active false = true ∧ (labTh fun t => { t with migrated := true }).th.migrated = true := by decide +kernel

/-! ### Hypotheses that are met: memory words -/

theorem witness_LoadsSeeOwnStores : (767 < 768 ∧ 3 ≤ 3 ∧ 0 < ([1, 2, 3] : List Byte).length ∧ 0x3000D % 16 + ([1, 2, 3] : List Byte).length ≤ 16 ∧
    0x3000D < podBase) ∧ (0x3001F % 16 + 1 ≤ 16 ∧ 0x3001F / 16 ≠ 0x3000D / 16 ∧ 0x3001F < podBase) := by decide +kernel

/-- One L1 of the cluster holds the other sector of the line dirty. -/
theorem witness_LoadsSeeOwnStores_line : (0x3001F / 64 = 0x3000D / 64) ∧ OneDirty { MemSys.reset with caches := [⟨3, 0x3001, 5, true, false⟩] } 0 (0x3001F / 16) := by
  refine ⟨by decide, fun x hx y hy _ _ _ _ _ _ _ _ => ?_⟩
  simp only [List.mem_singleton] at hx hy
  rw [hx, hy]

/-- No access meets a failed sector where none has failed. -/
theorem sound_of_none_lost (ms : MemSys) (bay ha n : Nat) (st : Bool) (h : ms.lost (ha / 16) = false ∧ ms.lost (ha / 16 + 1) = false) (al : Nat) :
    failedIn ms bay al ha n st = none := by
  simp [failedIn, secFailed, h]

/-- Every kind of access reaches the data page. -/
theorem reaches_lab (n : Nat) (h : n ∈ [1, 2, 4, 8, 16]) (k : AccKind) (hk : k ∈ [AccKind.load, .store, .atomic]) : Reaches lab 0x30010 n k dataEnt := by
  simp only [List.mem_cons, List.not_mem_nil, or_false] at h hk
  rcases h with rfl | rfl | rfl | rfl | rfl <;> rcases hk with rfl | rfl | rfl <;>
    exact ⟨⟨by decide +kernel, by decide +kernel, by decide +kernel⟩, by decide +kernel, by decide +kernel, sound_of_none_lost _ _ _ _ _ (by decide +kernel),
      by decide +kernel, by decide +kernel⟩

theorem ea_lab : eaOf lab (fM 0 8 4 4) = 0x30010 ∧ eaOf lab (fM 2 16 4 0) = 0x30010 ∧ ((lab.srcPair 4).toNat = 0x30010) := by decide +kernel

/-- No release waits for a peer, at any scope. -/
theorem acknowledged_lab (s : State) (ms : MemSys) (sc : Nat) (hp : (released s ms sc).podOut = []) (hr : (released s ms sc).pod = []) :
    Acknowledged s ms sc := fun _ => ⟨by simp [MemSys.unacked, hp], by simp [hr]⟩

theorem witness_GlobalLoadResults : lab.active (fM 0 8 4 4).g = true ∧ lab.det = false ∧ Reaches lab (eaOf lab (fM 0 8 4 4)) (memSize (fM 0 8 4 4).w) .load dataEnt ∧
    (fM 0 8 4 4).o.getLsbD 2 = true ∧ (fM 2 16 4 0).o.getLsbD 2 = false ∧
    Reaches lab (eaOf lab (fM 2 16 4 0)) (memSize (fM 2 16 4 0).w) .load dataEnt ∧
    Reaches lab (lab.srcPair (fR 3 5 4 6).a).toNat (2 ^ (fR 3 5 4 6).w.toNat) .load dataEnt :=
  ⟨by decide +kernel, by decide +kernel, ea_lab.1 ▸ reaches_lab 4 (by decide) .load (by decide), by decide, by decide,
   ea_lab.2.1 ▸ reaches_lab _ (by decide +kernel) .load (by decide), ea_lab.2.2 ▸ reaches_lab 8 (by decide) .load (by decide)⟩

theorem witness_GlobalStoreResults : Reaches lab (eaOf lab (fM 0 8 4 4)) (memSize (fM 0 8 4 4).w) .store dataEnt ∧
    (fM 0 8 4 4).o.getLsbD 2 = true ∧ (fM 2 16 4 0).o.getLsbD 2 = false ∧ lab.th.sent = none ∧
    Acknowledged lab (recorded lab dataEnt 0x30010 true) (lab.effScope ((fM 0 8 4 4).o.toNat % 4)) ∧
    Acknowledged lab (recorded lab dataEnt 0x30010 false) (lab.effScope ((fM 0 8 4 7).o.toNat % 4)) ∧
    Reaches lab (lab.srcPair (fR 3 5 4 6).a).toNat (2 ^ (fR 3 5 4 6).w.toNat) .atomic dataEnt :=
  ⟨ea_lab.1 ▸ reaches_lab 4 (by decide) .store (by decide), by decide, by decide, rfl,
   acknowledged_lab _ _ _ (by decide +kernel) (by decide +kernel), acknowledged_lab _ _ _ (by decide +kernel) (by decide +kernel),
   ea_lab.2.2 ▸ reaches_lab 8 (by decide) .atomic (by decide)⟩

theorem witness_AtomicResults : lab.active (fR 3 10 4 8).g = true ∧ lab.det = false ∧ lab.th.sent = none ∧ Acknowledged lab (recorded lab dataEnt 0x30010 false) (lab.effScope 3) ∧
    Acknowledged lab (recorded lab dataEnt 0x30010 true) (lab.effScope 1) ∧
    Reaches lab (lab.srcPair (fR 3 10 4 8).a).toNat 4 .atomic dataEnt ∧ Reaches lab (lab.srcPair (fR 3 10 4 8).a).toNat 8 .atomic dataEnt ∧
    (4#3).toNat < 5 :=
  ⟨by decide +kernel, by decide +kernel, rfl, acknowledged_lab _ _ _ (by decide +kernel) (by decide +kernel),
   acknowledged_lab _ _ _ (by decide +kernel) (by decide +kernel),
   ea_lab.2.2 ▸ reaches_lab 4 (by decide) .atomic (by decide), ea_lab.2.2 ▸ reaches_lab 8 (by decide) .atomic (by decide), by decide⟩

/-- A test thread whose v8:9 is an offset. -/
def labAt (off : Word) : State := labTh fun t => { t with regs := (t.regs.set 8 off).set 9 0 }
theorem witness_TypedStoreResults : (labAt 4092).active (fM 0 4 8 4).g = true ∧ (labAt 4092).det = false ∧
    (∀ sp ∈ [0, 1, 2, 3], Held (labAt 4092) sp (eaOf (labAt 4092) (fM 0 4 8 4)) (memSize (fM 0 4 8 4).w)) ∧ Held (labAt 0) 0 (eaOf (labAt 0) (fM 0 4 8 4)) 4 ∧
    (fM 0 4 8 4).o.getLsbD 2 = true ∧ (fM 0 4 8 0).o.getLsbD 2 = false ∧ (labAt 0).th.sent = none ∧
    Acknowledged (labAt 0) (labAt 0).ms ((labAt 0).effScope ((fM 0 4 8 7).o.toNat % 4)) := by
  refine ⟨by decide +kernel, by decide +kernel, ?_, ?_, by decide, by decide, rfl, acknowledged_lab _ _ _ (by decide +kernel) (by decide +kernel)⟩
  · intro sp h
    simp only [List.mem_cons, List.not_mem_nil, or_false] at h
    have he : eaOf (labAt 4092) (fM 0 4 8 4) = 4092 := by decide +kernel
    rw [he]
    rcases h with rfl | rfl | rfl | rfl <;> exact ⟨by decide +kernel, by decide +kernel, by decide +kernel, fun q _ _ => by simp [labAt, labTh, lab, labTeam, Team.blank]⟩
  · have he : eaOf (labAt 0) (fM 0 4 8 4) = 0 := by decide +kernel
    rw [he]
    exact ⟨by decide +kernel, by decide +kernel, by decide +kernel, fun q _ _ => by simp [labAt, labTh, lab, labTeam, Team.blank]⟩

/-- An address beyond 2^56, a misaligned one, a page without the write permission, a misaligned offset and one that overruns. -/
theorem witness_MemoryWordsStopInOrder : 2 ^ 56 ≤ eaOf (with2 4 0 5 0x01000000) (fM 0 8 4 0) ∧
    (eaOf lab (fM 3 8 4 0) < 2 ^ 56 ∧ eaOf lab (fM 3 8 4 0) % memSize 3#2 ≠ 0) ∧
    ((labAt 0x30012).srcPair 8).toNat % 4 ≠ 0 ∧ 2 ^ 56 ≤ ((with2 4 0 5 0x01000000).srcPair 4).toNat ∧
    Mapped (with2 4 0x20010 5 0) (eaOf (with2 4 0x20010 5 0) (fM 0 8 4 0)) .load codeEnt ∧ leafW codeEnt.leaf.toNat = false ∧
    eaOf (with2 4 0x20010 5 0) (fM 0 8 4 0) % memSize 0#2 = 0 ∧
    (labTh fun t => { t with migrated := true }).th.migrated = true ∧
    ((labAt 2).th.migrated = false ∧ eaOf (labAt 2) (fM 0 4 8 0) % memSize 0#2 ≠ 0) ∧
    (eaOf (labAt 4096) (fM 0 4 8 0) % memSize 0#2 = 0 ∧ (labAt 4096).tm.storeSize 0 < eaOf (labAt 4096) (fM 0 4 8 0) + memSize 0#2) := by
  refine ⟨by decide +kernel, by decide +kernel, by decide +kernel, by decide +kernel, ⟨by decide +kernel, by decide +kernel, by decide +kernel⟩, ?_⟩
  decide +kernel

/-- A team with no ring and no streams; one whose older matrix operation is still under way; a system-scope release that a peer
has still to acknowledge. -/
def labNoEngines : State := labTm fun t => { t with ring := { t.ring with size := 0 }, streams := [] }
def labMxRuns : State := labTm fun t => { t with streams := [⟨0, 1, [], some ⟨⟨List.replicate 64 0, 1, 0, false, 0⟩, none, none, []⟩⟩], mxOrder := 1 }
def labPodDirty : State := labMs fun m => { m with pod := [⟨2 ^ 52, 5, true⟩] }
theorem witness_FenceResults : (fR 2 0 0 0).b = 0#6 ∧ (fR 2 0 0 1).b = 1#6 ∧ (fR 2 0 0 2).b = 2#6 ∧ (fR 2 0 0 3).b = 3#6 ∧ lab.active (fR 2 0 0 0).g = true ∧
    lab.det = false ∧ lab.th.sent = none ∧
    (labNoEngines.th.sent = none ∧ labNoEngines.tm.ring.size = 0 ∧ labNoEngines.tm.streams = [] ∧
      (labNoEngines.teams.all fun t => t.ref == labNoEngines.tm.ref) = true) ∧
    (labMxRuns.active false = true ∧ labMxRuns.th.sent = none ∧ labMxRuns.tm.mxOrder < 2 ^ 64 ∧
      (labMxRuns.tm.streams.any fun st => st.running.any fun r => r.job.order < labMxRuns.tm.mxOrder) = true) ∧
    (labPodDirty.active false = true ∧ labPodDirty.effScope (fR 3 0 0 1).w.toNat = 3 ∧ labPodDirty.th.sent = none ∧
      ((released labPodDirty labPodDirty.ms 3).pod.any (·.dirty)) = true) := by decide +kernel
/-- A team with an unretired card of its own; and one that has acquired since another team appended a card. -/
def someCard : Card := ⟨0, [], [], 0, 0, .waiting, false, [], none, 0⟩
def labOwnCard : State := labTm fun t => { t with ring := ⟨4, 1, false, [someCard], [], []⟩, lst := (Memory.write ⟨[]⟩ 0 [1]) }
def otherTeam : Team := { labTeam with ref := ⟨1, 1, 1⟩, ring := ⟨4, 1, false, [someCard], [], []⟩ }
def labOthers : State := { labTm fun t => { t with acquired := 5 } with teams := [otherTeam] }
theorem witness_FenceResults_cards : (labOwnCard.active false = true ∧ labOwnCard.th.sent = none ∧ labOwnCard.tm.ring.size ≠ 0 ∧
      (labOwnCard.tm.ring.cards.any fun c => countBefore (BitVec.ofNat 32 c.seq) (BitVec.ofNat 32 (labOwnCard.tm.lst.readNat 0 4))) = true) ∧
    (labOthers.active false = true ∧ labOthers.th.sent = none ∧ otherTeam.ref ≠ labOthers.tm.ref ∧ otherTeam.st ≠ .retired ∧
      (labOthers.teams.find? fun x => x.ref == otherTeam.ref) = some otherTeam ∧ otherTeam.ring.appendedBy labOthers.tm.acquired = some 1 ∧
      otherTeam.ring.retiredTo 1 = false) := by decide +kernel
theorem witness_FenceResults_release : Acknowledged lab lab.ms (lab.effScope 3) :=
  acknowledged_lab _ _ _ (by decide +kernel) (by decide +kernel)

/-- Ranges: none, one line within the page, one that overruns the address space; a system-scope write-back that no peer holds up,
and one that sends a dirty pod-tier sector of the line; and a page for PREF. -/
def actsOf (e : TlbEnt) (va : Nat) (s : State) (drop : Bool) : State :=
  (linesOf (homeOf e va) 8).foldl (fun s ln => podLine { cacheLine s 3 ln drop with
    ms := (List.range 4).foldl (fun ms i => l2WriteBack ms (4 * ln + i) drop) (cacheLine s 3 ln drop).ms } ln drop) s
def podEnt : TlbEnt := ⟨0, 1, 0x40000, 65536, 0x38307⟩
def labPodLine : State :=
  { with2 4 0x40010 5 0 with ms := { lab.ms with tlb := [podEnt], pod := [⟨homeOf podEnt 0x40010 / 16, 5, true⟩] } }
theorem witness_CacheControlResults : lab.th.sent = none ∧ lab.grp.stop = none ∧
    ((with2 9 0 4 0x30010).src 9 = 0#32) ∧ (0 < (lab.src (fR 2 0 4 8).b).toNat ∧ 0x30010 + 8 ≤ 2 ^ 56 ∧ 8 ≤ 65536 - 0x30010 % 65536) ∧
    (2 ^ 56 < ((with2 4 0xFFFFFFFF 5 0x00FFFFFF).srcPair 4).toNat + (lab.src 8).toNat) ∧ 2 ^ 56 ≤ ((with2 4 0 5 0x01000000).srcPair 4).toNat ∧
    Mapped lab 0x30010 .load dataEnt ∧ ((actsOf dataEnt 0x30010 lab false).podAwaits = false ∧
    (actsOf dataEnt 0x30010 lab true).podAwaits = false) ∧
    (fR 0 0 4 0).w.toNat < 2 ∧ 2 ≤ (fR 2 0 4 0).w.toNat ∧ lab.effScope (fR 2 0 4 8).w.toNat = 2 ∧ lab.effScope (fR 3 0 4 8).w.toNat = 3 ∧
    isPod (homeOf dataEnt 0x30010) = false ∧ (labPodLine.th.sent = none ∧ labPodLine.effScope 3 = 3 ∧ Mapped labPodLine 0x40010 .load podEnt ∧
    (actsOf podEnt 0x40010 labPodLine false).podAwaits = true ∧ (actsOf podEnt 0x40010 labPodLine true).podAwaits = true) := by
  refine ⟨by decide +kernel, by decide +kernel, by decide +kernel, by decide +kernel, by decide +kernel, by decide +kernel,
    (reaches_lab 4 (by decide) .load (by decide)).toMapped, by decide +kernel, by decide +kernel, by decide +kernel, by decide +kernel,
    by decide +kernel, by decide +kernel, by decide +kernel, by decide +kernel, ⟨by decide +kernel, by decide +kernel, by decide +kernel⟩, ?_⟩
  decide +kernel

/-- A code line that the bay holds, and a page homed elsewhere on a die that has lost the reference. -/
def labLost : State :=
  { labMs (fun m => { m with tlb := [codeEnt, { dataEnt with leaf := dataEnt.leaf + 1024 * 3 }] }) with
    iod := { lab.iod with dies := lab.iod.dies.map fun d => { d with refLost := true } } }
theorem witness_CacheControlResults_lost : (linesOf (homeOf codeEnt 0x20010) 8).contains 0x800 = true ∧ lab.th.status ≠ .exited ∧
    (lab.tm.threads.any fun x => x.tid == lab.th.tid) = true ∧ (lab.ms.icache.any fun c => c.line == 0x800 && c.bay == lab.th.bay) = true ∧
    Mapped (with2 4 0x20010 5 0) 0x20010 .load codeEnt ∧
    Mapped labLost 0x30010 .load { dataEnt with leaf := dataEnt.leaf + 1024 * 3 } ∧ labLost.refLost = true ∧
    labLost.leavesDie (dataEnt.leaf + 1024 * 3).toNat (homeOf { dataEnt with leaf := dataEnt.leaf + 1024 * 3 } 0x30010) 0 = true ∧
    lab.refLost = false :=
  ⟨by decide +kernel, by decide +kernel, by decide +kernel, by decide +kernel, ⟨by decide +kernel, by decide +kernel, by decide +kernel⟩,
   ⟨by decide +kernel, by decide +kernel, by decide +kernel⟩, by decide +kernel, by decide +kernel, by decide +kernel⟩

/-- The test team as a team of a deterministic launch. -/
def labDet : State :=
  { lab with
    tm := { labTeam with decl := { labDecl with det := 1 } }
    grids := [{ labGrid with decl := { labDecl with det := 1 } }] }
theorem witness_DeterministicAccessResults : labDet.det = true ∧ leafDT dataEnt.leaf.toNat = true ∧ labDet.active (fM 0 8 4 0).g = true ∧
    (fM 0 8 4 0).o.getLsbD 2 = false ∧ eaOf labDet (fM 0 8 4 0) = 0x30010 ∧
    (touchLine labDet.ms.owners labDet.grid labDet.tm.ref.team (homeSlice (leafHome dataEnt.leaf.toNat) 0x30010) (0x30010 / 64) false).isSome = true ∧
    (touchLine labDet.ms.owners labDet.grid labDet.tm.ref.team (homeSlice (leafHome dataEnt.leaf.toNat) 0x30010) (0x30010 / 64) true).isSome = true ∧
    labDet.tm.log.length < 512 ∧ labDet.ms.latches = [] ∧ labDet.th.sent = none ∧ homeOf dataEnt 0x30010 = 0x30010 ∧
    ((touchLine labDet.ms.owners labDet.grid labDet.tm.ref.team (homeSlice (leafHome dataEnt.leaf.toNat) 0x30010) (0x30010 / 64) true).all
      fun os => spilledBy labDet os == spilledBy labDet labDet.ms.owners) = true := by decide +kernel
theorem witness_DeterministicAccessResults_reach (k : AccKind) (hk : k ∈ [AccKind.load, .store, .atomic]) : Reaches labDet 0x30010 4 k dataEnt := by
  simp only [List.mem_cons, List.not_mem_nil, or_false] at hk
  rcases hk with rfl | rfl | rfl <;>
    exact ⟨⟨by decide +kernel, by decide +kernel, by decide +kernel⟩, by decide +kernel, by decide +kernel, sound_of_none_lost _ _ _ _ _ (by decide +kernel),
      by decide +kernel, by decide +kernel⟩

/-! ### Hypotheses that are met: control and thread words -/

/-- A successor that is an entry, and one that is none. -/
theorem enterable_lab (a : Nat) (h : a ∈ [0x20000, 0x2000C, 0x20018, 0x20024, 0x20030]) : Enterable lab lab.accessor a true := by
  simp only [List.mem_cons, List.not_mem_nil, or_false] at h
  refine ⟨?_, ?_, codeEnt, ⟨0, 0x800, codeLine⟩, ?_, ?_, ?_, ?_, ?_⟩ <;>
    rcases h with rfl | rfl | rfl | rfl | rfl <;> decide +kernel
def labNoEntry : State := labMs fun m => { m with
  icache := [⟨0, 0x800, List.replicate 15 0x3E000006 ++ [0x1D]⟩], mem := codeMem (List.replicate 15 0x3E000006 ++ [0x1D]) }
theorem witness_TransferResults : Enterable lab lab.accessor (packetOff lab 1) true ∧ Enterable labNoEntry labNoEntry.accessor (packetOff labNoEntry 1) false ∧
    Enterable lab lab.accessor (packetOff lab (if lab.srcPred 0 then (fX 0 4).off.toInt else 1)) true ∧
    Enterable lab lab.accessor (packetOff lab (if !lab.srcPred 0 then (fX 0 4).off.toInt else 1)) true ∧
    Enterable lab lab.accessor (lab.srcPair 6).toNat true ∧
    Enterable (with2 62 0x20018 63 0) (with2 62 0x20018 63 0).accessor ((with2 62 0x20018 63 0).srcPair 62).toNat true ∧
    ((lab.srcPair 4).toNat % 64 ∉ [0, 12, 24, 36, 48]) ∧ 2 ^ 56 ≤ ((with2 4 0 5 0x01000000).srcPair 4).toNat := by
  refine ⟨?_, ?_, ?_, ?_, ?_, ?_, by decide +kernel, by decide +kernel⟩
  · exact (by decide +kernel : packetOff lab 1 = 0x2000C) ▸ enterable_lab _ (by decide)
  · refine ⟨by decide +kernel, by decide +kernel, codeEnt, ⟨0, 0x800, List.replicate 15 0x3E000006 ++ [0x1D]⟩, ?_, ?_, ?_, ?_, ?_⟩ <;> decide +kernel
  · exact (by decide +kernel : packetOff lab (if lab.srcPred 0 then (fX 0 4).off.toInt else 1) = 0x20030) ▸ enterable_lab _ (by decide)
  · exact (by decide +kernel : packetOff lab (if !lab.srcPred 0 then (fX 0 4).off.toInt else 1) = 0x2000C) ▸ enterable_lab _ (by decide)
  · exact (by decide +kernel : (lab.srcPair 6).toNat = 0x2000C) ▸ enterable_lab _ (by decide)
  · refine ⟨by decide +kernel, by decide +kernel, codeEnt, ⟨0, 0x800, codeLine⟩, ?_, ?_, ?_, ?_, ?_⟩ <;> decide +kernel

/-- A successor that is no entry: of NEXTP with its predicate true, of NEXTN with it true, of NEXTI; an address that is no packet, of RET. -/
theorem witness_TransferResults_stops : Enterable labNoEntry labNoEntry.accessor 0x2000C false ∧
    packetOff labNoEntry (if labNoEntry.srcPred 0 then (fX 0 1).off.toInt else 1) = 0x2000C ∧
    packetOff labNoEntry (if !labNoEntry.srcPred 0 then (fX 0 4).off.toInt else 1) = 0x2000C ∧
    (labNoEntry.srcPair 6).toNat = 0x2000C ∧ (lab.srcPair 62).toNat % 64 ∉ [0, 12, 24, 36, 48] := by
  refine ⟨⟨by decide +kernel, by decide +kernel, codeEnt, ⟨0, 0x800, List.replicate 15 0x3E000006 ++ [0x1D]⟩, ?_, ?_, ?_, ?_, ?_⟩, ?_, ?_, ?_, ?_⟩ <;>
    decide +kernel

theorem witness_PacketAddresses : (0x20030 < 2 ^ 63 ∧ 0x20030 % 64 ∈ [0, 12, 24, 36, 48] ∧ 64 ≤ 0x20030) ∧ 0 % 64 ∈ [0, 12, 24, 36, 48] := by decide

/-- EXIT of a team without phasers; RCV alone, behind a thread that is on its way, and beside one that waits at it. -/
def labNoPhasers : State := labTm fun t => { t with decl := { labDecl with phasers := 0 } }
def labRcvMate : State := labTm fun t => { t with
  threads := [labThread 0, { labThread 1 with status := .blocked .rcv, issued := [0x3E000004] }] }
theorem witness_ExitAndHoldResults : (labNoPhasers.tm.decl.phasers = 0 ∧ labNoPhasers.tm.decl.cphasers = 0 ∧ labNoPhasers.grid.cores = false) ∧
    (labTh fun t => { t with conv := some [] }).th.conv ≠ none ∧
    (labApart.th.conv = none ∧ (labApart.tm.threads.any fun t => t.tid != 0 && t.tid / 8 == 0 && t.bay == 0 && t.status == .within &&
      0x20000 < t.pc.toNat) = true) ∧
    (labRcvMate.th.conv = none ∧ ((labRcvMate.tm.threads.filter fun t => t.tid != 0).all fun t => t.atRcv true 0x20000 0x20000) = true) := by decide +kernel

/-- A mate at a boundary, and one blocked at a handle. -/
theorem witness_ExitAndHoldResults_mates :
    ((labTm fun t => { t with threads := [labThread 0, labThread 1] }).tm.threads.any fun t => t.tid == 1 && t.status == .boundary) = true ∧
    ((labTm fun t => { t with threads := [labThread 0, { labThread 1 with status := .blocked .handle }] }).tm.threads.any
      fun t => t.tid == 1 && t.status == .blocked .handle && t.conv.isNone) = true := by decide +kernel

/-- Every register of R188 and R373 has a word that names it, the 64-bit ones with an even register. -/
theorem witness_SpecialRegisterReads : lab.active (fE 8 0 0).g = true ∧
    (specialRegisters lab).all (fun r => (Instr.rdsr (fE 8 0 r.1)).wellFormed && (fE 8 0 r.1).arg.toNat == r.1) = true ∧
    (privilegedRegisters lab).all (fun r => (Instr.rdpr (fE 8 0 r.1)).wellFormed && (fE 8 0 r.1).arg.toNat == r.1) = true := by decide +kernel

theorem witness_SpecialRegisterWrites : lab.active (fE 0 8 0x2B).g = true ∧
    [0x10, 0x11, 0x18, 0x1A, 0x20, 0x26, 0x2A, 0x2B].all (fun n => (Instr.wrsr (fE 0 8 n)).wellFormed) = true := by decide +kernel

/-- A cohort of one that migrates home, nowhere, and to die 3; a width that changes the grant; a deterministic launch. -/
def labFar : State := labMs fun m => { m with tlb := [codeEnt, { dataEnt with leaf := dataEnt.leaf + 1024 * 3 }] }
theorem witness_ThreadWordResults : lab.active (fE 0 0 32).g = true ∧ lab.det = false ∧ labDet.det = true ∧ Meets lab false ∧
    lab.convMembers false = [lab.th] ∧ lab.th.guarded (fE 0 4 0).g = true ∧ (lab.grp.view.status = .boundary) ∧ lab.iod.dies[lab.th.bay / 96]?.isSome = true ∧ (0 ≤ lab.time) ∧
    (Mapped lab (lab.srcPair 4).toNat .load dataEnt ∧ (lab.srcPair 4).toNat < 2 ^ 56 ∧ leafHome dataEnt.leaf.toNat = lab.th.bay / 96) ∧
    (Mapped labFar (labFar.srcPair 4).toNat .load { dataEnt with leaf := dataEnt.leaf + 1024 * 3 } ∧
      leafHome (dataEnt.leaf + 1024 * 3).toNat ≠ labFar.th.bay / 96 ∧
      (((baysOfDie labFar (leafHome (dataEnt.leaf + 1024 * 3).toNat)).filter (fun b => labFar.tm.grant ≤ bayCap labFar b)).any fun b => vestibuleFree labFar b) = true) :=
  ⟨by decide +kernel, by decide +kernel, by decide +kernel, meets_lab.1, by decide +kernel, by decide +kernel, rfl, by decide +kernel, by decide +kernel,
   ⟨⟨by decide +kernel, by decide +kernel, by decide +kernel⟩, by decide +kernel, by decide +kernel⟩,
   ⟨by decide +kernel, by decide +kernel, by decide +kernel⟩, by decide +kernel, by decide +kernel⟩

/-- Requests are answered at once; the tick counts of R460: 48 ticks add 240 ns, and the largest value returned stands. -/
theorem witness_ThreadWordResults_link : lab.linkFree = true := by decide +kernel
theorem test_rdtime : timeResult 1000000 48 0 = 1000240 ∧ timeResult 1000000 48 1000250 = 1000250 := by decide

/-- Two threads on team phaser 1 with the counts of R229: the other's, and the phaser's Pc. -/
def labPh (r0 r1 : PhRec) (pc : Word) (conv : Option (List Pending)) : State :=
  { lab with
    th := { labThread 0 with ph := (labThread 0).ph.set 1 r0, conv := conv }
    tm := { labTeam with
      tph := labTeam.tph.set 1 pc
      threads := [{ labThread 0 with ph := (labThread 0).ph.set 1 r0 }, { labThread 1 with ph := (labThread 1).ph.set 1 r1, status := .within }] } }
theorem after_next (x : Word) : after (x + 1) x := ⟨1, by decide, by decide, rfl⟩
theorem not_after_self (x : Word) : ¬ after x x := by
  rintro ⟨k, h1, h2, h3⟩
  have h := congrArg BitVec.toNat h3
  simp only [BitVec.toNat_add, BitVec.toNat_ofNat] at h
  omega
/-- Not arrived beside one that has not; not arrived beside one that has; arrived already, nothing to wait for; arrived, its wait
over; not registered; the only signaller to be; not arrived, and its last phase not over. -/
def labPh1 : State := labPh ⟨true, true, 5, 4⟩ ⟨true, false, 5, 0⟩ 5 none
def labPh2 : State := labPh ⟨true, true, 5, 4⟩ ⟨true, false, 6, 0⟩ 5 none
def labPh3 : State := labPh ⟨true, true, 6, 5⟩ ⟨true, false, 6, 0⟩ 5 none
def labPh4 : State := labPh ⟨true, true, 6, 4⟩ ⟨true, false, 6, 0⟩ 5 (some [])
def labPh5 : State := labPh ⟨false, false, 0, 0⟩ ⟨true, false, 6, 0⟩ 5 none
def labPh6 : State := labPh ⟨false, false, 0, 0⟩ ⟨false, true, 0, 4⟩ 5 none
def labPh7 : State := labPh ⟨true, true, 5, 5⟩ ⟨true, false, 5, 0⟩ 5 none
def rec1 (s : State) : PhRec := s.th.ph.getD 1 ⟨false, false, 0, 0⟩
/-- The sole signaller that labPh6 gains. -/
def labPh6b : State := { labPh6 with th := withRecord labPh6.th 1 ⟨true, false, 6, 0⟩ }
def sigsOf (s : State) : List Thread := ((arrived s .team 1).phParts .team).filter fun t => (t.phRec 1).sig
theorem witness_PhaserResults : (∀ s ∈ [labPh1, labPh2, labPh3, labPh4, labPh5, labPh6, labPh7], Phased (fE 0 0 1) s .team 1) ∧
    ((rec1 labPh1).sig = true ∧ (rec1 labPh1).wait = true ∧ labPh1.th.conv = none ∧ ¬ after (rec1 labPh1).arr (labPh1.phPc .team 1) ∧
      (∃ t ∈ sigsOf labPh1, ¬ after (t.phRec 1).arr (labPh1.phPc .team 1)) ∧ after (labPh1.phPc .team 1) (rec1 labPh1).wai) ∧
    (sigsOf labPh2 ≠ [] ∧ (∀ t ∈ sigsOf labPh2, after (t.phRec 1).arr (labPh2.phPc .team 1)) ∧
      (∀ t ∈ ((arrived labPh2 .team 1).setPhPc .team 1 6).phParts .team, (t.phRec 1).wait = true → 6 - (t.phRec 1).wai ≠ BitVec.ofNat 32 (2 ^ 31 - 1)) ∧
      ((arrived labPh2 .team 1).setPhPc .team 1 6).phPc .team 1 = 6 ∧ after 6 (rec1 labPh2).wai) ∧
    (after (rec1 labPh3).arr (labPh3.phPc .team 1) ∧ ¬ after (labPh3.phPc .team 1) (rec1 labPh3).wai) ∧
    (labPh4.th.conv ≠ none ∧ after (labPh4.phPc .team 1) (rec1 labPh4).wai) ∧
    ((rec1 labPh5).sig = false ∧ (rec1 labPh5).wait = false ∧ labPh5.th.conv = none) := by
  refine ⟨?_, ⟨by decide, by decide, rfl, ?_, ?_, ?_⟩, ⟨by decide +kernel, ?_, by decide +kernel, by decide +kernel, ?_⟩, ⟨?_, ?_⟩,
    ⟨by decide, ?_⟩, by decide, by decide, rfl⟩
  · intro s hs
    simp only [List.mem_cons, List.not_mem_nil, or_false] at hs
    rcases hs with rfl | rfl | rfl | rfl | rfl | rfl | rfl <;>
      exact ⟨by decide +kernel, by decide, by decide, by decide, by decide +kernel, .inl (by decide +kernel)⟩
  · exact not_after_self 5
  · refine ⟨(sigsOf labPh1).getD 1 Thread.blank, by decide +kernel, ?_⟩
    exact (by decide +kernel : ((((sigsOf labPh1).getD 1 Thread.blank).phRec 1).arr) = 5) ▸ not_after_self 5
  · exact after_next 4
  · intro t ht
    have h : ∀ t ∈ sigsOf labPh2, (t.phRec 1).arr = 5 + 1 := by decide +kernel
    exact h t ht ▸ after_next 5
  · exact ⟨2, by decide, by decide, by decide⟩
  · exact after_next 5
  · exact not_after_self 5
  · exact after_next 4
/-- Roles given up and gained by PHREG; a phaser out of range; a PHAW whose last phase is not over. -/
theorem witness_PhaserResults_more : (labPh1.phOk (phKindOf (fE 0 0 2).arg) ((fE 0 0 2).arg.toNat % 32) = false ∧ labPh1.th.migrated = false) ∧
    (fE 2 0 1).d.getLsbD 0 = false ∧ (fE 3 0 1).d.getLsbD 0 = true ∧ (fE 1 0 1).d.getLsbD 1 = false ∧
    ((rec1 labPh6).sig = false ∧ ((labPh6b.phParts .team).filter fun t => (t.phRec 1).sig) ≠ [] ∧
      (∀ t ∈ (labPh6b.phParts .team).filter (fun t => (t.phRec 1).sig), after (t.phRec 1).arr (labPh6.phPc .team 1)) ∧
      ∀ t ∈ (labPh6b.setPhPc .team 1 6).phParts .team, (t.phRec 1).wait = true → 6 - (t.phRec 1).wai ≠ BitVec.ofNat 32 (2 ^ 31 - 1)) ∧
    ((rec1 labPh7).sig = true ∧ (rec1 labPh7).wait = true ∧ labPh7.th.conv = none ∧ ¬ after (rec1 labPh7).arr (labPh7.phPc .team 1) ∧
      (∃ t ∈ sigsOf labPh7, ¬ after (t.phRec 1).arr (labPh7.phPc .team 1)) ∧ ¬ after (labPh7.phPc .team 1) (rec1 labPh7).wai) := by
  refine ⟨by decide +kernel, by decide, by decide, by decide, ⟨by decide, by decide +kernel, ?_, by decide +kernel⟩, by decide, by decide, rfl,
    not_after_self 5, ?_, not_after_self 5⟩
  · intro t ht
    have h : ∀ t ∈ (labPh6b.phParts .team).filter (fun t => (t.phRec 1).sig), (t.phRec 1).arr = 5 + 1 := by decide +kernel
    exact h t ht ▸ after_next 5
  · refine ⟨(sigsOf labPh7).getD 1 Thread.blank, by decide +kernel, ?_⟩
    exact (by decide +kernel : ((((sigsOf labPh7).getD 1 Thread.blank).phRec 1).arr) = 5) ▸ not_after_self 5

/-- A wait whose condition holds of the word 0 at 0x30010, one that does not hold, and outcomes to be delivered. -/
def labWait : State := with2 6 0 8 0
def labLatch (b : Bool) : Latch := ⟨.thread ⟨lab.tm.ref, 0⟩, 0, 0, 0, 0, 0, false, 0, none, .table, false, false, 0, some b⟩
def labTold (b : Bool) : State := labMs fun m => { m with latches := [labLatch b] }
theorem witness_WaituResults : labWait.active (fE 5 4 0).g = true ∧ labWait.det = false ∧ labWait.myLatch = none ∧ labWait.ms.lost (homeOf dataEnt 0x30010 / 16) = false ∧
    (waitTable 32 (homeNat labWait.ms 0x30010 4) (labWait.srcs 6 1)).getD 0 false = true ∧
    (waitTable 32 (homeNat labWait.ms 0x30010 4) (labWait.srcs 6 1)).getD 1 false = false ∧
    ((labTold true).myLatch = some (labLatch true) ∧ (labTold false).myLatch = some (labLatch false)) ∧ (fE 5 4 4).arg.getLsbD 2 = true ∧
    (fE 5 4 0).arg.getLsbD 2 = false := by decide +kernel
theorem witness_WaituResults_reach : Reaches labWait (labWait.srcPair 4).toNat 4 .load dataEnt :=
  ⟨⟨by decide +kernel, by decide +kernel, by decide +kernel⟩, by decide +kernel, by decide +kernel, sound_of_none_lost _ _ _ _ _ (by decide +kernel),
    by decide +kernel, by decide +kernel⟩

/-! ### Hypotheses that are met: traps and system words -/

def labHandler : State := labTm fun t => { t with trapv := 0x20024 }
theorem witness_UserTrapDelivery : 0x04 ∈ userCauses ∧ 0x25 ∈ userCauses ∧ labHandler.th.tl = false ∧ labHandler.tm.trapv ≠ 0#64 ∧ labHandler.grp.stop = none ∧
    Enterable labHandler labHandler.accessor labHandler.tm.trapv.toNat true := by
  refine ⟨by decide, by decide, by decide, by decide, rfl, by decide +kernel, by decide +kernel, codeEnt, ⟨0, 0x800, codeLine⟩, ?_, ?_, ?_, ?_, ?_⟩ <;>
    decide +kernel

def labSup : State := labTh fun t => { t with sup := true, spc := 0x20004 }
def labSpc (a : DWord) : State := labTh fun t => { t with sup := true, spc := a }
theorem witness_SupervisorTrapDelivery : 0x01 ∈ supervisorCauses ∧ (0x25 ∈ userCauses ∧ lab.tm.trapv = 0#64) ∧ lab.th.tl = false ∧
    Enterable lab { lab.accessor with sup := true } (lab.ctxOf lab.tm.ref.ctx).svec.toNat true ∧
    ((labTh fun t => { t with tl := true }).th.tl = true ∧ (lab.ctx? lab.tm.ref.ctx).any (fun c => decide (c.st = .resident)) = true) := by
  refine ⟨by decide, by decide, by decide, ⟨by decide +kernel, by decide +kernel, codeEnt, ⟨0, 0x800, codeLine⟩, ?_, ?_, ?_, ?_, ?_⟩, by decide +kernel⟩ <;>
    decide +kernel

/-- User level; supervisor level with a return address in slot 1, at a lintel word, at no word, and beyond the range; contexts that
CTXFL may flush: its own, an empty one, one whose team is shuttered, and one outside the partition. -/
def labTwo : State := { labSup with teams := [labTeam, { labTeam with ref := ⟨8, 1, 0⟩, st := .shuttered }] }
theorem witness_SystemWordResults : lab.th.sup = false ∧ labSup.th.sup = true ∧ labSup.active false = true ∧
    (labSup.th.spc.toNat % 4 = 0 ∧ labSup.th.spc.toNat % 64 ≠ 60 ∧ labSup.th.spc.toNat < 2 ^ 56) ∧
    ((labSpc 0x20002).th.spc.toNat % 4 ≠ 0 ∧ (labSpc 0x2003C).th.spc.toNat % 64 = 60 ∧ 2 ^ 56 ≤ (labSpc 0x100000000000000).th.spc.toNat) ∧
    (labSup.ctx? labSup.tm.ref.ctx).any (fun c => decide (c.st = .resident)) = true ∧
    (let p := labSup.iod.parts.getD (labSup.ctxOf labSup.tm.ref.ctx).part Part.unused
     (p.ctxBase ≤ 1 ∧ 1 < p.ctxBase + p.ctxCnt ∧ (labSup.src 1).toNat = labSup.tm.ref.ctx) ∧
     ((labSup.src 8).toNat = 8 ∧ 8 < p.ctxBase + p.ctxCnt ∧ (∀ t ∈ labSup.teams, t.ref.ctx ≠ 8) ∧
      (∀ t ∈ labTwo.teams, t.ref.ctx = 8 → t.st = .shuttered) ∧ (∃ t ∈ labTwo.teams, t.ref.ctx = 8)) ∧
     ¬ ((labSup.src 4).toNat < 4096)) := by decide +kernel

theorem witness_NonInstructionWordsTrap : refuses 0x3F000000 .badMajor = true ∧ refuses 0x11228C40 .badField = true ∧ refuses 0x06000000 .undefinedCode = true ∧
    majorOf 0x37000000 ∈ [0x06#6, 0x07, 0x17, 0x1C, 0x1D, 0x1E, 0x1F, 0x35, 0x36, 0x37] := by decide +kernel

/-! ### Hypotheses that are met: handles, matrix operations, cards, child grids, tree walks -/

/-- The test team with handle 3 in a state, with readers. -/
def labHandle (st : HState) (readers : Nat) : State := labTm fun t => { t with handles := t.handles.set 3 ⟨0, 0, st, readers⟩ }
theorem handled_lab (st : HState) (readers : Nat) : Handled (fE 0 8 3) (labHandle st readers) 3 :=
  ⟨rfl, rfl, by decide, by show 3 < 4; decide⟩
/-- A region of 16 bytes at offset 16 of the A-store, and one in global memory (R110). -/
def labRegion : State := labTh fun t => { t with regs := ((t.regs.set 8 16).set 9 0x90000000).set 10 16 }
/-- The first thread waits at handle 3 for it to become free, to fill it; and once that has happened. -/
def labHWait (done : Bool) : State := labTm fun t => { t with hwaits := [⟨0, 3, .free, some .full, done⟩] }
theorem witness_HandleResults : RegionHeld labRegion.tm (labRegion.srcPair 8) (labRegion.src 10).toNat ∧ RegionHeld lab.tm (lab.srcPair 4) 8 ∧
    labRegion.tm.handles[3]? = some ⟨0, 0, .free, 0⟩ ∧ Handled (fE 0 8 3) labRegion 3 ∧
    (∀ p ∈ [(HState.free, 0), (.filling, 0), (.full, 0), (.full, 2), (.draining, 0)], Handled (fE 0 8 3) (labHandle p.1 p.2) 3) ∧
    (∀ w ∈ (labHandle .full 0).tm.hwaits, w.tid ≠ (labHandle .full 0).th.tid) ∧ lab.det = false ∧
    (fE 2 0 3).d.toNat < 4 ∧ handleCode .full = (fE 2 0 3).d.toNat ∧ handleCode .free ≠ (fE 2 0 3).d.toNat ∧
    (labTh fun t => { t with migrated := true }).th.migrated = true ∧
    ((labHWait true).myHWait.any (·.done) && (labHWait false).myHWait.any fun w => !w.done) = true ∧
    ((labHWait false).tm.handles[3]? = some ⟨0, 0, .free, 0⟩ ∧ (labHWait false).tm.hwaits = [⟨0, 3, .free, some .full, false⟩]) := by
  refine ⟨?_, ?_, by decide +kernel, ⟨by decide +kernel, by decide, by decide, by decide +kernel⟩, fun p _ => handled_lab p.1 p.2, by decide, by decide +kernel,
    by decide, by decide, by decide, by decide, by decide, by decide⟩
  · unfold RegionHeld
    decide +kernel
  · unfold RegionHeld
    decide +kernel

/-- A handle that is not declared. -/
theorem witness_HandleResults_range : lab.active (fE 0 8 5).g = true ∧ lab.th.migrated = false ∧ lab.tm.decl.handles ≤ (fE 0 8 5).arg.toNat % 64 ∧ (fE 0 8 5).d.toNat < 4 := by
  decide +kernel

/-- The parameter block of an INT8 product of 16 × 16 × 32 elements, A and B from the start of their stores (R273). -/
def mxBlk : List Byte :=
  toBytes 1 0 ++ toBytes 1 1 ++ toBytes 1 1 ++ toBytes 1 6 ++ toBytes 2 16 ++ toBytes 2 16 ++ toBytes 2 32 ++ toBytes 4 0 ++
    [0xFF, 0xFF, 0xFF, 0xFF, 0xFF] ++ toBytes 1 0 ++ toBytes 12 0 ++ toBytes 4 64 ++ toBytes 4 64 ++ toBytes 4 64 ++ toBytes 20 0
/-- The test team with that block at 64 of its L-store. -/
def mxTeam : Team :=
  { labTeam with
    lst := Memory.write ⟨[]⟩ 64 mxBlk }
def labMx (f : Team → Team) : State := { with2 8 64 9 0 with tm := f mxTeam, teams := [f mxTeam] }
def mxJob (n : Word) : MxJob := ⟨mxBlk, n, 64, false, 0⟩
def labMxFull : State := labMx fun t => { t with streams := [⟨0, 8, (List.range 8).map fun i => mxJob (BitVec.ofNat 32 (i + 1)), none⟩] }
theorem witness_MatrixWordResults : (labMx id).active (fE 9 8 0).g = true ∧ (labMx id).th.migrated = false ∧ (fE 9 8 0).arg.toNat % 4 < (labMx id).tm.decl.streams ∧
    (labMx id).tm.decl.streams ≤ (fE 9 8 3).arg.toNat % 4 ∧ (labMx id).th.copy = none ∧
    ((labMx id).src (fE 9 9 0).a).toNat % 64 = 0 ∧ ((labMx id).src (fE 9 10 0).a).toNat % 64 ≠ 0 ∧
    (labMx fun t => { t with decl := { labDecl with lstore := 100 } }).tm.decl.lstore < 64 + 64 ∧
    (64 + 64 ≤ (labMx id).tm.decl.lstore ∧ (labMx id).tm.badStore = [] ∧ (labMx id).tm.lst.read 64 64 = mxBlk ∧
      (∀ h ∈ (MxBlk.ofBytes mxBlk).named, h.1 < (labMx id).tm.decl.handles) ∧
      (∀ f ∈ (MxBlk.ofBytes mxBlk).footprints, f.stop ≤ (labMx id).tm.storeSize f.space) ∧
      mxParamOk (labMx id).tm mxBlk = true ∧ mxParamOk (labMx id).tm (mxBlk.set 0 7) = false ∧ (labMx id).det = false) ∧
    ((labMx id).tm.streams[0]? = some ⟨0, 0, [], none⟩ ∧ (⟨0, 0, [], none⟩ : Stream).jobs = []) ∧
    (labMxFull.tm.streams[0]?.any fun st => 8 ≤ st.jobs.length && st.jobs.any fun j => j.tick == st.tick) = true ∧ (labMx id).th.woke = none := by
  decide +kernel

/-- A COPY card of 16 bytes from a region to 256 of the A-store, its parameter block at 1024 of the L-store (R284, R289). -/
def copyCard (src : Nat) : List Byte :=
  toBytes 1 1 ++ toBytes 1 0 ++ toBytes 1 0xFF ++ toBytes 1 0 ++ toBytes 4 1024 ++ toBytes 8 src ++ toBytes 4 16 ++ toBytes 4 16 ++
    toBytes 8 (2 ^ 63 + 2 ^ 60 + 256)
def copyBlk : List Byte := toBytes 8 0 ++ toBytes 4 16 ++ toBytes 4 1 ++ toBytes 4 1 ++ toBytes 44 0
def cardTeam (src : Nat) (f : Ring → Ring) : Team :=
  { labTeam with lst := ((Memory.write ⟨[]⟩ 1024 copyBlk).write 512 (toBytes 16 5)).writeNat 0 4 1 |>.write 32 (copyCard src), ring := f ⟨4, 0, false, [], [⟨1, 3, 0⟩], []⟩ }
/-- The card in v8 to v15. -/
def labCard (c : List Byte) (f : Ring → Ring) : State :=
  { labTh fun t => { t with regs := (List.range 64).map fun i => if 8 ≤ i ∧ i < 16 then BitVec.ofNat 32 (ofBytes ((c.drop (4 * (i - 8))).take 4)) else 0 } with
    tm := cardTeam (2 ^ 63 + 512) f }
def inStore : Nat := 2 ^ 63 + 512
theorem witness_EnqueueResults : (labCard (copyCard inStore) id).active (fE 20 8 0).g = true ∧ (labCard (copyCard inStore) id).det = false ∧
    toBytes 32 ((labCard (copyCard inStore) id).srcs 8 8) = copyCard inStore ∧ (labCard (copyCard inStore) id).th.copy = none ∧
    (labTh fun t => { t with migrated := true }).th.migrated = true ∧ (labCard (copyCard inStore) id).th.migrated = false ∧
    cardCheck false (cardTeam inStore id) (copyCard inStore) = none ∧ (cardTeam inStore id).badStore = [] ∧ (cardTeam inStore id).unretired < 4 ∧
    4 ≤ (cardTeam inStore fun r => { r with cards := List.replicate 3 ⟨0, copyCard inStore, copyBlk, 0, 0, .waiting, false, [], none, 0⟩ }).unretired ∧
    cardCheck false (cardTeam inStore id) ((copyCard inStore).set 3 1) = some .format ∧
    cardCheck false (cardTeam inStore id) (copyCard (2 ^ 63 + 4092)) = some (.bounds 4092) ∧
    cardCheck false (cardTeam inStore id) (copyCard (2 ^ 63 + 2 ^ 61)) = some .permission ∧
    cardCheck false (cardTeam inStore id) ((copyCard 0x30010).set 0 5) = some (.tensor 1088) := by decide +kernel

/-- A ring of no size; a card whose handle is not declared. -/
def badHandleCard : List Byte := (copyCard inStore).set 2 9
theorem witness_EnqueueResults_checks : (cardTeam inStore fun r => { r with size := 0 }).ring.size = 0 ∧
    ((cardTeam inStore id).ring.size ≠ 0 ∧ (cardTeam inStore id).ring.stopped = false ∧ cardType badHandleCard = 1 ∧ cardFlags badHandleCard < 8 ∧
      badHandleCard.getD 3 0 = 0#8 ∧ (cardRbase badHandleCard = 0x8000000000000200#64 ∧ cardWbase badHandleCard = 0x9000000000000100#64) ∧ cardParam badHandleCard % 64 = 0 ∧ cardHandle badHandleCard = 9 ∧
      (cardTeam inStore id).decl.handles ≤ 9) ∧
    cardCheck false (cardTeam inStore id) badHandleCard = some (.handle 9) := by decide +kernel

theorem witness_TableAndChildResults : (labTh fun t => { t with regs := t.regs.set 4 0x30000 }).active (fE 9 4 0).g = true ∧
    ((with2 4 0x30000 5 0).srcPair 4).toNat % 4096 = 0 ∧ ((with2 4 0x30000 5 0).srcPair 4).toNat < 2 ^ 56 ∧ (lab.srcPair 4).toNat % 4096 ≠ 0 ∧
    (match tableRead (with2 4 0x30000 5 0) 0x30000 256 with | .ok (bs, _) => (ftabOfBytes bs).isSome | .error _ => false) = true ∧
    (match tableRead { with2 4 0x30000 5 0 with ms := { lab.ms with mem := lab.ms.mem.write 0x30000 [0xFF, 0xFF] } } 0x30000 256 with
      | .ok (bs, _) => (ftabOfBytes bs).isNone | .error _ => false) = true ∧
    ((labTh fun t => { t with woke := some 5 }).th.woke = some 5 ∧ (labTh fun t => { t with woke := some 0 }).th.woke = some 0) ∧
    (lab.th.woke = none ∧ ∀ l ∈ lab.iod.launches, l.who ≠ ⟨lab.tm.ref, lab.th.tid⟩) ∧
    (lab.th.tid = 0 ∧ lab.grid.depth ≠ 10 ∧ (labTh fun t => { t with tid := 1 }).th.tid ≠ 0 ∧
      ({ lab with grids := [{ labGrid with depth := 10 }] } : State).grid.depth = 10) ∧
    (((with2 4 0x30000 5 0).srcPair 4).toNat % 64 = 0 ∧ unretiredChildren (with2 4 0x30000 5 0) < 256 ∧ (lab.srcPair 4).toNat % 64 ≠ 0) ∧
    (9 ∈ (labTm fun t => { t with children := [9] }).tm.children ∧ 8 ∉ (labTm fun t => { t with children := [9] }).tm.children) ∧
    (({ lab with grids := [labGrid, { Grid.blank 1 9 with st := .retired }] } : State).gridOf 1 9).st = .retired ∧
    (({ lab with grids := [labGrid, { Grid.blank 1 9 with st := .ready }] } : State).gridOf 1 9).st ≠ .retired := by decide +kernel
theorem witness_TableAndChildResults_page : Mapped (with2 4 0x30000 5 0) ((with2 4 0x30000 5 0).srcPair 4).toNat .load dataEnt :=
  ⟨by decide +kernel, by decide +kernel, by decide +kernel⟩

/-- A walk block at 128 of the L-store (R300) whose descriptor is at 0x30000 and whose tree of one leaf is at 0x30100. -/
def walkBlock (kind : Nat) : List Byte :=
  toBytes 8 0x30000 ++ toBytes 8 0x30100 ++ toBytes 1 kind ++ toBytes 1 4 ++ toBytes 46 0
def walkDesc : List Byte := toBytes 1 3 ++ toBytes 1 1 ++ toBytes 2 0 ++ toBytes 2 4 ++ toBytes 2 28 ++ toBytes 24 0
def walkNode : List Byte := toBytes 4 1 ++ toBytes 24 0 ++ toBytes 4 7 ++ toBytes 16 0
def labWalk (kind : Nat) (desc node : List Byte) : State :=
  { with2 8 128 9 0 with
    tm := { labTeam with lst := Memory.write ⟨[]⟩ 128 (walkBlock kind) }
    ms := { lab.ms with mem := (lab.ms.mem.write 0x30000 desc).write 0x30100 node } }
def freshWalk (kind : Nat) (desc : List Byte) : Walk := ⟨walkBlock kind, desc, 128, 0, 0, [0, 0, 0, 0], walkWord 0 0 0, false⟩
/-- What TWINIT finds: the descriptor's verdict, and of the root's test. -/
def walkFinds (kind : Nat) (desc node : List Byte) : Option (Bool × Option (Option Nat)) :=
  match unitRead (labWalk kind desc node) 0x30000 2 with
  | .ok (d, s1) => some (walkDescOk d, match (freshWalk kind d).read s1 0 with
    | .ok (n, _) => some ((freshWalk kind d).test ((freshWalk kind d).bound n))
    | .error _ => none)
  | .error _ => none
/-- A walk of one pending entry: the root. -/
def labPending : State :=
  let s := labWalk 2 walkDesc walkNode
  { s with
    th := { s.th with walk := some { freshWalk 2 walkDesc with depth := 1 } }
    tm := storedTeam s.tm 0 192 (toBytes 16 0) }
theorem witness_TreeWalkResults : (labWalk 2 walkDesc walkNode).active (fE 9 8 0).g = true ∧ (labWalk 2 walkDesc walkNode).th.migrated = false ∧
    (labTh fun t => { t with migrated := true }).th.migrated = true ∧ lab.th.walk = none ∧
    ((labTh fun t => { t with walk := some (freshWalk 2 walkDesc) }).th.walk = some (freshWalk 2 walkDesc) ∧ (freshWalk 2 walkDesc).failed = false ∧
      (freshWalk 2 walkDesc).depth = 0 ∧ (fE 12 0 0).arg.getLsbD 0 = false ∧ lab.th.copy = none) ∧
    (labPending.th.walk.any fun w => w.depth == 1 && w.qkind != 0 && (match w.read labPending (ofBytes ((labPending.tm.lst.read (w.area + 64) 8).take 4)) with
      | .ok (node, _) => (ofBytes (node.take 4)).testBit w.leafbit | .error _ => false)) = true ∧ labPending.tm.badStore = [] ∧
    (128 % 64 = 0 ∧ 128 + 64 ≤ (labWalk 2 walkDesc walkNode).tm.decl.lstore ∧ (lab.src 9).toNat % 64 ≠ 0 ∧
      ((labWalk 2 walkDesc walkNode).tm.lst.read 128 64) = walkBlock 2 ∧ walkBlockOk (walkBlock 2) = true ∧ walkBlockOk (walkBlock 9) = false ∧
      128 + 64 + 16 * field (walkBlock 2) 17 1 ≤ (labWalk 2 walkDesc walkNode).tm.decl.lstore ∧ field (walkBlock 2) 0 8 < 2 ^ 56 ∧ field (walkBlock 2) 8 8 < 2 ^ 56) ∧ labPending.th.step = none ∧
    ((walkFinds 2 walkDesc walkNode).any fun r => r.1 && (r.2.any (·.isSome))) = true ∧
    ((walkFinds 1 walkDesc (walkNode.take 4 ++ toBytes 4 0x40000000 ++ walkNode.drop 8)).any fun r => r.1 && (r.2.any (·.isNone))) = true ∧
    ((walkFinds 2 (toBytes 32 0) walkNode).any fun r => !r.1) = true := by decide +kernel

/-- A value that reads as no NaN. -/
theorem no_nan (a : Nat) (h : (match fmt32.read a with | .nan _ => false | _ => true) = true) : ¬ isNan a := by
  rintro ⟨sg, e⟩
  rw [e] at h
  cases h
theorem a_nan (a : Nat) (h : fmt32.read a = .nan false) : isNan a := ⟨false, h⟩

/-- A walk of a kind with query words, whose tree stands at an address. -/
def queryWalk (kind tree : Nat) (q : List Nat) (depth tmax : Nat) : Walk :=
  ⟨toBytes 8 0x30000 ++ toBytes 8 tree ++ toBytes 1 kind ++ toBytes 1 4 ++ toBytes 14 0 ++ q.flatMap (toBytes 4) ++ toBytes (32 - 4 * q.length) 0,
    walkDesc, 128, depth, BitVec.ofNat 32 tmax, [0, 0, 0, 0], walkWord 0 0 0, false⟩
def unitBox : Bound := ⟨[0, 0, 0], [0x3F800000, 0x3F800000, 0x3F800000], [0, 0, 0], 0⟩
/-- A ray from (0, 0, 0) toward (1, 1, 1); one whose second axis gives a NaN; a sphere; a sphere of an infinite radius at infinity. -/
def rayQ : List Nat := [0, 0, 0, 0x3F800000, 0x3F800000, 0x3F800000, 0]
def nanQ : List Nat := [0, 0x7F800000, 0, 0x3F800000, 0x7F800000, 0x3F800000, 0]
def ballQ : List Nat := [0, 0, 0, 0x3F800000]
def qOf (w : Walk) (i : Nat) : Nat := field w.blk (32 + 4 * i) 4
theorem witness_TreeWalkResults_ray : field (queryWalk 0 0x30100 rayQ 0 0x7F800000).blk 16 1 = 0 ∧
    (∀ i < 3, SoundAxis (qOf (queryWalk 0 0x30100 rayQ 0 0x7F800000)) unitBox i) ∧ ¬ isNan (qOf (queryWalk 0 0x30100 rayQ 0 0x7F800000) 6) ∧ ¬ isNan 0x7F800000 ∧
    (slab (qOf (queryWalk 0 0x30100 rayQ 0 0x7F800000)) unitBox [0, 1, 2] (0, 0x7F800000)).isSome = true := by
  refine ⟨by decide +kernel, ?_, no_nan _ (by decide +kernel), no_nan _ (by decide +kernel), by decide +kernel⟩
  intro i hi
  have h : i = 0 ∨ i = 1 ∨ i = 2 := by omega
  rcases h with rfl | rfl | rfl <;>
    exact ⟨no_nan _ (by decide +kernel), no_nan _ (by decide +kernel), no_nan _ (by decide +kernel), no_nan _ (by decide +kernel),
      fun _ _ => ⟨no_nan _ (by decide +kernel), no_nan _ (by decide +kernel)⟩⟩
theorem witness_TreeWalkResults_nan : SoundAxis (qOf (queryWalk 0 0x30100 nanQ 0 0x7F800000)) unitBox 0 ∧
    qOf (queryWalk 0 0x30100 nanQ 0 0x7F800000) 4 ≠ 0 ∧ qOf (queryWalk 0 0x30100 nanQ 0 0x7F800000) 4 ≠ 0x80000000 ∧
    isNan (quot (less .rne 0 (qOf (queryWalk 0 0x30100 nanQ 0 0x7F800000) 1)) (qOf (queryWalk 0 0x30100 nanQ 0 0x7F800000) 4)) :=
  ⟨⟨no_nan _ (by decide +kernel), no_nan _ (by decide +kernel), no_nan _ (by decide +kernel), no_nan _ (by decide +kernel),
    fun _ _ => ⟨no_nan _ (by decide +kernel), no_nan _ (by decide +kernel)⟩⟩, by decide +kernel, by decide +kernel, a_nan _ (by decide +kernel)⟩
theorem witness_TreeWalkResults_ball : field (queryWalk 1 0x30100 ballQ 0 0).blk 16 1 = 1 ∧
    (∀ i < 3, ¬ isNan (less .rne 0 (qOf (queryWalk 1 0x30100 ballQ 0 0) i)) ∧ ¬ isNan (less .rne (qOf (queryWalk 1 0x30100 ballQ 0 0) i) 0x3F800000)) ∧
    ¬ isNan (square3 0 0 0) ∧ ¬ isNan (times .rne 0x3F800000 0x3F800000) ∧ isNan (less .rne 0x7F800000 0x7F800000) := by
  refine ⟨by decide +kernel, ?_, no_nan _ (by decide +kernel), no_nan _ (by decide +kernel), a_nan _ (by decide +kernel)⟩
  intro i hi
  have h : i = 0 ∨ i = 1 ∨ i = 2 := by omega
  rcases h with rfl | rfl | rfl <;> exact ⟨no_nan _ (by decide +kernel), no_nan _ (by decide +kernel)⟩

/-- A walk in a state whose stack's top entry is at an offset with a value, and whose nodes are as given; and a tree at the end of the
address space. -/
def labStep (w : Walk) (off val : Nat) (nodes : List Byte) : State :=
  let s := labWalk 2 walkDesc nodes
  { s with
    th := { s.th with walk := some w }
    tm := storedTeam s.tm 0 (192 + 16 * (w.depth - 1)) (toBytes 4 off ++ toBytes 4 val ++ toBytes 8 0)
    ms := { s.ms with tlb := ⟨0, 1, 2 ^ 56 - 65536, 65536, 0x38007⟩ :: s.ms.tlb } }
def topNode (w : Walk) (s : State) : Option (List Byte) := match w.read s (ofBytes ((s.tm.lst.read (w.area + 64 + 16 * (w.depth - 1)) 8).take 4)) with
  | .ok (n, _) => some n
  | .error _ => none
/-- An inner node whose one child stands at an offset. -/
def inner (child : Nat) : List Byte := toBytes 28 0 ++ toBytes 4 child ++ toBytes 16 0
def openQ : List Nat := [0, 0, 0, 0x3F800000]
def openWalk (depth : Nat) : Walk := queryWalk 2 0x30100 openQ depth 0
def endWalk : Walk := queryWalk 2 (2 ^ 56 - 64) openQ 1 0
def kids (w : Walk) (s : State) (off : Nat) : Option (List (Nat × Nat)) :=
  match w.read s off with
  | .ok (n, s1) => match childTests w n s1 (List.range (field w.desc 1 1)) with | .ok (ps, _) => some ps | .error _ => none
  | .error _ => none
theorem witness_TreeWalkResults_turns : (openWalk 0).depth = 0 ∧
    -- an entry beyond tmax
    (field (queryWalk 0 0x30100 rayQ 1 0x3F800000).blk 16 1 = 0 ∧ f32lt 0x3F800000 0x40000000 = true) ∧
    -- a leaf; an inner node that is pushed; one without children; one on a full stack
    ((topNode (openWalk 1) (labStep (openWalk 1) 0 0 walkNode)).any fun n => (ofBytes (n.take 4)).testBit (field walkDesc 3 1)) = true ∧
    ((topNode (openWalk 1) (labStep (openWalk 1) 0 0 (inner 7))).any fun n => !(ofBytes (n.take 4)).testBit (field walkDesc 3 1) &&
      !(openWalk 1).far ((openWalk 1).bound n) (((openWalk 1).test ((openWalk 1).bound n)).getD 0)) = true ∧
    ((kids { openWalk 1 with depth := 0 } (labStep (openWalk 1) 0 0 (inner 7)) 0).map List.length) = some 1 ∧
    ((kids { openWalk 1 with depth := 0 } (labStep (openWalk 1) 0 0 (inner 0xFFFFFFFF)) 0).map List.length) = some 0 ∧
    (0 + 1 ≤ field (openWalk 1).blk 17 1 ∧ field (openWalk 5).blk 17 1 < (openWalk 5).depth - 1 + 1) ∧
    -- an inner node that is far: a point of size 0 that is not the query's
    ((topNode (openWalk 1) (labStep (openWalk 1) 0 0 (toBytes 4 0 ++ toBytes 4 0x3F800000 ++ toBytes 40 0))).any fun n =>
      (openWalk 1).far ((openWalk 1).bound n) (((openWalk 1).test ((openWalk 1).bound n)).getD 0)) = true ∧
    -- addresses that no node has: of the top entry, and of a child
    (2 ^ 56 ≤ endWalk.tbase + 16 * 4 ∧ 0 < endWalk.nsize) ∧
    (match endWalk.read (labStep endWalk 4 0 walkNode) 4 with | .error (.fault c _) => c == cRange | _ => false) = true ∧
    ((match endWalk.read { labStep endWalk 0 0 walkNode with ms := { (labStep endWalk 0 0 walkNode).ms with
        mem := (labStep endWalk 0 0 walkNode).ms.mem.write (0x3FFC0) (inner 4) } } 0 with
      | .ok (n, s1) => (match childTests endWalk n s1 [0] with | .error (.fault c _) => c == cRange | _ => false)
      | .error _ => false) = true) ∧
    -- a step that lowers tmax, and one that does not
    (fE 12 0 1).arg.getLsbD 0 = true ∧ (fE 12 0 0).arg.getLsbD 0 = false ∧ (openWalk 1).failed = false := by decide +kernel

/-! ### Hypotheses that are met: events of threads -/

def ref0 : TeamRef := ⟨1, 1, 0⟩
def tref : ThreadRef := ⟨ref0, 0⟩
/-- The test team with its first thread changed, among the teams, at cycle 100,000. -/
def evTeam (f : Thread → Thread) : Team := { labTeam with threads := [f (labThread 0), { labThread 1 with status := .exited }] }
def evState (t : Team) : State := { lab with teams := [t], cycle := 100000, time := 1000 }
theorem names_ev (f : Thread → Thread) (h : (f (labThread 0)).tid = 0) : Names (evState (evTeam f)) tref (evTeam f) (f (labThread 0)) := by
  refine ⟨rfl, ?_⟩
  simp [evTeam, tref, h]
def walkFound (s : State) (va : Nat) (locked : Bool) : Bool :=
  match leafFor s 1 0 va with | (.leaf l _ _, _) => leafLock l == locked | _ => false
/-- A locked data page. -/
def lockedEnt : TlbEnt := { dataEnt with leaf := 0x38027 }
theorem witness_ThreadEventResults :
    ((evTeam fun x => { x with pending := [.reg 3 9, .flags 4 1] }).threads.headD Thread.blank).pending = [.reg 3 9, .flags 4 1] ∧
    (((evTeam fun x => { x with status := .blocked .rcv }).threads.headD Thread.blank).since + roundOf (evState labTeam) 1 ≤ 100000 ∧
      ((evTeam fun x => { x with status := .blocked .rcv }).threads.headD Thread.blank).conv = none) ∧
    (((evTeam fun x => { x with yielded := true }).threads.headD Thread.blank).yielded = true ∧
      ((evTeam fun x => { x with yielded := true }).threads.headD Thread.blank).since + 16 ≤ 100000) ∧
    ([.reg 3 9, .reg 4 8, .flags 4 2, .reg 5 1, .flags 2 1] : List Pending) = [] ++ .reg 3 9 :: .reg 4 8 :: .flags 4 2 :: [.reg 5 1, .flags 2 1] ∧
    ([.reg 3 9, .reg 4 8, .flags 4 2, .reg 5 1, .flags 2 1] : List Pending) = [.reg 3 9, .reg 4 8, .flags 4 2] ++ .reg 5 1 :: .flags 2 1 :: [] ∧
    walkFound (evState (evTeam fun x => { x with status := .parked 0x30000 0 })) 0x30000 false = true ∧
    walkFound { evState (evTeam fun x => { x with status := .aside 0x30000 }) with ms := { lab.ms with tlb := [lockedEnt] } } 0x30000 true = true ∧
    (evState labTeam).runningTeam ref0 = some labTeam ∧
    (∀ x ∈ (evTeam fun x => { x with held := true }).threads, x.status = .exited ∨ (x.status = .boundary ∧ x.held = true ∧ x.migrated = false)) ∧ 100000 ≤ 99000 + roundOf (evState labTeam) 1 ∧
    9000 + roundOf (evState labTeam) 1 ≤ 100000 ∧
    (let t := { labTeam with threads := [{ labThread 0 with status := .blocked .convergent, issued := [0x16000003] }, { labThread 1 with pc := 0x20004, status := .blocked .convergent, issued := [0x16000003] }], convAcc := [1000000, 0] }
     t.diverged (some 0) = true ∧ 4 * roundOf (evState t) 1 ≤ t.convAcc.getD (t.convSlot (some 0)) 0) ∧
    ((evTeam fun x => { x with status := .exited }).threads.all fun x => x.status == .exited) = true ∧
    (((evTeam id).threads.find? fun x => x.status != .exited).any fun x => x.status == .boundary) = true ∧
    (0x30000 < 2 ^ 56 ∧ (evState labTeam).alive 1 = true) := by decide +kernel
theorem witness_ThreadEventResults_names : Names (evState (evTeam fun x => { x with pending := [.reg 3 9, .flags 4 1] })) tref
    (evTeam fun x => { x with pending := [.reg 3 9, .flags 4 1] }) { labThread 0 with pending := [.reg 3 9, .flags 4 1] } := names_ev _ rfl

/-- R441: a parked thread whose page is there walks again when 4 µs have passed since its last walk, and no earlier. -/
def parkedState : State := evState (evTeam fun x => { x with status := .parked 0x30000 0, since := 1000 })
def stands (s : State) : List Status := s.teams.flatMap fun t => (t.threads.take 1).map (·.status)
theorem test_parked_walk_is_due : stands (advance 3999 0 parkedState) = [.parked 0x30000 0] ∧ stands (advance 4000 0 parkedState) = [.within] := by decide +kernel

/-- R431: a page behind an expander port whose link is down, or up. -/
def expanderState (link : Nat) : State := labMs fun ms => { ms with tlb := [⟨0, 1, 0x30000, 65536, 0x1000000000107⟩], expl := [link, 0, 0, 0] }
theorem test_expander_link : (out (.ld (fM 0 12 4 0)) (expanderState 3)).iod.ltocnt = 1 ∧ (outTh (.ld (fM 0 12 4 0)) (expanderState 2)).pending = [.reg 12 0] := by
  decide +kernel

/-! ### Hypotheses that are met: events of the memory system -/

/-- A clean and a dirty copy of sectors, a message to a peer that a thread awaits, an exported window. -/
def evMem : State :=
  { evState (evTeam fun x => { x with status := .blocked .pod, sent := some ⟨1, [(2, 7)], [], 0, 0, false⟩, issued := [0x3E000006] }) with
    ms := { lab.ms with
      caches := [⟨0, 0x3001, 77, true, false⟩, ⟨768, 0x3001, 78, false, false⟩]
      podOut := [⟨some tref, 2, 7, 2 ^ 45, 8, 5, true⟩, ⟨none, 2, 8, 2 ^ 45, 8, 5, false⟩, ⟨some (backRef 1), 2, 9, 2 ^ 45, 8, 5, false⟩] }
    iod := { lab.iod with node := some 3, exports := [⟨0x30000, 4096, 0⟩, ⟨0x50000, 4096, 7⟩], podl := List.replicate 16 2, routes := [(2, 0), (5, 1)] } }
/-- A thread whose request to another die, or its walker's, is outstanding; a card whose request is. -/
def evAsked (walker : Bool) (now : Nat) : State :=
  { evState (evTeam fun x => { x with status := .blocked .link, asked := some ⟨0, false, walker, 0x3001, 0⟩, issued := [0x20040800] }) with time := now }
def evCard : Team := { labTeam with ring := ⟨4, 1, false, [⟨0, [], [], 0, 0, .started, false, [], none, 500⟩], [], []⟩ }
theorem witness_MemoryEventResults : 95 < 96 ∧ (16 ≤ 16 ∧ 0x30000 / 16 = (0x30000 + 16 - 1) / 16 ∧ 0x30000 < 2 ^ 40) ∧ 0x3000 ∉ evMem.ms.failed ∧
    0x3001 ∈ ({ evMem.ms with failed := [0x3001] } : MemSys).failed ∧
    (evMem.iod.node ≠ none ∧ (2, 7) ∉ evMem.ms.podIn ∧ (evMem.iod.exports.any fun w => w.base ≤ 0x30010 && 0x30010 < w.base + w.size) = true) ∧
    (2, 7) ∈ ({ evMem.ms with podIn := [(2, 7)] } : MemSys).podIn ∧
    (evMem.ms.podOut.find? fun m => m.peer == 2 && m.seq == 7) = some ⟨some tref, 2, 7, 2 ^ 45, 8, 5, true⟩ ∧
    ((atGroup evMem tref).any fun g => g.2.1.status == .blocked .pod && g.2.2.2.podAwaits) = true ∧
    ((atGroup { evMem with ms := lab.ms } tref).any fun g => !g.2.2.2.podAwaits) = true ∧
    (evMem.iod.podl.getD 15 0 = 2 ∧ 15 < evMem.iod.podl.length) ∧ (16 * 0x3000 < 2 ^ 40) ∧
    cacheGet evMem.ms 768 0x3001 = some ⟨768, 0x3001, 78, false, false⟩ ∧ cacheGet evMem.ms 0 0x3001 = some ⟨0, 0x3001, 77, true, false⟩ ∧
    (evMem.placedTeam ref0).isSome = true ∧ 63 < 64 ∧ 3 < 4 ∧ 4095 < labTeam.storeSize 3 ∧
    -- the window whose lines have a home of their own, and no window
    ((evMem.iod.exports.find? fun w => w.base ≤ 0x50010 && 0x50010 < w.base + w.size) = some ⟨0x50000, 4096, 7⟩ ∧ 7 ≠ bits 0x50010 32 30 ∧
      (evMem.iod.exports.find? fun w => w.base ≤ 0x60010 && 0x60010 < w.base + w.size) = none) ∧
    -- a node that a link leads to, and one that none does
    ((evMem.iod.routes.any fun r => r.1 == 2 && evMem.iod.podl.getD r.2 0 == 2) = true ∧
      (evMem.iod.routes.any fun r => r.1 == 9 && evMem.iod.podl.getD r.2 0 == 2) = false) ∧
    -- counts that have ended and that have not
    (evMem.time < 0 + 10 * evMem.iod.lto ∧ 0 + 10 * evMem.iod.lto ≤ (evAsked false 1000000).time ∧ (evAsked true 999999).time < 0 + 10 * evMem.iod.lto) ∧
    ((evAsked true 1000000).placedTeam ref0).any (fun t => (t.threads.find? fun x => x.tid == 0).any fun x =>
      x.status == .blocked .link && x.asked == some ⟨0, false, true, 0x3001, 0⟩ && x.issued == [0x20040800] && x.step.isNone) = true ∧
    (2 ^ 32 ≤ 2 ^ 32 + 0 ∧ (evCard.ring.cards.all fun c => c.seq == 2 ^ 32 + 0 - 2 ^ 32 && c.phase != .waiting && c.since + 10 * evMem.iod.lto ≤ 1000500) = true ∧
      (evCard.ring.cards.all fun c => 1000499 < c.since + 10 * evMem.iod.lto) = true) ∧
    -- a link that fails beside another path to the source of time, and without one
    (({ evMem.iod with node := some 5, routes := [(2, 0), (2, 1)] } : Iod).routes.any fun r => r.1 < 5 && evMem.iod.podl.getD 1 0 == 2) = true ∧
    evMem.iod.node = some 3 := by
  decide +kernel
theorem witness_MemoryEventResults_due : ((atGroup { evMem with time := 1000000 } tref).any fun g => g.2.1.status == .blocked .pod) = true := by
  decide +kernel

/-! ### Hypotheses that are met: events of engines -/

/-- The team of a COPY card in a phase, on a ring whose first card it is. -/
def kCard (src : Nat) (p : CardPhase) : Card := ⟨0, copyCard src, copyBlk, 0, 0, p, false, [], none, 0⟩
def kTeam (src : Nat) (p : CardPhase) : Team := cardTeam src fun r => { r with accepted := 1, cards := [kCard src p], appends := [] }
def kState (src : Nat) (p : CardPhase) (ms : MemSys) : State := { lab with ms := ms, teams := [kTeam src p] }
def kWork (src : Nat) (p : CardPhase) (ms : MemSys) : Except EngStop (Unit × State) :=
  copyWork (kCard src p) ((kState src p ms).asTeam (cardAt ((kTeam src p).startCard (kCard src p)) (kCard src p) .moved 0))
theorem witness_CardResults : (kTeam inStore .waiting).card? 0 = some (kCard inStore .waiting) ∧ cardType (kCard inStore .waiting).bytes = 1 ∧
    (kState inStore .waiting lab.ms).runningTeam ref0 = some (kTeam inStore .waiting) ∧
    cardReady (kState inStore .waiting lab.ms) (kTeam inStore .waiting) (kCard inStore .waiting) = true ∧
    (match kWork inStore .waiting lab.ms with | .ok _ => true | .error _ => false) = true ∧
    (match kWork 0x30010 .waiting { lab.ms with tlb := [lockedEnt] } with | .error (.wait none) => true | _ => false) = true ∧
    (match kWork 0x30010 .waiting { lab.ms with failed := [0x3001] } with | .error .kill => true | _ => false) = true ∧
    (kState inStore .started lab.ms).placedTeam ref0 = some (kTeam inStore .started) ∧ (kCard inStore .started).phase = .started ∧
    (regionIsStore (cardRbase (copyCard inStore)) = true ∧ regionIsStore (cardWbase (copyCard inStore)) = true ∧ field copyBlk 12 4 = 1 ∧ field copyBlk 16 4 = 1 ∧
      lab.tm.badStore = [] ∧ (kCard inStore .started).early = none) := by decide +kernel

/-- A team with an appended card, good or bad; a card whose reads are complete; a matrix operation at each stage. -/
def apTeam (c : List Byte) : Team := { cardTeam inStore id with lst := (cardTeam inStore id).lst.write 32 c }
def mxStage (q : List MxJob) (r : Option MxRun) : Team := { mxTeam with streams := [⟨5, 1, q, r⟩, ⟨0, 0, [], none⟩] }
theorem witness_EngineEventResults : ({ lab with teams := [apTeam (copyCard inStore)] } : State).runningTeam ref0 = some (apTeam (copyCard inStore)) ∧
    (let t := apTeam (copyCard inStore)
     0 < t.ring.size ∧ t.ring.stopped = false ∧ 1 ≤ (BitVec.ofNat 32 (t.lst.readNat 0 4) - t.ring.accepted).toNat ∧
      (BitVec.ofNat 32 (t.lst.readNat 0 4) - t.ring.accepted).toNat ≤ t.ring.size ∧ t.ring.cards.length < t.ring.size ∧ t.badStore = [] ∧
      cardCheck false t (t.lst.read 32 32) = none) ∧
    (let t := apTeam ((copyCard inStore).set 3 1)
     cardCheck false t (t.lst.read 32 32) = some .format ∧ (BitVec.ofNat 32 (t.lst.readNat 0 4) - t.ring.accepted).toNat = 1) ∧
    cardHandle (copyCard inStore) = 0xFF ∧ (kTeam inStore .moved).card? 0 = some (kCard inStore .moved) ∧
    (kTeam inStore .readsDone).card? 0 = some (kCard inStore .readsDone) ∧ lab.ms.podOut = [] ∧
    ((mxStage [mxJob 1] none).decl.det = 0 ∧ (mxStage [mxJob 1] none).streams[0]? = some ⟨5, 1, [mxJob 1], none⟩ ∧ (MxBlk.ofBytes mxBlk).readers = [] ∧
      (MxBlk.ofBytes mxBlk).hc = 0xFF) ∧
    ((mxStage [] (some ⟨mxJob 1, none, none, []⟩)).streams[0]? = some ⟨5, 1, [], some ⟨mxJob 1, none, none, []⟩⟩ ∧
      mxHeadersFaulty (MxBlk.ofBytes mxBlk) (readOperands (mxStage [] none) (MxBlk.ofBytes mxBlk)) = false) ∧
    ({ lab with teams := [mxStage [mxJob 1] none] } : State).runningTeam ref0 = some (mxStage [mxJob 1] none) := by decide +kernel

/-- A card that was accepted before its team was saved, on a ring that has stopped. -/
def againTeam : Team := cardTeam inStore fun r => { r with accepted := 1, stopped := true, appends := [], again := [⟨1, 3, 0⟩] }
theorem witness_EngineEventResults_again : ({ lab with teams := [againTeam] } : State).runningTeam ref0 = some againTeam ∧ againTeam.ring.again = [⟨1, 3, 0⟩] ∧
    0 < againTeam.ring.size ∧ againTeam.ring.cards.length < againTeam.ring.size ∧ againTeam.badStore = [] ∧
    cardCheck false { againTeam with ring := { againTeam.ring with stopped := false } } (againTeam.lst.read (32 + 32 * (((1 : Word) - 1).toNat % 4)) 32) = none := by
  decide +kernel

/-! ### Hypotheses that are met: launches, placement and retirement -/

def noThread : State := { lab with teams := [], grids := [], ctxs := [], th := Thread.blank, tm := Team.blank, grp := State.reset.grp }
/-- A grid of four teams that is offered, in a module with no team placed. -/
def lGrid : Grid := { Grid.blank 1 2 with st := .ready, decl := labDecl, nteams := 4, group := 1, order := 1 }
def lState (g : Grid) (ts : List Team) : State := { noThread with grids := [g], teams := ts, ctxs := lab.ctxs }
theorem theGrid (g : Grid) (ts : List Team) (h : (lState g ts).gridOf g.ctx g.gid = g) : TheGrid (lState g ts) g := ⟨h, g, by simp [lState], rfl, rfl⟩

theorem witness_LaunchEventResults_place : TheGrid (lState lGrid []) lGrid ∧ placing (lState lGrid []) = true ∧ gridOffers (lState lGrid []) lGrid = true ∧
    nextTeam (lState lGrid []) lGrid = some 0 ∧ noEarlier (lState lGrid []) lGrid.prio lGrid.order 0 = true ∧ lGrid.cores = false ∧ lGrid.group = 1 ∧
    (fitsNew (lState lGrid []) lGrid 0 767).isSome = true :=
  ⟨theGrid _ _ (by decide +kernel), by decide +kernel, by decide +kernel, by decide +kernel, by decide +kernel, by decide, by decide, by decide +kernel⟩

theorem witness_LaunchEventResults_wait :
    ((lState { lGrid with st := .waiting } []).gridOf 1 2).st = .waiting ∧ (lState { lGrid with st := .waiting } []).alive 1 = true ∧
    gridLatch (lState { lGrid with st := .waiting } []) { lGrid with st := .waiting } = none ∧ lGrid.depaddr = 0 ∧ lGrid.cond = false ∧
    ((lState { lGrid with timed := true } []).gridOf 1 2).timed = true ∧ lGrid.tstart ≤ (lState { lGrid with timed := true } []).time := by decide +kernel

/-- A team whose threads have exited; a retired one; a shuttered one; a saved one; one of a deterministic launch. -/
def exited : Team := { labTeam with threads := [{ labThread 0 with status := .exited }, { labThread 1 with status := .exited }] }
def shut : Team := { labTeam with st := .shuttered }
def savedState : State := out (.teamSaved ref0) { lab with teams := [shut], iod := { lab.iod with ctxtb := 0xA000 } }
def savedTeam : Team := savedState.teams.headD Team.blank
def oneGrid : Grid := { labGrid with nteams := 1, retired := 1 }
def detGrid : Grid := { oneGrid with decl := { labDecl with det := 1 } }
theorem witness_LaunchEventResults_retire : ({ lab with teams := [exited] } : State).placedTeam ref0 = some exited ∧ exited.decl.det = 0 ∧
    (∀ x ∈ exited.threads, x.status = .exited) ∧ exited.unretired = 0 ∧ (∀ x ∈ exited.streams, x.jobs = []) ∧ exited.imprecise = [] ∧
    (lState oneGrid []).alive 1 = true ∧ gridDone (lState oneGrid []) oneGrid = true ∧ oneGrid.cmpl = 0 ∧ oneGrid.sigaddr = 0 ∧
    (performAll (lState oneGrid []) (retireRef 1 1)).ms.podOut = [] := by decide +kernel
theorem witness_LaunchEventResults_grid : TheGrid (lState oneGrid []) oneGrid ∧ TheGrid (lState detGrid [{ exited with st := .retired }]) detGrid ∧
    detGrid.st = .ready ∧ detGrid.decl.det ≠ 0 ∧ phaseTeams detGrid ≠ [] ∧
    (∀ i ∈ phaseTeams detGrid, ((lState detGrid [{ exited with st := .retired }]).teams.find? fun t => t.ref == ⟨1, 1, i⟩ && t.st == .retired).isSome = true) :=
  ⟨theGrid _ _ (by decide +kernel), theGrid _ _ (by decide +kernel), by decide, by decide, by decide +kernel, by decide +kernel⟩
theorem witness_LaunchEventResults_save : (lState detGrid [{ exited with decl := detGrid.decl }]).team? ref0 = some { exited with decl := detGrid.decl } ∧
    ((lState detGrid []).gridOf 1 1).decl.cphasers = 0 ∧
    (({ lab with teams := [shut] } : State).team? ref0 = some shut ∧ (∀ x ∈ shut.threads, threadStopped x = true) ∧
      enginesStopped { lab with teams := [shut] } shut = true ∧ shut.image = 0) := by decide +kernel
theorem witness_LaunchEventResults_resume : savedState.team? ref0 = some savedTeam ∧ placing savedState = true ∧ savedTeam.st = .saved ∧ savedTeam.shutMb = false ∧
    asidTaken savedState 1 (savedState.ctxOf 1).asid = false ∧ resumeUnit savedState savedTeam = [savedTeam] ∧ teamOffered savedState savedTeam = true ∧
    noEarlier savedState (savedState.gridOf 1 1).prio (savedState.gridOf 1 1).order 0 = true ∧ (resumeOne savedState savedTeam 9).isSome = true := by decide +kernel
/-- A context that is being killed, its grids retired. -/
def dying : State := { lab with ctxs := lab.ctxs.map fun c => { c with st := .killing }, grids := [{ labGrid with st := .retired }] }
theorem witness_LaunchEventResults_kill : (dying.ctx? 1).any (fun c => c.st == .killing && c.id == 1) = true ∧ (∀ g ∈ dying.grids, g.ctx = 1 → g.st = .retired) ∧
    (performAll (dropIssued dying 1) (retireRef 1 0)).ms.podOut = [] := by decide +kernel

/-- A host queue 0 of context 1 at 0x8000, of 16 slots at 0x9000, and a launch descriptor in its first slot. -/
def queueRec : List Byte := toBytes 8 0x9000 ++ toBytes 8 0 ++ toBytes 2 1 ++ toBytes 1 0 ++ toBytes 1 4 ++ toBytes 1 1 ++ toBytes 11 0
def queueState : State :=
  { lState lGrid [] with
    ms := { lab.ms with mem := lab.ms.mem.write 0x8000 queueRec }
    iod := { lab.iod with lqtb := 0x8000, queues := List.replicate 64 ⟨0, 0⟩ } }
theorem witness_LaunchEventResults_queue : queueState.iod.queues.length = 64 ∧ queueState.iod.lqtb ≠ 0 ∧
    (field (homeRead queueState.ms queueState.iod.lqtb 32) 20 1).testBit 0 = true ∧
    ((1 : Word) - (queueState.iod.queues.getD 0 ⟨0, 0⟩).head).toNat ≤ 2 ^ field (homeRead queueState.ms queueState.iod.lqtb 32) 19 1 ∧
    (lState lGrid []).iod.lqtb = 0 ∧ zeroBytes (homeRead queueState.ms queueState.iod.lqtb 32) 22 10 = true := by decide +kernel

/-- A descriptor at 0x40000 of one team of the kernel whose record stands at 0x41000, in a GiB that a table at 0x10000 maps. -/
def acceptState : State :=
  { queueState with
    ms := { queueState.ms with mem := [(0x8000, 8, 0x40000), (0x40004, 4, 1), (0x40008, 8, 0x41000), (0x41008, 2, 1), (0x4100A, 1, 8), (0x41030, 8, 0x20000),
      (0x10000, 8, 0x11001), (0x11000, 8, 0x12001), (0x12000, 8, 0x0B)].foldl (fun (m : Memory) x => m.writeNat x.1 x.2.1 x.2.2) queueState.ms.mem }
    iod := { queueState.iod with ctxtb := 0xA000, queues := List.replicate 64 ⟨0, 1⟩ } }
theorem witness_LaunchEventResults_accept : acceptState.iod.lqtb ≠ 0 ∧ acceptState.iod.ctxtb ≠ 0 ∧ acceptState.iod.passes = [] ∧ acceptState.inService = true ∧
    (let qd := homeRead acceptState.ms (acceptState.iod.lqtb + 32 * 0) 32
     zeroBytes qd 22 10 = true ∧ (field qd 20 1).testBit 0 = true ∧ (field qd 21 1).testBit 0 = false ∧
       (acceptState.iod.queues.getD 0 ⟨0, 0⟩).head ≠ (acceptState.iod.queues.getD 0 ⟨0, 0⟩).tail ∧ queuePart acceptState 0 = some 0 ∧
       partGrids acceptState 0 < 16384 ∧
       (match ctxFor acceptState 0 1 with
        | .ok c s1 => match feRead s1 1 0 (field qd 0 8 + 64 * (0 % 2 ^ field qd 19 1)) 64 with
          | .ok (d, s2) => match acceptDesc s2 c d (field qd 18 1 % 8) 0 none with | .ok _ _ => true | _ => false
          | .error _ => false
        | _ => false) = true) := by decide +kernel

/-- A retirement that awaits a peer, and a FENCE.engine that is saved uncompleted. -/
def unsent : State := { lState oneGrid [] with ms := { (lState oneGrid []).ms with podOut := [⟨none, 2, 0, 0, 4, 0, false⟩] } }
def fencing : Thread := { labThread 0 with status := .blocked .fence, sent := some ⟨0, [], [(⟨1, 1, 1⟩, 1)], 0, 0, false⟩ }
def fenceState : State := { lab with teams := [{ labTeam with threads := [fencing] }, { labTeam with ref := ⟨1, 1, 1⟩, st := .saved, ring := ⟨4, 1, false, [], [], [⟨1, 3, 0⟩]⟩ }] }
theorem witness_LaunchEventResults_waits : oneGrid.retiring = none ∧ (performAll (lState oneGrid []) (retireRef 1 1)).ms.unacked = [] ∧
    (performAll unsent (retireRef 1 1)).ms.unacked ≠ [] ∧ fenceStays fenceState { labTeam with threads := [fencing] } fencing = true := by decide +kernel

/-- The descriptor, extension and records of acceptState pass; a descriptor of no teams does not; and a record beyond 2^56 cannot be
read. -/
def goodDesc : List Byte := homeRead acceptState.ms 0x40000 64
def goodRec : List Byte := homeRead acceptState.ms 0x41000 64
theorem witness_LaunchDescriptorChecks : DescriptorOk goodDesc false ∧ ¬ DescriptorOk (List.replicate 64 0) false ∧
    (field goodDesc 56 8 = 0 ∧ field goodRec 56 8 = 0) ∧ KernelOk goodRec ∧ ¬ KernelOk (List.replicate 64 0) ∧ DeclaredOk goodRec ∧
    ¬ ExtensionOk (List.replicate 64 0) (toBytes 8 0 ++ toBytes 8 1 ++ toBytes 48 0) ∧ ExtensionOk goodDesc (List.replicate 64 0) ∧
    Unread acceptState 1 (2 ^ 57) 64 acceptState := by
  refine ⟨⟨by decide +kernel, by decide +kernel, by decide +kernel, by decide +kernel, by decide +kernel, by decide +kernel, by decide +kernel, by decide +kernel,
    by decide +kernel, by decide +kernel, by decide +kernel⟩, fun h => absurd h.teams.1 (by decide +kernel), by decide +kernel,
    ⟨by decide +kernel, by decide +kernel, by decide +kernel, .inl (by decide +kernel), by decide +kernel, by decide +kernel, by decide +kernel, by decide +kernel⟩,
    fun h => absurd h.team.1 (by decide +kernel), ?_, fun h => absurd h.pred.1 (by decide +kernel),
    ⟨by decide +kernel, by decide +kernel, by decide +kernel, by decide +kernel⟩, .inl ⟨?_, rfl⟩⟩
  · unfold DeclaredOk
    decide +kernel
  · rfl
theorem witness_LaunchDescriptorChecks_reads :
    (match feRead acceptState 1 0 (field goodDesc 8 8) 64 with
      | .ok (k, s2) => k == goodRec && (match feRead s2 1 0 (field k 48 8 / 64 * 64 + 60) 4 with
        | .ok (last, _) => (ofBytes last).testBit (field k 48 8 % 64 / 12)
        | .error _ => false)
      | .error _ => false) = true ∧
    (match feRead { acceptState with ms := { acceptState.ms with mem := acceptState.ms.mem.writeNat 0x12000 8 0x2B } } 1 0 0x41000 64 with
      | .error .locked => true
      | _ => false) = true ∧
    ((ofBytes (homeRead acceptState.ms 0x2003C 4)).testBit 7 = false) ∧ ftabOfBytes (List.replicate 4096 0xFF) = none := by decide +kernel

/-- A grid that has waited 2 ms for the one bay that works, which a team of a lower priority fills. -/
def wideDecl : Decl := { labDecl with wstore := 524288 }
def waiting : Grid := { lGrid with decl := wideDecl, nteams := 1 }
def fullState : State :=
  { lState waiting [{ labTeam with decl := wideDecl }] with
    grids := [waiting, { labGrid with prio := 5, decl := wideDecl }]
    time := 2000000
    iod := { lab.iod with dies := lab.iod.dies.zipIdx.map fun d => if d.2 = 0 then { d.1 with bays := 1 } else { d.1 with st := .failed, bays := 0 } } }
def emptied : State := without fullState 0 0
theorem witness_LaunchEventResults_preempt : TheGrid fullState waiting ∧ placing fullState = true ∧ (nextOffer fullState waiting).any (fun o => o.saved.isNone) = true ∧
    fullState.iod.priwt < fullState.time - waiting.waitSince ∧
    ((nextOffer fullState waiting).any fun o => !o.fits fullState && (List.range 768).all fun b => (fitsNew fullState waiting o.team b).isNone) = true ∧
    ((nextOffer fullState waiting).any fun o => ((List.range 768).filter fun b => (victim fullState b waiting.prio).isSome &&
      (fitsNew (without fullState b waiting.prio) waiting o.team b).isSome) == [0]) = true ∧
    ((victim fullState 0 waiting.prio).any fun t => t.decl.det == 0 && !(fullState.gridOf t.ref.ctx t.ref.gid).cores) = true :=
  ⟨⟨by decide +kernel, waiting, by simp [fullState], rfl, rfl⟩, by decide +kernel, by decide +kernel, by decide +kernel, by decide +kernel, by decide +kernel,
   by decide +kernel⟩

/-! ### Hypotheses that are met: the mailbox -/

/-- A record of a command with two arguments, at 0x1000, in the mailbox. -/
def mbRecord (cmd a b : Nat) : List Byte := toBytes 1 cmd ++ toBytes 7 0 ++ toBytes 8 a ++ toBytes 8 b ++ toBytes 40 0
def inBox (s : State) (r : List Byte) : State := { s with ms := { s.ms with mem := s.ms.mem.write 0x1000 r }, iod := { s.iod with mb := some 0x1000, mbrec := r } }
def asked (s : State) (cmd a b : Nat) : State := inBox s (mbRecord cmd a b)
/-- What `Commanded` asks of a record, as a check. -/
def commandedOk (s : State) (cmd : Nat) (r : List Byte) (used : List (Nat × Nat)) : Bool :=
  s.iod.mb == some 0x1000 && s.iod.mbrec.take 64 == r && field r 0 1 == cmd &&
    (List.range 64).all fun i => i < 2 || r.getD i 0 == 0 || (8 ≤ i && used.any fun u => u.1 ≤ i && i < u.1 + u.2)
theorem commanded_of (s : State) (cmd : Nat) (r : List Byte) (used : List (Nat × Nat)) (h : commandedOk s cmd r used = true) : Commanded s 0x1000 cmd r used := by
  simp only [commandedOk, Bool.and_eq_true, beq_iff_eq, List.all_eq_true, List.mem_range, Bool.or_eq_true, decide_eq_true_eq, List.any_eq_true] at h
  obtain ⟨⟨⟨h1, h2⟩, h3⟩, h4⟩ := h
  refine ⟨h1, h2, h3, fun i h5 h6 => ?_⟩
  rcases h4 i h6 with (h | h) | h
  · omega
  · exact .inl h
  · exact .inr ⟨h.1, h.2⟩
def commands : List (Nat × Nat × Nat × List (Nat × Nat)) :=
  [(1, 0x2000, 0, [(8, 8)]), (2, 1, 0x5000, [(8, 1), (9, 1), (10, 1), (16, 8)]), (2, 2, 0x5040, [(8, 1), (9, 1), (10, 1), (16, 8)]),
   (2, 3 + 256 * 7 + 65536 * 16, 0x5000, [(8, 1), (9, 1), (10, 1), (16, 8)]), (2, 4, 7, [(8, 1), (9, 1), (10, 1), (16, 8)]),
   (2, 5 + 65536 * 20, 0x3000, [(8, 1), (9, 1), (10, 1), (16, 8)]), (2, 6, 1000, [(8, 1), (9, 1), (10, 1), (16, 8)]),
   (2, 6, 10000001, [(8, 1), (9, 1), (10, 1), (16, 8)]), (4, 1 + 65536, 0, [(8, 2), (10, 1), (16, 4), (20, 4)]), (5, 4095, 0, [(8, 2)]),
   (6, 0x4000, 0, [(8, 8)]), (7, 65536 * 370, 0, [(8, 1), (10, 2)]), (7, 14 + 65536 * 201, 0, [(8, 1), (10, 2)]),
   (8, 36863, 0, [(8, 2), (10, 1), (16, 8)]), (9, 2 ^ 64 - 1, 0, [(8, 8)]), (10, 0x6000, 128, [(8, 8), (16, 8)]), (11, 0x6000, 0x7000, [(8, 8), (16, 8)])]
theorem witness_MailboxResults_commands : ∀ c ∈ commands, Commanded (asked noThread c.1 c.2.1 c.2.2.1) 0x1000 c.1 (mbRecord c.1 c.2.1 c.2.2.1) c.2.2.2 := by
  have h : (commands.all fun c => commandedOk (asked noThread c.1 c.2.1 c.2.2.1) c.1 (mbRecord c.1 c.2.1 c.2.2.1) c.2.2.2) = true := by decide +kernel
  intro c hc
  exact commanded_of _ _ _ _ (List.all_eq_true.mp h c hc)
def qShoot : List Byte := toBytes 1 1 ++ toBytes 63 0
/-- A partition table with one partition that holds everything (R385). -/
def partTable : List Byte :=
  toBytes 1 1 ++ toBytes 1 0xFF ++ toBytes 4 0 ++ toBytes 2 512 ++ toBytes 2 0 ++ toBytes 2 4096 ++ toBytes 4 0 ++ toBytes 8 (2 ^ 64 - 1) ++ toBytes 1000 0
theorem witness_MailboxResults : noThread.iod.service = .full ∧ noThread.iod.mb = none ∧ (asked noThread 1 0 0).iod.mb ≠ none ∧
    mbKnown (mbRecord 4 1 0) [] = true ∧ mbKnown (mbRecord 3 0x2000 0) qShoot = true ∧ field (mbRecord 12 0 0) 0 1 = 12 ∧ field qShoot 0 1 = 1 ∧
    field (mbRecord 3 0x2000 0) 8 8 % 64 = 0 ∧ (∀ c ∈ noThread.ctxs, c.st ≠ .resident ∧ c.st ≠ .killing) ∧
    ¬ (∀ c ∈ lab.ctxs, c.st ≠ .resident ∧ c.st ≠ .killing) ∧ (∀ l ∈ noThread.ms.latches, l.place ≠ .overflow) ∧
    (lab.alive 1 = true ∧ lab.teams = [labTeam] ∧ labTeam.st = .running ∧ labTeam.shutMb = false ∧ labTeam.ref.ctx = 1) ∧
    (noThread.ctx? 4095 = none ∧ (lab.ctx? 1).any (fun c => c.st == .resident) = true) ∧ partTableOk partTable = true ∧
    noThread.iod.dies[14]?.isSome = true ∧ (noThread.iod.everResident = false ∧ ({ noThread.iod with everResident := true } : Iod).everResident = true) := by decide +kernel
/-- Whether an image verifies is a free value (R475): for the image of the FWLOAD above one of the two clauses has its hypothesis. -/
theorem witness_MailboxResults_fwload : imageOk (homeRead (asked noThread 10 0x6000 128).ms 0x6000 128) = false ∨
    imageOk (homeRead (asked noThread 10 0x6000 128).ms 0x6000 128) = true := by
  cases imageOk (homeRead (asked noThread 10 0x6000 128).ms 0x6000 128) <;> simp

/-- A firmware load whose image is being written. -/
def writingSlot : State := let s := asked noThread 10 0x6000 128; { s with iod := { s.iod with fwwrite := some [1] } }
theorem witness_MailboxResults_slot : Commanded writingSlot 0x1000 10 (mbRecord 10 0x6000 128) [(8, 8), (16, 8)] ∧ writingSlot.iod.fwwrite = some [1] :=
  ⟨commanded_of _ _ _ _ (by decide +kernel), rfl⟩

/-- A translation request at 0x2000, of the page at 0x30000, which a table of five levels at 0x40000 maps. -/
def trRecord (cmd va len dst b36 : Nat) : List Byte :=
  toBytes 1 cmd ++ toBytes 1 0 ++ toBytes 2 1 ++ toBytes 4 0 ++ toBytes 8 va ++ toBytes 8 len ++ toBytes 8 dst ++ toBytes 4 0 ++ toBytes 1 b36 ++ toBytes 27 0
def trTree (leaf : Nat) (m : Memory) : Memory :=
  ((((m.write 0x40000 (toBytes 8 0x41001)).write 0x41000 (toBytes 8 0x42001)).write 0x42000 (toBytes 8 0x43001)).write 0x43000 (toBytes 8 0x44001)).write 0x44018 (toBytes 8 leaf)
def trState (q : List Byte) (leaf : Nat) : State :=
  let s := asked noThread 3 0x2000 0
  { s with
    ctxs := [⟨1, .resident, 0, 1, 11, 0x40000, 0x20000, 2, 0⟩]
    ms := { s.ms with mem := trTree leaf (s.ms.mem.write 0x2000 q), tlb := lab.ms.tlb }
    iod := { s.iod with mbrec := s.iod.mbrec ++ q, shootq := [0] } }
theorem requested_of (cmd : Nat) (q : List Byte) (leaf : Nat) (h1 : commandedOk (trState q leaf) 3 (mbRecord 3 0x2000 0) [(8, 8)] = true)
    (h2 : (trState q leaf).iod.mbrec.drop 64 = q) (h3 : field q 0 1 = cmd) (h4 : trFormatOk q cmd = true) (h5 : asidPart (trState q leaf) (field q 2 2) = some 0) :
    Requested (trState q leaf) 0x1000 cmd (mbRecord 3 0x2000 0) q 0 :=
  have hf : field (mbRecord 3 0x2000 0) 8 8 = 0x2000 := by decide +kernel
  ⟨commanded_of _ _ _ _ h1, rfl, by rw [hf], h2, h3, h4, h5⟩
def qMove : List Byte := trRecord 2 0x30000 0 0x70000 0
def qFlip : List Byte := trRecord 3 0x30000 0 0 1
def qDrop : List Byte := trRecord 1 0x20000 65536 0 0
theorem witness_MailboxResults_requests : Requested (trState qDrop 0x38007) 0x1000 1 (mbRecord 3 0x2000 0) qDrop 0 ∧
    Requested (trState qMove 0x38007) 0x1000 2 (mbRecord 3 0x2000 0) qMove 0 ∧ Requested (trState qFlip 0x38087) 0x1000 3 (mbRecord 3 0x2000 0) qFlip 0 :=
  ⟨requested_of _ _ _ (by decide +kernel) (by decide +kernel) (by decide +kernel) (by decide +kernel) (by decide +kernel),
   requested_of _ _ _ (by decide +kernel) (by decide +kernel) (by decide +kernel) (by decide +kernel) (by decide +kernel),
   requested_of _ _ _ (by decide +kernel) (by decide +kernel) (by decide +kernel) (by decide +kernel) (by decide +kernel)⟩
theorem witness_MailboxResults_pages :
    ((trWalk (trState qMove 0x38007) 1 0x30000).1 = some (0x38007, 16, 0x44018) ∧ leafLock 0x38007 = false ∧ leafHC 0x38007 = false ∧
      destinationOk (trState qMove 0x38007) 0 (movedEntry qMove 0x38007) 16 0x70000 = true ∧ homeNat (trState qMove 0x38007).ms 0x44018 8 = 0x38007 ∧
      (trState qMove 0x38007).iod.transreq = none ∧ homeNat (trState qMove 0x38027).ms 0x44018 8 = 0x38007 + 32) := by decide +kernel

/-- A migration on engine 0, at each of its stages, nothing in the mailbox. -/
def jMove (stage : Nat) : TransJob := if stage = 0 then ⟨qMove, 0, 0, 0, 0, 0, 0, 0, 0, false⟩ else ⟨qMove, 0, 1, 0x44018, 0x38007, 16, stage, 1, 1, false⟩
def moving (leaf stage : Nat) : State :=
  let s := trState qMove leaf
  { s with iod := { s.iod with mb := none, movers := [[jMove stage], []], shootq := if stage = 1 ∨ stage = 9 then [1] else [] } }
theorem witness_MailboxResults_movers : (trState qMove 0x38007).iod.movers[field qMove 37 1]? = some [] ∧
    (∀ g ∈ [0, 1, 2, 3, 9], (moving 0x38027 g).iod.mb = none ∧ (moving 0x38027 g).iod.movers = [[jMove g], []] ∧ (jMove g).record = qMove ∧
      (jMove g).part = 0 ∧ (jMove g).stage = g ∧ (moving 0x38027 g).teams = []) ∧
    (moving 0x38027 0).ms.podOut = [] ∧ (moving 0x38027 2).ms.failed = [] ∧
    ((trWalk (moving 0x38007 0) 1 0x30000).1 = some (0x38007, 16, 0x44018) ∧ field qMove 24 8 % 2 ^ 16 = 0 ∧
      destinationOk (moving 0x38007 0) 0 (movedEntry qMove 0x38007) 16 (field qMove 24 8) = true ∧ homeNat (moving 0x38007 0).ms 0x44018 8 = 0x38007) ∧
    (homeNat (moving 0x38027 3).ms (jMove 3).entryAt 8 = (jMove 3).entry + 32 ∧ leafLock (jMove 3).entry = false ∧ (jMove 3).k = 16) := by decide +kernel

/-- The page's leaf with HC, while a flip changes BIAS; and the later steps of a flip, the page locked. -/
def qFlip0 : List Byte := trRecord 3 0x30000 0 0 0
def flipping (stage status : Nat) : State :=
  let s := trState qFlip0 (0x380C7 + 32)
  { s with iod := { s.iod with transreq := some ⟨qFlip0, 0, 1, 0x44018, 0x380C7, 16, stage, status, status, false⟩ } }
theorem witness_MailboxResults_flips : Requested (flipping 1 0) 0x1000 3 (mbRecord 3 0x2000 0) qFlip0 0 ∧
    Requested (flipping 9 1) 0x1000 3 (mbRecord 3 0x2000 0) qFlip0 0 ∧ homeNat (flipping 1 0).ms 0x44018 8 = 0x380C7 + 32 ∧ leafLock 0x380C7 = false := by
  have hf : field (mbRecord 3 0x2000 0) 8 8 = 0x2000 := by decide +kernel
  exact ⟨⟨commanded_of _ _ _ _ (by decide +kernel), rfl, by rw [hf], by decide +kernel, by decide +kernel, by decide +kernel, by decide +kernel⟩,
    ⟨commanded_of _ _ _ _ (by decide +kernel), rfl, by rw [hf], by decide +kernel, by decide +kernel, by decide +kernel, by decide +kernel⟩,
    by decide +kernel, by decide +kernel⟩

/-- A walk that leaves the state as it was; turns of the mailbox and of engine 0; a page that has been shot down. -/
theorem witness_MailboxResults_turns : trWalk (moving 0x38007 0) 1 0x30000 = (some (0x38007, 16, 0x44018), moving 0x38007 0) ∧
    trWalk (trState qFlip 0x38087) 1 0x30000 = (some (0x38087, 16, 0x44018), trState qFlip 0x38087) ∧
    (trState qDrop 0x38007).iod.shootq.head? = some 0 ∧ (moving 0x38027 1).iod.shootq.head? = some 1 ∧ (moving 0x38027 2).iod.shootq.head? ≠ some 1 ∧
    (jMove 9).shot = false ∧ ({ jMove 9 with shot := true } : TransJob).shot = true ∧ portDown (moving 0x38027 2).ms 0x30000 = false ∧
    ((asidCtx (trState qMove 0x38007) 1).map (·.id)).getD 0 = 1 ∧ (flipping 1 0).iod.transreq = some ⟨qFlip0, 0, 1, 0x44018, 0x380C7, 16, 1, 0, 0, false⟩ ∧
    (trState qFlip 0x38087).iod.transreq = none := by decide +kernel

theorem witness_MailboxResults_locked :
    ((trWalk (trState qFlip 0x38087) 1 0x30000).1 = some (0x38087, 16, 0x44018) ∧ leafLock 0x38087 = false ∧ leafHC 0x38087 = true ∧
      biasedEntry qFlip 0x38087 ≠ 0x38087 ∧ homeNat (trState qFlip 0x38087).ms 0x44018 8 = 0x38087) ∧
    field (trRecord 3 0x30000 0 0 0) 36 1 = 0 ∧ trFormatOk (trRecord 3 0x30000 0 0 0) 3 = true ∧
    homeNat (trState (trRecord 3 0x30000 0 0 0) (0x380C7 + 32)).ms 0x44018 8 = 0x380C7 + 32 ∧ (trState qMove 0x38027).ms.podOut = [] ∧
    (trState qMove 0x38027).teams = [] := by decide +kernel

/-! ### Hypotheses that are met: bring-up, reset, a step -/

/-- R467: after power-on reset the near-tier, the far-tier and the compute dies start in turn. -/
def booted : State := out .powerOnReset State.reset
def startOrder : List Nat := [8, 9, 10, 11, 12, 13, 0, 1, 2, 3, 4, 5, 6, 7]
def allTraining : State := startOrder.foldl (fun s n => out (.bayStartBatch n) s) booted
def started : State := out .reducedServiceStart allTraining
def trained : State := out .trainingEnd started
def full : State := out .fullServiceStart trained
/-- A module in service for 2 ms, a bay of it power-gated, a member of a pod whose node 1 it reaches. -/
def labGated : State :=
  { noThread with
    time := 2000000
    iod := { noThread.iod with
      dies := noThread.iod.dies.map fun d => { d with gated := [3] }, node := some 3, routes := [(1, 0), (2, 0), (7, 1)], podl := List.replicate 16 2 } }
theorem witness_BringUpResults : State.reset.iod.service = .off ∧ State.reset.iod.fwok = true ∧
    ({ State.reset with iod := { State.reset.iod with fwok := false } } : State).iod.fwok = false ∧
    (booted.iod.service = .reduced ∧ (booted.die 8).st = .off ∧ (booted.die 0).st = .off) ∧
    (allTraining.iod.service = .reduced ∧ (allTraining.die 0).st = .training ∧ (allTraining.die 8).st = .training ∧ allTraining.iod.hbm[0]? = some .training ∧
      ∀ n < 14, (allTraining.die n).st ≠ .off) ∧
    (started.iod.service = .reduced ∧ started.iod.trained = false ∧ (started.die 0).st ≠ .training ∧ ∀ t ∈ started.teams, t.st ≠ .running) ∧
    (trained.iod.service = .reduced ∧ trained.iod.trained = true ∧ ∀ t ∈ trained.teams, t.placedHere = false) ∧
    (full.iod.service = .full ∧ (full.die 0).st = .ready ∧ (full.die 0).bays < 96 ∧ (full.die 7).st = .ready ∧
      (∀ m < 14, (full.die m).st ≠ .off) ∧ (full.die 0).batchAt = 0 ∧ (full.die 0).bays = 0 ∧ full.time < (full.die 0).heard + 20 * full.iod.lto ∧
      (∀ m < 1, (noThread.die m).bays = 96 ∨ (noThread.die m).st = .failed) ∧ (full.die 13).st = .ready ∧ ∀ c ∈ full.ctxs, c.st = .free) ∧
    (∃ c, lab.ctxs = [c] ∧ c.st = .resident ∧ ∃ t ∈ lab.teams, t.ref.ctx = c.id ∧ t.placedHere = true ∧ t.bay / 96 = 0) ∧
    (((out (.referenceClockLoss 13) full).die 13).refLost = true ∧ ((out (.referenceClockLoss 13) full).die 13).st = .degraded) ∧
    ((full.die 7).cap ≤ 740 ∧ 739 < (full.die 7).cap) ∧ ({ full.iod with node := some 3 } : Iod).node = some 3 ∧
    -- later: bays 2 µs apart, gated bays, a die not heard for 2 ms, the lowest node that a link leads to
    ((out (.bayStartBatch 0) full).die 0).bays = 8 ∧ ((out (.bayStartBatch 0) (out (.bayStartBatch 0) full)).die 0).bays = 8 ∧
    (labGated.die 0).bays = 96 ∧ (labGated.die 0).gated = [3] ∧ (labGated.die 0).batchAt + 2000 ≤ labGated.time ∧
    (labGated.die 0).heard + 20 * labGated.iod.lto ≤ labGated.time ∧
    (labGated.iod.routes.any fun r => r.1 == 1 && labGated.iod.podl.getD r.2 0 == 2) = true := by
  refine ⟨by decide +kernel, by decide +kernel, by decide +kernel, by decide +kernel, by decide +kernel, by decide +kernel, by decide +kernel, by decide +kernel,
    ⟨lab.ctxs.headD ⟨0, .free, 0, 0, 0, 0, 0, 0, 0⟩, by decide +kernel, by decide +kernel, labTeam, by simp [lab], by decide +kernel, by decide +kernel, by decide +kernel⟩,
    by decide +kernel, by decide +kernel, by decide +kernel, by decide +kernel, by decide +kernel, by decide +kernel, by decide +kernel, by decide +kernel,
    by decide +kernel, by decide +kernel⟩

/-- The firmware slot is being written (R475). -/
def loading : State := { full with iod := { full.iod with fwwrite := some [1] } }
theorem witness_BringUpResults_write : loading.iod.service ≠ .off ∧ loading.iod.fwwrite ≠ none ∧
    (asked noThread 10 0x6000 128).iod.fwwrite = none := by decide +kernel
/-- FWLOAD in progress: a reset now leaves a module that boots into recovery. -/
theorem test_fwload_interrupted : (out .powerOnReset (out .powerOnReset loading)).iod.service = .recovery := by decide +kernel

theorem witness_ResetValues : State.reset.iod.ctxtb = 0 ∧ State.reset.iod.lqtb = 0 ∧ State.reset.iod.lovb = 0 ∧
    (State.reset.iod.fqb.getD (State.reset.ctxOf 1).part (0, 0)).1 = 0 := by decide +kernel

/-- A module whose next turn issues the first instruction after reset, EXIT. -/
def stepState : State := State.reset.withFetchWord 32 0x3E000003
def stepRef : ThreadRef := match stepState.agenda with | ⟨_, _, .issue r⟩ :: _ => r | _ => tref
def stepFrom : State :=
  match stepState.agenda with
  | ⟨n, m, _⟩ :: rest => lateBefore stepRef (beforeAct (.issue stepRef) (advance n m { stepState with agenda := rest }))
  | [] => stepState
def stepTeam : Team := stepFrom.teams.headD Team.blank
def stepThread : Thread := stepTeam.threads.headD Thread.blank
def stepLine : List Word × State :=
  match fetchLine (stepFrom.focus stepRef) (stepFrom.focus stepRef).accessor stepThread.pc.toNat with
  | (.line l, s') => (l, s')
  | (_, s') => ([], s')
theorem witness_StepRunsDecodedInstruction : Alone stepFrom stepRef stepTeam stepThread stepLine.1 0x3E000003 (.exit (fR 0 0 0 0)) stepLine.2 where
  names := ⟨by decide +kernel, by decide +kernel⟩
  running := by decide +kernel
  ready := by decide +kernel
  range := by decide +kernel
  fetched := by
    have h : (match (fetchLine (stepFrom.focus stepRef) (stepFrom.focus stepRef).accessor stepThread.pc.toNat).1 with
      | .line _ => true | _ => false) = true := by decide +kernel
    unfold stepLine
    revert h
    generalize fetchLine (stepFrom.focus stepRef) (stepFrom.focus stepRef).accessor stepThread.pc.toNat = x
    obtain ⟨f, s'⟩ := x
    cases f <;> simp
  group := by decide +kernel
  word := rfl
  sound := by decide +kernel
  linked := by decide +kernel
  fresh := by decide +kernel
  store := by decide +kernel
theorem witness_StepRunsDecodedInstruction_exec : (match exec (.exit (fR 0 0 0 0)) (atWord stepLine.2 0x3E000003) with
    | .next u => u.grp.words == [0x3E000003] && u.grp.pos == 0 | _ => false) = true ∧
    (Instr.powerOnReset).hasWord = false ∧ (Instr.exit (fR 0 0 0 0)).hasWord = true := by decide +kernel

/-- A step issues the word at the program counter and performs it. -/
theorem test_step_runs_exit : (match step stepState with | .next t => t.teams.all fun t => t.threads.all fun x => x.status == .exited | _ => false) = true := by
  decide +kernel

/-- A release store of device scope (R250) that its thread passes before it is performed, as R163's store buffering allows, and then
its performance. -/
def lateState : State :=
  let s := State.reset.withFetchWord 32 (encode (.st (fM 0 8 2 6))).toNat
  { s with
    ms := { s.ms with mem := s.ms.mem.writeNat 0x12008 8 0x40000407 }
    teams := s.teams.map fun t => { t with threads := t.threads.map fun x => { x with regs := (x.regs.set 2 0x40030000).set 8 7 } }
    agenda := [⟨0, 0, .issueLate ⟨⟨1, 1, 0⟩, 0⟩⟩, ⟨0, 0, .performLate 0⟩] }
def stepped (s : State) : State := match step s with | .next t => t | _ => s
theorem test_store_passed : (stepped lateState).late.map (·.lines) = [[0x40030000 / 64]] ∧ homeRead (stepped lateState).ms 0x40030000 4 = [0, 0, 0, 0] ∧
    (stepped lateState).teams.all (fun t => t.threads.all fun x => x.pc == 0x20004) = true := by decide +kernel
theorem test_store_performed_late : (stepped (stepped lateState)).late = [] ∧ homeRead (stepped (stepped lateState)).ms 0x40030000 4 = [7, 0, 0, 0] := by
  decide +kernel

/-- A guard that is false. -/
def labOff : State := labTh fun t => { t with gsel := 1 }
theorem witness_GuardedWordsDoNothing : labOff.guardOn = false ∧ (Instr.iadd (fR 0 1 2 3 true)).wellFormed = true ∧ (Instr.iadd (fR 0 1 2 3 true)).hasWord = true ∧
    guardBit (encode (.iadd (fR 0 1 2 3 true))) = true ∧ convergentInstr (.iadd (fR 0 1 2 3 true)) = false := by decide +kernel

/-- A module after reset whose image does not verify: in the invariant, and the step is one in it. -/
def bricked : State := { State.reset with iod := { State.reset.iod with fwok := false } }
theorem witness_RecoveryEndsOnlyByFirmwareLoad : InRecovery bricked ∧ (match step bricked with | .next _ => true | _ => false) = true :=
  ⟨⟨.inl rfl, rfl, rfl, rfl, rfl, rfl, rfl, rfl, fun _ h => by cases h⟩, by decide +kernel⟩

/-! ### Object files (chapter 12's program) -/

/-- Names of chapter 12's program. -/
def nApply : Ident := [0x61]
def nBack : Ident := [0x62]
def nTriple : Ident := [0x74]
def nTret : Ident := [0x75]
def nScale : Ident := [0x73]
def nCoef : Ident := [0x63]

def gr (ws : List Instr) : SrcLine := ⟨none, some (.group (ws.map fun i => ⟨i, none⟩))⟩
def gs (i : Instr) (r : Ref) : SrcLine := ⟨none, some (.group [⟨i, some r⟩])⟩
def it (x : Item) : SrcLine := ⟨none, some x⟩

/-- The source of chapter 12 (R327 to R335). -/
def chapterSource : List SrcLine :=
  [it (.got nScale), it (.kernel nApply), it (.decl .team 64), it (.decl .width 64), it (.seg nApply), gr [.rdsr (fE 2 0 0)],
    gs (.adrh (fU 4 0)) (.hi20 ⟨nCoef, 0⟩), gs (.movi (fI 6 0 0)) (.lo12 ⟨nCoef, 0⟩), gr [.lea (fR 1 4 4 6)], gr [.andi (fI 3 2 7)],
    gr [.leaX4 (fR 1 4 4 3)], gr [.ld ⟨false, true, false, 0, 10, 4, 0, 0⟩], gs (.adrh (fU 8 0)) (.gothi nScale),
    gs (.movi (fI 6 0 0)) (.gotlo nScale), gr [.lea (fR 1 8 8 6)], gr [.ld ⟨false, true, false, 1, 8, 8, 0, 0⟩],
    gr [.calli (fR 0 0 8 0)], it (.seg nBack), gr [.ld ⟨false, true, false, 1, 12, 0, 0, 0⟩], gr [.leaX4 (fR 1 12 12 2)],
    gr [.st (fM 0 10 12 0)], gr [.exit (fR 0 0 0 0)], it .endk] ++
  [it (.kernel nTriple), it (.decl .team 64), it (.decl .width 64), it (.glob nScale), it (.seg nTriple),
    gr [.ld ⟨false, true, false, 0, 10, 0, 0, 2⟩], gs (.call (fU 0 0)) (.target nScale), it (.seg nTret),
    gr [.ld ⟨false, true, false, 1, 12, 0, 0, 0⟩], gr [.st (fM 0 10 12 0)], gr [.exit (fR 0 0 0 0)], it (.seg nScale),
    gr [.shli (fI 11 10 1)], gr [.iadd (fR 0 10 10 11)], gr [.ret (fR 0 0 0 0)], it .endk] ++
  [it .const, it (.align 64), ⟨some nCoef, some (.values 4 (([5, -2, 0, 11, 100, 7, -9, 1] : List Int).map .lit))⟩,
    it (.values 4 (List.replicate 7 (.lit 0))), it (.values 4 [.sym ⟨nCoef, 0⟩])]

def chapterAsm : Asm := (Asm.start.lines chapterSource).getD Asm.start
def chapterWords : List Word := codeLines chapterAsm.code.done.length chapterAsm.code.done
def chapterObject : List Byte := (apcen chapterSource).getD []

/-- The words that the chapter gives: those whose fields the loader fills, and the lintels of the three lines. -/
theorem test_apcen_packs_chapter_program : chapterWords.length = 48 ∧
    [1, 2, 7, 8, 15, 31, 47].map (chapterWords.getD · 0) =
      [0x39400000, 0x0F180000, 0x39800000, 0x0F180000, 0x411, 0x400, 0x407] := by decide +kernel

/-- The CALL of packet 10 names packet 12, the object is in the chapter's layout, and its relocations are the chapter's six. -/
theorem test_apcen_writes_chapter_object :
    field chapterObject 16 8 = 0x30000 ∧ field chapterObject 6 2 = 7 ∧ field chapterObject (288 + 4 * 34) 4 = 0x3B000002 ∧
      (recordsOf 24 6 (chapterObject.drop 720)).map (fun r => [field r 0 8, field r 8 4, field r 12 1, field r 14 2]) =
        [[4, 6, 3, 0], [8, 6, 4, 0], [0x1C, 5, 5, 0], [0x20, 5, 6, 2], [0x1003C, 6, 2, 0], [0x20000, 5, 1, 0]] := by decide +kernel

/-- What apcen reports of a load that nothing makes visible before a read of it and a write over it (R178). -/
theorem test_apcen_reports :
    apcenReports [it (.kernel nApply), gr [.ld (fM 0 10 0 0)], gr [.iadd (fR 0 10 10 11)], gr [.exit (fR 0 0 0 0)], it .endk] =
      [⟨2, true, 10⟩, ⟨2, false, 10⟩] ∧ apcenReports chapterSource = [] := by decide +kernel

/-- A gotlo without its gothi, and a foreign label as a target where it is no segment of the object. -/
theorem test_apcen_refuses :
    apcen [it (.got nScale), it (.kernel nApply), gs (.movi (fI 6 0 0)) (.gotlo nScale), it .endk] = none ∧
      apcen [it (.kernel nApply), it (.seg nApply), gs (.next (fU 0 0)) (.target nCoef), it .endk, it .const, ⟨some nCoef, none⟩] = none := by
  decide +kernel

/-- The four bytes at an address of a loaded object. -/
def mapped (l : Loaded) (a n : Nat) : Nat :=
  match l.maps.find? fun m => m.addr ≤ a && a < m.addr + m.bytes.length with
  | some m => field m.bytes (a - m.addr) n
  | none => 0

def loadsAt (b : Nat) : Load Loaded := load ⟨[(0x40000000, 0x10000)], b, []⟩ chapterObject

theorem test_load_second : (match loadsAt 0x80000000 with
    | .ok l => [0x80000004, 0x80000008, 0x8000001C, 0x80000020, 0x8001003C].map (mapped l · 4) ++ [mapped l 0x80020000 8, mapped l 0x80030070 8]
    | .error _ => []) = [0x39400010, 0x0F180FFC, 0x39800020, 0x0F180FE4, 0x80010000, 0x80000098, 0x80000080] := by decide +kernel
theorem test_load_first : (match loadsAt 0x7F0000000000 with
    | .error e => [e.reason, e.rel, e.sym, e.kernel, e.value]
    | .ok _ => []) = [5, 4, 6, 0xFFFFFFFF, 0x7F0000010000] := by decide +kernel
theorem test_load_bad_magic : (match load ⟨[], 0, []⟩ (0 :: chapterObject.tail) with | .error e => e.reason | .ok _ => 0) = 1 := by decide +kernel

/-! ### The issue cycle of a quadrant (the worked example of R17 and R18) -/

/-- A cohort of width 64 in three gangs: 0 of 40 threads, 1 of 16, 2 of 8, whose counters have run for n cycles. -/
def cycleTeam (n2 n1 : FairCount) : Team :=
  { labTeam with
    decl := { labDecl with dim := 64, width := 64 }, grant := 64, st := .running, hold := none, quads := [2], cfair := [⟨0, none⟩]
    gfair := [(2, n2), (1, n1)], gangs := 3
    threads := (List.range 64).map fun i =>
      { Thread.blank with tid := i, status := .within, bay := labTeam.bay, gang := if i < 40 then 0 else if i < 56 then 1 else 2
                          pc := 0x1000 } }
def cycleState (n2 n1 : FairCount) : State := { lab with teams := [cycleTeam n2 n1], turns := 77 }
def chosenGangs (n2 n1 : FairCount) : List Nat :=
  match quadChoice (cycleState n2 n1) labTeam.bay 2 with
  | some (_, gs) => gs.map fun g => g.x.gang
  | none => []
def countersAfter (n2 n1 : FairCount) : List (Nat × FairCount) :=
  match quadChoice (cycleState n2 n1) labTeam.bay 2 with
  | some (c, gs) => ((tickGangs c gs (cycleState n2 n1)).teams.map (·.gfair)).flatten
  | none => []

theorem test_cycle_0 : chosenGangs ⟨0, none⟩ ⟨0, none⟩ = [0, 1] ∧ countersAfter ⟨0, none⟩ ⟨0, none⟩ = [(2, ⟨1, none⟩)] := by decide +kernel
theorem test_cycle_2047 : chosenGangs ⟨2047, none⟩ ⟨0, none⟩ = [0, 1] ∧
    countersAfter ⟨2047, none⟩ ⟨0, none⟩ = [(2, ⟨2048, some 77⟩)] := by decide +kernel
theorem test_cycle_2048 : chosenGangs ⟨2048, some 3⟩ ⟨0, none⟩ = [2, 0] ∧
    countersAfter ⟨2048, some 3⟩ ⟨0, none⟩ = [(1, ⟨1, none⟩)] := by decide +kernel
/-- Slots go to the quadrants with the fewest; a slot whose threads have all exited counts no more (R220). -/
def slotTeam (live : List Nat) : Team :=
  { labTeam with decl := { labDecl with dim := 192, width := 64 }, grant := 64, quads := [0, 0, 1], threads := live.map fun i => labThread (64 * i) }
theorem test_quadrants : quadsFor [] 6 [] = [0, 1, 2, 3, 0, 1] ∧ quadsFor [slotTeam [0, 1, 2]] 3 [] = [2, 3, 1] ∧
    quadsFor [slotTeam [0, 1]] 3 [] = [1, 2, 3] := by decide +kernel

end Sys2Proof.Tests
end

section
/-! PROOFS. The integer words and the comparisons of chapter 07 (R192 to R205): the operand forms in the vocabulary of the
statements, the groups of an encoding, what each value is, and from these the statements. -/

namespace Sys2Proof.Proofs

open Sys2Proof.Machine Sys2Proof.Spec

/-! ### From the operand forms to the vocabulary of the statements -/

/-- A word without its guard bit always takes effect. -/
theorem active_of_unguarded {s : State} {g : Bool} (h : g = false) : s.active g = true := by simp [State.active, h]

/-- A word that is `alu2` with a short result, when its function has the stated values at both widths. -/
theorem shortWord_of_alu2 {i : RFmt → Instr} {f : (n : Nat) → BitVec n → BitVec n → BitVec n}
    {v32 : Word → Word → Word → Word} {v64 : DWord → DWord → DWord → DWord}
    (hexec : ∀ o s, exec (i o) s = .next (alu2 .short f o s))
    (h32 : ∀ a b d, f 32 a b = v32 a b d) (h64 : ∀ a b d, f 64 a b = v64 a b d) : ShortWord i v32 v64 := by
  intro o s hg
  refine ⟨fun hw => ?_, fun hw => ?_⟩
  · rw [hexec, alu2_short32 hg hw, h32 _ _ (s.src o.d)]; rfl
  · rw [hexec, alu2_short64 hg hw, h64 _ _ (s.srcPair o.d)]; rfl

/-- The same for `alu3`, whose destination is a third source. -/
theorem shortWord_of_alu3 {i : RFmt → Instr} {f : (n : Nat) → BitVec n → BitVec n → BitVec n → BitVec n}
    {v32 : Word → Word → Word → Word} {v64 : DWord → DWord → DWord → DWord}
    (hexec : ∀ o s, exec (i o) s = .next (alu3 .short f o s))
    (h32 : ∀ a b d, f 32 a b d = v32 a b d) (h64 : ∀ a b d, f 64 a b d = v64 a b d) : ShortWord i v32 v64 := by
  intro o s hg
  refine ⟨fun hw => ?_, fun hw => ?_⟩
  · rw [hexec, alu3_short32 hg hw, h32]; rfl
  · rw [hexec, alu3_short64 hg hw, h64]; rfl

/-- The same for `aluCtl`, whose B is a 32-bit count or control. -/
theorem controlWord_of_aluCtl {i : RFmt → Instr} {f : (n : Nat) → BitVec n → Word → BitVec n → BitVec n}
    {v32 : Word → Word → Word → Word} {v64 : DWord → Word → DWord → DWord}
    (hexec : ∀ o s, exec (i o) s = .next (aluCtl .short f o s))
    (h32 : ∀ a b d, f 32 a b d = v32 a b d) (h64 : ∀ a b d, f 64 a b d = v64 a b d) : ControlWord i v32 v64 := by
  intro o s hg
  refine ⟨fun hw => ?_, fun hw => ?_⟩
  · rw [hexec, aluCtl_short32 hg hw, h32]; rfl
  · rw [hexec, aluCtl_short64 hg hw, h64]; rfl

/-- The same for `alu2` with a long result. -/
theorem longWord_of_alu2 {i : RFmt → Instr} {f : (n : Nat) → BitVec n → BitVec n → BitVec n}
    {v32 : Word → Word → Word} {v64 : DWord → DWord → DWord}
    (hexec : ∀ o s, exec (i o) s = .next (alu2 .long f o s))
    (h32 : ∀ a b, f 32 a b = v32 a b) (h64 : ∀ a b, f 64 a b = v64 a b) : LongWord i v32 v64 := by
  intro o s hg
  refine ⟨fun hw => ?_, fun hw => ?_⟩
  · rw [hexec, alu2_long32 hg hw, h32]; rfl
  · rw [hexec, alu2_long64 hg hw, h64]; rfl

/-- An immediate word leaves its value in D (R200). -/
theorem next_aluImm (f : Word → Word → Word) (o : IFmt) (s : State) {v : Word} (h : f (s.src o.a) (o.imm.signExtend 32) = v) :
    Host.Outcome.next (aluImm f o s) = (.next (withRegs s (reg1 s.th.regs o.d v)) : Out) := by
  rw [aluImm_eq, h]; rfl

/-- A word that is `aluImm`, when its function has the stated value. -/
theorem immediateWord_of_aluImm {i : IFmt → Instr} {f v : Word → Word → Word}
    (hexec : ∀ o s, exec (i o) s = .next (aluImm f o s)) (h : ∀ a m, f a m = v a m) : ImmediateWord i v := by
  intro o s
  rw [hexec, next_aluImm f o s (h _ _)]

/-- A short result of one register, and of a pair, in the vocabulary of the statements. -/
theorem puts_one_eq_withRegs (s : State) (r : BitVec 6) (v : Word) : s.puts r 1 v.toNat = withRegs s (reg1 s.th.regs r v) :=
  State.puts_one s r v
theorem puts_two_eq_withRegs (s : State) (r : BitVec 6) (v : DWord) : s.puts r 2 v.toNat = withRegs s (reg2 s.th.regs r v) :=
  State.puts_two s r v

/-- A predicate result, a write to p0 discarded (R187). -/
theorem putPred_eq_withPreds (s : State) (p : BitVec 6) (b : Bool) : s.putPred p b = withPreds s (pred1 s.th.preds p b) := by
  have hp : p.toNat = 0 ↔ p = 0#6 := by simp [BitVec.toNat_eq]
  simp [State.putPred, State.mapTh, Thread.setPred_eq, withPreds, pred1, hp]

/-! ### Groups of an encoding -/

/-- A major of R-format words, from what the encoder builds for each. -/
theorem rGroup_of_encode {op : BitVec 6} {l : List (RFmt → Instr)}
    (h : ∀ p ∈ l.zipIdx, ∀ o, encode (p.1 o) = buildR op (BitVec.ofNat 3 p.2) o) : RGroup op l := by
  intro p hp o
  rw [h p hp o]
  exact ⟨majorOf_buildR .., fnR_buildR .., parseR_buildR ..⟩

/-- The majors of I-format words, from what the encoder builds for each. -/
theorem iGroup_of_encode {l : List (BitVec 6 × (IFmt → Instr))}
    (h : ∀ p ∈ l, ∀ o, encode (p.2 o) = buildI p.1 o) : IGroup l := by
  intro p hp o
  rw [h p hp o]
  exact ⟨majorOf_buildI .., parseI_buildI ..⟩

theorem b_eq_zero_of_aluUnaryOk {o : RFmt} (h : aluUnaryOk o = true) : o.b = 0#6 := by
  simp only [aluUnaryOk, Bool.and_eq_true, beq_iff_eq] at h
  exact h.2

/-- Words under the constraints of a unary form have B 0. -/
theorem unary_of_wellFormed {l : List (RFmt → Instr)} (h : ∀ i ∈ l, ∀ o, (i o).wellFormed = aluUnaryOk o) : Unary l :=
  fun i hi o hw => b_eq_zero_of_aluUnaryOk (h i hi o ▸ hw)

theorem pairs_of_aluOk {o : RFmt} (h : aluOk o = true) :
    o.w.toNat < 2 ∧ (o.w = 1#2 → o.d.toNat % 2 = 0 ∧ o.a.toNat % 2 = 0 ∧ o.b.toNat % 2 = 0) := by
  simp only [aluOk, alignedTo, Bool.and_eq_true, decide_eq_true_eq, beq_iff_eq] at h
  obtain ⟨⟨⟨hw, hd⟩, ha⟩, hb⟩ := h
  refine ⟨hw, fun h1 => ?_⟩
  rw [h1] at hd ha hb
  exact ⟨hd, ha, hb⟩

/-- Words under the constraints of `aluOk` name aligned pairs at W = 01. -/
theorem paired_of_wellFormed {l : List (RFmt → Instr)} (h : ∀ i ∈ l, ∀ o, (i o).wellFormed = aluOk o) : Paired l :=
  fun i hi o hw => pairs_of_aluOk (h i hi o ▸ hw)

/-! ### Sums, differences, smaller and larger (R192) -/

theorem add_eq_ofInt {n : Nat} (a b : BitVec n) : a + b = BitVec.ofInt n (a.toInt + b.toInt) := by
  rw [BitVec.ofInt_add, BitVec.ofInt_toInt, BitVec.ofInt_toInt]

theorem sub_eq_ofInt {n : Nat} (a b : BitVec n) : a - b = BitVec.ofInt n (a.toInt - b.toInt) := by
  rw [Int.sub_eq_add_neg, BitVec.ofInt_add, BitVec.ofInt_neg, BitVec.ofInt_toInt, BitVec.ofInt_toInt, BitVec.sub_eq_add_neg]

theorem zero_sub_eq_ofInt {n : Nat} (a : BitVec n) : 0 - a = BitVec.ofInt n (-a.toInt) := by
  rw [BitVec.ofInt_neg, BitVec.ofInt_toInt]; exact BitVec.zero_sub a

theorem sMin_eq {n : Nat} (a b : BitVec n) : sMin a b = if b.slt a then b else a := by
  simp only [sMin, BitVec.slt_iff_toInt_lt, ← Int.not_le, ite_not]

/-- Of two operands with equal keys either is the larger, for they are the same. -/
theorem larger_of_le_eq_larger_of_lt {α β : Type} [LinearOrder β] {key : α → β} (hinj : ∀ {a b}, key a = key b → a = b) (a b : α) :
    (if key a ≤ key b then b else a) = if key a < key b then b else a := by
  rcases lt_trichotomy (key a) (key b) with h | h | h
  · rw [if_pos h.le, if_pos h]
  · rw [hinj h, if_pos le_rfl, if_neg (lt_irrefl _)]
  · rw [if_neg h.not_ge, if_neg h.not_gt]

theorem sMax_eq {n : Nat} (a b : BitVec n) : sMax a b = if a.slt b then b else a := by
  simp only [BitVec.slt_iff_toInt_lt]
  exact larger_of_le_eq_larger_of_lt BitVec.eq_of_toInt_eq a b

theorem uMin_eq {n : Nat} (a b : BitVec n) : uMin a b = if b.ult a then b else a := by
  simp only [uMin, BitVec.ult_iff_lt, BitVec.lt_def, ← Nat.not_le, ite_not]

theorem uMax_eq {n : Nat} (a b : BitVec n) : uMax a b = if a.ult b then b else a := by
  simp only [BitVec.ult_iff_lt, BitVec.lt_def]
  exact larger_of_le_eq_larger_of_lt BitVec.eq_of_toNat_eq a b

theorem abs_eq_ofNat {n : Nat} (a : BitVec n) : (if a.toInt < 0 then 0 - a else a) = BitVec.ofNat n a.toInt.natAbs := by
  split
  case isTrue h => rw [zero_sub_eq_ofInt, ← Int.ofNat_natAbs_of_nonpos h.le, BitVec.ofInt_natCast]
  case isFalse h => rw [← BitVec.ofInt_natCast, Int.natAbs_of_nonneg (not_lt.mp h), BitVec.ofInt_toInt]

/-! ### Bits counted and reversed (R193, R194) -/

theorem popCount_eq_length_filter (k x : Nat) : popCount k x = ((List.range k).filter fun i => x.testBit i).length := by
  induction k generalizing x with
  | zero => rfl
  | succ k ih =>
    rw [popCount, ih, List.range_succ_eq_map, List.filter_cons, List.filter_map, Nat.testBit_zero]
    have hsucc : ((fun i => x.testBit i) ∘ Nat.succ) = fun i => (x / 2).testBit i := by
      funext i; exact Nat.testBit_succ ..
    rw [hsucc]
    rcases Nat.mod_two_eq_zero_or_one x with h | h <;> simp [h, Nat.add_comm]

theorem popCount_eq_setBits {n : Nat} (a : BitVec n) : popCount n a.toNat = setBits a := popCount_eq_length_filter n a.toNat

/-- Bits are looked at from bit n - 1 down. -/
theorem length_takeWhile_eq_sub_bitLen {n x : Nat} (hx : x < 2 ^ n) :
    ((List.range n).takeWhile fun i => !x.testBit (n - 1 - i)).length = n - bitLen x := by
  induction n with
  | zero => simp
  | succ n ih =>
    rw [List.range_succ_eq_map, List.takeWhile_cons, List.takeWhile_map]
    by_cases hlt : x < 2 ^ n
    · have hlen : bitLen x ≤ n := by
        by_cases h0 : x = 0
        · simp [bitLen, h0]
        · simpa [bitLen, h0] using (Nat.log2_lt h0).2 hlt
      have hsucc : ((fun i => !x.testBit (n + 1 - 1 - i)) ∘ Nat.succ) = fun i => !x.testBit (n - 1 - i) := by
        funext i; simp only [Function.comp]; congr 2; omega
      rw [hsucc]
      simp [Nat.testBit_lt_two_pow hlt, ih hlt]; omega
    · have hbit : x.testBit n = true := Nat.testBit_of_two_pow_le_and_two_pow_add_one_gt (not_lt.mp hlt) hx
      have h0 : x ≠ 0 := by rintro rfl; simp at hbit
      have hlen : bitLen x = n + 1 := by
        simpa [bitLen, h0] using (Nat.log2_eq_iff h0).2 ⟨not_lt.mp hlt, hx⟩
      simp [hbit, hlen]

theorem sub_bitLen_eq_leadingZeros {n : Nat} (a : BitVec n) : n - bitLen a.toNat = leadingZeros a :=
  (length_takeWhile_eq_sub_bitLen a.isLt).symm

theorem reverseBits_lt (k x : Nat) : reverseBits k x < 2 ^ k := by
  induction k generalizing x with
  | zero => simp [reverseBits]
  | succ k ih =>
    have := ih (x / 2)
    rcases Nat.mod_two_eq_zero_or_one x with h | h <;> simp [reverseBits, h, Nat.pow_succ] <;> omega

theorem testBit_reverseBits (k x j : Nat) : (reverseBits k x).testBit j = (decide (j < k) && x.testBit (k - 1 - j)) := by
  induction k generalizing x with
  | zero => simp [reverseBits]
  | succ k ih =>
    rw [reverseBits, Nat.mul_comm, Nat.testBit_two_pow_mul_add _ (reverseBits_lt k _)]
    rcases lt_trichotomy j k with h | rfl | h
    · have e : k + 1 - 1 - j = k - 1 - j + 1 := by omega
      rw [if_pos h, ih, e, Nat.testBit_succ]; simp [h, h.le]
    · simp
    · have hpow : 2 ^ 1 ≤ 2 ^ (j - k) := Nat.pow_le_pow_right (by omega) (by omega)
      have e : (x % 2).testBit (j - k) = false := Nat.testBit_lt_two_pow (by omega)
      rw [if_neg h.not_gt, e]; simp [show ¬ j < k + 1 by omega]

theorem reverseBits_eq_reverse {n : Nat} (a : BitVec n) : BitVec.ofNat n (reverseBits n a.toNat) = a.reverse := by
  apply BitVec.eq_of_getLsbD_eq
  intro i hi
  rw [BitVec.getLsbD_ofNat, testBit_reverseBits, BitVec.getLsbD_reverse, BitVec.getMsbD, BitVec.getLsbD]
  simp [hi]

/-! ### Shifts (R194) -/

theorem shiftLeft_eq_ofNat {n : Nat} (a : BitVec n) (k : Nat) : a <<< k = BitVec.ofNat n (a.toNat * 2 ^ k) :=
  BitVec.eq_of_toNat_eq (by simp [Nat.shiftLeft_eq])

theorem ushiftRight_eq_ofNat {n : Nat} (a : BitVec n) (k : Nat) : a >>> k = BitVec.ofNat n (a.toNat / 2 ^ k) := by
  refine BitVec.eq_of_toNat_eq ?_
  rw [BitVec.toNat_ushiftRight, Nat.shiftRight_eq_div_pow, BitVec.toNat_ofNat,
    Nat.mod_eq_of_lt (Nat.lt_of_le_of_lt (Nat.div_le_self ..) a.isLt)]

theorem sshiftRight_eq_ofInt {n : Nat} (a : BitVec n) (k : Nat) : a.sshiftRight k = BitVec.ofInt n (a.toInt / 2 ^ k) := by
  rw [BitVec.sshiftRight_eq, Int.shiftRight_eq_div_pow]; norm_cast

theorem rotl_eq_rotateLeft {n : Nat} (a : BitVec n) (k : Nat) : rotl a k = a.rotateLeft k := BitVec.rotateLeft_def.symm

/-! ### Bit fields (R195) -/

theorem sextN_toNat {m : Nat} (x : BitVec m) : sextN x.toNat m = x.toInt := by
  rw [BitVec.toInt_eq_toNat_cond, sextN, Nat.mod_eq_of_lt x.isLt]

theorem toNat_field {n : Nat} (a : BitVec n) (pos m : Nat) : ((a >>> pos).setWidth m).toNat = a.toNat / 2 ^ pos % 2 ^ m := by
  rw [BitVec.toNat_setWidth, BitVec.toNat_ushiftRight, Nat.shiftRight_eq_div_pow]

theorem bits_control_pos (c : Word) : bits c.toNat 7 0 = c.toNat % 256 := by simp [bits]
theorem bits_control_len (c : Word) : bits c.toNat 15 8 = c.toNat / 256 % 256 := rfl

theorem bfxV_eq_fieldOf {n : Nat} (a : BitVec n) (c : Word) : bfxV n a c = fieldOf a c := by
  simp only [bfxV, fieldOf, bits_control_pos, bits_control_len, ← toNat_field, sextN_toNat, Bool.or_eq_true, beq_iff_eq,
    decide_eq_true_eq, ge_iff_le, BitVec.signExtend, BitVec.ofNat_toNat]
  rfl

/-- Below the field, in it, and above it, bit by bit. -/
theorem insert_eq_mask {n : Nat} (a d : BitVec n) {pos m : Nat} (h : pos + m ≤ n) :
    BitVec.ofNat n (d.toNat % 2 ^ pos + a.toNat % 2 ^ m * 2 ^ pos + d.toNat / 2 ^ (pos + m) * 2 ^ (pos + m)) =
      (d &&& ~~~(((BitVec.allOnes m).setWidth n) <<< pos)) ||| ((a <<< pos) &&& (((BitVec.allOnes m).setWidth n) <<< pos)) := by
  have hlow : d.toNat % 2 ^ pos < 2 ^ pos := Nat.mod_lt _ (by positivity)
  have hmid : 2 ^ pos * (a.toNat % 2 ^ m) + d.toNat % 2 ^ pos < 2 ^ (pos + m) := by
    have : a.toNat % 2 ^ m + 1 ≤ 2 ^ m := Nat.mod_lt _ (by positivity)
    have := Nat.mul_le_mul_left (2 ^ pos) this
    rw [Nat.mul_succ] at this
    rw [Nat.pow_add]; omega
  have hsum : d.toNat % 2 ^ pos + a.toNat % 2 ^ m * 2 ^ pos + d.toNat / 2 ^ (pos + m) * 2 ^ (pos + m) =
      2 ^ (pos + m) * (d.toNat / 2 ^ (pos + m)) + (2 ^ pos * (a.toNat % 2 ^ m) + d.toNat % 2 ^ pos) := by ring
  apply BitVec.eq_of_getLsbD_eq
  intro j hj
  rw [BitVec.getLsbD_ofNat, hsum, Nat.testBit_two_pow_mul_add _ hmid, Nat.testBit_two_pow_mul_add _ hlow]
  simp only [Nat.testBit_mod_two_pow, Nat.testBit_div_two_pow, BitVec.getLsbD_or, BitVec.getLsbD_and, BitVec.getLsbD_not,
    BitVec.getLsbD_shiftLeft, BitVec.getLsbD_setWidth, BitVec.getLsbD_allOnes, hj, decide_true, Bool.true_and]
  by_cases h1 : j < pos
  · simp [h1, show j < pos + m by omega, BitVec.getLsbD]
  · by_cases h2 : j < pos + m
    · simp [h1, h2, show j - pos < m by omega, show j - pos < n by omega, BitVec.getLsbD]
    · simp [h1, h2, show ¬ j - pos < m by omega, show j - (pos + m) + (pos + m) = j by omega, BitVec.getLsbD]

theorem bfiV_eq_fieldInto {n : Nat} (a : BitVec n) (c : Word) (d : BitVec n) : bfiV n a c d = fieldInto a c d := by
  simp only [bfiV, fieldInto, bits_control_pos, bits_control_len, Bool.or_eq_true, beq_iff_eq, decide_eq_true_eq, ge_iff_le]
  split
  case isTrue => rfl
  case isFalse h =>
    generalize hm : min (c.toNat % 256 + c.toNat / 256 % 256) n - c.toNat % 256 = m
    have he : min (c.toNat % 256 + c.toNat / 256 % 256) n = c.toNat % 256 + m := by omega
    rw [he, insert_eq_mask a d (by omega)]

/-! ### Products (R196) -/

theorem mul_eq_ofNat {n : Nat} (a b : BitVec n) : a * b = BitVec.ofNat n (a.toNat * b.toNat) :=
  BitVec.eq_of_toNat_eq (by simp)

theorem mul_add_eq_ofNat {n : Nat} (a b d : BitVec n) : a * b + d = BitVec.ofNat n (a.toNat * b.toNat + d.toNat) :=
  BitVec.eq_of_toNat_eq (by simp)

theorem emod_mul_self_ediv (z : Int) {k : Int} (hk : k ≠ 0) (hk0 : 0 ≤ k) : z % (k * k) / k = z / k % k := by
  have h : z - k * k * (z / k / k) = z + k * -(k * (z / k / k)) := by ring
  rw [Int.emod_def, Int.emod_def, ← Int.ediv_ediv_of_nonneg hk0, h, Int.add_mul_ediv_left _ _ hk, Int.sub_eq_add_neg]

/-- The high half of a double-width word. -/
theorem extract_high_ofInt {n : Nat} (z : Int) : (BitVec.ofInt (n + n) z).extractLsb' n n = BitVec.ofInt n (z / 2 ^ n) := by
  have hpow : (2 : Int) ^ n ≠ 0 := by positivity
  have h0 : 0 ≤ z % 2 ^ (n + n) := Int.emod_nonneg _ (by positivity)
  have h1 : 0 ≤ z / 2 ^ n % 2 ^ n := Int.emod_nonneg _ hpow
  refine BitVec.eq_of_toNat_eq (Int.ofNat.inj ?_)
  simp only [BitVec.extractLsb'_toNat, BitVec.toNat_ofInt, Nat.shiftRight_eq_div_pow, Int.ofNat_eq_natCast]
  push_cast
  rw [Int.toNat_of_nonneg h0, Int.toNat_of_nonneg h1, Int.pow_add, emod_mul_self_ediv z hpow (by positivity), Int.emod_emod]

theorem imulh_value {n : Nat} (a b : BitVec n) :
    BitVec.ofInt n (a.toInt * b.toInt / ((2 ^ n : Nat) : Int)) = (a.signExtend (n + n) * b.signExtend (n + n)).extractLsb' n n := by
  rw [BitVec.signExtend, BitVec.signExtend, ← BitVec.ofInt_mul, extract_high_ofInt]; norm_cast

theorem imulhu_value {n : Nat} (a b : BitVec n) :
    BitVec.ofNat n (a.toNat * b.toNat / 2 ^ n) = (a.setWidth (n + n) * b.setWidth (n + n)).extractLsb' n n := by
  have hprod : a.toNat * b.toNat < 2 ^ (n + n) := by
    rw [Nat.pow_add]; exact Nat.mul_lt_mul'' a.isLt b.isLt
  have hle : 2 ^ n ≤ 2 ^ (n + n) := Nat.pow_le_pow_right (by omega) (by omega)
  refine BitVec.eq_of_toNat_eq ?_
  rw [BitVec.extractLsb'_toNat, BitVec.toNat_mul, BitVec.toNat_setWidth, BitVec.toNat_setWidth, BitVec.toNat_ofNat,
    Nat.mod_eq_of_lt (a.isLt.trans_le hle), Nat.mod_eq_of_lt (b.isLt.trans_le hle), Nat.mod_eq_of_lt hprod,
    Nat.shiftRight_eq_div_pow]

/-! ### Divisions (R197) -/

theorem toNat_beq_zero {n : Nat} (b : BitVec n) : (b.toNat == 0) = decide (b = 0#n) := by
  rw [Bool.eq_iff_iff]; simp [BitVec.toNat_eq]

theorem ofInt_neg_one {n : Nat} : BitVec.ofInt n (-1) = BitVec.allOnes n := by
  rw [BitVec.ofInt_neg, ← BitVec.neg_one_eq_allOnes]; rfl

theorem sDiv_eq_quotS {n : Nat} (a b : BitVec n) : sDiv n a b = quotS a b := by
  have h : BitVec.ofInt n (a.toInt.tdiv b.toInt) = a.sdiv b :=
    BitVec.eq_of_toInt_eq (by rw [BitVec.toInt_ofInt, BitVec.toInt_sdiv])
  simp only [sDiv, quotS, toNat_beq_zero, ofInt_neg_one, h, decide_eq_true_eq]

theorem sRem_eq_remS {n : Nat} (a b : BitVec n) : sRem n a b = remS a b := by
  simp only [sRem, remS, toNat_beq_zero, ← BitVec.toInt_srem, BitVec.ofInt_toInt, decide_eq_true_eq]

theorem uDiv_eq_quotU {n : Nat} (a b : BitVec n) : uDiv n a b = quotU a b := by
  have h : BitVec.ofNat n (a.toNat / b.toNat) = a.udiv b := by
    rw [← BitVec.toNat_udiv, BitVec.ofNat_toNat, BitVec.setWidth_eq]; rfl
  simp only [uDiv, quotU, toNat_beq_zero, ofInt_neg_one, h, decide_eq_true_eq]

theorem uRem_eq_remU {n : Nat} (a b : BitVec n) : uRem n a b = remU a b := by
  have h : BitVec.ofNat n (a.toNat % b.toNat) = a.umod b := by
    rw [← BitVec.toNat_umod, BitVec.ofNat_toNat, BitVec.setWidth_eq]; rfl
  simp only [uRem, remU, toNat_beq_zero, h, decide_eq_true_eq]

theorem divisions_by_zero {n : Nat} (a : BitVec n) {b : BitVec n} (hb : b = 0#n) :
    quotS a b = BitVec.allOnes n ∧ remS a b = a ∧ quotU a b = BitVec.allOnes n ∧ remU a b = a := by
  simp [quotS, remS, quotU, remU, hb]

theorem allOnes_ne_zero {n : Nat} (hn : 0 < n) : BitVec.allOnes n ≠ 0#n := by
  rw [← BitVec.neg_one_eq_allOnes]; simpa using hn.ne'

/-- The least number divided by -1. -/
theorem division_of_intMin {n : Nat} (hn : 0 < n) :
    quotS (BitVec.intMin n) (BitVec.allOnes n) = BitVec.intMin n ∧ remS (BitVec.intMin n) (BitVec.allOnes n) = 0#n := by
  have hb := allOnes_ne_zero hn
  refine ⟨?_, ?_⟩
  · rw [quotS, if_neg hb, ← BitVec.neg_one_eq_allOnes, BitVec.intMin_sdiv_neg_one]
  · rw [remS, if_neg hb]
    exact BitVec.srem_zero_of_dvd (by simp [BitVec.toInt_allOnes, hn])

theorem signed_division {n : Nat} {a b : BitVec n} (hb : b ≠ 0#n) (h : a ≠ BitVec.intMin n ∨ b ≠ BitVec.allOnes n) :
    a.toInt = (quotS a b).toInt * b.toInt + (remS a b).toInt ∧ (remS a b).toInt.natAbs < b.toInt.natAbs ∧
      (0 ≤ a.toInt → 0 ≤ (remS a b).toInt) ∧ (a.toInt < 0 → (remS a b).toInt ≤ 0) := by
  have hbi : b.toInt ≠ 0 := fun h0 => hb (BitVec.eq_of_toInt_eq (by simpa using h0))
  rw [← BitVec.neg_one_eq_allOnes] at h
  rw [quotS, remS, if_neg hb, if_neg hb, BitVec.toInt_sdiv_of_ne_or_ne a b h, BitVec.toInt_srem]
  refine ⟨(Int.tdiv_mul_add_tmod ..).symm, ?_, Int.tmod_nonneg _, fun ha => ?_⟩
  · rw [Int.natAbs_tmod]; exact Nat.mod_lt _ (Int.natAbs_pos.2 hbi)
  · have := Int.tmod_nonneg b.toInt (a := -a.toInt) (by omega)
    rw [Int.neg_tmod] at this; omega

theorem unsigned_division {n : Nat} {a b : BitVec n} (hb : b ≠ 0#n) :
    a.toNat = (quotU a b).toNat * b.toNat + (remU a b).toNat ∧ (remU a b).toNat < b.toNat := by
  have hbn : 0 < b.toNat := Nat.pos_of_ne_zero fun h0 => hb (BitVec.eq_of_toNat_eq (by simpa using h0))
  rw [quotU, remU, if_neg hb, if_neg hb]
  exact ⟨(Nat.div_add_mod' ..).symm, Nat.mod_lt _ hbn⟩

/-! ### Addresses and carries (R198, R199) -/

theorem ofInt_shiftLeft {n : Nat} (z : Int) (k : Nat) : BitVec.ofInt n z <<< k = BitVec.ofInt n (z * 2 ^ k) := by
  have h : BitVec.twoPow n k = BitVec.ofInt n (2 ^ k) := by
    refine BitVec.eq_of_toNat_eq ?_
    rw [BitVec.toNat_twoPow, BitVec.toNat_ofInt]; norm_cast
  rw [BitVec.shiftLeft_eq_mul_twoPow, h, BitVec.ofInt_mul]

theorem add_shiftLeft_eq_ofNat {n : Nat} (a b : BitVec n) (k : Nat) : a + (b <<< k) = BitVec.ofNat n (a.toNat + b.toNat * 2 ^ k) := by
  rw [BitVec.ofNat_add, BitVec.ofNat_toNat, BitVec.setWidth_eq, shiftLeft_eq_ofNat]

theorem add_signExtend_shiftLeft_eq_ofInt {m n : Nat} (a : BitVec n) (b : BitVec m) (k : Nat) :
    a + (b.signExtend n <<< k) = BitVec.ofInt n (a.toInt + b.toInt * 2 ^ k) := by
  rw [BitVec.signExtend, ofInt_shiftLeft, BitVec.ofInt_add, BitVec.ofInt_toInt]

theorem lea_word {sc : Nat} {o : RFmt} {s : State} (hg : s.active o.g = true) (hw : o.w = 0#2) :
    lea sc o s = withRegs s (reg1 s.th.regs o.d (BitVec.ofNat 32 ((s.src o.a).toNat + (s.src o.b).toNat * 2 ^ sc))) := by
  rw [← add_shiftLeft_eq_ofNat, ← puts_one_eq_withRegs]; simp [lea, hg, hw]

theorem lea_pair {sc : Nat} {o : RFmt} {s : State} (hg : s.active o.g = true) (hw : o.w = 1#2) :
    lea sc o s = withRegs s (reg2 s.th.regs o.d (BitVec.ofInt 64 ((s.srcPair o.a).toInt + (s.src o.b).toInt * 2 ^ sc))) := by
  rw [← add_signExtend_shiftLeft_eq_ofInt, ← puts_two_eq_withRegs]; simp [lea, hg, hw]

/-- A pair whose halves are given one by one. -/
theorem puts_halves (s : State) (r : BitVec 6) (lo hi : Word) :
    s.puts r 2 (lo.toNat + 2 ^ 32 * hi.toNat) = withRegs s ((s.th.regs.set r.toNat lo).set (r.toNat + 1) hi) := by
  have hlo : BitVec.ofNat 32 (lo.toNat + 2 ^ 32 * hi.toNat) = lo := by
    refine BitVec.eq_of_toNat_eq ?_; rw [BitVec.toNat_ofNat]; omega
  have hhi : BitVec.ofNat 32 ((lo.toNat + 2 ^ 32 * hi.toNat) / 2 ^ 32) = hi := by
    refine BitVec.eq_of_toNat_eq ?_; rw [BitVec.toNat_ofNat]; omega
  rw [State.puts, State.mapTh, Thread.setRegs_two, hlo, hhi]; rfl

/-- The carry or borrow that enters: bit 0 of the register after A. -/
theorem carry_in_eq (s : State) (r : BitVec 6) : s.srcs r 2 / 2 ^ 32 % 2 = (s.grp.view.reg (r.toNat + 1)).toNat % 2 := by
  have := (s.grp.view.reg r.toNat).isLt
  rw [State.srcs, Thread.regsNat_two]; omega

/-- One source register, and a pair, as numbers. -/
theorem srcs_one (s : State) (r : BitVec 6) : s.srcs r 1 = (s.src r).toNat := Thread.regsNat_one ..
theorem srcs_two (s : State) (r : BitVec 6) : s.srcs r 2 = (s.srcPair r).toNat := by
  have := (s.grp.view.reg r.toNat).isLt
  have := (s.grp.view.reg (r.toNat + 1)).isLt
  rw [State.srcs, State.srcPair, BitVec.toNat_ofNat, Thread.regsNat_two]; omega

/-- A sum that needs 33 bits at most, as its low 32 bits and its carry. -/
theorem puts_sum_with_carry (s : State) (r : BitVec 6) {t : Nat} (h : t < 2 ^ 33) :
    s.puts r 2 (t % 2 ^ 32 + 2 ^ 32 * (t / 2 ^ 32)) =
      withRegs s ((s.th.regs.set r.toNat (BitVec.ofNat 32 t)).set (r.toNat + 1) (if 2 ^ 32 ≤ t then 1#32 else 0#32)) := by
  have hc : t / 2 ^ 32 = (if 2 ^ 32 ≤ t then 1#32 else 0#32).toNat := by split <;> simp <;> omega
  rw [← puts_halves, ← hc, BitVec.toNat_ofNat]

theorem toNat_ofInt_eq_wrapN (z : Int) (n : Nat) : (BitVec.ofInt n z).toNat = wrapN z n := BitVec.toNat_ofInt ..

/-- A difference, as its low 32 bits and its borrow. -/
theorem puts_difference_with_borrow (s : State) (r : BitVec 6) (z : Int) (p : Prop) [Decidable p] :
    s.puts r 2 (wrapN z 32 + 2 ^ 32 * (if p then 1 else 0)) =
      withRegs s ((s.th.regs.set r.toNat (BitVec.ofInt 32 z)).set (r.toNat + 1) (if p then 1#32 else 0#32)) := by
  have hc : (if p then 1 else 0) = (if p then 1#32 else 0#32).toNat := by split <;> rfl
  rw [← puts_halves, ← hc, toNat_ofInt_eq_wrapN]

/-- IADDC, where its guard holds: the sum and its carry. -/
theorem iaddc_active {o : RFmt} {s : State} (hg : s.active o.g = true) :
    let t := (s.src o.a).toNat + (s.src o.b).toNat + (s.grp.view.reg (o.a.toNat + 1)).toNat % 2
    exec (.iaddc o) s = .next (withRegs s ((s.th.regs.set o.d.toNat (BitVec.ofNat 32 t)).set (o.d.toNat + 1)
      (if 2 ^ 32 ≤ t then 1#32 else 0#32))) := by
  intro t
  have ht : t < 2 ^ 33 := by
    have := (s.src o.a).isLt
    have := (s.src o.b).isLt
    omega
  show execIaddc o s = _
  rw [execIaddc, if_pos hg, carry_in_eq, ← puts_sum_with_carry s o.d ht]

/-- ISUBB, where its guard holds: the difference and its borrow. -/
theorem isubb_active {o : RFmt} {s : State} (hg : s.active o.g = true) :
    let a := (s.src o.a).toNat
    let b := (s.src o.b).toNat
    let cin := (s.grp.view.reg (o.a.toNat + 1)).toNat % 2
    exec (.isubb o) s = .next (withRegs s ((s.th.regs.set o.d.toNat (BitVec.ofInt 32 (a - b - cin))).set (o.d.toNat + 1)
      (if a < b + cin then 1#32 else 0#32))) := by
  intro a b cin
  show execIsubb o s = _
  rw [execIsubb, if_pos hg, carry_in_eq, ← puts_difference_with_borrow]

/-! ### Immediates (R200 to R202) -/

theorem signExtend_count {m : BitVec 12} (h : m.toNat < 32) : (m.signExtend 32).toNat % 32 = m.toNat := by
  have hi : m.toInt = m.toNat := BitVec.toInt_eq_toNat_of_lt (by omega)
  rw [BitVec.signExtend, hi, BitVec.ofInt_natCast, BitVec.toNat_ofNat]; omega

theorem toNat_shift12 (m : BitVec 20) : (m.setWidth 32 <<< 12).toNat = m.toNat * 4096 := by
  rw [BitVec.toNat_shiftLeft, BitVec.toNat_setWidth, Nat.shiftLeft_eq]; omega

/-- The two parts of a constant (R201): the upper 20 bits with the rounding of the lower part, and the lower part. -/
def upperPart (v : Word) : Word := (((v + 0x800) >>> 12).setWidth 20).setWidth 32 <<< 12
def lowerPart (v : Word) : Word := (v.setWidth 12).signExtend 32

theorem upperPart_toNat (v : Word) : (upperPart v).toNat = (v.toNat + 0x800) % 2 ^ 32 / 4096 * 4096 := by
  rw [upperPart, toNat_shift12]; simp [Nat.shiftRight_eq_div_pow]; omega

theorem lowerPart_toInt (v : Word) : (lowerPart v).toInt = ((v.toNat + 0x800) % 4096 : Nat) - 0x800 := by
  rw [lowerPart, BitVec.toInt_signExtend_of_le (by omega), BitVec.toInt_eq_toNat_cond, BitVec.toNat_setWidth]
  split <;> omega

theorem upperPart_add_lowerPart (v : Word) : upperPart v + lowerPart v = v := by
  have hu : upperPart v = BitVec.ofInt 32 (upperPart v).toNat := by simp
  rw [hu, ← BitVec.ofInt_toInt (x := lowerPart v), ← BitVec.ofInt_add, lowerPart_toInt, upperPart_toNat]
  refine BitVec.eq_of_toNat_eq ?_
  rw [BitVec.toNat_ofInt]; omega

/-- Where the upper part stays in the range of signed words, the parts also add up as signed numbers. -/
theorem upperPart_toInt_add_lowerPart_toInt {v : Word} (h : v.toInt < 2 ^ 31 - 0x800) :
    (upperPart v).toInt + (lowerPart v).toInt = v.toInt := by
  have hv := BitVec.toInt_eq_toNat_cond v
  have hu := BitVec.toInt_eq_toNat_cond (upperPart v)
  rw [upperPart_toNat] at hu
  rw [lowerPart_toInt]
  split at hv <;> split at hu <;> omega

/-- ADRH's result is its own byte address and the signed upper immediate. -/
theorem adrh_value (o : UFmt) (s : State) :
    BitVec.ofInt 64 ((s.wordPc : Int) + sextN (o.imm.toNat * 4096) 32) =
      BitVec.ofNat 64 (s.th.pc.toNat + 4 * s.grp.pos) + ((o.imm.setWidth 32 <<< 12).signExtend 64) := by
  have hpc : BitVec.ofNat 64 s.wordPc = BitVec.ofNat 64 (s.th.pc.toNat + 4 * s.grp.pos) :=
    BitVec.eq_of_toNat_eq (by simp [State.wordPc])
  rw [← toNat_shift12, sextN_toNat, BitVec.ofInt_add, BitVec.ofInt_natCast, hpc]; rfl

/-! ### Predicates (R203, R205) -/

theorem icmpCond_eq_holdsInt {n : Nat} (a b : BitVec n) : ∀ cc, icmpCond cc a b = holdsInt cc a b
  | 0 | 1 | 2 | 4 | 6 | 8 => rfl
  | 3 | 5 | 7 | _ + 9 => (decide_eq_decide.2 not_lt.symm).trans decide_not

theorem icmp_fields {f : BitVec 5} {o : PFmt} (h : (Instr.icmp f o).wellFormed = true) :
    f.toNat % 16 < 10 ∧ o.pd.toNat < 48 ∧ (f.getLsbD 4 = true → o.a.toNat % 2 = 0 ∧ o.b.toNat % 2 = 0) := by
  have e : (Instr.icmp f o).wellFormed =
      (!decide (f.toNat % 16 ≥ 10) && (predOk o.pd && (!f.getLsbD 4 || (alignedTo 1 o.a && alignedTo 1 o.b)))) := rfl
  simp only [e, predOk, alignedTo, Bool.and_eq_true, Bool.or_eq_true, Bool.not_eq_true', decide_eq_false_iff_not, not_le,
    decide_eq_true_eq, beq_iff_eq] at h
  obtain ⟨hf, hp, hab⟩ := h
  exact ⟨hf, hp, fun h4 => hab.resolve_left (by simp [h4])⟩

theorem icmp_active (f : BitVec 5) {o : PFmt} {s : State} (hg : s.active o.g = true) :
    exec (.icmp f o) s = .next (withPreds s (pred1 s.th.preds o.pd
      (if f.getLsbD 4 then holdsInt (f.toNat % 16) (s.srcPair o.a) (s.srcPair o.b)
       else holdsInt (f.toNat % 16) (s.src o.a) (s.src o.b)))) := by
  show execIcmp f o s = _
  rw [execIcmp, if_pos hg, putPred_eq_withPreds, icmpCond_eq_holdsInt, icmpCond_eq_holdsInt]

theorem decode_undefined_plog {w : Word} (hm : majorOf w = 0x1B) (hf : 8 ≤ (fnP w).toNat) : decode w = .error .undefinedCode := by
  obtain ⟨k, hk⟩ := Nat.exists_eq_add_of_le' hf
  have h : decode1B w = .error .undefinedCode := by unfold decode1B; rw [hk]; rfl
  rw [decode, Laws.Encodes.select_1B hm, h]

/-- Predicate logic, where its guard holds. -/
theorem plog_active {o : PFmt} {s : State} (hg : s.active o.g = true) (f : Bool → Bool → Bool) :
    plog f o s = withPreds s (pred1 s.th.preds o.pd (f (s.srcPred o.a) (s.srcPred o.b))) := by
  rw [plog, if_pos hg, putPred_eq_withPreds]

theorem pfrom_active {o : PFmt} {s : State} (hg : s.active o.g = true) :
    exec (.pfrom o) s = .next (withPreds s (pred1 s.th.preds o.pd ((s.src o.a).getLsbD o.b.toNat))) := by
  show execPfrom o s = _
  rw [execPfrom, if_pos hg, putPred_eq_withPreds]

theorem pto_active {o : PFmt} {s : State} (hg : s.active o.g = true) :
    exec (.pto o) s = .next (withRegs s (reg1 s.th.regs o.pd (if s.srcPred o.a then 1 else 0))) := by
  show execPto o s = _
  rw [execPto, if_pos hg, ← puts_one_eq_withRegs]
  cases s.srcPred o.a <;> rfl

/-! ### The groups of integer words -/

/-- Settles O4: each word is `alu2` of a function whose value is the stated one at every width. -/
theorem integerArithmeticResults : Obligations.IntegerArithmeticResults := by
  refine ⟨shortWord_of_alu2 (fun _ _ => rfl) (fun a b _ => add_eq_ofInt a b) (fun a b _ => add_eq_ofInt a b),
    shortWord_of_alu2 (fun _ _ => rfl) (fun a b _ => sub_eq_ofInt a b) (fun a b _ => sub_eq_ofInt a b),
    shortWord_of_alu2 (fun _ _ => rfl) (fun a b _ => sMin_eq a b) (fun a b _ => sMin_eq a b),
    shortWord_of_alu2 (fun _ _ => rfl) (fun a b _ => sMax_eq a b) (fun a b _ => sMax_eq a b),
    shortWord_of_alu2 (fun _ _ => rfl) (fun a b _ => uMin_eq a b) (fun a b _ => uMin_eq a b),
    shortWord_of_alu2 (fun _ _ => rfl) (fun a b _ => uMax_eq a b) (fun a b _ => uMax_eq a b),
    rGroup_of_encode ?_, unary_of_wellFormed ?_,
    shortWord_of_alu2 (fun _ _ => rfl) (fun a _ _ => abs_eq_ofNat a) (fun a _ _ => abs_eq_ofNat a),
    shortWord_of_alu2 (fun _ _ => rfl) (fun a _ _ => zero_sub_eq_ofInt a) (fun a _ _ => zero_sub_eq_ofInt a)⟩
  · intro p hp o; fin_cases hp <;> rfl
  · intro i hi o; fin_cases hi <;> rfl

/-- Settles O5: the logic words as the sums before; SEL is `alu2` of a choice that the guard selection makes. -/
theorem logicResults : Obligations.LogicResults := by
  refine ⟨shortWord_of_alu2 (fun _ _ => rfl) (fun _ _ _ => rfl) (fun _ _ _ => rfl),
    shortWord_of_alu2 (fun _ _ => rfl) (fun _ _ _ => rfl) (fun _ _ _ => rfl),
    shortWord_of_alu2 (fun _ _ => rfl) (fun _ _ _ => rfl) (fun _ _ _ => rfl),
    shortWord_of_alu2 (fun _ _ => rfl) (fun _ _ _ => rfl) (fun _ _ _ => rfl),
    shortWord_of_alu2 (fun _ _ => rfl) (fun _ _ _ => rfl) (fun _ _ _ => rfl),
    shortWord_of_alu2 (fun _ _ => rfl) (fun _ _ _ => rfl) (fun _ _ _ => rfl),
    shortWord_of_alu2 (fun _ _ => rfl) (fun a _ _ => congrArg _ (popCount_eq_setBits a)) (fun a _ _ => congrArg _ (popCount_eq_setBits a)),
    rGroup_of_encode ?_, unary_of_wellFormed ?_, fun o hw => ?_, fun o s hg => ⟨fun hw => ?_, fun hw => ?_⟩⟩
  · intro p hp o; fin_cases hp <;> rfl
  · intro i hi o; fin_cases hi <;> rfl
  · have h : (Instr.sel o).wellFormed = (aluOk o && !o.g) := rfl
    simp only [h, Bool.and_eq_true, Bool.not_eq_true'] at hw
    exact hw.2
  · exact congrArg Host.Outcome.next (alu2_short32 (active_of_unguarded hg) hw _)
  · exact congrArg Host.Outcome.next (alu2_short64 (active_of_unguarded hg) hw _)

/-- Settles O6: by the values of shifts, counts and fields at every width. -/
theorem shiftAndFieldResults : Obligations.ShiftAndFieldResults := by
  refine ⟨controlWord_of_aluCtl (fun _ _ => rfl) (fun a _ _ => shiftLeft_eq_ofNat a _) (fun a _ _ => shiftLeft_eq_ofNat a _),
    controlWord_of_aluCtl (fun _ _ => rfl) (fun a _ _ => ushiftRight_eq_ofNat a _) (fun a _ _ => ushiftRight_eq_ofNat a _),
    controlWord_of_aluCtl (fun _ _ => rfl) (fun a _ _ => sshiftRight_eq_ofInt a _) (fun a _ _ => sshiftRight_eq_ofInt a _),
    controlWord_of_aluCtl (fun _ _ => rfl) (fun a _ _ => rotl_eq_rotateLeft a _) (fun a _ _ => rotl_eq_rotateLeft a _),
    shortWord_of_alu2 (fun _ _ => rfl) (fun a _ _ => congrArg _ (sub_bitLen_eq_leadingZeros a))
      (fun a _ _ => congrArg _ (sub_bitLen_eq_leadingZeros a)),
    shortWord_of_alu2 (fun _ _ => rfl) (fun a _ _ => reverseBits_eq_reverse a) (fun a _ _ => reverseBits_eq_reverse a),
    rGroup_of_encode ?_, unary_of_wellFormed ?_, paired_of_wellFormed ?_,
    controlWord_of_aluCtl (fun _ _ => rfl) (fun a c _ => bfxV_eq_fieldOf a c) (fun a c _ => bfxV_eq_fieldOf a c),
    controlWord_of_aluCtl (fun _ _ => rfl) bfiV_eq_fieldInto bfiV_eq_fieldInto⟩
  · intro p hp o; fin_cases hp <;> rfl
  · intro i hi o; fin_cases hi <;> rfl
  · intro i hi o; fin_cases hi <;> rfl

/-- Settles O7: by the values at every width; the two borderline cases apart from the division law. -/
theorem productAndDivisionResults : Obligations.ProductAndDivisionResults := by
  refine ⟨rGroup_of_encode ?_,
    shortWord_of_alu2 (fun _ _ => rfl) (fun a b _ => mul_eq_ofNat a b) (fun a b _ => mul_eq_ofNat a b),
    shortWord_of_alu2 (fun _ _ => rfl) (fun a b _ => imulh_value a b) (fun a b _ => imulh_value a b),
    shortWord_of_alu2 (fun _ _ => rfl) (fun a b _ => imulhu_value a b) (fun a b _ => imulhu_value a b),
    shortWord_of_alu3 (fun _ _ => rfl) mul_add_eq_ofNat mul_add_eq_ofNat,
    longWord_of_alu2 (fun _ _ => rfl) sDiv_eq_quotS sDiv_eq_quotS, longWord_of_alu2 (fun _ _ => rfl) sRem_eq_remS sRem_eq_remS,
    longWord_of_alu2 (fun _ _ => rfl) uDiv_eq_quotU uDiv_eq_quotU, longWord_of_alu2 (fun _ _ => rfl) uRem_eq_remU uRem_eq_remU,
    fun n hn a b => ⟨divisions_by_zero a, ?_, signed_division, unsigned_division⟩⟩
  · intro p hp o; fin_cases hp <;> rfl
  · rintro rfl rfl
    exact division_of_intMin (by fin_cases hn <;> decide)

/-- Settles O8: LEA by its shift amount, the carries by their 33-bit sum and their borrow. -/
theorem leaAndCarryResults : Obligations.LeaAndCarryResults := by
  refine ⟨rGroup_of_encode ?_, ?_, ?_, ?_⟩
  · intro p hp o; fin_cases hp <;> rfl
  · intro i hi o hw hd ha
    have h : leaOk o = true := by simp [leaOk, alignedTo, hw, hd, ha]
    fin_cases hi <;> exact h
  · intro p hp o s hg
    have h : exec (p.1 o) s = .next (lea p.2 o s) := by fin_cases hp <;> rfl
    rw [h]
    exact ⟨fun hw => congrArg _ (lea_word hg hw), fun hw => congrArg _ (lea_pair hg hw)⟩
  · exact fun o s hg => ⟨iaddc_active hg, isubb_active hg⟩

/-- Settles O9: each word is `aluImm`; a count below 32 is its own sign extension. -/
theorem immediateResults : Obligations.ImmediateResults := by
  refine ⟨iGroup_of_encode ?_, immediateWord_of_aluImm (fun _ _ => rfl) add_eq_ofInt,
    immediateWord_of_aluImm (fun _ _ => rfl) (fun _ _ => rfl), immediateWord_of_aluImm (fun _ _ => rfl) (fun _ _ => rfl),
    immediateWord_of_aluImm (fun _ _ => rfl) (fun _ _ => rfl), immediateWord_of_aluImm (fun _ _ => rfl) (fun _ _ => rfl),
    fun _ => ⟨rfl, rfl, rfl, rfl⟩, fun o s hc => ⟨next_aluImm _ o s ?_, next_aluImm _ o s ?_, next_aluImm _ o s ?_⟩⟩
  · intro p hp o; fin_cases hp <;> rfl
  · rw [signExtend_count hc, shiftLeft_eq_ofNat]
  · rw [signExtend_count hc, ushiftRight_eq_ofNat]
  · rw [signExtend_count hc, sshiftRight_eq_ofInt]

/-- Settles O10: the two parts of a constant add up to it, as words and, below the bound, as signed numbers. -/
theorem upperImmediateResults : Obligations.UpperImmediateResults := by
  refine ⟨fun o => ⟨majorOf_buildU .., parseU_buildU .., majorOf_buildU .., parseU_buildU .., rfl⟩, fun o s => ?_,
    upperPart_add_lowerPart, fun p v h => ?_, fun o s => ?_⟩
  · rw [← puts_one_eq_withRegs, toNat_shift12]; rfl
  · have hsum : p + (upperPart v).signExtend 64 + (lowerPart v).signExtend 64 = p + v.signExtend 64 := by
      rw [BitVec.add_assoc, BitVec.signExtend, BitVec.signExtend, ← BitVec.ofInt_add, upperPart_toInt_add_lowerPart_toInt h]; rfl
    exact hsum
  · rw [← adrh_value, ← puts_two_eq_withRegs, toNat_ofInt_eq_wrapN]; rfl

/-- Settles O11: each word writes one predicate, `pred1`, of its condition. -/
theorem predicateResults : Obligations.PredicateResults := by
  refine ⟨fun f o => ⟨majorOf_buildP .., fnP_buildP .., parseP_buildP .., fun hw => ?_⟩, ?_, fun w => decode_undefined_plog, fun o => ?_,
    fun f o s hf hg => ?_, fun o s hg => ?_⟩
  · exact icmp_fields hw
  · intro p hp o
    have h : encode (p.1 o) = buildP 0x1B (BitVec.ofNat 5 p.2) o := by fin_cases hp <;> rfl
    rw [h]
    exact ⟨majorOf_buildP .., fnP_buildP .., parseP_buildP ..⟩
  · have h3 : ∀ i ∈ [Instr.pand o, .por o, .pxor o], i.wellFormed = (predOk o.pd && predOk o.a && predOk o.b) := by
      intro i hi; fin_cases hi <;> rfl
    have h2 : ∀ i ∈ [Instr.pnot o, .pmov o], i.wellFormed = (predOk o.pd && predOk o.a && decide (o.b = 0#6)) := by
      intro i hi; fin_cases hi <;> rfl
    have hset : (Instr.pset o).wellFormed = (predOk o.pd && o.a.toNat < 2 && decide (o.b = 0#6)) := rfl
    have hfrom : (Instr.pfrom o).wellFormed = (predOk o.pd && o.b.toNat < 32) := rfl
    have hto : (Instr.pto o).wellFormed = (predOk o.a && decide (o.b = 0#6)) := rfl
    refine ⟨fun i hi => ?_, fun i hi => ?_, ?_, ?_, ?_⟩
    · simp [h3 i hi, predOk, Bool.and_assoc]
    · simp [h2 i hi, predOk, Bool.and_assoc]
    · simp [hset, predOk, Bool.and_assoc]
    · simp [hfrom, predOk]
    · simp [hto, predOk]
  · exact icmp_active f hg
  · exact ⟨congrArg _ (plog_active hg _), congrArg _ (plog_active hg _), congrArg _ (plog_active hg _), congrArg _ (plog_active hg _),
      congrArg _ (plog_active hg _), congrArg _ (plog_active hg _), pfrom_active hg, pto_active hg⟩

/-! ### Floating-point comparisons (R204) -/

/-- A value brought to a unit 2^lo at or below its own is an exact multiple of that unit. -/
theorem signedN_mul_unit (p : Bool) (m : Nat) {e lo : Int} (h : lo ≤ e) :
    ((signedN p (m * 2 ^ (e - lo).toNat) : Int) : ℚ) * (2 : ℚ) ^ lo = ratOf p m e := by
  have hexp : (2 : ℚ) ^ e = 2 ^ (e - lo).toNat * 2 ^ lo := by
    rw [← zpow_natCast, ← zpow_add₀ two_ne_zero, Int.toNat_of_nonneg (by omega)]; congr 1; omega
  rw [ratOf, hexp]
  cases p <;> simp [signedN] <;> ring

/-- The order of two values brought to a common unit is their order. -/
theorem cmp_eq_relation : ∀ x y : FVal, x.cmp y = relation x y
  | .nan _, _ => rfl
  | .inf _, .nan _ => rfl
  | .fin _ _ _, .nan _ => rfl
  | .inf p, .inf q => by cases p <;> cases q <;> rfl
  | .inf _, .fin _ _ _ => rfl
  | .fin _ _ _, .inf _ => rfl
  | .fin p m e, .fin q n g => by
    have hunit : (0 : ℚ) < 2 ^ min e g := by positivity
    have hx := signedN_mul_unit p m (min_le_left e g)
    have hy := signedN_mul_unit q n (min_le_right e g)
    simp only [FVal.cmp, relation, ← min_def]
    generalize signedN p _ = a at hx ⊢
    generalize signedN q _ = b at hy ⊢
    have hlt : ratOf p m e < ratOf q n g ↔ a < b := by rw [← hx, ← hy, mul_lt_mul_iff_left₀ hunit, Int.cast_lt]
    have hgt : ratOf q n g < ratOf p m e ↔ b < a := by rw [← hx, ← hy, mul_lt_mul_iff_left₀ hunit, Int.cast_lt]
    simp only [hlt, hgt]
    rcases lt_trichotomy a b with h | rfl | h
    · simp [h]
    · simp
    · simp [h, h.not_gt, h.ne']

/-- Two values are unordered where one of them is a NaN. -/
theorem relation_eq_none_iff (x y : FVal) : relation x y = none ↔ (x.isNan || y.isNan) = true := by
  cases x <;> cases y <;> simp [relation, FVal.isNan]

/-- What a row of the table of R204 says of a relation. -/
def rowHolds (row : Bool × Bool × Bool × Bool × Bool) : Option Ordering → Bool
  | some .lt => row.1
  | some .eq => row.2.1
  | some .gt => row.2.2.1
  | none => row.2.2.2.1

def fcmpRow (cc : Nat) : Bool × Bool × Bool × Bool × Bool := fcmpTable.getD cc (false, false, false, false, false)

theorem fcmpOutcome_eq (cc : Nat) (x y : FVal) :
    fcmpOutcome cc x y = (rowHolds (fcmpRow cc) (relation x y),
      if x.isSnan ∨ y.isSnan ∨ (relation x y = none ∧ (fcmpRow cc).2.2.2.2) then 0x10 else 0) := rfl

theorem fcmpCond_eq_rowHolds {cc : Nat} (h : cc < 14) (r : Option Ordering) : fcmpCond cc r = rowHolds (fcmpRow cc) r := by
  have table : ∀ cc < 14, fcmpCond cc (some .lt) = (fcmpRow cc).1 ∧ fcmpCond cc (some .eq) = (fcmpRow cc).2.1 ∧
      fcmpCond cc (some .gt) = (fcmpRow cc).2.2.1 ∧ fcmpCond cc none = (fcmpRow cc).2.2.2.1 := by decide
  obtain ⟨hlt, heq, hgt, hnone⟩ := table cc h
  match r with
  | some .lt => exact hlt
  | some .eq => exact heq
  | some .gt => exact hgt
  | none => exact hnone

theorem fcmpQuietIV_eq_row : ∀ cc < 14, fcmpQuietIV cc = (fcmpRow cc).2.2.2.2 := by decide

/-- FCMP's condition and flags on two words are the outcome of their values. -/
theorem fcmpF_eq_outcome (f : Fmt) (daz : Bool) {cc : Nat} (h : cc < 14) (a b : Nat) :
    (fcmpF f daz cc a b).1 = (fcmpOutcome cc (f.readDaz daz a) (f.readDaz daz b)).1 ∧
      BitVec.ofNat 32 (fcmpF f daz cc a b).2 = (fcmpOutcome cc (f.readDaz daz a) (f.readDaz daz b)).2 := by
  rw [fcmpOutcome_eq]
  refine ⟨?_, ?_⟩
  · rw [← fcmpCond_eq_rowHolds h, ← cmp_eq_relation]; rfl
  · simp only [fcmpF, fcmpQuietIV_eq_row cc h, relation_eq_none_iff, ← Bool.and_eq_true, ← Bool.or_eq_true, Bool.or_assoc]
    split <;> rfl

/-- A comparison, where its guard holds, writes one predicate and ORs its flags into FPS. -/
theorem fcmp_active {f : Fmt} {fam : Family} {k cc : Nat} {o : PFmt} {s : State} (hg : s.active o.g = true) (hcc : cc < 14) :
    fcmp f fam k cc o s = withThread s { s.th with
      preds := pred1 s.th.preds o.pd (fcmpOutcome cc (f.readDaz (s.daz fam) (s.srcs o.a k)) (f.readDaz (s.daz fam) (s.srcs o.b k))).1
      fps := s.th.fps ||| (fcmpOutcome cc (f.readDaz (s.daz fam) (s.srcs o.a k)) (f.readDaz (s.daz fam) (s.srcs o.b k))).2 } := by
  obtain ⟨hcond, hflags⟩ := fcmpF_eq_outcome f (s.daz fam) hcc (s.srcs o.a k) (s.srcs o.b k)
  simp only [← hcond, ← hflags, fcmp, if_pos hg, putPred_eq_withPreds]; rfl

/-- Settles O15: the model's order is that of the exact values, and its conditions are the rows of the table. -/
theorem floatCompareResults : Obligations.FloatCompareResults := by
  refine ⟨fun f o => ⟨majorOf_buildP .., majorOf_buildP .., fun i hi => ?_⟩, fun f o s hf hg => ⟨?_, ?_⟩⟩
  · fin_cases hi
    · exact ⟨fnP_buildP .., parseP_buildP ..⟩
    · exact ⟨fnP_buildP .., parseP_buildP ..⟩
  · simp only [← srcs_one]
    exact congrArg _ (fcmp_active hg hf)
  · simp only [← srcs_two]
    exact congrArg _ (fcmp_active hg hf)

end Sys2Proof.Proofs
end

section
/-! PROOFS. The encoding (R164, R179 to R184): decoding inverts encoding both ways, and the words that are no instruction. -/

namespace Sys2Proof.Proofs

open Sys2Proof.Machine Sys2Proof.Spec

/-! ### From an instruction to its word and back -/

/-- The word of every well-formed instruction selects that instruction. -/
theorem select_encode : ∀ i : Instr, Laws.Encodes.Statement i
  | .iadd o => Laws.Encodes.iadd o
  | .isub o => Laws.Encodes.isub o
  | .imin o => Laws.Encodes.imin o
  | .imax o => Laws.Encodes.imax o
  | .iminu o => Laws.Encodes.iminu o
  | .imaxu o => Laws.Encodes.imaxu o
  | .iabs o => Laws.Encodes.iabs o
  | .ineg o => Laws.Encodes.ineg o
  | .and o => Laws.Encodes.and o
  | .or o => Laws.Encodes.or o
  | .xor o => Laws.Encodes.xor o
  | .andn o => Laws.Encodes.andn o
  | .not o => Laws.Encodes.not o
  | .sel o => Laws.Encodes.sel o
  | .mov o => Laws.Encodes.mov o
  | .popc o => Laws.Encodes.popc o
  | .shl o => Laws.Encodes.shl o
  | .shr o => Laws.Encodes.shr o
  | .sar o => Laws.Encodes.sar o
  | .rol o => Laws.Encodes.rol o
  | .clz o => Laws.Encodes.clz o
  | .brev o => Laws.Encodes.brev o
  | .bfx o => Laws.Encodes.bfx o
  | .bfi o => Laws.Encodes.bfi o
  | .imul o => Laws.Encodes.imul o
  | .imulh o => Laws.Encodes.imulh o
  | .imulhu o => Laws.Encodes.imulhu o
  | .imad o => Laws.Encodes.imad o
  | .idiv o => Laws.Encodes.idiv o
  | .irem o => Laws.Encodes.irem o
  | .idivu o => Laws.Encodes.idivu o
  | .iremu o => Laws.Encodes.iremu o
  | .lea o => Laws.Encodes.lea o
  | .leaX2 o => Laws.Encodes.leaX2 o
  | .leaX4 o => Laws.Encodes.leaX4 o
  | .leaX8 o => Laws.Encodes.leaX8 o
  | .iaddc o => Laws.Encodes.iaddc o
  | .isubb o => Laws.Encodes.isubb o
  | .iaddi o => Laws.Encodes.iaddi o
  | .andi o => Laws.Encodes.andi o
  | .ori o => Laws.Encodes.ori o
  | .xori o => Laws.Encodes.xori o
  | .shli o => Laws.Encodes.shli o
  | .shri o => Laws.Encodes.shri o
  | .sari o => Laws.Encodes.sari o
  | .movi o => Laws.Encodes.movi o
  | .luih o => Laws.Encodes.luih o
  | .adrh o => Laws.Encodes.adrh o
  | .fadd o => Laws.Encodes.fadd o
  | .fsub o => Laws.Encodes.fsub o
  | .fmul o => Laws.Encodes.fmul o
  | .fma o => Laws.Encodes.fma o
  | .fmin o => Laws.Encodes.fmin o
  | .fmax o => Laws.Encodes.fmax o
  | .fdiv o => Laws.Encodes.fdiv o
  | .fsqrt o => Laws.Encodes.fsqrt o
  | .fadd64 o => Laws.Encodes.fadd64 o
  | .fsub64 o => Laws.Encodes.fsub64 o
  | .fmul64 o => Laws.Encodes.fmul64 o
  | .fma64 o => Laws.Encodes.fma64 o
  | .fmin64 o => Laws.Encodes.fmin64 o
  | .fmax64 o => Laws.Encodes.fmax64 o
  | .fdiv64 o => Laws.Encodes.fdiv64 o
  | .fsqrt64 o => Laws.Encodes.fsqrt64 o
  | .faddH2 o => Laws.Encodes.faddH2 o
  | .fsubH2 o => Laws.Encodes.fsubH2 o
  | .fmulH2 o => Laws.Encodes.fmulH2 o
  | .fmaH2 o => Laws.Encodes.fmaH2 o
  | .fminH2 o => Laws.Encodes.fminH2 o
  | .fmaxH2 o => Laws.Encodes.fmaxH2 o
  | .fdivH2 o => Laws.Encodes.fdivH2 o
  | .fsqrtH2 o => Laws.Encodes.fsqrtH2 o
  | .faddB2 o => Laws.Encodes.faddB2 o
  | .fsubB2 o => Laws.Encodes.fsubB2 o
  | .fmulB2 o => Laws.Encodes.fmulB2 o
  | .fmaB2 o => Laws.Encodes.fmaB2 o
  | .fminB2 o => Laws.Encodes.fminB2 o
  | .fmaxB2 o => Laws.Encodes.fmaxB2 o
  | .fdivB2 o => Laws.Encodes.fdivB2 o
  | .fsqrtB2 o => Laws.Encodes.fsqrtB2 o
  | .frcp o => Laws.Encodes.frcp o
  | .frsq o => Laws.Encodes.frsq o
  | .frred o => Laws.Encodes.frred o
  | .fsinr o => Laws.Encodes.fsinr o
  | .fcosr o => Laws.Encodes.fcosr o
  | .fexp2 o => Laws.Encodes.fexp2 o
  | .flog2 o => Laws.Encodes.flog2 o
  | .feval o => Laws.Encodes.feval o
  | .cvt f o => Laws.Encodes.cvt f o
  | .icmp f o => Laws.Encodes.icmp f o
  | .fcmp32 f o => Laws.Encodes.fcmp32 f o
  | .fcmp64 f o => Laws.Encodes.fcmp64 f o
  | .pand o => Laws.Encodes.pand o
  | .por o => Laws.Encodes.por o
  | .pxor o => Laws.Encodes.pxor o
  | .pnot o => Laws.Encodes.pnot o
  | .pmov o => Laws.Encodes.pmov o
  | .pset o => Laws.Encodes.pset o
  | .pfrom o => Laws.Encodes.pfrom o
  | .pto o => Laws.Encodes.pto o
  | .shfl o => Laws.Encodes.shfl o
  | .shflx o => Laws.Encodes.shflx o
  | .lswap o => Laws.Encodes.lswap o
  | .vote o => Laws.Encodes.vote o
  | .lred o => Laws.Encodes.lred o
  | .lscan o => Laws.Encodes.lscan o
  | .tred o => Laws.Encodes.tred o
  | .lbcst o => Laws.Encodes.lbcst o
  | .next o => Laws.Encodes.next o
  | .call o => Laws.Encodes.call o
  | .nextp o => Laws.Encodes.nextp o
  | .nextn o => Laws.Encodes.nextn o
  | .nexti o => Laws.Encodes.nexti o
  | .calli o => Laws.Encodes.calli o
  | .ret o => Laws.Encodes.ret o
  | .exit o => Laws.Encodes.exit o
  | .rcv o => Laws.Encodes.rcv o
  | .yield o => Laws.Encodes.yield o
  | .nop o => Laws.Encodes.nop o
  | .ld o => Laws.Encodes.ld o
  | .st o => Laws.Encodes.st o
  | .ldl o => Laws.Encodes.ldl o
  | .stl o => Laws.Encodes.stl o
  | .lda o => Laws.Encodes.lda o
  | .sta o => Laws.Encodes.sta o
  | .ldw o => Laws.Encodes.ldw o
  | .ldc o => Laws.Encodes.ldc o
  | .stc o => Laws.Encodes.stc o
  | .ldra o => Laws.Encodes.ldra o
  | .atom f o => Laws.Encodes.atom f o
  | .atomx f o => Laws.Encodes.atomx f o
  | .red f o => Laws.Encodes.red f o
  | .redx f o => Laws.Encodes.redx f o
  | .fence o => Laws.Encodes.fence o
  | .cwb o => Laws.Encodes.cwb o
  | .cinv o => Laws.Encodes.cinv o
  | .iinv o => Laws.Encodes.iinv o
  | .fbar o => Laws.Encodes.fbar o
  | .pref o => Laws.Encodes.pref o
  | .pstb o => Laws.Encodes.pstb o
  | .pldb o => Laws.Encodes.pldb o
  | .mxop o => Laws.Encodes.mxop o
  | .mxwait o => Laws.Encodes.mxwait o
  | .enq o => Laws.Encodes.enq o
  | .hsetBind o => Laws.Encodes.hsetBind o
  | .hsetFull o => Laws.Encodes.hsetFull o
  | .hsetFree o => Laws.Encodes.hsetFree o
  | .hwait o => Laws.Encodes.hwait o
  | .hq o => Laws.Encodes.hq o
  | .ftld o => Laws.Encodes.ftld o
  | .launch o => Laws.Encodes.launch o
  | .chwait o => Laws.Encodes.chwait o
  | .chwaitAll o => Laws.Encodes.chwaitAll o
  | .twinit o => Laws.Encodes.twinit o
  | .twstep o => Laws.Encodes.twstep o
  | .twgetVal o => Laws.Encodes.twgetVal o
  | .twgetSt o => Laws.Encodes.twgetSt o
  | .twend o => Laws.Encodes.twend o
  | .phreg o => Laws.Encodes.phreg o
  | .pharr o => Laws.Encodes.pharr o
  | .phwait o => Laws.Encodes.phwait o
  | .phaw o => Laws.Encodes.phaw o
  | .phq o => Laws.Encodes.phq o
  | .waitu o => Laws.Encodes.waitu o
  | .setw o => Laws.Encodes.setw o
  | .migr o => Laws.Encodes.migr o
  | .migrh o => Laws.Encodes.migrh o
  | .rdsr o => Laws.Encodes.rdsr o
  | .wrsr o => Laws.Encodes.wrsr o
  | .gsel o => Laws.Encodes.gsel o
  | .rdtime o => Laws.Encodes.rdtime o
  | .rand o => Laws.Encodes.rand o
  | .trap o => Laws.Encodes.trap o
  | .brk o => Laws.Encodes.brk o
  | .sysc o => Laws.Encodes.sysc o
  | .eret o => Laws.Encodes.eret o
  | .rdpr o => Laws.Encodes.rdpr o
  | .wrpr o => Laws.Encodes.wrpr o
  | .ctxfl o => Laws.Encodes.ctxfl o
  | .halt o => Laws.Encodes.halt o
  | .longResultWrite r k => Laws.Encodes.longResultWrite r k
  | .reslice t => Laws.Encodes.reslice t
  | .setwHoldLapse t => Laws.Encodes.setwHoldLapse t
  | .convergenceFault t cohort => Laws.Encodes.convergenceFault t cohort
  | .rcvHoldExpiry r => Laws.Encodes.rcvHoldExpiry r
  | .yieldHoldEnd r => Laws.Encodes.yieldHoldEnd r
  | .impreciseTrapDelivery t => Laws.Encodes.impreciseTrapDelivery t
  | .pageWalk bay ctx va => Laws.Encodes.pageWalk bay ctx va
  | .faultReplayWalk r => Laws.Encodes.faultReplayWalk r
  | .lockedPageRewalk r => Laws.Encodes.lockedPageRewalk r
  | .cacheWriteback cluster sec evict => Laws.Encodes.cacheWriteback cluster sec evict
  | .waituExpiry r => Laws.Encodes.waituExpiry r
  | .latchBayReread r => Laws.Encodes.latchBayReread r
  | .hostLineReread line => Laws.Encodes.hostLineReread line
  | .hostAccess store pa n v => Laws.Encodes.hostAccess store pa n v
  | .podMessageReceive peer seq ack pa n v => Laws.Encodes.podMessageReceive peer seq ack pa n v
  | .podFlagResend peer => Laws.Encodes.podFlagResend peer
  | .podLinkFault r => Laws.Encodes.podLinkFault r
  | .cardAccept t => Laws.Encodes.cardAccept t
  | .copy t seq => Laws.Encodes.copy t seq
  | .gather t seq => Laws.Encodes.gather t seq
  | .scatter t seq => Laws.Encodes.scatter t seq
  | .xpose t seq => Laws.Encodes.xpose t seq
  | .quant t seq => Laws.Encodes.quant t seq
  | .mxpre t seq => Laws.Encodes.mxpre t seq
  | .proj t seq => Laws.Encodes.proj t seq
  | .bin t seq => Laws.Encodes.bin t seq
  | .blend t seq => Laws.Encodes.blend t seq
  | .back t seq => Laws.Encodes.back t seq
  | .cardRetire t seq => Laws.Encodes.cardRetire t seq
  | .engineFaultRetry t seq => Laws.Encodes.engineFaultRetry t seq
  | .mxopStart t stream => Laws.Encodes.mxopStart t stream
  | .mxopReadsComplete t stream => Laws.Encodes.mxopReadsComplete t stream
  | .mxopComplete t stream => Laws.Encodes.mxopComplete t stream
  | .mxopAbandon t stream => Laws.Encodes.mxopAbandon t stream
  | .lqdbWrite v => Laws.Encodes.lqdbWrite v
  | .launchAccept src => Laws.Encodes.launchAccept src
  | .dependenceMet ctx gid => Laws.Encodes.dependenceMet ctx gid
  | .gridTimedStart ctx gid => Laws.Encodes.gridTimedStart ctx gid
  | .teamPlace t bay => Laws.Encodes.teamPlace t bay
  | .priorityPreempt ctx gid => Laws.Encodes.priorityPreempt ctx gid
  | .teamRetire t => Laws.Encodes.teamRetire t
  | .gridRetire ctx gid => Laws.Encodes.gridRetire ctx gid
  | .phaseCommit ctx gid => Laws.Encodes.phaseCommit ctx gid
  | .detTeamAbort t => Laws.Encodes.detTeamAbort t
  | .teamSaved t => Laws.Encodes.teamSaved t
  | .teamResume t bay => Laws.Encodes.teamResume t bay
  | .contextKillComplete ctx => Laws.Encodes.contextKillComplete ctx
  | .timeSyncMeasure peer sourceCount => Laws.Encodes.timeSyncMeasure peer sourceCount
  | .linkTimeout r addr => Laws.Encodes.linkTimeout r addr
  | .dieFailed die => Laws.Encodes.dieFailed die
  | .referenceClockLoss die => Laws.Encodes.referenceClockLoss die
  | .referenceClockReturn die => Laws.Encodes.referenceClockReturn die
  | .powerCapStretch die watts => Laws.Encodes.powerCapStretch die watts
  | .clockRestore die watts => Laws.Encodes.clockRestore die watts
  | .bayStartBatch die => Laws.Encodes.bayStartBatch die
  | .flitCrcRetry port => Laws.Encodes.flitCrcRetry port
  | .podLinkTrainingFail port => Laws.Encodes.podLinkTrainingFail port
  | .uncorrectableError e => Laws.Encodes.uncorrectableError e
  | .nonInstructionWord w => Laws.Encodes.nonInstructionWord w
  | .cardReadsComplete t seq => Laws.Encodes.cardReadsComplete t seq
  | .mbctlWriteWhileBusy addr => Laws.Encodes.mbctlWriteWhileBusy addr
  | .resync => Laws.Encodes.resync
  | .setregCtxtb => Laws.Encodes.setregCtxtb
  | .setregLqtb => Laws.Encodes.setregLqtb
  | .setregFqb => Laws.Encodes.setregFqb
  | .setregPriwt => Laws.Encodes.setregPriwt
  | .setregLovb => Laws.Encodes.setregLovb
  | .setregLto => Laws.Encodes.setregLto
  | .shootdown => Laws.Encodes.shootdown
  | .migrate => Laws.Encodes.migrate
  | .biasFlip => Laws.Encodes.biasFlip
  | .shutter => Laws.Encodes.shutter
  | .kill => Laws.Encodes.kill
  | .partset => Laws.Encodes.partset
  | .powercap => Laws.Encodes.powercap
  | .podcfg => Laws.Encodes.podcfg
  | .timeset => Laws.Encodes.timeset
  | .fwload => Laws.Encodes.fwload
  | .attest => Laws.Encodes.attest
  | .powerOnReset => Laws.Encodes.powerOnReset
  | .trainingEnd => Laws.Encodes.trainingEnd
  | .fullServiceStart => Laws.Encodes.fullServiceStart
  | .reducedServiceStart => Laws.Encodes.reducedServiceStart

/-- A selected instruction that passes the checks of R184 is decoded. -/
theorem decode_of_select {w : Word} {i : Instr} (hs : select w = .ok i) (hw : i.wellFormed = true) : decode w = .ok i := by
  simp only [Instr.wellFormed, Bool.and_eq_true, Bool.not_eq_true'] at hw
  simp [decode, hs, hw.1, hw.2]

/-- Settles O2: the word of each instruction selects it, and a well-formed one passes the later checks. -/
theorem decodeEncodeRoundTrip : Obligations.DecodeEncodeRoundTrip :=
  fun i hword hwf => decode_of_select (select_encode i hwf hword) hwf

/-! ### From a word to its instruction and back -/

theorem bit1_getLsbD_toNat (w : Word) (i : Nat) : (bit1 (w.getLsbD i)).toNat = w.toNat / 2 ^ i % 2 ^ 1 := by
  rw [bit1_toNat, BitVec.getLsbD, Nat.testBit_eq_decide_div_mod_eq, Nat.pow_one]
  rcases Nat.mod_two_eq_zero_or_one (w.toNat / 2 ^ i) with h | h <;> simp [h]

theorem extract_toNat (w : Word) (i n : Nat) : (w.extractLsb' i n).toNat = w.toNat / 2 ^ i % 2 ^ n := by
  rw [BitVec.extractLsb'_toNat, Nat.shiftRight_eq_div_pow]

/-- What stands above a field, and the field, are what stands from the field on. -/
theorem join_field {x i : Nat} (j n m : Nat) (hm : m = 2 ^ n := by rfl) (h : j = i + n := by rfl) : x / 2 ^ j * m + x / 2 ^ i % 2 ^ n = x / 2 ^ i := by
  subst h hm
  rw [Nat.pow_add, ← Nat.div_div_eq_div_mul, Nat.div_add_mod']

/-- Bit 31 stands below nothing. -/
theorem top_bit (w : Word) : w.toNat / 2 ^ 31 % 2 ^ 1 = w.toNat / 2 ^ 31 := by omega

/-- C, S and the major opcode are the upper eight bits. -/
theorem join_head (w : Word) :
    (w.toNat / 2 ^ 31 % 2 ^ 1 * 2 + w.toNat / 2 ^ 30 % 2 ^ 1) * 64 + w.toNat / 2 ^ 24 % 2 ^ 6 = w.toNat / 2 ^ 24 := by
  rw [top_bit, join_field 31 1 2, join_field 30 6 64]

/-- A word is what each format builds of the fields that it reads from it. -/
theorem buildR_parseR (w : Word) : buildR (majorOf w) (fnR w) (parseR w) = w := by
  apply BitVec.eq_of_toNat_eq
  simp only [buildR_toNat, parseR, majorOf, fnR, bit1_getLsbD_toNat, extract_toNat, join_head]
  rw [join_field 24 1 2, join_field 23 2 4, join_field 21 6 64, join_field 15 6 64,
    join_field 9 6 64, join_field 3 3 8, Nat.pow_zero, Nat.div_one]

theorem buildI_parseI (w : Word) : buildI (majorOf w) (parseI w) = w := by
  apply BitVec.eq_of_toNat_eq
  simp only [buildI_toNat, parseI, majorOf, bit1_getLsbD_toNat, extract_toNat, join_head]
  rw [join_field 24 6 64, join_field 18 6 64, join_field 12 12 4096, Nat.pow_zero, Nat.div_one]

theorem buildM_parseM (w : Word) : buildM (majorOf w) (parseM w) = w := by
  apply BitVec.eq_of_toNat_eq
  simp only [buildM_toNat, parseM, majorOf, bit1_getLsbD_toNat, extract_toNat, join_head]
  rw [join_field 24 1 2, join_field 23 2 4, join_field 21 6 64, join_field 15 6 64, join_field 9 3 8, join_field 6 6 64, Nat.pow_zero, Nat.div_one]

theorem buildP_parseP (w : Word) : buildP (majorOf w) (fnP w) (parseP w) = w := by
  apply BitVec.eq_of_toNat_eq
  simp only [buildP_toNat, parseP, majorOf, fnP, bit1_getLsbD_toNat, extract_toNat, join_head]
  rw [join_field 24 1 2, join_field 23 6 64, join_field 17 6 64, join_field 11 6 64, join_field 5 5 32, Nat.pow_zero, Nat.div_one]

theorem buildU_parseU (w : Word) : buildU (majorOf w) (parseU w) = w := by
  apply BitVec.eq_of_toNat_eq
  simp only [buildU_toNat, parseU, majorOf, bit1_getLsbD_toNat, extract_toNat, join_head]
  rw [join_field 24 4 16, join_field 20 20 1048576, Nat.pow_zero, Nat.div_one]

theorem buildX_parseX (w : Word) : buildX (majorOf w) (parseX w) = w := by
  apply BitVec.eq_of_toNat_eq
  simp only [buildX_toNat, parseX, majorOf, bit1_getLsbD_toNat, extract_toNat, join_head]
  rw [join_field 24 6 64, join_field 18 18 262144, Nat.pow_zero, Nat.div_one]

theorem buildE_parseE (w : Word) : buildE (majorOf w) (subE w) (parseE w) = w := by
  apply BitVec.eq_of_toNat_eq
  simp only [buildE_toNat, parseE, majorOf, subE, bit1_getLsbD_toNat, extract_toNat, join_head]
  rw [join_field 24 6 64, join_field 18 6 64, join_field 12 4 16, join_field 8 1 2, join_field 7 7 128, Nat.pow_zero, Nat.div_one]

/-- The same with the major, and F or SUB, given by their numbers. -/
theorem buildR_eq {w : Word} {m : BitVec 6} {f : BitVec 3} (hm : (majorOf w).toNat = m.toNat) (hf : (fnR w).toNat = f.toNat) :
    buildR m f (parseR w) = w := by
  rw [← BitVec.eq_of_toNat_eq hm, ← BitVec.eq_of_toNat_eq hf, buildR_parseR]

theorem buildI_eq {w : Word} {m : BitVec 6} (hm : (majorOf w).toNat = m.toNat) : buildI m (parseI w) = w := by
  rw [← BitVec.eq_of_toNat_eq hm, buildI_parseI]

theorem buildM_eq {w : Word} {m : BitVec 6} (hm : (majorOf w).toNat = m.toNat) : buildM m (parseM w) = w := by
  rw [← BitVec.eq_of_toNat_eq hm, buildM_parseM]

theorem buildP_eq {w : Word} {m : BitVec 6} {f : BitVec 5} (hm : (majorOf w).toNat = m.toNat) (hf : (fnP w).toNat = f.toNat) :
    buildP m f (parseP w) = w := by
  rw [← BitVec.eq_of_toNat_eq hm, ← BitVec.eq_of_toNat_eq hf, buildP_parseP]

theorem buildU_eq {w : Word} {m : BitVec 6} (hm : (majorOf w).toNat = m.toNat) : buildU m (parseU w) = w := by
  rw [← BitVec.eq_of_toNat_eq hm, buildU_parseU]

theorem buildX_eq {w : Word} {m : BitVec 6} (hm : (majorOf w).toNat = m.toNat) : buildX m (parseX w) = w := by
  rw [← BitVec.eq_of_toNat_eq hm, buildX_parseX]

theorem buildE_eq {w : Word} {m : BitVec 6} {f : BitVec 4} (hm : (majorOf w).toNat = m.toNat) (hf : (subE w).toNat = f.toNat) :
    buildE m f (parseE w) = w := by
  rw [← BitVec.eq_of_toNat_eq hm, ← BitVec.eq_of_toNat_eq hf, buildE_parseE]

/-- An F that is none of 0 to 6 is 7. -/
theorem fnR_eq_seven {w : Word} (h0 : (fnR w).toNat ≠ 0) (h1 : (fnR w).toNat ≠ 1) (h2 : (fnR w).toNat ≠ 2) (h3 : (fnR w).toNat ≠ 3)
    (h4 : (fnR w).toNat ≠ 4) (h5 : (fnR w).toNat ≠ 5) (h6 : (fnR w).toNat ≠ 6) : (fnR w).toNat = (7#3).toNat := by
  have := (fnR w).isLt
  change _ = 7
  omega

/-! #### The tables of F and SUB -/

theorem encode_decode01 {w : Word} {i : Instr} (hm : (majorOf w).toNat = 0x01) (h : decode01 w = .ok i) : encode i = w := by
  unfold decode01 at h
  split at h <;> cases h
  case h_8 => exact buildR_eq hm (fnR_eq_seven ‹_› ‹_› ‹_› ‹_› ‹_› ‹_› ‹_›)
  all_goals exact buildR_eq hm ‹_›

theorem encode_decode02 {w : Word} {i : Instr} (hm : (majorOf w).toNat = 0x02) (h : decode02 w = .ok i) : encode i = w := by
  unfold decode02 at h
  split at h <;> cases h
  case h_8 => exact buildR_eq hm (fnR_eq_seven ‹_› ‹_› ‹_› ‹_› ‹_› ‹_› ‹_›)
  all_goals exact buildR_eq hm ‹_›

theorem encode_decode03 {w : Word} {i : Instr} (hm : (majorOf w).toNat = 0x03) (h : decode03 w = .ok i) : encode i = w := by
  unfold decode03 at h
  split at h <;> cases h
  case h_8 => exact buildR_eq hm (fnR_eq_seven ‹_› ‹_› ‹_› ‹_› ‹_› ‹_› ‹_›)
  all_goals exact buildR_eq hm ‹_›

theorem encode_decode04 {w : Word} {i : Instr} (hm : (majorOf w).toNat = 0x04) (h : decode04 w = .ok i) : encode i = w := by
  unfold decode04 at h
  split at h <;> cases h
  case h_8 => exact buildR_eq hm (fnR_eq_seven ‹_› ‹_› ‹_› ‹_› ‹_› ‹_› ‹_›)
  all_goals exact buildR_eq hm ‹_›

theorem encode_decode05 {w : Word} {i : Instr} (hm : (majorOf w).toNat = 0x05) (h : decode05 w = .ok i) : encode i = w := by
  unfold decode05 at h
  split at h <;> cases h
  all_goals exact buildR_eq hm ‹_›

theorem encode_decode10 {w : Word} {i : Instr} (hm : (majorOf w).toNat = 0x10) (h : decode10 w = .ok i) : encode i = w := by
  unfold decode10 at h
  split at h <;> cases h
  case h_8 => exact buildR_eq hm (fnR_eq_seven ‹_› ‹_› ‹_› ‹_› ‹_› ‹_› ‹_›)
  all_goals exact buildR_eq hm ‹_›

theorem encode_decode11 {w : Word} {i : Instr} (hm : (majorOf w).toNat = 0x11) (h : decode11 w = .ok i) : encode i = w := by
  unfold decode11 at h
  split at h <;> cases h
  case h_8 => exact buildR_eq hm (fnR_eq_seven ‹_› ‹_› ‹_› ‹_› ‹_› ‹_› ‹_›)
  all_goals exact buildR_eq hm ‹_›

theorem encode_decode12 {w : Word} {i : Instr} (hm : (majorOf w).toNat = 0x12) (h : decode12 w = .ok i) : encode i = w := by
  unfold decode12 at h
  split at h <;> cases h
  case h_8 => exact buildR_eq hm (fnR_eq_seven ‹_› ‹_› ‹_› ‹_› ‹_› ‹_› ‹_›)
  all_goals exact buildR_eq hm ‹_›

theorem encode_decode13 {w : Word} {i : Instr} (hm : (majorOf w).toNat = 0x13) (h : decode13 w = .ok i) : encode i = w := by
  unfold decode13 at h
  split at h <;> cases h
  case h_8 => exact buildR_eq hm (fnR_eq_seven ‹_› ‹_› ‹_› ‹_› ‹_› ‹_› ‹_›)
  all_goals exact buildR_eq hm ‹_›

theorem encode_decode14 {w : Word} {i : Instr} (hm : (majorOf w).toNat = 0x14) (h : decode14 w = .ok i) : encode i = w := by
  unfold decode14 at h
  split at h <;> cases h
  case h_8 => exact buildR_eq hm (fnR_eq_seven ‹_› ‹_› ‹_› ‹_› ‹_› ‹_› ‹_›)
  all_goals exact buildR_eq hm ‹_›

theorem encode_decode16 {w : Word} {i : Instr} (hm : (majorOf w).toNat = 0x16) (h : decode16 w = .ok i) : encode i = w := by
  unfold decode16 at h
  split at h <;> cases h
  case h_8 => exact buildR_eq hm (fnR_eq_seven ‹_› ‹_› ‹_› ‹_› ‹_› ‹_› ‹_›)
  all_goals exact buildR_eq hm ‹_›

theorem encode_decode1B {w : Word} {i : Instr} (hm : (majorOf w).toNat = 0x1B) (h : decode1B w = .ok i) : encode i = w := by
  unfold decode1B at h
  split at h <;> cases h
  all_goals exact buildP_eq hm ‹_›

theorem encode_decode2D {w : Word} {i : Instr} (hm : (majorOf w).toNat = 0x2D) (h : decode2D w = .ok i) : encode i = w := by
  unfold decode2D at h
  split at h <;> cases h
  all_goals exact buildR_eq hm ‹_›

theorem encode_decode2F {w : Word} {i : Instr} (hm : (majorOf w).toNat = 0x2F) (h : decode2F w = .ok i) : encode i = w := by
  unfold decode2F at h
  split at h <;> cases h
  all_goals exact buildR_eq hm ‹_›

theorem encode_decode32 {w : Word} {i : Instr} (hm : (majorOf w).toNat = 0x32) (h : decode32 w = .ok i) : encode i = w := by
  unfold decode32 at h
  split at h <;> cases h
  all_goals exact buildE_eq hm ‹_›

theorem encode_decode33 {w : Word} {i : Instr} (hm : (majorOf w).toNat = 0x33) (h : decode33 w = .ok i) : encode i = w := by
  unfold decode33 at h
  split at h <;> cases h
  all_goals exact buildE_eq hm ‹_›

theorem encode_decode34 {w : Word} {i : Instr} (hm : (majorOf w).toNat = 0x34) (h : decode34 w = .ok i) : encode i = w := by
  unfold decode34 at h
  split at h <;> cases h
  all_goals exact buildE_eq hm ‹_›

theorem encode_decode3E {w : Word} {i : Instr} (hm : (majorOf w).toNat = 0x3E) (h : decode3E w = .ok i) : encode i = w := by
  unfold decode3E at h
  split at h <;> cases h
  all_goals exact buildR_eq hm ‹_›

/-- A word with a code in D or its argument: of 0x30 and 0x31, the words that one SUB holds (R269, R305). -/
theorem encode_decode30 {w : Word} {i : Instr} (hm : (majorOf w).toNat = 0x30) (h : decode30 w = .ok i) : encode i = w := by
  unfold decode30 at h
  split at h
  case h_4 => split at h <;> cases h <;> exact buildE_eq hm ‹_›
  case h_9 => split at h <;> cases h <;> exact buildE_eq hm ‹_›
  all_goals cases h
  all_goals exact buildE_eq hm ‹_›

theorem encode_decode31 {w : Word} {i : Instr} (hm : (majorOf w).toNat = 0x31) (h : decode31 w = .ok i) : encode i = w := by
  unfold decode31 at h
  split at h
  case h_3 => split at h <;> cases h <;> exact buildE_eq hm ‹_›
  all_goals cases h
  all_goals exact buildE_eq hm ‹_›

/-- A word that selects an instruction is the word of it. -/
theorem encode_select {w : Word} {i : Instr} (h : select w = .ok i) : encode i = w := by
  unfold select at h
  split at h
  case h_2 => exact encode_decode01 ‹_› h
  case h_3 => exact encode_decode02 ‹_› h
  case h_4 => exact encode_decode03 ‹_› h
  case h_5 => exact encode_decode04 ‹_› h
  case h_6 => exact encode_decode05 ‹_› h
  case h_15 => exact encode_decode10 ‹_› h
  case h_16 => exact encode_decode11 ‹_› h
  case h_17 => exact encode_decode12 ‹_› h
  case h_18 => exact encode_decode13 ‹_› h
  case h_19 => exact encode_decode14 ‹_› h
  case h_21 => exact encode_decode16 ‹_› h
  case h_25 => exact encode_decode1B ‹_› h
  case h_39 => exact encode_decode2D ‹_› h
  case h_41 => exact encode_decode2F ‹_› h
  case h_42 => exact encode_decode30 ‹_› h
  case h_43 => exact encode_decode31 ‹_› h
  case h_44 => exact encode_decode32 ‹_› h
  case h_45 => exact encode_decode33 ‹_› h
  case h_46 => exact encode_decode34 ‹_› h
  case h_53 => exact encode_decode3E ‹_› h
  case h_38 =>
    split at h
    · cases h; exact buildR_eq ‹_› rfl
    · cases h
  all_goals cases h
  case h_7 | h_8 | h_9 | h_10 | h_11 | h_12 | h_13 | h_14 => exact buildI_eq ‹_›
  case h_22 | h_23 | h_24 => exact buildP_eq ‹_› rfl
  case h_20 | h_35 | h_36 | h_37 => exact buildR_eq ‹_› rfl
  case h_26 | h_27 | h_28 | h_29 | h_30 | h_31 | h_32 | h_33 | h_34 | h_40 => exact buildM_eq ‹_›
  case h_47 | h_48 | h_49 | h_50 => exact buildU_eq ‹_›
  case h_51 | h_52 => exact buildX_eq ‹_›

/-- What decodes is selected, and is well formed. -/
theorem select_of_decode {w : Word} {i : Instr} (h : decode w = .ok i) : select w = .ok i ∧ i.wellFormed = true := by
  unfold decode at h
  split at h
  · cases h
  next j hj =>
    split at h
    · cases h
    next hres =>
      split at h
      next hfields =>
        cases h
        exact ⟨hj, by simp [Instr.wellFormed, hres, hfields]⟩
      · cases h

/-- Settles O3: selection reads every bit of the word, and the checks that follow it are those of well-formedness. -/
theorem decodedWordIsEncoding : Obligations.DecodedWordIsEncoding := by
  intro w i h
  obtain ⟨hs, hw⟩ := select_of_decode h
  exact ⟨encode_select hs, hw⟩

/-- Settles O1: the three words, decoded. -/
theorem sampleWordsDecode : Obligations.SampleWordsDecode := by
  unfold Obligations.SampleWordsDecode
  refine ⟨?_, ?_, ?_⟩ <;> rfl

/-! ### Words that are no instruction (R184) -/

/-- Selection refuses a word for its major where that is 0x00 or 0x3F, and nowhere else. -/
theorem select_eq_badMajor_iff (w : Word) : select w = .error .badMajor ↔ majorOf w = 0x00 ∨ majorOf w = 0x3F := by
  constructor
  · intro h
    unfold select at h
    split at h
    case h_1 => exact .inl (BitVec.eq_of_toNat_eq ‹_›)
    case h_54 => exact .inr (BitVec.eq_of_toNat_eq ‹_›)
    case h_38 => split at h <;> cases h
    case h_2 | h_3 | h_4 | h_5 | h_6 | h_15 | h_16 | h_17 | h_18 | h_19 | h_21 | h_25 | h_39 | h_41 | h_42 | h_43 | h_44 | h_45 | h_46 | h_53 =>
      simp only [decode01, decode02, decode03, decode04, decode05, decode10, decode11, decode12, decode13, decode14, decode16, decode1B, decode2D, decode2F, decode30, decode31, decode32, decode33, decode34, decode3E] at h
      repeat' split at h
      all_goals cases h
    all_goals cases h
  · rintro (h | h) <;> (unfold select; rw [h]; rfl)

/-- The checks that follow selection refuse no word for its major. -/
theorem decode_eq_badMajor_iff (w : Word) : decode w = .error .badMajor ↔ select w = .error .badMajor := by
  unfold decode
  split
  next hs => simp [hs]
  next hs =>
    rw [hs]
    split_ifs <;> simp

/-- A major that R179 leaves out is undefined. -/
theorem decode_reserved_major {w : Word} (h : majorOf w ∈ [0x06, 0x07, 0x17, 0x1C, 0x1D, 0x1E, 0x1F, 0x35, 0x36, 0x37]) :
    decode w = .error .undefinedCode := by
  have hs : select w = .error .undefinedCode := by
    simp only [List.mem_cons, List.not_mem_nil, or_false] at h
    rcases h with h | h | h | h | h | h | h | h | h | h <;> (unfold select; rw [h]; rfl)
  rw [decode, hs]

/-- Settles O41: the majors that selection refuses, and the trap of each refusal. -/
theorem nonInstructionWordsTrap : Obligations.NonInstructionWordsTrap := by
  refine ⟨fun w => ⟨(decode_eq_badMajor_iff w).trans (select_eq_badMajor_iff w), decode_reserved_major⟩, fun w s => ⟨?_, ?_⟩⟩
  · rintro (h | h) <;> (show execNonInstructionWord w s = _; rw [execNonInstructionWord, h]; rfl)
  · intro h
    show execNonInstructionWord w s = _
    rw [execNonInstructionWord, h]
    rfl

end Sys2Proof.Proofs
end

section
/-! PROOFS. Floating point: rounding (R59 to R62, R69), arithmetic of finite values and its specials (R206, R207), function
lanes (R210, R211) and conversions (R66, R212). -/

namespace Sys2Proof.Proofs

open Sys2Proof.Machine Sys2Proof.Spec

/-! ### The neighbour that a mode names -/

/-- Of t whole units and num / den of one, roundAt delivers t or t + 1 as the mode says. -/
theorem roundAt_of_lt (r : Rnd) (neg : Bool) (m : Nat) {e q : Int} (h : e < q) (sticky : Bool) :
    roundAt r neg m e q sticky =
      (if roundsUp r neg (m / 2 ^ (q - e).toNat) (m % 2 ^ (q - e).toNat) (2 ^ (q - e).toNat) sticky then m / 2 ^ (q - e).toNat + 1
        else m / 2 ^ (q - e).toNat, m % 2 ^ (q - e).toNat != 0 || sticky) := by
  simp [roundAt, show ¬ q ≤ e by omega]

/-- A value at or above the unit is a whole number of units. -/
theorem roundAt_of_le (r : Rnd) (neg : Bool) (m : Nat) {e q : Int} (h : q ≤ e) (sticky : Bool) :
    roundAt r neg m e q sticky = (m * 2 ^ (e - q).toNat, sticky) := by
  simp [roundAt, h]

/-- An exact value is never moved off its multiple. -/
theorem roundsUp_exact (r : Rnd) (neg : Bool) (t : Nat) {den : Nat} (hd : 0 < den) : roundsUp r neg t 0 den false = false := by
  cases r <;> simp [roundsUp] <;> omega

/-- Settles O12: roundsUp is each mode's rule. -/
theorem roundingModesDeliver : Obligations.RoundingModesDeliver := by
  intro neg m e q he
  have hd : 0 < 2 ^ (q - e).toNat := by positivity
  simp only [roundAt_of_lt _ _ _ he]
  generalize 2 ^ (q - e).toNat = d at hd ⊢
  have hlt := Nat.mod_lt m hd
  generalize m % d = num at hlt ⊢
  generalize m / d = t
  refine ⟨fun r => ⟨by simp [bne, beq_eq_decide], ?_⟩, fun h => ?_, fun h => ?_, fun h => ?_, by simp [roundsUp], fun h => ?_, fun u => by simp [roundsUp]⟩
  · by_cases h0 : num = 0
    · subst h0; simp [roundsUp_exact r neg t hd]
    · by_cases hup : roundsUp r neg t num d false = true <;> simp [hup, h0]
  · have h1 : ¬ d < 2 * num := by omega
    have h2 : ¬ 2 * num = d := by omega
    have h3 : ¬ d ≤ 2 * num := by omega
    simp [roundsUp, h1, h2, h3]
  · simp [roundsUp, h, h.le]
  · have hup : roundsUp .rne neg t num d false = decide (t % 2 = 1) := by simp [roundsUp, h, beq_eq_decide]
    rw [hup]
    refine ⟨?_, by simp [roundsUp, h]⟩
    by_cases ht : t % 2 = 1
    · simp only [ht, decide_true, if_true]; omega
    · simp only [ht, decide_false, Bool.false_eq_true, if_false]; omega
  · cases neg <;> simp [roundsUp, h]

/-! ### Exact magnitudes, in units -/

/-- An exact magnitude as the model carries it: m × 2^e, and a part of that unit more where it is sticky. -/
def IsMag (y : ℝ) (m : Nat) (e : Int) (sticky : Bool) : Prop :=
  ∃ δ : ℝ, 0 ≤ δ ∧ δ < 1 ∧ (sticky = true ↔ 0 < δ) ∧ y = (m + δ) * 2 ^ e

theorem isMag_exact (m : Nat) (e : Int) : IsMag (m * 2 ^ e) m e false := ⟨0, le_rfl, one_pos, by simp, by simp⟩

/-- A signed magnitude. -/
def signed (neg : Bool) (y : ℝ) : ℝ := if neg then -y else y

@[simp] theorem signed_false (y : ℝ) : signed false y = y := rfl
@[simp] theorem signed_true (y : ℝ) : signed true y = -y := rfl

theorem abs_signed (neg : Bool) {y : ℝ} (h : 0 ≤ y) : |signed neg y| = y := by
  cases neg <;> simp [abs_of_nonneg h]

theorem signed_div (neg : Bool) (y u : ℝ) : signed neg y / u = signed neg (y / u) := by
  cases neg <;> simp [neg_div]

theorem signed_mul (neg : Bool) (y u : ℝ) : signed neg y * u = signed neg (y * u) := by
  cases neg <;> simp

theorem signedN_cast (neg : Bool) (n : Nat) : ((signedN neg n : Int) : ℝ) = signed neg n := by
  cases neg <;> simp [signedN]

theorem signed_inj {neg : Bool} {a b : ℝ} : signed neg a = signed neg b ↔ a = b := by
  cases neg <;> simp

/-- Whether a mode goes away from zero with a part ρ of a unit over t units. -/
def GoesUp (r : Rnd) (neg : Bool) (t : Nat) (ρ : ℝ) : Prop :=
  match r with
  | .rz => False
  | .rd => neg = true ∧ 0 < ρ
  | .ru => neg = false ∧ 0 < ρ
  | .rne => 1 / 2 < ρ ∨ (ρ = 1 / 2 ∧ t % 2 = 1)
  | .rna => 1 / 2 ≤ ρ
  | .stoch _ => True

/-- The modes of FPC.RM: all but the stochastic one. -/
def Fixed (r : Rnd) : Prop := r ∈ [Rnd.rne, .rz, .rd, .ru, .rna]

/-- roundsUp on a fraction of an even number of parts decides GoesUp on the exact part. -/
theorem roundsUp_iff {r : Rnd} (hr : Fixed r) (neg : Bool) (t : Nat) {num k : Nat} {δ : ℝ} {sticky : Bool} (hk : 0 < k)
    (h0 : 0 ≤ δ) (h1 : δ < 1) (hs : sticky = true ↔ 0 < δ) :
    roundsUp r neg t num (2 * k) sticky = true ↔ GoesUp r neg t ((num + δ) / ((2 * k : Nat) : ℝ)) := by
  have hk' : (0 : ℝ) < ((2 * k : Nat) : ℝ) := by positivity
  have hpos : (num ≠ 0 ∨ sticky = true) ↔ 0 < ((num : ℝ) + δ) / ((2 * k : Nat) : ℝ) := by
    rw [hs, div_pos_iff_of_pos_right hk']
    rcases Nat.eq_zero_or_pos num with rfl | hn
    · simp
    · have : (0 : ℝ) < num := by exact_mod_cast hn
      exact ⟨fun _ => by positivity, fun _ => Or.inl (by omega)⟩
  have hge : 2 * k ≤ 2 * num ↔ 1 / 2 ≤ ((num : ℝ) + δ) / ((2 * k : Nat) : ℝ) := by
    rw [le_div_iff₀ hk']
    push_cast
    constructor
    · intro h
      have : (k : ℝ) ≤ num := by exact_mod_cast (by omega : k ≤ num)
      linarith
    · intro h
      by_contra hlt
      have : (num : ℝ) + 1 ≤ k := by exact_mod_cast (by omega : num + 1 ≤ k)
      linarith
  have heq : (2 * num = 2 * k ∧ sticky = false) ↔ ((num : ℝ) + δ) / ((2 * k : Nat) : ℝ) = 1 / 2 := by
    rw [div_eq_iff hk'.ne', ← Bool.not_eq_true, hs]
    push_cast
    constructor
    · rintro ⟨h, hδ⟩
      have : (num : ℝ) = k := by exact_mod_cast (by omega : num = k)
      linarith
    · intro h
      have hle : (num : ℝ) ≤ k := by linarith
      have hge : (k : ℝ) < num + 1 := by linarith
      have : num ≤ k := by exact_mod_cast hle
      have : k < num + 1 := by exact_mod_cast hge
      have e : num = k := by omega
      subst e
      exact ⟨rfl, by linarith⟩
  simp only [Fixed, List.mem_cons, List.not_mem_nil, or_false] at hr
  rcases hr with rfl | rfl | rfl | rfl | rfl
  · simp only [roundsUp, GoesUp, ← heq, lt_iff_le_and_ne, ← hge, ne_eq, @eq_comm ℝ (1 / 2)]
    cases sticky <;> simp <;> omega
  · simp [roundsUp, GoesUp]
  · simp only [roundsUp, GoesUp, ← hpos, Bool.and_eq_true, Bool.or_eq_true, bne_iff_ne]
  · simp only [roundsUp, GoesUp, ← hpos, Bool.and_eq_true, Bool.or_eq_true, bne_iff_ne, Bool.not_eq_true']
  · simp only [roundsUp, GoesUp, ← hge, decide_eq_true_eq, ge_iff_le]

/-- The neighbour that GoesUp names is one that the mode may deliver. -/
theorem delivers_of_goesUp {r : Rnd} (hr : Fixed r) (neg : Bool) (t : Nat) {ρ : ℝ} (h0 : 0 ≤ ρ) (h1 : ρ < 1) {n : Nat}
    (hup : GoesUp r neg t ρ → n = t + 1) (hdown : ¬ GoesUp r neg t ρ → n = t) :
    Delivers r (signed neg (t + ρ)) (signedN neg n) := by
  have ht : (0 : ℝ) ≤ t := by positivity
  have hdist : |signed neg (t + ρ) - signed neg n| = |t + ρ - n| := by
    cases neg
    · rfl
    · rw [signed_true, signed_true, ← abs_neg]; congr 1; ring
  have habs : |signed neg (t + ρ)| = t + ρ := abs_signed neg (by positivity)
  have habsn : |signed neg (n : ℝ)| = n := abs_signed neg (by positivity)
  have hpar : signedN neg n % 2 = 0 ↔ n % 2 = 0 := by cases neg <;> simp [signedN] <;> omega
  simp only [Fixed, List.mem_cons, List.not_mem_nil, or_false] at hr
  rcases hr with rfl | rfl | rfl | rfl | rfl
  · simp only [Delivers, signedN_cast, hdist, hpar]
    by_cases hg : GoesUp .rne neg t ρ
    · obtain rfl := hup hg
      rw [show (t : ℝ) + ρ - ((t + 1 : Nat) : ℝ) = -(1 - ρ) by push_cast; ring, abs_neg, abs_of_pos (by linarith)]
      rcases hg with h | ⟨h, ho⟩
      · exact ⟨by linarith, fun h' => by linarith⟩
      · exact ⟨by linarith, fun _ => by omega⟩
    · obtain rfl := hdown hg
      simp only [GoesUp, not_or, not_lt, not_and] at hg
      rw [add_sub_cancel_left, abs_of_nonneg h0]
      exact ⟨hg.1, fun h => by have := hg.2 h; omega⟩
  · obtain rfl := hdown (fun h => h)
    simp only [Delivers, signedN_cast, habs, habsn]
    refine ⟨by linarith, by linarith, ?_⟩
    cases neg
    · simp only [signed_false]; positivity
    · simp only [signed_true, neg_mul_neg]; positivity
  · simp only [Delivers, signedN_cast]
    rcases h0.eq_or_lt with rfl | hpos
    · obtain rfl := hdown (by simp [GoesUp])
      simp
    · cases neg
      · obtain rfl := hdown (by simp [GoesUp])
        exact ⟨by simpa using h0, by simpa using h1⟩
      · obtain rfl := hup ⟨rfl, hpos⟩
        simp only [signed_true]
        push_cast
        exact ⟨by linarith, by linarith⟩
  · simp only [Delivers, signedN_cast]
    rcases h0.eq_or_lt with rfl | hpos
    · obtain rfl := hdown (by simp [GoesUp])
      simp
    · cases neg
      · obtain rfl := hup ⟨rfl, hpos⟩
        simp only [signed_false]
        push_cast
        exact ⟨by linarith, by linarith⟩
      · obtain rfl := hdown (by simp [GoesUp])
        simp only [signed_true]
        exact ⟨by linarith, by linarith⟩
  · simp only [Delivers, signedN_cast, hdist, habs, habsn]
    by_cases hg : GoesUp .rna neg t ρ
    · obtain rfl := hup hg
      have hg' : (1 : ℝ) / 2 ≤ ρ := hg
      push_cast
      rw [show (t : ℝ) + ρ - (t + 1) = -(1 - ρ) by ring, abs_neg, abs_of_pos (by linarith)]
      exact ⟨by linarith, fun _ => by linarith⟩
    · obtain rfl := hdown hg
      have hg' : ρ < 1 / 2 := not_le.mp hg
      rw [add_sub_cancel_left, abs_of_nonneg h0]
      exact ⟨by linarith, fun h => by linarith⟩

/-- An exact magnitude in a larger unit: whole units, and the rest of one. -/
theorem isMag_div {y : ℝ} {m : Nat} {e q : Int} {δ : ℝ} (hy : y = (m + δ) * 2 ^ e) (he : e < q) :
    y / 2 ^ q = (m / 2 ^ (q - e).toNat : Nat) + ((m % 2 ^ (q - e).toNat : Nat) + δ) / ((2 ^ (q - e).toNat : Nat) : ℝ) := by
  have hd : (0 : ℝ) < ((2 ^ (q - e).toNat : Nat) : ℝ) := by positivity
  have hq : (2 : ℝ) ^ q = 2 ^ e * ((2 ^ (q - e).toNat : Nat) : ℝ) := by
    push_cast
    rw [← zpow_natCast, ← zpow_add₀ two_ne_zero, Int.toNat_of_nonneg (by omega)]; congr 1; omega
  have hm : (m : ℝ) = (m / 2 ^ (q - e).toNat : Nat) * ((2 ^ (q - e).toNat : Nat) : ℝ) + (m % 2 ^ (q - e).toNat : Nat) := by
    exact_mod_cast (Nat.div_add_mod' m _).symm
  have he : (2 : ℝ) ^ e ≠ 0 := by positivity
  generalize ((2 ^ (q - e).toNat : Nat) : ℝ) = d at *
  generalize (((m / 2 ^ (q - e).toNat : Nat) : ℝ)) = t at *
  generalize (((m % 2 ^ (q - e).toNat : Nat) : ℝ)) = num at *
  rw [hy, hq, hm]
  field_simp
  ring

/-- Rounding an exact magnitude at a unit: the result is one the mode may deliver, and inexact is reported rightly. -/
theorem roundAt_delivers {r : Rnd} (hr : Fixed r) (neg : Bool) {y : ℝ} {m : Nat} {e q : Int} {sticky : Bool}
    (hy : IsMag y m e sticky) (hs : sticky = true → e < q) :
    Delivers r (signed neg y / 2 ^ q) (signedN neg (roundAt r neg m e q sticky).1) ∧
      ((roundAt r neg m e q sticky).2 = true ↔ ((roundAt r neg m e q sticky).1 : ℝ) * 2 ^ q ≠ y) := by
  obtain ⟨δ, h0, h1, hδ, rfl⟩ := hy
  have hq : (0 : ℝ) < 2 ^ q := by positivity
  rw [signed_div, ne_eq, ← eq_div_iff hq.ne']
  by_cases hle : q ≤ e
  · have hst : sticky = false := by by_contra h; have := hs (by simpa using h); omega
    subst hst
    have hδ0 : δ = 0 := le_antisymm (not_lt.mp (by simpa using hδ)) h0
    subst hδ0
    have hval : ((m : ℝ) + 0) * 2 ^ e / 2 ^ q = ((m * 2 ^ (e - q).toNat : Nat) : ℝ) := by
      push_cast
      rw [add_zero, mul_div_assoc, ← zpow_sub₀ two_ne_zero, ← zpow_natCast, Int.toNat_of_nonneg (by omega)]
    rw [roundAt_of_le r neg m hle, hval]
    refine ⟨?_, by simp⟩
    have := delivers_of_goesUp hr neg (m * 2 ^ (e - q).toNat) le_rfl one_pos (n := m * 2 ^ (e - q).toNat)
      (fun h => by cases r <;> simp [GoesUp, Fixed] at h hr <;> linarith) (fun _ => rfl)
    simpa using this
  · have he : e < q := by omega
    rw [roundAt_of_lt r neg m he, isMag_div rfl he]
    obtain ⟨k, hk⟩ : ∃ k, (q - e).toNat = k + 1 := ⟨(q - e).toNat - 1, by omega⟩
    have hden : 2 ^ (q - e).toNat = 2 * 2 ^ k := by rw [hk, pow_succ]; ring
    have hlt := Nat.mod_lt m (show 0 < 2 ^ (q - e).toNat by positivity)
    have hup := roundsUp_iff hr neg (m / 2 ^ (q - e).toNat) (num := m % 2 ^ (q - e).toNat) (k := 2 ^ k) (by positivity) h0 h1 hδ
    rw [← hden] at hup
    have hd : (0 : ℝ) < ((2 ^ (q - e).toNat : Nat) : ℝ) := by positivity
    generalize 2 ^ (q - e).toNat = d at *
    generalize m % d = num at *
    generalize m / d = t at *
    have hρ1 : ((num : ℝ) + δ) / d < 1 := by
      rw [div_lt_one hd]
      have : (num : ℝ) + 1 ≤ d := by exact_mod_cast hlt
      linarith
    have hρ0 : 0 ≤ ((num : ℝ) + δ) / d := by positivity
    refine ⟨delivers_of_goesUp hr neg t hρ0 hρ1 (fun h => by simp [hup.mpr h]) (fun h => by simp [mt hup.mp h]), ?_⟩
    have hexact : (num != 0 || sticky) = true ↔ 0 < ((num : ℝ) + δ) / d := by
      rw [div_pos_iff_of_pos_right hd]
      simp only [Bool.or_eq_true, bne_iff_ne, ne_eq, hδ]
      rcases Nat.eq_zero_or_pos num with rfl | hn
      · simp
      · have : (0 : ℝ) < num := by exact_mod_cast hn
        exact ⟨fun _ => by positivity, fun _ => Or.inl (by omega)⟩
    rw [hexact]
    constructor
    · intro hpos heq
      by_cases hu : roundsUp r neg t num d sticky = true
      · simp only [hu, if_true] at heq; push_cast at heq; linarith
      · simp only [hu] at heq; simp only [Bool.false_eq_true, if_false] at heq; linarith
    · intro hne
      refine hρ0.lt_of_ne fun hzero => hne ?_
      have hn : ¬ roundsUp r neg t num d sticky = true := by
        rw [hup, ← hzero]
        cases r <;> simp [GoesUp, Fixed] at hr ⊢
      simp [hn, ← hzero]

end Sys2Proof.Proofs
end

section
/-! PROOFS. round_to (R59 to R62) and the arithmetic of finite values (R206, R207). -/

namespace Sys2Proof.Proofs

open Sys2Proof.Machine Sys2Proof.Spec

/-! ### The fields of a format -/

/-- A format of R45: its exponents lie evenly about the bias. -/
structure Ieee (f : Fmt) : Prop where
  kind : f.kind = .ieee
  range : 2 ^ f.eb = 2 * f.bias + 2
  bias_pos : 0 < f.bias
  mb_pos : 0 < f.mb
  mb_le : f.mb ≤ 52

theorem ieee_of_mem {f : Fmt} (h : f ∈ [fmt64, fmt32, fmt16, fmtB16]) : Ieee f := by
  fin_cases h <;> exact ⟨rfl, by decide, by decide, by decide, by decide⟩

/-- Bits that hold a sign, an exponent field E and a fraction M. -/
def fieldBits (f : Fmt) (neg : Bool) (E M : Nat) : Nat := f.signBit neg + (E * 2 ^ f.mb + M)

section
variable {f : Fmt} {E M : Nat} (neg : Bool)

theorem fields_lt (hE : E < 2 ^ f.eb) (hM : M < 2 ^ f.mb) : E * 2 ^ f.mb + M < 2 ^ (f.eb + f.mb) := by
  rw [Nat.pow_add]
  nlinarith [Nat.mul_le_mul_right (2 ^ f.mb) (show E + 1 ≤ 2 ^ f.eb from hE)]

theorem fieldBits_lt (hE : E < 2 ^ f.eb) (hM : M < 2 ^ f.mb) : fieldBits f neg E M < 2 ^ (1 + f.eb + f.mb) := by
  have h := fields_lt hE hM
  rw [show 1 + f.eb + f.mb = f.eb + f.mb + 1 by omega, Nat.pow_succ, fieldBits]
  cases neg <;> simp [Fmt.signBit] <;> omega

theorem fieldBits_sign (hE : E < 2 ^ f.eb) (hM : M < 2 ^ f.mb) : bitAt (fieldBits f neg E M) (f.eb + f.mb) = neg := by
  have h := fields_lt hE hM
  have hpos : 0 < 2 ^ (f.eb + f.mb) := by positivity
  cases neg
  · simp [bitAt, fieldBits, Fmt.signBit, Nat.div_eq_of_lt h]
  · simp [bitAt, fieldBits, Fmt.signBit, Nat.add_div_left _ hpos, Nat.div_eq_of_lt h]

theorem fieldBits_fraction (hM : M < 2 ^ f.mb) : fieldBits f neg E M % 2 ^ f.mb = M := by
  cases neg <;> simp [fieldBits, Fmt.signBit, Nat.pow_add, ← Nat.add_assoc, Nat.add_mod, Nat.mod_eq_of_lt hM]

theorem fieldBits_exponent (hE : E < 2 ^ f.eb) (hM : M < 2 ^ f.mb) : fieldBits f neg E M / 2 ^ f.mb % 2 ^ f.eb = E := by
  have hpos : 0 < 2 ^ f.mb := by positivity
  have h : fieldBits f neg E M = ((if neg then 2 ^ f.eb else 0) + E) * 2 ^ f.mb + M := by
    cases neg <;> simp [fieldBits, Fmt.signBit, Nat.pow_add]; ring
  rw [h, Nat.add_comm, Nat.add_mul_div_right _ _ hpos, Nat.div_eq_of_lt hM]
  cases neg <;> simp [Nat.mod_eq_of_lt hE]

theorem subnormal_fieldBits (hE : E < 2 ^ f.eb) (hM : M < 2 ^ f.mb) :
    f.subnormal (fieldBits f neg E M) = (E == 0 && M != 0) := by
  rw [Fmt.subnormal, fieldBits_exponent neg hE hM, fieldBits_fraction neg hM]

/-- The exact magnitude of an exponent field and a fraction (R45). -/
noncomputable def fieldValue (f : Fmt) (E M : Nat) : ℝ :=
  if E = 0 then M * 2 ^ f.qmin else (2 ^ f.mb + M : Nat) * 2 ^ ((E : Int) - f.bias - f.mb)

/-- Bits below the top exponent denote the magnitude of their fields. -/
theorem denotes_fieldBits (hf : Ieee f) (hE : E < 2 ^ f.eb - 1) (hM : M < 2 ^ f.mb) :
    Denotes f (fieldBits f neg E M) neg (signed neg (fieldValue f E M)) := by
  have hE' : E < 2 ^ f.eb := by omega
  have htop : (E == 2 ^ f.eb - 1) = false := beq_false_of_ne (by omega)
  have hrat : ∀ (m : Nat) (e : Int), ((ratOf neg m e : ℚ) : ℝ) = signed neg (m * 2 ^ e) := by
    intro m e; cases neg <;> simp [ratOf]
  refine ⟨fieldBits_lt neg hE' hM, ?_⟩
  rw [Fmt.read, fieldBits_sign neg hE' hM, fieldBits_exponent neg hE' hM, fieldBits_fraction neg hM, hf.kind]
  simp only [htop]
  by_cases h0 : E = 0
  · exact ⟨M, f.qmin, by simp [h0], by rw [hrat, fieldValue, if_pos h0]⟩
  · exact ⟨2 ^ f.mb + M, _, by simp [h0]; rfl, by rw [hrat, fieldValue, if_neg h0]⟩

end

/-- The comparison of two magnitudes is that of their values. -/
theorem aboveExp_iff (a : Nat) (x : Int) (b : Nat) (y : Int) : aboveExp a x b y = true ↔ (b : ℝ) * 2 ^ y < a * 2 ^ x := by
  have split : ∀ {u v : Int}, v ≤ u → ∀ c : Nat, ((c * 2 ^ (u - v).toNat : Nat) : ℝ) * 2 ^ v = c * 2 ^ u := by
    intro u v h c
    push_cast
    rw [mul_assoc, ← zpow_natCast, ← zpow_add₀ two_ne_zero, Int.toNat_of_nonneg (by omega)]; congr 2; omega
  by_cases h : x ≥ y
  · rw [aboveExp, if_pos h, decide_eq_true_eq, ← split h a, mul_lt_mul_iff_left₀ (by positivity)]
    exact Nat.cast_lt.symm
  · rw [aboveExp, if_neg h, decide_eq_true_eq, ← split (show x ≤ y by omega) b, mul_lt_mul_iff_left₀ (by positivity)]
    exact Nat.cast_lt.symm

/-- The greatest finite magnitude (R62). -/
theorem max_value {f : Fmt} (hf : Ieee f) : (f.maxM : ℝ) * 2 ^ f.maxQ = ((2 : ℝ) ^ (f.mb + 1) - 1) * 2 ^ ((f.bias : ℤ) - f.mb) := by
  have hM : (f.maxM : ℝ) = 2 ^ (f.mb + 1) - 1 := by
    rw [Fmt.maxM, hf.kind]; push_cast [Nat.one_le_two_pow]; rfl
  have hQ : f.maxQ = (f.bias : ℤ) - f.mb := by
    have := hf.range
    rw [Fmt.maxQ, hf.kind]
    show ((2 ^ f.eb - 2 : Nat) : ℤ) - f.bias - f.mb = _
    omega
  rw [hM, hQ]

/-! ### Packing -/

/-- A number of units in the finite range is packed into the fields of its value; the exponent field is 0 for less than a
whole unit of the hidden bit. -/
theorem pack_eq_fields {f : Fmt} (hf : Ieee f) (neg : Bool) {v : Nat} {q : Int} (hv : v ≤ 2 ^ (f.mb + 1)) (hq : f.qmin ≤ q)
    (hmax : ((v : ℝ)) * 2 ^ q ≤ f.maxM * 2 ^ f.maxQ) :
    ∃ E M, f.pack neg v q = fieldBits f neg E M ∧ E < 2 ^ f.eb - 1 ∧ M < 2 ^ f.mb ∧ (E = 0 ↔ v < 2 ^ f.mb) ∧ (E = 0 → M = v) ∧
      (2 ^ f.mb ≤ v ∨ q = f.qmin → fieldValue f E M = v * 2 ^ q) := by
  have hrange := hf.range
  have hb := hf.bias_pos
  by_cases hsub : v < 2 ^ f.mb
  · refine ⟨0, v, by simp [Fmt.pack, hsub, fieldBits], by omega, hsub, by simp [hsub], fun _ => rfl, fun h => ?_⟩
    rw [fieldValue, if_pos rfl, h.resolve_left (by omega)]
  · have hle : 2 ^ f.mb ≤ v := by omega
    have hbelow : ((v : ℝ)) * 2 ^ q < 2 ^ ((f.mb : ℤ) + 1 + ((f.bias : ℤ) - f.mb)) := by
      refine hmax.trans_lt ?_
      rw [max_value hf, zpow_add₀ two_ne_zero, ← Nat.cast_succ, zpow_natCast]
      exact mul_lt_mul_of_pos_right (by simp) (by positivity)
    simp only [Fmt.pack, hsub, if_false]
    simp only [Fmt.qmin] at hq
    by_cases htop : v = 2 ^ (f.mb + 1)
    · have hlt : (f.mb : ℤ) + 1 + q < (f.mb : ℤ) + 1 + (f.bias - f.mb) := by
        rw [← zpow_lt_zpow_iff_right₀ (one_lt_two (α := ℝ)), zpow_add₀ two_ne_zero, ← Nat.cast_succ, zpow_natCast]
        simpa [htop] using hbelow
      refine ⟨(q + 1 + f.mb + f.bias).toNat, 0, by simp [htop, fieldBits], by omega, by positivity, iff_of_false (by omega) not_false, fun h => absurd h (by omega), fun _ => ?_⟩
      have hE : ((q + 1 + f.mb + f.bias).toNat : ℤ) = q + 1 + f.mb + f.bias := Int.toNat_of_nonneg (by omega)
      rw [fieldValue, if_neg (by omega), hE, htop, show q + 1 + (f.mb : ℤ) + f.bias - f.bias - f.mb = q + 1 by ring, zpow_add₀ two_ne_zero]
      push_cast; ring
    · have hlt : (f.mb : ℤ) + q < (f.mb : ℤ) + 1 + (f.bias - f.mb) := by
        rw [← zpow_lt_zpow_iff_right₀ (one_lt_two (α := ℝ)), zpow_add₀ two_ne_zero, zpow_natCast]
        refine lt_of_le_of_lt (mul_le_mul_of_nonneg_right ?_ (by positivity)) hbelow
        exact_mod_cast hle
      have hpow : 2 ^ (f.mb + 1) = 2 * 2 ^ f.mb := by ring
      refine ⟨(q + f.mb + f.bias).toNat, v - 2 ^ f.mb, by simp [htop, fieldBits], by omega, by omega, iff_of_false (by omega) not_false, fun h => absurd h (by omega), fun _ => ?_⟩
      have hE : ((q + f.mb + f.bias).toNat : ℤ) = q + f.mb + f.bias := Int.toNat_of_nonneg (by omega)
      rw [fieldValue, if_neg (by omega), hE, show 2 ^ f.mb + (v - 2 ^ f.mb) = v by omega]
      congr 2; ring

/-! ### round_to -/

/-- A magnitude has the binary order of its leading digit. -/
theorem isMag_bounds {y : ℝ} {m : Nat} {e : Int} {sticky : Bool} (hy : IsMag y m e sticky) (hm : 0 < m) :
    (2 : ℝ) ^ (e + bitLen m - 1) ≤ y ∧ y < (2 : ℝ) ^ (e + bitLen m) := by
  obtain ⟨δ, h0, h1, -, rfl⟩ := hy
  have hlen : bitLen m = Nat.log2 m + 1 := by simp [bitLen, hm.ne']
  have hlo : 2 ^ Nat.log2 m ≤ m := Nat.log2_self_le hm.ne'
  have hhi : m + 1 ≤ 2 ^ (Nat.log2 m + 1) := Nat.lt_log2_self
  have hlo' : (2 : ℝ) ^ Nat.log2 m ≤ m := by exact_mod_cast hlo
  have hhi' : (m : ℝ) + 1 ≤ 2 ^ (Nat.log2 m + 1) := by exact_mod_cast hhi
  have he : (0 : ℝ) < 2 ^ e := by positivity
  rw [hlen, show e + ((Nat.log2 m + 1 : Nat) : ℤ) - 1 = (Nat.log2 m : ℤ) + e by push_cast; ring,
    show e + ((Nat.log2 m + 1 : Nat) : ℤ) = ((Nat.log2 m + 1 : Nat) : ℤ) + e by ring, zpow_add₀ two_ne_zero, zpow_add₀ two_ne_zero, zpow_natCast, zpow_natCast]
  exact ⟨mul_le_mul_of_nonneg_right (by linarith) he.le, mul_lt_mul_of_pos_right (by linarith) he⟩

theorem log_of_isMag {y : ℝ} {m : Nat} {e : Int} {sticky : Bool} (hy : IsMag y m e sticky) (hm : 0 < m) :
    Int.log 2 y = e + bitLen m - 1 := by
  obtain ⟨hlo, hhi⟩ := isMag_bounds hy hm
  have hpos : 0 < y := lt_of_lt_of_le (by positivity) hlo
  refine le_antisymm ?_ ((Int.zpow_le_iff_le_log one_lt_two hpos).mp hlo)
  have := (Int.lt_zpow_iff_log_lt one_lt_two hpos).mp hhi
  omega

/-- At a unit that keeps mb + 1 bits of a magnitude at most, no more than those are delivered. -/
theorem roundAt_le {mb : Nat} (r : Rnd) (neg : Bool) (m : Nat) {e q : Int} (sticky : Bool) (hq : e + bitLen m - 1 - mb ≤ q) :
    (roundAt r neg m e q sticky).1 ≤ 2 ^ (mb + 1) := by
  have hm : m < 2 ^ bitLen m := by
    by_cases h : m = 0
    · simp [h, bitLen]
    · simpa [bitLen, h] using Nat.lt_log2_self (n := m)
  by_cases hle : q ≤ e
  · rw [roundAt_of_le r neg m hle]
    calc m * 2 ^ (e - q).toNat ≤ 2 ^ bitLen m * 2 ^ (e - q).toNat := Nat.mul_le_mul_right _ hm.le
      _ = 2 ^ (bitLen m + (e - q).toNat) := (Nat.pow_add ..).symm
      _ ≤ 2 ^ (mb + 1) := Nat.pow_le_pow_right two_pos (by omega)
  · have hdiv : m / 2 ^ (q - e).toNat < 2 ^ (mb + 1) := by
      rw [Nat.div_lt_iff_lt_mul (by positivity), ← Nat.pow_add]
      exact hm.trans_le (Nat.pow_le_pow_right two_pos (by omega))
    rw [roundAt_of_lt r neg m (by omega)]
    dsimp only
    split <;> omega

/-- At the unit that keeps mb + 1 bits of a magnitude, no fewer are delivered. -/
theorem le_roundAt {mb : Nat} (r : Rnd) (neg : Bool) {m : Nat} (hm : 0 < m) {e q : Int} (sticky : Bool) (hq : e + bitLen m - 1 - mb = q) :
    2 ^ mb ≤ (roundAt r neg m e q sticky).1 := by
  have hlo : 2 ^ Nat.log2 m ≤ m := Nat.log2_self_le hm.ne'
  have hlen : bitLen m = Nat.log2 m + 1 := by simp [bitLen, hm.ne']
  by_cases hle : q ≤ e
  · rw [roundAt_of_le r neg m hle]
    calc 2 ^ mb = 2 ^ Nat.log2 m * 2 ^ (e - q).toNat := by rw [← Nat.pow_add]; congr 1; omega
      _ ≤ m * 2 ^ (e - q).toNat := Nat.mul_le_mul_right _ hlo
  · have hdiv : 2 ^ mb ≤ m / 2 ^ (q - e).toNat := by
      rw [Nat.le_div_iff_mul_le (by positivity), ← Nat.pow_add]
      exact (Nat.pow_le_pow_right two_pos (by omega)).trans hlo
    rw [roundAt_of_lt r neg m (by omega)]
    dsimp only
    split <;> omega

/-- The unit of a format for a magnitude, those of its subnormals at least. -/
def unitOf (f : Fmt) (m : Nat) (e : Int) : Int := max f.qmin (e + bitLen m - 1 - f.mb)

/-- round_to, where the magnitude is not zero. -/
theorem round_eq (f : Fmt) (r : Rnd) (ftz neg : Bool) {m : Nat} (e : Int) (sticky : Bool) (hm : m ≠ 0 ∨ sticky = true) :
    f.round r false ftz neg m e sticky =
      if aboveExp (roundAt r neg m e (unitOf f m e) sticky).1 (unitOf f m e) f.maxM f.maxQ then f.overflow r neg false
      else if ftz && f.subnormal (f.pack neg (roundAt r neg m e (unitOf f m e) sticky).1 (unitOf f m e)) then ⟨f.signBit neg, 3⟩
      else ⟨f.pack neg (roundAt r neg m e (unitOf f m e) sticky).1 (unitOf f m e),
        (if (roundAt r neg m e (unitOf f m e) sticky).2 then 1 else 0) +
          if aboveExp 1 (1 - (f.bias : Int)) (roundAt r neg m e (e + bitLen m - 1 - f.mb) sticky).1 (e + bitLen m - 1 - f.mb) &&
            (roundAt r neg m e (unitOf f m e) sticky).2 then 2 else 0⟩ := by
  have h0 : (m == 0 && !sticky) = false := by cases sticky <;> simp_all
  have hq : (if e + bitLen m - 1 - f.mb < f.qmin then f.qmin else e + bitLen m - 1 - f.mb) = unitOf f m e := by
    rw [unitOf, max_def]; split <;> split <;> omega
  simp only [Fmt.round, h0, Bool.false_eq_true, if_false, hq]
  rfl

/-- An overflow delivers an infinity or the greatest finite value of its sign, with OF and NX (R62). -/
theorem overflow_eq {f : Fmt} (hf : Ieee f) {r : Rnd} (hr : Fixed r) (neg : Bool) :
    f.overflow r neg false = ⟨if r = .rz ∨ (r = .rd ∧ neg = false) ∨ (r = .ru ∧ neg = true) then f.maxBits neg else f.infBits neg, 5⟩ := by
  simp only [Fixed, List.mem_cons, List.not_mem_nil, or_false] at hr
  rcases hr with rfl | rfl | rfl | rfl | rfl <;> cases neg <;> simp [Fmt.overflow, hf.kind, flagOF, flagNX]

theorem denotes_maxBits {f : Fmt} (hf : Ieee f) (neg : Bool) :
    Denotes f (f.maxBits neg) neg (signed neg (((2 : ℝ) ^ (f.mb + 1) - 1) * 2 ^ ((f.bias : ℤ) - f.mb))) := by
  have hrange := hf.range
  have hb := hf.bias_pos
  have hpos : 0 < 2 ^ f.mb := by positivity
  have hbits : f.maxBits neg = fieldBits f neg (2 ^ f.eb - 2) (2 ^ f.mb - 1) := by rw [Fmt.maxBits, hf.kind]; rfl
  have hval : fieldValue f (2 ^ f.eb - 2) (2 ^ f.mb - 1) = ((2 : ℝ) ^ (f.mb + 1) - 1) * 2 ^ ((f.bias : ℤ) - f.mb) := by
    have hE : ((2 ^ f.eb - 2 : Nat) : ℤ) - f.bias - f.mb = f.bias - f.mb := by omega
    rw [fieldValue, if_neg (by omega), hE]
    push_cast [Nat.one_le_two_pow]; ring
  rw [hbits, ← hval]
  exact denotes_fieldBits neg hf (by omega) (by omega)

/-- round_to of a magnitude that is not zero, in every mode of FPC.RM. -/
theorem round_roundsTo {f : Fmt} (hf : Ieee f) {r : Rnd} (hr : Fixed r) (ftz neg : Bool) {y : ℝ} {m : Nat} {e : Int} {sticky : Bool}
    (hy : IsMag y m e sticky) (hm : 0 < m) (hs : sticky = true → f.mb + 2 ≤ bitLen m) :
    RoundsTo f r ftz (signed neg y) (f.round r false ftz neg m e sticky) := by
  have hypos : 0 < y := lt_of_lt_of_le (by positivity) (isMag_bounds hy hm).1
  have hlog := log_of_isMag hy hm
  set w : Int := e + bitLen m - 1 - f.mb with hw
  have hq : unitOf f m e = max f.qmin w := rfl
  have hwq : w ≤ unitOf f m e := le_max_right ..
  have hqmin : f.qmin ≤ unitOf f m e := le_max_left ..
  have hsw : sticky = true → e < w := fun h => by have := hs h; omega
  obtain ⟨hn, hinex⟩ := roundAt_delivers hr neg hy (q := unitOf f m e) fun h => by have := hsw h; omega
  obtain ⟨hk, -⟩ := roundAt_delivers hr neg hy hsw
  have hvle : (roundAt r neg m e (unitOf f m e) sticky).1 ≤ 2 ^ (f.mb + 1) := roundAt_le r neg m sticky hwq
  have hvge : 2 ^ f.mb ≤ (roundAt r neg m e (unitOf f m e) sticky).1 ∨ unitOf f m e = f.qmin := by
    rcases le_total f.qmin w with h | h
    · exact .inl (le_roundAt r neg hm sticky (by rw [hq, max_eq_right h]))
    · exact .inr (by rw [hq, max_eq_left h])
  refine ⟨signedN neg (roundAt r neg m e (unitOf f m e) sticky).1, signedN neg (roundAt r neg m e w sticky).1, neg, ?_, ?_⟩
  · cases neg
    · simpa using hypos.le
    · simpa using hypos
  rw [round_eq f r ftz neg e sticky (.inl hm.ne'), abs_signed neg hypos.le, hlog, ← hw]
  simp only [← hq, signedN_cast, signed_mul]
  rw [abs_signed neg (by positivity), abs_signed neg (by positivity)]
  have hmax := aboveExp_iff (roundAt r neg m e (unitOf f m e) sticky).1 (unitOf f m e) f.maxM f.maxQ
  have htiny := aboveExp_iff 1 (1 - (f.bias : Int)) (roundAt r neg m e w sticky).1 w
  rw [max_value hf] at hmax
  rw [Nat.cast_one, one_mul] at htiny
  have hpack := fun h => pack_eq_fields hf neg hvle hqmin ((not_lt.mp h).trans_eq (max_value hf).symm)
  generalize (roundAt r neg m e w sticky).1 = u at *
  generalize (roundAt r neg m e (unitOf f m e) sticky).2 = inex at *
  generalize (roundAt r neg m e (unitOf f m e) sticky).1 = v at *
  refine ⟨hn, hk, fun hov => ?_, fun hin hftz hv0 hleast => ?_, fun hin hcase => ?_⟩
  · rw [if_pos (hmax.mpr hov), overflow_eq hf hr]
    refine ⟨rfl, ?_⟩
    split
    · cases neg
      · simpa using denotes_maxBits hf false
      · simpa using denotes_maxBits hf true
    · rfl
  all_goals
    obtain ⟨E, M, hbits, hE, hM, hE0, hMv, hval⟩ := hpack (not_lt.mpr hin)
    have hsub : f.subnormal (f.pack neg v (unitOf f m e)) = true ↔ v ≠ 0 ∧ v < 2 ^ f.mb := by
      rw [hbits, subnormal_fieldBits neg (by omega) hM]
      simp only [Bool.and_eq_true, beq_iff_eq, bne_iff_ne, ← hE0]
      exact ⟨fun ⟨h, h'⟩ => ⟨hMv h ▸ h', h⟩, fun ⟨h, h'⟩ => ⟨h', (hMv h').symm ▸ h⟩⟩
    have hleastEq : (2 : ℝ) ^ (1 - (f.bias : ℤ)) = 2 ^ f.mb * 2 ^ f.qmin := by
      rw [← zpow_natCast, ← zpow_add₀ two_ne_zero, Fmt.qmin]; congr 1; ring
    have hsmall : v < 2 ^ f.mb ↔ (v : ℝ) * 2 ^ unitOf f m e < 2 ^ (1 - (f.bias : ℤ)) := by
      rw [hleastEq]
      constructor
      · intro h
        rw [hvge.resolve_left (by omega), mul_lt_mul_iff_left₀ (by positivity)]
        exact_mod_cast h
      · intro h
        by_contra hge
        have h1 : (2 : ℝ) ^ f.mb ≤ v := by exact_mod_cast not_lt.mp hge
        have h2 : (2 : ℝ) ^ f.qmin ≤ 2 ^ unitOf f m e := zpow_le_zpow_right₀ one_le_two hqmin
        exact absurd h (not_lt.mpr (mul_le_mul h1 h2 (by positivity) (by positivity)))
    have hzero : signed neg ((v : ℝ) * 2 ^ unitOf f m e) = 0 ↔ v = 0 := by
      rw [show (0 : ℝ) = signed neg 0 by cases neg <;> simp, signed_inj, mul_eq_zero, or_iff_left (by positivity), Nat.cast_eq_zero]
    rw [if_neg (by simpa using mt hmax.mp (not_lt.mpr hin))]
  · rw [if_pos (by simpa [hftz] using hsub.mpr ⟨mt hzero.mpr hv0, hsmall.mpr hleast⟩)]
  · rw [if_neg (by
      rw [Bool.and_eq_true, hsub, hsmall]
      rintro ⟨hftz, hv0, hlt⟩
      rcases hcase with h | h | h
      · simp [h] at hftz
      · exact hv0 (hzero.mp h)
      · linarith)]
    refine ⟨?_, fun hx => ?_, fun hx => ?_⟩
    · have hvq : (v : ℝ) * 2 ^ unitOf f m e = fieldValue f E M := (hval hvge).symm
      rw [hbits, hvq]
      exact denotes_fieldBits neg hf hE hM
    · have : inex = false := by simpa [signed_inj.mp hx] using hinex
      simp [this]
    · have : inex = true := hinex.mpr (mt (congrArg (signed neg)) hx)
      simp only [this, if_true, Bool.and_true, htiny]
      split <;> rfl

end Sys2Proof.Proofs
end

section
/-! PROOFS. The arithmetic of finite values and its specials, in every mode (R206, R207). -/

namespace Sys2Proof.Proofs

open Sys2Proof.Machine Sys2Proof.Spec

/-! ### Exact results as magnitudes -/

theorem ratOf_cast (neg : Bool) (m : Nat) (e : Int) : ((ratOf neg m e : ℚ) : ℝ) = signed neg (m * 2 ^ e) := by
  cases neg <;> simp [ratOf]

theorem ratOf_mul (p q : Bool) (m n : Nat) (e g : Int) : ratOf p m e * ratOf q n g = ratOf (p != q) (m * n) (e + g) := by
  rw [ratOf, ratOf, ratOf, zpow_add₀ two_ne_zero]
  cases p <;> cases q <;> simp <;> ring

theorem ratOf_eq_zero {p : Bool} {m : Nat} {e : Int} : ratOf p m e = 0 ↔ m = 0 := by
  have h2 : (2 : ℚ) ^ e ≠ 0 := by positivity
  cases p <;> simp [ratOf, h2]

theorem ratOf_not (p : Bool) (m : Nat) (e : Int) : ratOf (!p) m e = -ratOf p m e := by
  cases p <;> simp [ratOf]

/-- The fraction that a format reads has at most mb + 1 bits. -/
theorem readDaz_fraction_lt {f : Fmt} (hf : Ieee f) {daz : Bool} {x : Nat} {p : Bool} {m : Nat} {e : Int} (h : f.readDaz daz x = .fin p m e) :
    m < 2 ^ (f.mb + 1) := by
  have hfrac : x % 2 ^ f.mb < 2 ^ f.mb := Nat.mod_lt _ (by positivity)
  have hpow : 2 ^ (f.mb + 1) = 2 * 2 ^ f.mb := by ring
  rw [Fmt.readDaz] at h
  split at h
  · obtain ⟨-, rfl, -⟩ := FVal.fin.inj h; positivity
  · rw [Fmt.read, hf.kind] at h
    dsimp only at h
    split at h
    · split at h <;> cases h
    · split at h
      · obtain ⟨-, rfl, -⟩ := FVal.fin.inj h; omega
      · obtain ⟨-, rfl, -⟩ := FVal.fin.inj h; omega

/-- round_to of an exact value that is not zero. -/
theorem round_exact {f : Fmt} (hf : Ieee f) {r : Rnd} (hr : Fixed r) (ftz neg : Bool) {m : Nat} (hm : m ≠ 0) (e : Int) {x : ℝ}
    (hx : x = signed neg (m * 2 ^ e)) : RoundsTo f r ftz x (f.round r false ftz neg m e false) :=
  hx ▸ round_roundsTo hf hr ftz neg (isMag_exact m e) (Nat.pos_of_ne_zero hm) (by simp)

@[simp] theorem round_zero (f : Fmt) (r : Rnd) (sat ftz neg : Bool) (e : Int) : f.round r sat ftz neg 0 e false = ⟨f.signBit neg, 0⟩ := by
  simp [Fmt.round]

/-! ### Sums -/

/-- The sum of two values in units of the lesser exponent. -/
def unitSum (p : Bool) (m : Nat) (e : Int) (q : Bool) (n : Nat) (g : Int) : Int :=
  signedN p (m * 2 ^ (e - min e g).toNat) + signedN q (n * 2 ^ (g - min e g).toNat)

theorem unitSum_value (p : Bool) (m : Nat) (e : Int) (q : Bool) (n : Nat) (g : Int) :
    ((unitSum p m e q n g : Int) : ℚ) * 2 ^ min e g = ratOf p m e + ratOf q n g := by
  rw [unitSum, Int.cast_add, add_mul, signedN_mul_unit p m (min_le_left e g), signedN_mul_unit q n (min_le_right e g)]

theorem unitSum_eq_zero (p : Bool) (m : Nat) (e : Int) (q : Bool) (n : Nat) (g : Int) :
    unitSum p m e q n g = 0 ↔ ratOf p m e + ratOf q n g = 0 := by
  have h2 : (2 : ℚ) ^ min e g ≠ 0 := by positivity
  rw [← unitSum_value, mul_eq_zero, or_iff_left h2, Int.cast_eq_zero]

theorem addFin_eq (f : Fmt) (r : Rnd) (ftz p : Bool) (m : Nat) (e : Int) (q : Bool) (n : Nat) (g : Int) :
    f.addFin r ftz p m e q n g =
      if unitSum p m e q n g = 0 then ⟨f.signBit (if p = q then p else decide (r = .rd)), 0⟩
      else f.round r false ftz (unitSum p m e q n g < 0) (unitSum p m e q n g).natAbs (min e g) false := by
  simp [Fmt.addFin, unitSum, min_def, beq_eq_decide]

/-- A zero sum has the common sign of its terms; of opposite signs it is +0, −0 under RD. -/
theorem addFin_of_zero (f : Fmt) (r : Rnd) (ftz : Bool) {p : Bool} {m : Nat} {e : Int} {q : Bool} {n : Nat} {g : Int}
    (h : ratOf p m e + ratOf q n g = 0) : f.addFin r ftz p m e q n g = ⟨f.signBit (if p = q then p else decide (r = .rd)), 0⟩ := by
  rw [addFin_eq, if_pos ((unitSum_eq_zero ..).mpr h)]

theorem addFin_roundsTo {f : Fmt} (hf : Ieee f) {r : Rnd} (hr : Fixed r) (ftz : Bool) {p : Bool} {m : Nat} {e : Int} {q : Bool} {n : Nat} {g : Int}
    (h : ratOf p m e + ratOf q n g ≠ 0) : RoundsTo f r ftz ((ratOf p m e + ratOf q n g : ℚ) : ℝ) (f.addFin r ftz p m e q n g) := by
  have h0 : unitSum p m e q n g ≠ 0 := mt (unitSum_eq_zero ..).mp h
  rw [addFin_eq, if_neg h0, ← unitSum_value]
  refine round_exact hf hr ftz _ (Int.natAbs_ne_zero.mpr h0) _ ?_
  generalize unitSum p m e q n g = t
  push_cast
  rw [Nat.cast_natAbs]
  by_cases hneg : t < 0
  · simp [hneg, abs_of_neg hneg]
  · simp [hneg, abs_of_nonneg (not_lt.mp hneg)]

/-! ### Quotients and roots -/

theorem le_bitLen {n k : Nat} (h : 2 ^ k ≤ n) : k + 1 ≤ bitLen n := by
  have hn : n ≠ 0 := by have := Nat.two_pow_pos k; omega
  simpa [bitLen, hn] using (Nat.le_log2 hn).mpr h

/-- The quotient of R207 to 130 bits below the units, sticky where it has more. -/
theorem quotient_isMag (m : Nat) {n : Nat} (hn : 0 < n) (e g : Int) :
    IsMag (m / n * 2 ^ (e - g)) (m * 2 ^ 130 / n) (e - g - 130) (m * 2 ^ 130 % n != 0) := by
  have hn' : (0 : ℝ) < n := by exact_mod_cast hn
  refine ⟨((m * 2 ^ 130 % n : Nat) : ℝ) / n, by positivity, ?_, ?_, ?_⟩
  · rw [div_lt_one hn']; exact_mod_cast Nat.mod_lt _ hn
  · rw [div_pos_iff_of_pos_right hn', bne_iff_ne, Nat.cast_pos, Nat.pos_iff_ne_zero]
  · have hdiv : (m : ℝ) * 2 ^ 130 = ((m * 2 ^ 130 / n : Nat) : ℝ) * n + ((m * 2 ^ 130 % n : Nat) : ℝ) := by
      exact_mod_cast (Nat.div_add_mod' (m * 2 ^ 130) n).symm
    have hquot : ((m * 2 ^ 130 / n : Nat) : ℝ) + ((m * 2 ^ 130 % n : Nat) : ℝ) / n = m * 2 ^ 130 / n := by
      rw [hdiv, add_div, mul_div_cancel_right₀ _ hn'.ne']
    rw [hquot, zpow_sub₀ two_ne_zero (e - g)]
    norm_num
    ring

/-- Digit by digit, isqrtFrom adds what keeps the square at or below n. -/
theorem isqrtFrom_bounds (n : Nat) : ∀ k r, r * r ≤ n → n < (r + 2 ^ k) * (r + 2 ^ k) →
    isqrtFrom n k r * isqrtFrom n k r ≤ n ∧ n < (isqrtFrom n k r + 1) * (isqrtFrom n k r + 1)
  | 0, _, hlo, hhi => ⟨hlo, hhi⟩
  | k + 1, r, hlo, hhi => by
    rw [isqrtFrom]
    have hpow : 2 ^ (k + 1) = 2 ^ k + 2 ^ k := by ring
    split
    · next h => exact isqrtFrom_bounds n k _ h (by rw [Nat.add_assoc, ← hpow]; exact hhi)
    · next h => exact isqrtFrom_bounds n k _ hlo (not_le.mp h)

theorem isqrt_bounds (n : Nat) : isqrt n * isqrt n ≤ n ∧ n < (isqrt n + 1) * (isqrt n + 1) := by
  refine isqrtFrom_bounds n _ 0 (by simp) ?_
  have hn : n < 2 ^ bitLen n := by
    by_cases h : n = 0
    · simp [h, bitLen]
    · simpa [bitLen, h] using Nat.lt_log2_self (n := n)
  rw [Nat.zero_add, ← Nat.pow_add]
  exact hn.trans_le (Nat.pow_le_pow_right two_pos (by omega))

theorem isqrt_eq_sqrt (n : Nat) : isqrt n = Nat.sqrt n := Nat.eq_sqrt.mpr (isqrt_bounds n)

/-- The integer root of n, sticky where n is no square, is the root of n × 2^(2 k). -/
theorem root_isMag (n : Nat) (k : Int) : IsMag (Real.sqrt (n * 2 ^ (2 * k))) (isqrt n) k (isqrt n * isqrt n != n) := by
  obtain ⟨hlo, hhi⟩ := isqrt_bounds n
  have ht : (0 : ℝ) ≤ isqrt n := by positivity
  have hlo' : (isqrt n : ℝ) ≤ Real.sqrt n := Real.le_sqrt_of_sq_le (by rw [sq]; exact_mod_cast hlo)
  have hhi' : Real.sqrt n < isqrt n + 1 := (Real.sqrt_lt' (by positivity)).mpr (by rw [sq]; exact_mod_cast hhi)
  refine ⟨Real.sqrt n - isqrt n, by linarith, by linarith, ?_, ?_⟩
  · rw [bne_iff_ne, sub_pos, Real.lt_sqrt ht, sq]
    exact ⟨fun h => by exact_mod_cast lt_of_le_of_ne hlo h, fun h => by have : isqrt n * isqrt n < n := by exact_mod_cast h
                                                                        omega⟩
  · have hk : (2 : ℝ) ^ (2 * k) = (2 ^ k) ^ 2 := by rw [← zpow_natCast, ← zpow_mul]; congr 1; push_cast; ring
    rw [Real.sqrt_mul (by positivity), hk, Real.sqrt_sq (by positivity)]
    ring

theorem div_roundsTo {f : Fmt} (hf : Ieee f) {r : Rnd} (hr : Fixed r) (ftz neg : Bool) {m n : Nat} (hm : 0 < m) (hn : 0 < n)
    (hlt : n < 2 ^ (f.mb + 1)) (e g : Int) :
    RoundsTo f r ftz (signed neg (m / n * 2 ^ (e - g)))
      (f.round r false ftz neg (m * 2 ^ 130 / n) (e - g - 130) (m * 2 ^ 130 % n != 0)) := by
  have hmb := hf.mb_le
  have hbig : 2 ^ (f.mb + 1) ≤ m * 2 ^ 130 / n := by
    rw [Nat.le_div_iff_mul_le hn]
    calc 2 ^ (f.mb + 1) * n ≤ 2 ^ (f.mb + 1) * 2 ^ (f.mb + 1) := Nat.mul_le_mul_left _ hlt.le
      _ = 2 ^ (f.mb + 1 + (f.mb + 1)) := (Nat.pow_add ..).symm
      _ ≤ 2 ^ 130 := Nat.pow_le_pow_right two_pos (by omega)
      _ ≤ m * 2 ^ 130 := Nat.le_mul_of_pos_left _ hm
  exact round_roundsTo hf hr ftz neg (quotient_isMag m hn e g) (lt_of_lt_of_le (by positivity) hbig) fun _ => le_bitLen hbig

/-- The root of a positive value, of an even exponent after doubling. -/
theorem sqrt_roundsTo {f : Fmt} (hf : Ieee f) {r : Rnd} (hr : Fixed r) (ftz : Bool) {m : Nat} (hm : 0 < m) (e : Int) :
    RoundsTo f r ftz (Real.sqrt (m * 2 ^ e)) (f.sqrt r ftz (.fin false m e)) := by
  have hmb := hf.mb_le
  obtain ⟨n, k, hn, hk, hval⟩ : ∃ (n : Nat) (k : Int), (if e % 2 == 0 then m else 2 * m) = n ∧ (if e % 2 == 0 then e else e - 1) / 2 = k ∧
      (m : ℝ) * 2 ^ e = n * 2 ^ (2 * k) ∧ 0 < n := by
    by_cases he : e % 2 = 0
    · exact ⟨m, e / 2, by simp [he], by simp [he], by congr 2; omega, hm⟩
    · refine ⟨2 * m, (e - 1) / 2, by simp [he], by simp [he], ?_, by omega⟩
      rw [show e = 2 * ((e - 1) / 2) + 1 by omega, zpow_add₀ two_ne_zero, show (2 * ((e - 1) / 2) + 1 - 1) / 2 = (e - 1) / 2 by omega]
      push_cast; ring
  obtain ⟨hval, hpos⟩ := hval
  have hscaled : (m : ℝ) * 2 ^ e = ((n * 4 ^ 70 : Nat) : ℝ) * 2 ^ (2 * (k - 70)) := by
    rw [hval, show 2 * k = 2 * (k - 70) + 140 by ring, zpow_add₀ two_ne_zero]
    push_cast
    norm_num
    ring
  have hbig : 2 ^ (f.mb + 1) ≤ isqrt (n * 4 ^ 70) := by
    rw [isqrt_eq_sqrt, Nat.le_sqrt, ← Nat.pow_add]
    calc 2 ^ (f.mb + 1 + (f.mb + 1)) ≤ 2 ^ 140 := Nat.pow_le_pow_right two_pos (by omega)
      _ ≤ n * 4 ^ 70 := by omega
  have hround := round_roundsTo hf hr ftz false (root_isMag (n * 4 ^ 70) (k - 70)) (lt_of_lt_of_le (by positivity) hbig) fun _ => le_bitLen hbig
  rw [← hscaled, signed_false] at hround
  have hm0 : (m == 0) = false := beq_false_of_ne hm.ne'
  simp only [Fmt.sqrt, hm0, Bool.false_eq_true, if_false, hn, hk]
  exact hround

/-- Settles O59: each operation is round_to of its exact magnitude. -/
theorem floatResultsRound : Obligations.FloatResultsRound := by
  intro f hf r hr daz ftz a b d p q k m n l e g h ha hb hd
  have hi := ieee_of_mem hf
  have hr : Fixed r := hr
  have hsub : (ratOf p m e : ℚ) - ratOf q n g = ratOf p m e + ratOf (!q) n g := by rw [ratOf_not, sub_eq_add_neg]
  simp only [opAdd, opSub, opMul, opFma, opDiv, opSqrt, ha, hb, hd, FVal.neg]
  refine ⟨fun hne => ?_, fun hne => ?_, fun hne => ?_, fun h0 => ?_, fun hne => ?_, fun hy => ⟨fun hx => ?_, fun hx => ?_⟩, fun hx => ?_⟩
  · exact_mod_cast addFin_roundsTo hi hr ftz (by exact_mod_cast hne)
  · rw [← Rat.cast_sub, hsub] at hne ⊢
    exact addFin_roundsTo hi hr ftz (by exact_mod_cast hne)
  · rw [← Rat.cast_mul, ratOf_mul] at hne ⊢
    exact round_exact hi hr ftz _ (mt ratOf_eq_zero.mpr (by exact_mod_cast hne)) _ (ratOf_cast ..)
  · rw [← Rat.cast_mul, ratOf_mul] at h0
    simp [Fmt.mul, ratOf_eq_zero.mp (by exact_mod_cast h0)]
  · rw [← Rat.cast_mul, ratOf_mul, ← Rat.cast_add] at hne ⊢
    exact addFin_roundsTo hi hr ftz (by exact_mod_cast hne)
  · have hn : n ≠ 0 := fun h0 => hy (by simp [ratOf_eq_zero.mpr h0])
    have hm : m ≠ 0 := fun h0 => hx (by simp [ratOf_eq_zero.mpr h0])
    have hn0 : (n == 0) = false := beq_false_of_ne hn
    simp only [Fmt.div, hn0, Bool.false_eq_true, if_false]
    have hquot : signed p (m * 2 ^ e) / signed q (n * 2 ^ g) = signed (p != q) ((m : ℝ) / n * 2 ^ (e - g)) := by
      rw [zpow_sub₀ two_ne_zero]
      cases p <;> cases q <;> simp [neg_div, div_neg] <;> ring
    rw [ratOf_cast, ratOf_cast, hquot]
    exact div_roundsTo hi hr ftz _ (Nat.pos_of_ne_zero hm) (Nat.pos_of_ne_zero hn) (readDaz_fraction_lt hi hb) e g
  · have hn : n ≠ 0 := fun h0 => hy (by simp [ratOf_eq_zero.mpr h0])
    have hm : m = 0 := ratOf_eq_zero.mp (by exact_mod_cast hx)
    simp [Fmt.div, hn, hm]
  · rw [ratOf_cast] at hx ⊢
    cases p
    · have hm : m ≠ 0 := fun h0 => by simp [h0] at hx
      exact sqrt_roundsTo hi hr ftz (Nat.pos_of_ne_zero hm) e
    · have : (0 : ℝ) ≤ m * 2 ^ e := by positivity
      rw [signed_true] at hx; linarith

/-! ### Specials -/

/-- A NaN as the third operand of a multiply-add gives the canonical NaN, whatever the product. -/
theorem fma_nan_addend (f : Fmt) (r : Rnd) (ftz sg : Bool) (x y : FVal) : (f.fma r ftz x y (.nan sg)).bits = f.nanBits :=
  match x, y with
  | .nan _, _ => rfl
  | .inf _, .nan _ => rfl
  | .inf _, .inf _ => rfl
  | .inf _, .fin _ n _ => by simp only [Fmt.fma]; split <;> rfl
  | .fin _ _ _, .nan _ => rfl
  | .fin _ m _, .inf _ => by simp only [Fmt.fma]; split <;> rfl
  | .fin _ _ _, .fin _ _ _ => rfl

/-- A NaN operand gives the canonical NaN. -/
theorem nan_operands (f : Fmt) (r : Rnd) (ftz sg : Bool) (y z : FVal) :
    (f.add r ftz (.nan sg) y).bits = f.nanBits ∧ (f.add r ftz y (.nan sg)).bits = f.nanBits ∧
      (f.mul r ftz (.nan sg) y).bits = f.nanBits ∧ (f.mul r ftz y (.nan sg)).bits = f.nanBits ∧
      (f.fma r ftz (.nan sg) y z).bits = f.nanBits ∧ (f.fma r ftz y (.nan sg) z).bits = f.nanBits ∧
      (f.fma r ftz y z (.nan sg)).bits = f.nanBits ∧ (f.div r ftz (.nan sg) y).bits = f.nanBits ∧
      (f.div r ftz y (.nan sg)).bits = f.nanBits ∧ (f.sqrt r ftz (.nan sg)).bits = f.nanBits := by
  refine ⟨rfl, ?_, rfl, ?_, rfl, ?_, fma_nan_addend f r ftz sg y z, rfl, ?_, rfl⟩
  all_goals cases y <;> rfl

/-- A sum of two values of opposite sign and one magnitude is a zero sum. -/
theorem ratOf_add_opposite (p : Bool) (m : Nat) (e : Int) : ratOf p m e + ratOf (!p) m e = 0 := by
  rw [ratOf_not, add_neg_cancel]

/-- Settles O14: the match of each operation on its operands, and `addFin_of_zero` for the zero sums. -/
theorem floatSpecialCases : Obligations.FloatSpecialCases := by
  intro f _ r ftz
  refine ⟨fun sg y z => nan_operands f r ftz sg y z, fun p q e g sg => ?_, fun p q m e g hm => ?_, fun daz a b d p q k m n l e g h ha hb => ?_,
    fun daz a b d x sg q => ?_⟩
  · have hz : ratOf p 0 e + ratOf (!p) 0 g = 0 := by rw [ratOf_eq_zero.mpr rfl, ratOf_eq_zero.mpr rfl, add_zero]
    have hsum : f.add r ftz (.fin p 0 e) (.fin (!p) 0 g) = ⟨f.signBit (decide (r = .rd)), 0⟩ := by
      simpa [Fmt.add] using addFin_of_zero f r ftz hz
    refine ⟨rfl, rfl, rfl, ?_, ?_, rfl, rfl, rfl, rfl, hsum⟩
    · cases p <;> rfl
    · cases p <;> cases q <;> rfl
  · have hm0 : (m == 0) = false := beq_false_of_ne hm.ne'
    refine ⟨by simp [Fmt.div, hm0, flagDZ], by simp [Fmt.sqrt, hm0, Fmt.nanFR, flagIV], ?_⟩
    simpa [Fmt.add] using addFin_of_zero f r ftz (ratOf_add_opposite p m e)
  · simp only [opAdd, opSub, opFma, ha, hb, FVal.neg]
    refine ⟨fun hz => addFin_of_zero f r ftz hz, fun hz => ?_, fun hd hz => ?_⟩
    · rw [sub_eq_add_neg, ← ratOf_not] at hz
      refine (addFin_of_zero f r ftz hz).trans ?_
      cases p <;> cases q <;> rfl
    · rw [ratOf_mul] at hz
      rw [hd]
      refine (addFin_of_zero f r ftz hz).trans ?_
      split
      · next hs => rw [hs]
      · rfl
  · simp only [opSub]
    refine ⟨fun h => ?_, fun h h' => ?_, fun h h' hx => ?_⟩
    · rcases h with h | h
      · rw [h]; cases f.readDaz daz a <;> rfl
      · rw [h]; rfl
    · rw [h, h']; cases q <;> rfl
    · rw [h, h']
      rcases hx with rfl | ⟨p, m, e, rfl⟩
      · cases q <;> rfl
      · rfl

end Sys2Proof.Proofs
end

section
/-! PROOFS. Floating-point words, function lanes and conversions as instructions (R191, R206 to R217). -/

namespace Sys2Proof.Proofs

open Sys2Proof.Machine Sys2Proof.Spec

/-! ### Where a floating-point result goes (R191) -/

theorem srcs_kind32 (s : State) (r : BitVec 6) : s.srcs r 1 = (s.src r).toNat := srcs_one s r

/-- A short result of one register with its flags. -/
theorem fpResult_short (s : State) (d : BitVec 6) (x : FR) : s.fpResult .short d 1 x = floatShort s d x := by
  simp [State.fpResult, State.puts, State.mapTh, Thread.setRegs, Thread.setReg, Thread.orFps, floatShort, withThread, reg1]

/-- A long result of one register with its flags. -/
theorem fpResult_long (s : State) (d : BitVec 6) (x : FR) : s.fpResult .long d 1 x = floatLong s d false x := by
  simp [State.fpResult, State.pend, State.mapTh, pendRegs, floatLong, withPending, long1]

theorem pendRegs_pair (n v : Nat) :
    pendRegs n v 2 = [.reg n ((BitVec.ofNat 64 v).setWidth 32), .reg (n + 1) ((BitVec.ofNat 64 v).extractLsb' 32 32)] := by
  have hlo : (BitVec.ofNat 64 v).setWidth 32 = BitVec.ofNat 32 v := by
    apply BitVec.eq_of_toNat_eq; simp
  have hhi : (BitVec.ofNat 64 v).extractLsb' 32 32 = BitVec.ofNat 32 (v / 2 ^ 32) := by
    apply BitVec.eq_of_toNat_eq; simp [Nat.shiftRight_eq_div_pow]; omega
  rw [hlo, hhi]
  rfl

/-- A long result of a pair with its flags. -/
theorem fpResult_long_pair (s : State) (d : BitVec 6) (x : FR) : s.fpResult .long d 2 x = floatLong s d true x := by
  simp [State.fpResult, State.pend, State.mapTh, pendRegs_pair, floatLong, withPending, long2]

/-- A floating-point word, where its guard holds, delivers its operation on the elements of its registers. -/
theorem fpWord_short {k : FpKind} (hk : k.regs = 1) {o : RFmt} {s : State} (hg : s.active o.g = true) (f : FpCtl → Fmt → Nat → Nat → Nat → FR) :
    fpWord .short k f o s = floatShort s o.d (onElems s k f o) := by
  simp only [fpWord, hg, if_true, hk, fpResult_short, onElems]

theorem fpWord_long {k : FpKind} (hk : k.regs = 1) {o : RFmt} {s : State} (hg : s.active o.g = true) (f : FpCtl → Fmt → Nat → Nat → Nat → FR) :
    fpWord .long k f o s = floatLong s o.d false (onElems s k f o) := by
  simp only [fpWord, hg, if_true, hk, fpResult_long, onElems]

theorem fpWord_long_pair {k : FpKind} (hk : k.regs = 2) {o : RFmt} {s : State} (hg : s.active o.g = true)
    (f : FpCtl → Fmt → Nat → Nat → Nat → FR) : fpWord .long k f o s = floatLong s o.d true (onElems s k f o) := by
  simp only [fpWord, hg, if_true, hk, fpResult_long_pair, onElems]

/-- Settles O13: every word is `fpWord` of its kind and operation. -/
theorem floatWordsWriteResultAndFlags : Obligations.FloatWordsWriteResultAndFlags := by
  refine ⟨fun p hp o s hg => ?_, fun p hp o s hg => ?_, fun p hp o s hg => ?_⟩
  · have hword : exec (p.1 o) s = .next (fpWord .short p.2.1 p.2.2 o s) ∧ p.2.1.regs = 1 := by fin_cases hp <;> exact ⟨rfl, rfl⟩
    rw [hword.1, fpWord_short hword.2 hg]
  · have hword : exec (p.1 o) s = .next (fpWord .long p.2.1 p.2.2 o s) ∧ p.2.1.regs = 1 := by fin_cases hp <;> exact ⟨rfl, rfl⟩
    rw [hword.1, fpWord_long hword.2 hg]
  · have hword : exec (p.1 o) s = .next (fpWord .long kind64 p.2 o s) := by fin_cases hp <;> rfl
    rw [hword, fpWord_long_pair rfl hg]

/-! ### Results of round_to fit their format -/

theorem signBit_lt {f : Fmt} (neg : Bool) : f.signBit neg < 2 ^ (1 + f.eb + f.mb) := by
  have h := fieldBits_lt (f := f) (E := 0) (M := 0) neg (by positivity) (by positivity)
  simpa [fieldBits] using h

theorem infBits_lt {f : Fmt} (hf : Ieee f) (neg : Bool) : f.infBits neg < 2 ^ (1 + f.eb + f.mb) := by
  have hr := hf.range
  have h := fieldBits_lt (f := f) (E := 2 ^ f.eb - 1) (M := 0) neg (by omega) (by positivity)
  simpa [fieldBits, Fmt.infBits, hf.kind] using h

theorem maxBits_lt {f : Fmt} (hf : Ieee f) (neg : Bool) : f.maxBits neg < 2 ^ (1 + f.eb + f.mb) := (denotes_maxBits hf neg).1

theorem overflow_lt {f : Fmt} (hf : Ieee f) {r : Rnd} (hr : Fixed r) (neg : Bool) : (f.overflow r neg false).bits < 2 ^ (1 + f.eb + f.mb) := by
  rw [overflow_eq hf hr]
  dsimp only
  split
  · exact maxBits_lt hf neg
  · exact infBits_lt hf neg

/-- The bits that round_to delivers fit the format. -/
theorem round_lt {f : Fmt} (hf : Ieee f) {r : Rnd} (hr : Fixed r) (ftz neg : Bool) (m : Nat) (e : Int) (sticky : Bool) :
    (f.round r false ftz neg m e sticky).bits < 2 ^ (1 + f.eb + f.mb) := by
  by_cases h0 : m = 0 ∧ sticky = false
  · simpa [h0.1, h0.2] using signBit_lt neg
  · rw [round_eq f r ftz neg e sticky (by cases sticky <;> simp_all)]
    have hvle : (roundAt r neg m e (unitOf f m e) sticky).1 ≤ 2 ^ (f.mb + 1) := roundAt_le r neg m sticky (le_max_right ..)
    have hmax := aboveExp_iff (roundAt r neg m e (unitOf f m e) sticky).1 (unitOf f m e) f.maxM f.maxQ
    split
    · exact overflow_lt hf hr neg
    · next hin =>
      obtain ⟨E, M, hbits, hE, hM, -⟩ := pack_eq_fields hf neg hvle (q := unitOf f m e) (le_max_left ..) (not_lt.mp (mt hmax.mpr hin))
      split
      · exact signBit_lt neg
      · rw [hbits]; exact fieldBits_lt neg (by omega) hM

/-! ### Function lanes -/

theorem ieee_fmt32 : Ieee fmt32 := ieee_of_mem (by simp)

theorem nanFR_lt (iv : Bool) : (fmt32.nanFR iv).bits < 2 ^ (1 + fmt32.eb + fmt32.mb) := by decide +revert

theorem dazBits_lt {daz : Bool} {x : Nat} (hx : x < 2 ^ (1 + fmt32.eb + fmt32.mb)) : fmt32.dazBits daz x < 2 ^ (1 + fmt32.eb + fmt32.mb) := by
  rw [Fmt.dazBits]; split
  · exact signBit_lt _
  · exact hx

theorem flushBits_lt {ftz : Bool} {x fl : Nat} (hx : x < 2 ^ (1 + fmt32.eb + fmt32.mb)) :
    (fmt32.flushBits ftz x fl).bits < 2 ^ (1 + fmt32.eb + fmt32.mb) := by
  rw [Fmt.flushBits]; split
  · exact signBit_lt _
  · exact hx

/-- The flags of a lane leave the bits of its result. -/
theorem bits_of_lane {r : FR} {n : Nat} (w : Nat) (h : r.bits < n) : ((⟨r.bits, laneFlags r.fl⟩, w) : FR × Nat).1.bits < n := h

/-- FRRED's first result is an FP32 value. -/
theorem frredF_lt {daz ftz : Bool} {x : Nat} (hx : x < 2 ^ (1 + fmt32.eb + fmt32.mb)) :
    (frredF daz ftz x).1.bits < 2 ^ (1 + fmt32.eb + fmt32.mb) := by
  unfold frredF
  generalize halfPi400 = P
  cases fmt32.readDaz daz x with
  | nan s => exact nanFR_lt _
  | inf _ => exact nanFR_lt _
  | fin neg m e =>
    dsimp only
    generalize (2 * _ + P) / _ = k
    split
    · exact flushBits_lt (dazBits_lt hx)
    · exact bits_of_lane _ (round_lt ieee_fmt32 (by simp [Fixed]) ..)

/-- A pair of which the low register is r and the high one q. -/
theorem pendRegs_low_high (n : Nat) {r : Nat} (q : Nat) (hr : r < 2 ^ 32) :
    pendRegs n (r + 2 ^ 32 * q) 2 = [.reg n (BitVec.ofNat 32 r), .reg (n + 1) (BitVec.ofNat 32 q)] := by
  have hlo : BitVec.ofNat 32 (r + 2 ^ 32 * q) = BitVec.ofNat 32 r := by
    apply BitVec.eq_of_toNat_eq; simp
  have hhi : (r + 2 ^ 32 * q) / 2 ^ 32 = q := by omega
  rw [pendRegs, hlo, hhi]; rfl

theorem laneWord_active {o : RFmt} {s : State} (hg : s.active o.g = true) (f : List FRec → Bool → Bool → Nat → Nat → FR) :
    laneWord f o s = floatLong s o.d false (f s.tm.ftab (s.daz .f32) (s.ftz .f32) (s.src o.a).toNat (s.src o.b).toNat) := by
  simp only [laneWord, hg, if_true, fpResult_long]

/-- Settles O16: every word but FRRED is `laneWord`; the special results are evaluated. -/
theorem functionLaneResults : Obligations.FunctionLaneResults := by
  refine ⟨fun o s hg => ?_, by decide +kernel⟩
  have hl := fun f => laneWord_active hg f
  refine ⟨congrArg _ (hl _), congrArg _ (hl _), ?_, congrArg _ (hl _), congrArg _ (hl _), congrArg _ (hl _), congrArg _ (hl _), congrArg _ (hl _)⟩
  have hlt := frredF_lt (daz := s.daz .f32) (ftz := s.ftz .f32) (s.src o.a).isLt
  show Host.Outcome.next _ = _
  rw [if_pos hg]
  simp only [State.fpResult, pendRegs_low_high _ _ hlt]
  rfl

/-! ### Conversions -/

theorem cvtControl_eq (f : BitVec 3) (rm : Rnd) (sat : Bool) (u : Nat) :
    cvtControl f.toNat rm sat u =
      [(rm, sat), (.rne, sat), (.rz, sat), (.rd, sat), (.ru, sat), (.rna, sat), (.stoch u, sat), (.rne, true)].getD f.toNat (.rne, true) := by
  have h := f.isLt
  interval_cases f.toNat <;> rfl

/-- A conversion to integers of a finite value: the rounded value, clamped to the range. -/
theorem toIntF_fin (r : Rnd) {lo hi : Int} (h : lo ≤ hi) (n : Bool) (m : Nat) (e : Int) :
    (toIntF r lo hi (.fin n m e)).1 = max lo (min hi (signedN n (roundAt r n m e 0 false).1)) ∧
      (toIntF r lo hi (.fin n m e)).2 =
        if signedN n (roundAt r n m e 0 false).1 < lo ∨ hi < signedN n (roundAt r n m e 0 false).1 then 0x10
        else if (roundAt r n m e 0 false).2 then 1 else 0 := by
  simp only [toIntF]
  generalize signedN n (roundAt r n m e 0 false).1 = v
  by_cases h1 : v < lo
  · simp [h1, flagIV]; omega
  · by_cases h2 : hi < v
    · simp [h1, h2, flagIV]; omega
    · simp [h1, h2, flagNX]; omega

/-- Settles O17: CVT is one long result of `cvtF`, `advanceRng` after it where the control is 6. -/
theorem conversionResults : Obligations.ConversionResults := by
  refine ⟨fun f o hw => ?_, fun f o s kd ka hs hg => ?_, fun r lo hi h => ⟨fun _ => rfl, fun _ => rfl, toIntF_fin r h⟩⟩
  · have hcode : (!(cvtShape o.b.toNat).isNone && cvtOk f o) = true := hw
    cases h : cvtShape o.b.toNat
    · simp [h] at hcode
    · rfl
  · show Host.Outcome.next _ = _
    rw [if_pos hg]
    simp only [hs, Option.getD_some, cvtControl_eq, beq_iff_eq]
    split
    · next hf => subst hf; rfl
    · next hf => rw [if_neg (c := f = 6#3) hf]; rfl

end Sys2Proof.Proofs
end

section
/-! PROOFS. Guarded words (R165, R243): a false guard leaves the state as it was. -/

namespace Sys2Proof.Proofs

open Sys2Proof.Machine Sys2Proof.Spec

/-! ### The guard of each format -/

theorem bits_major (w : Word) : bits w.toNat 29 24 = (majorOf w).toNat := by
  simp [bits, majorOf, Nat.shiftRight_eq_div_pow]

/-- The majors of the R, M and P formats, whose G is bit 23. -/
abbrev GuardAt23 (m : BitVec 6) : Prop := ¬ (0x30 ≤ m.toNat ∧ m.toNat ≤ 0x34) ∧ ¬ ((0x08 ≤ m.toNat ∧ m.toNat ≤ 0x0F) ∨ (0x38 ≤ m.toNat ∧ m.toNat ≤ 0x3D))

/-- The majors of the I, U and X formats, which have no G. -/
abbrev Unguarded (m : BitVec 6) : Prop := ¬ (0x30 ≤ m.toNat ∧ m.toNat ≤ 0x34) ∧ ((0x08 ≤ m.toNat ∧ m.toNat ≤ 0x0F) ∨ (0x38 ≤ m.toNat ∧ m.toNat ≤ 0x3D))

theorem guardBit_of_guardAt23 {w : Word} (h : GuardAt23 (majorOf w)) : guardBit w = w.getLsbD 23 := by
  obtain ⟨h1, h2⟩ := h
  simp only [guardBit, bits_major, ← Bool.decide_and, ← Bool.decide_or, decide_eq_true_eq, h1, h2, if_false]

theorem guardBit_of_unguarded {w : Word} (h : Unguarded (majorOf w)) : guardBit w = false := by
  obtain ⟨h1, h2⟩ := h
  simp only [guardBit, bits_major, ← Bool.decide_and, ← Bool.decide_or, decide_eq_true_eq, h1, h2, if_false, if_true]

theorem guardBit_of_subop {w : Word} (h : 0x30 ≤ (majorOf w).toNat ∧ (majorOf w).toNat ≤ 0x34) : guardBit w = w.getLsbD 7 := by
  simp only [guardBit, bits_major, ← Bool.decide_and, ← Bool.decide_or, decide_eq_true_eq, h, and_self, if_true]

section
variable {m : BitVec 6}

theorem guarded_of_buildR {f : BitVec 3} {o : RFmt} (hm : GuardAt23 m) (h : guardBit (buildR m f o) = true) : o.g = true := by
  rw [guardBit_of_guardAt23 (by rwa [majorOf_buildR])] at h
  rw [← parseR_buildR m f o]; exact h

theorem guarded_of_buildM {o : MFmt} (hm : GuardAt23 m) (h : guardBit (buildM m o) = true) : o.g = true := by
  rw [guardBit_of_guardAt23 (by rwa [majorOf_buildM])] at h
  rw [← parseM_buildM m o]; exact h

theorem guarded_of_buildP {f : BitVec 5} {o : PFmt} (hm : GuardAt23 m) (h : guardBit (buildP m f o) = true) : o.g = true := by
  rw [guardBit_of_guardAt23 (by rwa [majorOf_buildP])] at h
  rw [← parseP_buildP m f o]; exact h

theorem guarded_of_buildE {sub : BitVec 4} {o : EFmt} (hm : 0x30 ≤ m.toNat ∧ m.toNat ≤ 0x34) (h : guardBit (buildE m sub o) = true) :
    o.g = true := by
  rw [guardBit_of_subop (by rwa [majorOf_buildE])] at h
  rw [← parseE_buildE m sub o]; exact h

theorem buildI_unguarded {o : IFmt} (hm : Unguarded m) : ¬ guardBit (buildI m o) = true := by
  rw [guardBit_of_unguarded (by rwa [majorOf_buildI])]; exact Bool.false_ne_true

theorem buildU_unguarded {o : UFmt} (hm : Unguarded m) : ¬ guardBit (buildU m o) = true := by
  rw [guardBit_of_unguarded (by rwa [majorOf_buildU])]; exact Bool.false_ne_true

theorem buildX_unguarded {o : XFmt} (hm : Unguarded m) : ¬ guardBit (buildX m o) = true := by
  rw [guardBit_of_unguarded (by rwa [majorOf_buildX])]; exact Bool.false_ne_true

end

/-- A word that acts only where its guard holds. -/
theorem next_of_guarded {s a : State} {g : Bool} (hs : s.guardOn = false) (h : g = true) :
    (.next (if s.active g then a else s) : Out) = .next s := by
  rw [if_neg (by simp [State.active, h, hs])]

/-- Settles O56: every guarded word that is not convergent is its effect where its guard holds, and the state itself otherwise. -/
theorem guardedWordsDoNothing : Obligations.GuardedWordsDoNothing := by
  intro i s hw hwf hb hc hs
  cases i
  case iadd | isub | imin | imax | iminu | imaxu | iabs | ineg | and | or | xor | andn | not | sel | mov | popc | shl | shr | sar | rol |
    clz | brev | bfx | bfi | imul | imulh | imulhu | imad | idiv | irem | idivu | iremu | lea | leaX2 | leaX4 | leaX8 | iaddc | isubb | fadd
    | fsub | fmul | fma | fmin | fmax | fdiv | fsqrt | fadd64 | fsub64 | fmul64 | fma64 | fmin64 | fmax64 | fdiv64 | fsqrt64 | faddH2 |
    fsubH2 | fmulH2 | fmaH2 | fminH2 | fmaxH2 | fdivH2 | fsqrtH2 | faddB2 | fsubB2 | fmulB2 | fmaB2 | fminB2 | fmaxB2 | fdivB2 | fsqrtB2 |
    frcp | frsq | frred | fsinr | fcosr | fexp2 | flog2 | feval | cvt | atom | atomx | red | redx | fence | cwb | cinv | iinv | fbar | pref
    | pstb | pldb => exact next_of_guarded hs (guarded_of_buildR (by decide) hb)
  case ld | st | ldl | stl | lda | sta | ldw | ldc | stc | ldra => exact next_of_guarded hs (guarded_of_buildM (by decide) hb)
  case icmp | fcmp32 | fcmp64 | pand | por | pxor | pnot | pmov | pset | pfrom | pto =>
    exact next_of_guarded hs (guarded_of_buildP (by decide) hb)
  case mxop | mxwait | enq | hsetBind | hsetFull | hsetFree | hwait | hq | ftld | launch | chwait | chwaitAll | twinit | twstep | twgetVal |
    twgetSt | twend | phreg | pharr | phwait | phaw | phq | waitu | rdsr | wrsr | rdtime | rand | trap | brk | sysc =>
    exact next_of_guarded hs (guarded_of_buildE (by decide) hb)
  case iaddi | andi | ori | xori | shli | shri | sari | movi => exact (buildI_unguarded (by decide) hb).elim
  case luih | adrh | next | call => exact (buildU_unguarded (by decide) hb).elim
  case nextp | nextn => exact (buildX_unguarded (by decide) hb).elim
  case shfl | shflx | lswap | vote | lred | lscan | tred | lbcst | migr | migrh => cases hc
  case nexti o | calli o =>
    have h : (!o.c && ctlOk o && alignedTo 1 o.a) = true := hwf
    simp [ctlOk, guarded_of_buildR (m := 0x3e) (by decide) hb] at h
  case ret o | exit o =>
    have h : (!o.c && ctlOk o && o.a == 0) = true := hwf
    simp [ctlOk, guarded_of_buildR (m := 0x3e) (by decide) hb] at h
  case rcv o | yield o | nop o =>
    have h : (ctlOk o && o.a == 0) = true := hwf
    simp [ctlOk, guarded_of_buildR (m := 0x3e) (by decide) hb] at h
  case gsel o =>
    have h : (!o.g && o.d == 0 && predOk o.a && o.arg == 0) = true := hwf
    simp [guarded_of_buildE (m := 0x33) (by decide) hb] at h
  case eret o =>
    have h : (!o.g && o.d == 0 && o.a == 0 && o.arg == 0) = true := hwf
    simp [guarded_of_buildE (m := 0x34) (by decide) hb] at h
  case rdpr o =>
    have h : (!(!prListed o.arg.toNat) && (!o.g && o.a == 0 && wideOk pr64 o.arg.toNat o.d)) = true := hwf
    simp [guarded_of_buildE (m := 0x34) (by decide) hb] at h
  case wrpr o =>
    have h : (!(!prListed o.arg.toNat) && (!o.g && o.d == 0 && wideOk pr64 o.arg.toNat o.a)) = true := hwf
    simp [guarded_of_buildE (m := 0x34) (by decide) hb] at h
  case ctxfl o =>
    have h : (!o.g && o.arg == 0) = true := hwf
    simp [guarded_of_buildE (m := 0x34) (by decide) hb] at h
  case halt o =>
    have h : (!o.g && o.d == 0 && o.a == 0) = true := hwf
    simp [guarded_of_buildE (m := 0x34) (by decide) hb] at h
  case setw o =>
    show Host.Outcome.next _ = _
    rw [if_neg (by simp [State.active, guarded_of_buildE (m := 0x33) (by decide) hb, hs])]
  all_goals cases hw

end Sys2Proof.Proofs
end

section
/-! PROOFS. Cross-lane words (R27, R28, R223 to R227). -/

namespace Sys2Proof.Proofs

open Sys2Proof.Machine Sys2Proof.Spec

/-! ### Convergence -/

/-- Where every member stands, each receives its own result and an inactive one nothing. -/
theorem convergent_meets {s : State} {team : Bool} (h : Meets s team) (g : Bool) (f : List Thread → Thread → List Pending) :
    convergent s team g f = convergedState s team g (f (activeLanes s team g)) := by
  obtain ⟨hc, hm⟩ := h
  simp only [convergent, hc, hm, if_true]
  rfl

theorem convergedState_congr {s : State} {team g : Bool} {f f' : Thread → List Pending} (h : ∀ t, f t = f' t) :
    convergedState s team g f = convergedState s team g f' := by rw [funext h]

/-- A movement word delivers the value A of its source lane, changed only where it comes from another lane. -/
theorem moveLanes_meets {s : State} (h : Meets s false) (o : RFmt) (src : Thread → Nat) (tweak : Nat → Nat → Nat) :
    moveLanes o s src tweak = convergedState s false o.g fun t =>
      let v := laneValue s o t (src t)
      pendRegs o.d.toNat (if v.2 then tweak (t.tid % s.tm.grant) v.1 else v.1) (laneRegs o) := by
  rw [moveLanes, convergent_meets h]
  refine convergedState_congr fun t => ?_
  simp only [laneValue, laneThread, Thread.lane]
  split
  · cases (activeLanes s false o.g).find? fun u => u.tid % s.tm.grant == src t <;> rfl
  · rfl

theorem moveLanes_plain {s : State} (h : Meets s false) (o : RFmt) (src : Thread → Nat) :
    moveLanes o s src (fun _ v => v) = convergedState s false o.g fun t => pendRegs o.d.toNat (laneValue s o t (src t)).1 (laneRegs o) := by
  refine (moveLanes_meets h o src _).trans (convergedState_congr fun t => ?_)
  dsimp only
  rw [ite_self]

/-- The lanes' predicates as a mask, one bit for each lane that is true. -/
theorem foldl_lane_bits (w : Nat) (p : Thread → Bool) : ∀ (l : List Thread) (n : Nat),
    (l.map fun t => if p t then 2 ^ (t.tid % w) else 0).foldl (· + ·) n = (l.filter p).foldl (fun n t => n + 2 ^ (t.tid % w)) n
  | [], _ => rfl
  | t :: l, n => by
    by_cases h : p t = true
    · simp [h, foldl_lane_bits w p l]
    · simp [h, foldl_lane_bits w p l]

theorem all_id_eq (l : List Bool) : l.all id = !l.contains false := by
  induction l with
  | nil => rfl
  | cons b l ih => cases b <;> simp [ih]

theorem any_id_eq (l : List Bool) : l.any id = l.contains true := by
  induction l with
  | nil => rfl
  | cons b l ih => cases b <;> simp [ih]

theorem all_not_eq (l : List Bool) : l.all not = !l.contains true := by
  induction l with
  | nil => rfl
  | cons b l ih => cases b <;> simp [ih]

/-- Settles O18: the movement words by `moveLanes_meets`, VOTE by `convergent_meets`. -/
theorem laneMovesAndVotes : Obligations.LaneMovesAndVotes := by
  intro o s h
  have hvote : ∀ {b}, o.b = b → ∀ res : Thread → List Pending,
      (∀ t, (match b.toNat with
        | 0 => [.pred o.d.toNat (((activeLanes s false o.g).map fun t => t.pred o.a.toNat).any id)]
        | 1 => [.pred o.d.toNat (((activeLanes s false o.g).map fun t => t.pred o.a.toNat).all id)]
        | 2 => pendRegs o.d.toNat
            (((activeLanes s false o.g).map fun t => if t.pred o.a.toNat then 2 ^ t.lane s.tm.grant else 0).foldl (· + ·) 0) 2
        | _ => [.pred o.d.toNat (((activeLanes s false o.g).map fun t => t.pred o.a.toNat).all id ||
            ((activeLanes s false o.g).map fun t => t.pred o.a.toNat).all not)]) = res t) →
      exec (.vote o) s = .next (convergedState s false o.g res) := by
    rintro _ rfl res hres
    exact congrArg _ ((convergent_meets h o.g _).trans (convergedState_congr hres))
  refine ⟨congrArg _ (moveLanes_plain h o _), congrArg _ (moveLanes_plain h o _), congrArg _ (moveLanes_plain h o _), ?_, fun hb => hvote hb _ fun t => ?_, fun hb => hvote hb _ fun t => ?_,
    fun hb => hvote hb _ fun t => ?_, fun hb => hvote hb _ fun t => ?_⟩
  · refine congrArg _ ((moveLanes_meets h o _ _).trans (convergedState_congr fun t => ?_))
    dsimp only [Thread.lane]
    generalize laneValue s o t (t.tid % s.tm.grant ^^^ 1) = v
    congr 1
    cases v.2 <;> simp
  · exact congrArg (fun b => [Pending.pred o.d.toNat b]) (any_id_eq _)
  · exact congrArg (fun b => [Pending.pred o.d.toNat b]) (all_id_eq _)
  · exact congrArg (fun n => pendRegs o.d.toNat n 2) (foldl_lane_bits s.tm.grant (fun t => t.pred o.a.toNat) _ 0)
  · exact congrArg (fun b => [Pending.pred o.d.toNat b]) (congrArg₂ (· || ·) (all_id_eq _) (all_not_eq _))

theorem moveLanes_converges (o : RFmt) (s : State) (src : Thread → Nat) (tweak : Nat → Nat → Nat) :
    ∃ f, (.next (moveLanes o s src tweak) : Out) = .next (convergent s false o.g f) := by
  unfold moveLanes; exact ⟨_, rfl⟩

/-- A word of major 0x16 other than TRED converges over the cohort. -/
theorem laneWord_converges (o : RFmt) (s : State) {i : Instr}
    (hi : i ∈ [Instr.shfl o, .shflx o, .lswap o, .vote o, .lred o, .lscan o, .lbcst o]) : ∃ f, exec i s = .next (convergent s false o.g f) := by
  simp only [List.mem_cons, List.not_mem_nil, or_false] at hi
  rcases hi with rfl | rfl | rfl | rfl | rfl | rfl | rfl
  · exact moveLanes_converges ..
  · exact moveLanes_converges ..
  · exact moveLanes_converges ..
  · exact ⟨_, rfl⟩
  · exact ⟨_, rfl⟩
  · exact ⟨_, rfl⟩
  · exact moveLanes_converges ..

/-- Settles O20: the two cases of `convergent` in which nothing is fixed here. -/
theorem convergentWordsWait : Obligations.ConvergentWordsWait := by
  intro o s i hi
  obtain ⟨f, hf⟩ := laneWord_converges o s hi
  refine ⟨fun hc hm => ?_, fun ps hc => ?_, fun hg hmig => ?_⟩
  · rw [hf, convergent_waits hc hm]; rfl
  · rw [hf, convergent_fixed hc]; rfl
  · exact congrArg Host.Outcome.next (if_pos (by rw [hg, hmig]; rfl))

/-! ### The combining tree -/

section
variable {n a b : Nat}

theorem sMin_ofNat (ha : a < 2 ^ n) (hb : b < 2 ^ n) :
    (sMin (BitVec.ofNat n a) (BitVec.ofNat n b)).toNat = if (BitVec.ofNat n b).slt (BitVec.ofNat n a) then b else a := by
  rw [sMin_eq]; split
  · simp [Nat.mod_eq_of_lt hb]
  · simp [Nat.mod_eq_of_lt ha]

theorem sMax_ofNat (ha : a < 2 ^ n) (hb : b < 2 ^ n) :
    (sMax (BitVec.ofNat n a) (BitVec.ofNat n b)).toNat = if (BitVec.ofNat n a).slt (BitVec.ofNat n b) then b else a := by
  rw [sMax_eq]; split
  · simp [Nat.mod_eq_of_lt hb]
  · simp [Nat.mod_eq_of_lt ha]

theorem uMin_ofNat (ha : a < 2 ^ n) (hb : b < 2 ^ n) : (uMin (BitVec.ofNat n a) (BitVec.ofNat n b)).toNat = min a b := by
  rw [uMin_eq, BitVec.ult, BitVec.toNat_ofNat, BitVec.toNat_ofNat, Nat.mod_eq_of_lt ha, Nat.mod_eq_of_lt hb]
  split
  · simp_all [Nat.mod_eq_of_lt]; omega
  · simp_all [Nat.mod_eq_of_lt]

theorem uMax_ofNat (ha : a < 2 ^ n) (hb : b < 2 ^ n) : (uMax (BitVec.ofNat n a) (BitVec.ofNat n b)).toNat = max a b := by
  rw [uMax_eq, BitVec.ult, BitVec.toNat_ofNat, BitVec.toNat_ofNat, Nat.mod_eq_of_lt ha, Nat.mod_eq_of_lt hb]
  split
  · simp_all [Nat.mod_eq_of_lt]; omega
  · simp_all [Nat.mod_eq_of_lt]

theorem and_ofNat (ha : a < 2 ^ n) (hb : b < 2 ^ n) : (BitVec.ofNat n a &&& BitVec.ofNat n b).toNat = a &&& b := by
  simp [Nat.mod_eq_of_lt ha, Nat.mod_eq_of_lt hb]
theorem or_ofNat (ha : a < 2 ^ n) (hb : b < 2 ^ n) : (BitVec.ofNat n a ||| BitVec.ofNat n b).toNat = a ||| b := by
  simp [Nat.mod_eq_of_lt ha, Nat.mod_eq_of_lt hb]
theorem xor_ofNat (ha : a < 2 ^ n) (hb : b < 2 ^ n) : (BitVec.ofNat n a ^^^ BitVec.ofNat n b).toNat = a ^^^ b := by
  simp [Nat.mod_eq_of_lt ha, Nat.mod_eq_of_lt hb]

theorem slt_signExtend {m n : Nat} (h : m ≤ n) (x y : BitVec m) : (x.signExtend n).slt (y.signExtend n) = x.slt y := by
  rw [BitVec.slt, BitVec.slt, BitVec.toInt_signExtend_of_le h, BitVec.toInt_signExtend_of_le h]

end

/-- The operations on values of N bits are those of the table. -/
theorem combVal_eq_table {op : Nat} {wide : Bool} {a b v : Nat} (ha : a < 2 ^ (if wide then 64 else 32)) (hb : b < 2 ^ (if wide then 64 else 32))
    (h : (combTable wide a b)[op]? = some v) : combVal op wide a b = v := by
  have hslt : ∀ c d : Nat, (if wide then BitVec.ofNat 64 c else (BitVec.ofNat 32 c).signExtend 64).slt
      (if wide then BitVec.ofNat 64 d else (BitVec.ofNat 32 d).signExtend 64) =
        (BitVec.ofNat (if wide then 64 else 32) c).slt (BitVec.ofNat (if wide then 64 else 32) d) := by
    intro c d
    cases wide
    · exact slt_signExtend (by omega) ..
    · rfl
  simp only [combTable, hslt] at h
  match op with
  | 0 => obtain rfl := Option.some.inj h; simp [combVal]
  | 1 => obtain rfl := Option.some.inj h; exact sMin_ofNat ha hb
  | 2 => obtain rfl := Option.some.inj h; exact sMax_ofNat ha hb
  | 3 => obtain rfl := Option.some.inj h; exact uMin_ofNat ha hb
  | 4 => obtain rfl := Option.some.inj h; exact uMax_ofNat ha hb
  | 5 => obtain rfl := Option.some.inj h; exact and_ofNat ha hb
  | 6 => obtain rfl := Option.some.inj h; exact or_ofNat ha hb
  | 7 => obtain rfl := Option.some.inj h; exact xor_ofNat ha hb
  | 8 => exact Option.some.inj h
  | 9 => exact Option.some.inj h
  | 10 => exact Option.some.inj h
  | _ + 11 => cases h

theorem treeLevel_range {α : Type} (f : α → α → α) (x : Nat → α) : ∀ m, treeLevel f ((List.range (2 * m)).map x) =
    (List.range m).map fun j => f (x (2 * j)) (x (2 * j + 1))
  | 0 => rfl
  | m + 1 => by
    have ih := treeLevel_range f (fun i => x (i + 2)) m
    rw [show 2 * (m + 1) = 2 * m + 2 by ring, List.range_succ_eq_map, List.range_succ_eq_map]
    simp only [List.map_cons, List.map_map, treeLevel, List.range_succ_eq_map (n := m)]
    refine congrArg₂ List.cons rfl ?_
    exact ih

/-- The tree over the 2^k positions j × 2^st, level by level, has at position 0 what the tree of R226 has. -/
theorem treeReduce_eq_tree {α : Type} (f : α → α → α) : ∀ (k st : Nat) (x : Nat → α),
    treeReduce f k ((List.range (2 ^ k)).map fun j => x (j * 2 ^ st)) = [treeOfR226 f k st x 0]
  | 0, _, x => by simp [treeReduce, treeOfR226]
  | k + 1, st, x => by
    rw [treeReduce, show 2 ^ (k + 1) = 2 * 2 ^ k by ring, treeLevel_range, treeOfR226, ← treeReduce_eq_tree f k (st + 1)]
    refine congrArg _ (List.map_congr_left fun j _ => ?_)
    have hdvd : j * 2 ^ (st + 1) % 2 ^ (st + 1) = 0 := Nat.mul_mod_left ..
    rw [if_pos hdvd]
    congr 2 <;> ring

/-- A stage of the scan over positions. -/
theorem scanStage_range {α : Type} (f : α → α → α) (d w : Nat) (x : Nat → α) :
    scanStage f d ((List.range w).map x) = (List.range w).map fun i => if d ≤ i then f (x (i - d)) (x i) else x i := by
  refine List.ext_getElem (by simp [scanStage]; omega) fun i hi hw => ?_
  by_cases hd : d ≤ i
  · have hdw : d ≤ w := by simp at hw; omega
    simp [scanStage, hd, hdw]
  · have hlt : i < d := not_le.mp hd
    have hiw : i < w := by simpa using hw
    simp [scanStage, hd, hlt, hiw]

/-- The stages of LSCAN over positions are those of R226. -/
theorem scanAll_eq_scan {α : Type} (f : α → α → α) (w : Nat) : ∀ (k st : Nat) (x : Nat → α),
    scanAll f k st ((List.range w).map x) = (List.range w).map (scanOfR226 f k st x)
  | 0, _, _ => rfl
  | k + 1, st, x => by rw [scanAll, scanStage_range, scanAll_eq_scan f w k (st + 1)]; rfl

/-- The tree over the positions of a reduction, its first position read. -/
theorem treeReduce_positions (s : State) (team : Bool) (o : RFmt) (idx : Thread → Nat) (comb : Option Nat → Option Nat → Option Nat) {n k : Nat}
    (hn : n = 2 ^ k) : (treeReduce comb k (positions (activeLanes s team o.g) n idx o.a.toNat (laneRegs o))).head?.getD none =
      treeOfR226 comb k 0 (positionOf s team o idx) 0 := by
  have h := treeReduce_eq_tree comb k 0 (positionOf s team o idx)
  simp only [Nat.pow_zero, Nat.mul_one, ← hn] at h
  have hpos : positions (activeLanes s team o.g) n idx o.a.toNat (laneRegs o) = (List.range n).map fun j => positionOf s team o idx j := rfl
  rw [hpos, h]; rfl

/-- Settles O19: LRED and TRED by `treeReduce_positions`, LSCAN by `scanAll_eq_scan`. -/
theorem reductionResults : Obligations.ReductionResults := by
  refine ⟨fun op wide a b v ha hb => ⟨fun h => congrArg some (combVal_eq_table ha hb h), rfl, rfl, rfl⟩, fun o s => ⟨fun h hw => ⟨?_, ?_⟩, fun h hmig => ?_⟩⟩
  · have hpow : s.tm.grant = 2 ^ Nat.log2 s.tm.grant := by
      simp only [List.mem_cons, List.not_mem_nil, or_false] at hw
      rcases hw with hw | hw | hw | hw <;> rw [hw] <;> decide
    refine congrArg _ ((convergent_meets h o.g _).trans (convergedState_congr fun t => ?_))
    exact congrArg (fun v => pendRegs o.d.toNat (Option.getD v 0) (laneRegs o)) (treeReduce_positions s false o _ _ hpow)
  · have hpos : 0 < s.tm.grant := by
      simp only [List.mem_cons, List.not_mem_nil, or_false] at hw; omega
    refine congrArg _ ((convergent_meets h o.g _).trans (convergedState_congr fun t => ?_))
    have hscan := scanAll_eq_scan (combOpt o.b.toNat (laneRegs o == 2)) s.tm.grant (Nat.log2 s.tm.grant) 0
      (positionOf s false o fun t => t.tid % s.tm.grant)
    have hget := congrArg (fun l => l.getD (t.tid % s.tm.grant) none) hscan
    simp only [List.getD_eq_getElem?_getD, List.getElem?_map, List.getElem?_range (Nat.mod_lt t.tid hpos), Option.map_some, Option.getD_some] at hget
    exact congrArg (fun v => pendRegs o.d.toNat (Option.getD v 0) (laneRegs o)) (List.getD_eq_getElem?_getD.trans hget)
  · show Host.Outcome.next _ = _
    rw [if_neg (by simp [hmig])]
    refine congrArg _ ((convergent_meets h o.g _).trans (convergedState_congr fun t => ?_))
    exact congrArg (fun v => pendRegs o.d.toNat (Option.getD v 0) (laneRegs o)) (treeReduce_positions s true o _ _ (by norm_num))

end Sys2Proof.Proofs
end

section
/-! PROOFS. Packets, terminators and control words (R168, R172 to R174, R219 to R222), special registers (R188, R242). -/

namespace Sys2Proof.Proofs

open Sys2Proof.Machine Sys2Proof.Spec

/-! ### Packets (R168) -/

theorem packetAddr_eq (n : Int) : packetAddr n = packetByte n := by
  simp [packetAddr, wrapN, packetByte]

theorem packetOf_eq (a : Nat) : (packetOf a : Int) = packetNumber a := by
  simp [packetOf, packetNumber]

theorem packetTarget_eq (s : State) (off : Int) : s.packetTarget off = packetOff s off := by
  rw [State.packetTarget, packetAddr_eq, packetOf_eq]; rfl

/-- Settles O31. -/
theorem packetAddresses : Obligations.PacketAddresses := by
  intro a ha hmem
  simp only [List.mem_cons, List.not_mem_nil, or_false] at hmem
  simp only [packetByte, packetNumber]
  refine ⟨?_, ?_, ?_, fun h => ?_⟩
  · omega
  · split <;> omega
  · omega
  · omega

/-! ### Outstanding results (R174, R177) -/

theorem foldl_deliverOne_written (ps : List Pending) : ∀ t : Thread,
    ps.foldl Thread.deliverOne t = { t with
      regs := ps.foldl (fun l p => match p with | .reg n v => l.set n v | _ => l) t.regs
      preds := ps.foldl (fun l p => match p with | .pred n b => if n = 0 then l else l.set n b | _ => l) t.preds
      fps := ps.foldl (fun f p => match p with | .flags m _ => f ||| m | _ => f) t.fps } := by
  induction ps with
  | nil => intro t; rfl
  | cons p ps ih =>
    intro t
    rw [List.foldl_cons, ih]
    cases p with
    | reg n v => rfl
    | pred n b =>
      by_cases h : n = 0
      · simp [Thread.deliverOne, Thread.setPred, h]
      · simp [Thread.deliverOne, Thread.setPred, h]
    | flags m n => rfl

/-- A thread whose outstanding results are written is `written`. -/
theorem drain_eq_written (t : Thread) : t.drain = written t := by
  rw [Thread.drain, foldl_deliverOne_written]; rfl

/-! ### Successors (R172) -/

theorem packetOffset_iff (a : Nat) : packetOffset a = true ↔ a % 64 ∈ [0, 12, 24, 36, 48] := by
  simp [packetOffset, or_assoc]

/-- A successor on a held line and a held page is judged by its entry bit alone. -/
theorem checkTarget_of_enterable {s : State} {w : Accessor} {a : Nat} {entry : Bool} (ho : w.outside = false) (h : Enterable s w a entry) :
    checkTarget s w a = (if entry then .legal else .illegal, s) := by
  obtain ⟨ha, hp, e, c, ht, hl, hd, hc, hw, hb⟩ := h
  rw [checkTarget_hit ha ((packetOffset_iff a).mpr hp) ht hl hd hc hw ho, hb]

/-- A successor that is no packet, lies beyond the addresses, or is no entry. -/
theorem checkTarget_illegal {s : State} {a : Nat} (h : Enterable s s.accessor a false ∨ 2 ^ 56 ≤ a ∨ a % 64 ∉ [0, 12, 24, 36, 48]) :
    checkTarget s s.accessor a = (.illegal, s) := by
  rcases h with h | h | h
  · simpa using checkTarget_of_enterable rfl h
  · exact checkTarget_no_packet (.inl h)
  · exact checkTarget_no_packet (.inr (by simpa using mt (packetOffset_iff a).mp h))

/-- The gang of its cohort that stands at a successor and has not issued (R16). -/
def mateAt (s : State) (t : Thread) (target : Nat) : Option Thread :=
  s.tm.threads.find? fun u => u.tid != t.tid && u.status == .boundary && u.pc == BitVec.ofNat 64 target &&
    u.tid / s.tm.grant == t.tid / s.tm.grant && u.bay == t.bay && u.gang != t.gang && !s.tm.gangIssued t.tid u.gang

theorem gangAt_eq (s : State) (target : Nat) :
    s.gangAt (BitVec.ofNat 64 target) = (((mateAt s s.th target).map (·.gang)).getD s.tm.gangs,
      { s with tm := { s.tm with gangs := if (mateAt s s.th target).isSome then s.tm.gangs else s.tm.gangs + 1 } }) := by
  show (match mateAt s s.th target with | some t => (t.gang, s) | none => (s.tm.gangs, s.mapTm fun t => { t with gangs := t.gangs + 1 })) = _
  cases mateAt s s.th target <;> rfl

/-- A thread that enters a segment, whichever registers it was given on its way. -/
theorem enter_eq_entered (s : State) (t : Thread) (target : Nat) : State.enter { s with th := t } target = entered s t target := by
  have hmate : mateAt { s with th := t } t target = s.tm.threads.find? fun u => u.tid != t.tid && u.status == .boundary &&
      u.pc == BitVec.ofNat 64 target && u.tid / s.tm.grant == t.tid / s.tm.grant && u.bay == t.bay && u.gang != t.gang &&
      !(s.tm.threads.any fun y => y.tid != t.tid && y.gang == u.gang && (match y.status with | .within | .blocked _ => true | _ => false)) := rfl
  simp only [State.enter, gangAt_eq, hmate, drain_eq_written, entered]
  generalize (s.tm.threads.find? fun u => _) = mate
  split <;> simp_all [State.mapTh, Thread.clearWaits]

theorem link_eq_linked (s : State) : s.link = { s with th := linked s } := by
  have hr : s.returnAddr = (BitVec.ofNat 64 (packetOff s 1)).toNat := by
    have hlt : packetOff s 1 < 2 ^ 64 := by rw [packetOff, packetByte]; omega
    rw [State.returnAddr, packetTarget_eq, BitVec.toNat_ofNat, Nat.mod_eq_of_lt hlt]
  rw [State.link, hr, puts_two_eq_withRegs]; rfl

section
variable {s : State} {a : Nat}

theorem transfer_entered (h : Enterable s s.accessor a true) : s.transfer a id = entered s s.th a := by
  rw [State.transfer_legal (checkTarget_of_enterable rfl h)]; exact enter_eq_entered s s.th a

theorem transfer_linked (h : Enterable s s.accessor a true) : s.transfer a State.link = entered s (linked s) a := by
  rw [State.transfer_legal (checkTarget_of_enterable rfl h), link_eq_linked, enter_eq_entered]

theorem transfer_raises (h : Enterable s s.accessor a false ∨ 2 ^ 56 ≤ a ∨ a % 64 ∉ [0, 12, 24, 36, 48]) (k : State → State) :
    s.transfer a k = s.raise cTarget a := State.transfer_illegal (checkTarget_illegal h) k

end

/-- Settles O30: each terminator is one `transfer`. -/
theorem transferResults : Obligations.TransferResults := by
  refine ⟨fun o s => ?_, fun o s => ?_, fun o s => ?_⟩
  · have hn : ∀ k, s.transfer (s.packetTarget o.imm.toInt) k = s.transfer (packetOff s o.imm.toInt) k := fun k => by rw [packetTarget_eq]
    exact ⟨fun h => ⟨congrArg _ ((hn _).trans (transfer_entered h)), congrArg _ ((hn _).trans (transfer_linked h))⟩,
      fun h => ⟨congrArg _ ((hn _).trans (transfer_raises (.inl h) _)), congrArg _ ((hn _).trans (transfer_raises (.inl h) _))⟩⟩
  · have hw : ∀ b : Bool, twoWay s b o.off = s.transfer (packetOff s (if b then o.off.toInt else 1)) id := fun b => by rw [twoWay, packetTarget_eq]
    exact ⟨fun h => congrArg _ ((hw _).trans (transfer_entered h)), fun h => congrArg _ ((hw _).trans (transfer_entered h)),
      fun h => congrArg _ ((hw _).trans (transfer_raises (.inl h) _)), fun h => congrArg _ ((hw _).trans (transfer_raises (.inl h) _))⟩
  · exact ⟨fun h => ⟨congrArg _ (transfer_entered h), congrArg _ (transfer_linked h)⟩, fun h => congrArg _ (transfer_entered h),
      fun h => ⟨congrArg _ (transfer_raises h _), congrArg _ (transfer_raises h _)⟩, fun h => congrArg _ (transfer_raises h _)⟩

/-! ### EXIT and RCV (R220, R221) -/

/-- A thread of no phaser leaves none. -/
theorem phLeaveAll_none {s : State} (hp : s.tm.decl.phasers = 0) (hc : s.tm.decl.cphasers = 0) (hg : s.grid.cores = false) : s.phLeaveAll = s := by
  simp [State.phLeaveAll, hp, hc, hg]

/-- A thread on its way elsewhere within its segment keeps a hold. -/
theorem rcvMet_of_within {pc a : Nat} {t : Thread} (h : t.status = .within) (hp : t.pc.toNat < pc ∨ a < t.pc.toNat) : rcvMet pc a t = false := by
  rw [rcvMet, h]
  simp only [Thread.atRcv, h]
  rcases hp with hp | hp
  · simp [Nat.not_le.mpr hp]
  · simp [Nat.not_le.mpr hp]

theorem rcvMet_of_atRcv {pc a : Nat} {t : Thread} (h : t.atRcv true pc a = true) : rcvMet pc a t = true := by
  have hs := h
  rw [Thread.atRcv] at hs
  rw [rcvMet]
  split at hs <;> simp_all

theorem rcvMet_of_blocked {pc a : Nat} {t : Thread} {b : BlockOn} (h : t.status = .blocked b) (hb : b ≠ .rcv)
    (hc : t.conv = none ∨ (b ≠ .convergent ∧ b ≠ .teamConv)) : rcvMet pc a t = true := by
  rw [rcvMet, h]
  cases b <;> simp_all

/-- The other threads of the cohort in the bay. -/
def rcvMate (s : State) (t : Thread) : Bool := t.tid != s.th.tid && t.tid / s.tm.grant == s.th.tid / s.tm.grant && t.bay == s.th.bay

/-- RCV holds until every mate lets the hold end, then merges those at the word. -/
theorem exec_rcv {o : RFmt} {s : State} (h : s.th.conv = none) :
    exec (.rcv o) s = .next (if s.tm.threads.all fun t => !rcvMate s t || rcvMet s.th.pc.toNat s.wordPc t then
        s.mapTm fun tm => { tm with threads := rcvMerge tm.threads (rcvMate s) (tm.st == .running) s.th.pc.toNat s.wordPc s.th.gang }
      else (s.mapTh fun t => { t with since := if s.grp.view.status == .blocked .rcv then s.th.since else s.cycle }).block .rcv) :=
  congrArg Host.Outcome.next (if_neg (by simp [h]))

/-- Settles O32. -/
theorem exitAndHoldResults : Obligations.ExitAndHoldResults := by
  intro o s
  refine ⟨rfl, rfl, fun hp hc hg => ?_, ⟨_, rfl, rfl⟩, fun hconv => ?_, fun hconv hmate => ?_, fun hconv hmates => ?_⟩
  · have hleave : (s.mapTh Thread.drain).phLeaveAll = { s with th := written s.th } := by
      rw [phLeaveAll_none (s := s.mapTh Thread.drain) hp hc hg, State.mapTh, drain_eq_written]
    exact congrArg (fun s => Host.Outcome.next (s.mapTh fun t => { t.clearWaits with status := .exited, walk := none, migrated := false })) hleave
  · exact congrArg _ (if_pos (Option.isSome_iff_ne_none.mpr hconv))
  · obtain ⟨t, ht, hwithin, hpos⟩ := hmate
    obtain ⟨hmem, hmate⟩ := List.mem_filter.mp ht
    have hall : ¬ (s.tm.threads.all fun t => !rcvMate s t || rcvMet s.th.pc.toNat s.wordPc t) = true := by
      rw [List.all_eq_true]
      intro h
      have h := h t hmem
      rw [rcvMet_of_within (a := s.wordPc) hwithin hpos, rcvMate, hmate] at h
      cases h
    rw [exec_rcv hconv, if_neg hall]
    refine ⟨_, rfl, rfl, ?_⟩
    simp [State.block, State.mapTh]
  · have hall : (s.tm.threads.all fun t => !rcvMate s t || rcvMet s.th.pc.toNat s.wordPc t) = true := by
      rw [List.all_eq_true]
      intro t hmem
      by_cases hmate : rcvMate s t = true
      · rw [hmate, Bool.not_true, Bool.false_or]
        rcases hmates t (List.mem_filter.mpr ⟨hmem, hmate⟩) with h | h | h | ⟨b, hb, hne, hc⟩
        · simp [rcvMet, h]
        · simp [rcvMet, h]
        · exact rcvMet_of_atRcv h
        · exact rcvMet_of_blocked hb hne hc
      · simp [hmate]
    have hmerge : rcvMerge s.tm.threads (rcvMate s) (s.tm.st == .running) s.th.pc.toNat s.wordPc s.th.gang =
        s.tm.threads.map fun t => if t ∈ s.tm.threads.filter (rcvMate s) ∧ t.atRcv (s.tm.st == .running) s.th.pc.toNat s.wordPc = true then
          { t with conv := some [], gang := s.th.gang } else t := by
      refine List.map_congr_left fun t hmem => ?_
      simp only [List.mem_filter, hmem, true_and, Bool.and_eq_true]
    rw [exec_rcv hconv, if_pos hall, State.mapTm, hmerge]; rfl

/-! ### Special registers -/

theorem puts_pair (s : State) (r : BitVec 6) (v : Nat) : s.puts r 2 v = withRegs s (reg2 s.th.regs r (BitVec.ofNat 64 v)) := by
  have hlo : (BitVec.ofNat 64 v).setWidth 32 = BitVec.ofNat 32 v := by
    apply BitVec.eq_of_toNat_eq; simp
  have hhi : (BitVec.ofNat 64 v).extractLsb' 32 32 = BitVec.ofNat 32 (v / 2 ^ 32) := by
    apply BitVec.eq_of_toNat_eq; simp [Nat.shiftRight_eq_div_pow]; omega
  simp [State.puts, State.mapTh, Thread.setRegs, Thread.setReg, withRegs, reg2, hlo, hhi]

theorem puts_single (s : State) (r : BitVec 6) (v : Nat) : s.puts r 1 v = withRegs s (reg1 s.th.regs r (BitVec.ofNat 32 v)) := rfl

/-- The registers of R188, with their widths, are those that RDSR reads. -/
theorem sr_of_mem {s : State} {r : Nat × Bool × Nat} (h : r ∈ specialRegisters s) : s.sr r.1 = r.2.2 ∧ sr64.contains r.1 = r.2.1 := by
  simp only [specialRegisters, List.mem_cons, List.not_mem_nil, or_false] at h
  rcases h with rfl | rfl | rfl | rfl | rfl | rfl | rfl | rfl | rfl | rfl | rfl | rfl | rfl | rfl | rfl | rfl | rfl | rfl | rfl | rfl | rfl | rfl |
    rfl | rfl | rfl
  all_goals exact ⟨rfl, rfl⟩

/-- Settles O33. -/
theorem specialRegisterReads : Obligations.SpecialRegisterReads := by
  intro o s hg r hr hn
  obtain ⟨hval, hwide⟩ := sr_of_mem hr
  show Host.Outcome.next _ = _
  rw [if_pos hg, hn, hval, hwide]
  cases r.2.1
  · exact congrArg _ (puts_single ..)
  · exact congrArg _ (puts_pair ..)

theorem setWidth_setWidth_word (v : Word) : (v.setWidth 64).setWidth 32 = v := by simp

theorem fpcWrite_eq (v : Word) :
    fpcWrite v = BitVec.ofNat 32 (v.toNat / 256 % 512 * 256 + (if 5 ≤ v.toNat % 8 then 0 else v.toNat % 8)) := by
  simp [fpcWrite, bits]

/-- Settles O34. -/
theorem specialRegisterWrites : Obligations.SpecialRegisterWrites := by
  intro o s hg
  have hword : exec (.wrsr o) s = .next (s.setSr o.arg.toNat (if sr64.contains o.arg.toNat then s.srcPair o.a else (s.src o.a).setWidth 64)) :=
    congrArg _ (if_pos hg)
  refine ⟨fun hn => ?_, fun hn => ?_, fun hn => ?_, fun hn => ?_, fun hn => ?_, fun hn => ?_, fun hn => ?_, fun hn => ?_⟩
  all_goals rw [hword, hn]
  · exact congrArg (fun x => Host.Outcome.next (withThread s { s.th with fps := x &&& 0x1F })) (setWidth_setWidth_word _)
  · rfl
  · exact congrArg (fun x => Host.Outcome.next (withThread s { s.th with rngc := x &&& 0xFFFFFF })) (setWidth_setWidth_word _)
  · rfl
  · rfl
  · exact congrArg (fun x => Host.Outcome.next (withThread s { s.th with timeout := x })) (setWidth_setWidth_word _)
  · exact congrArg (fun x => Host.Outcome.next { s with tm := { s.tm with hstat := x &&& 0x803FFF0F } }) (setWidth_setWidth_word _)
  · exact congrArg (fun x => Host.Outcome.next (withThread s { s.th with fpc := x })) ((congrArg fpcWrite (setWidth_setWidth_word _)).trans (fpcWrite_eq _))

end Sys2Proof.Proofs
end

section
/-! PROOFS. Width, draws, time and migration (R25, R40 to R42, R241 to R245). -/

namespace Sys2Proof.Proofs

open Sys2Proof.Machine Sys2Proof.Spec

theorem pendTo_eq (s : State) (d : BitVec 6) (k v : Nat) : s.pendTo d k v = withPending s (longN d k v) := by
  rw [State.pendTo, pendRegs_eq]; rfl

/-! ### The timer (R244, R460) -/

/-- Nothing keeps a request waiting: it is answered at once. -/
theorem overLink_free {s : State} (h : s.linkFree = true) (walker : Bool) (sec : Nat) : s.overLink walker sec = .go s := by
  simp only [State.linkFree, Bool.and_eq_true, Bool.not_eq_true', Option.isNone_iff_eq_none] at h
  obtain ⟨⟨hs, ha⟩, hr⟩ := h
  simp [State.overLink, ha, hs, hr]

/-- The count that a die returns lies from the IOD's count on, and from the die's last one on, within 8 ns of the former. -/
theorem readTime_bounds (s : State) :
    s.time ≤ s.readTime.1 ∧ ((s.iod.dies[s.th.bay / 96]?).map (·.lastTime)).getD 0 ≤ s.readTime.1 ∧
      (((s.iod.dies[s.th.bay / 96]?).map (·.lastTime)).getD 0 ≤ s.time → s.readTime.1 ≤ s.time + 8) := by
  simp only [State.readTime, timeResult]
  generalize ((s.iod.dies[s.th.bay / 96]?).map (·.lastTime)).getD 0 = last
  have hn : Config.roundTrip s.draws % (s.time / 5 + 1) < s.time / 5 + 1 := Nat.mod_lt _ (by omega)
  have herr : Config.halfTrip s.draws % 9 < 9 := Nat.mod_lt _ (by omega)
  omega

/-- What stands at a place that is changed. -/
theorem getElem?_updAt {α : Type} (l : List α) (i : Nat) (f : α → α) : (updAt l i f)[i]? = l[i]?.map f := by
  unfold updAt
  cases h : l[i]? with
  | none => exact h
  | some v =>
    obtain ⟨hi, -⟩ := List.getElem?_eq_some_iff.mp h
    simp [hi]

theorem readTime_lastTime (s : State) : (s.readTime.2.iod.dies[s.th.bay / 96]?).map (·.lastTime) =
    (s.iod.dies[s.th.bay / 96]?).map fun _ => s.readTime.1 := by
  show ((updAt s.iod.dies (s.th.bay / 96) fun d => { d with lastTime := s.readTime.1, heard := s.time })[s.th.bay / 96]?).map _ = _
  rw [getElem?_updAt, Option.map_map]; rfl

/-! ### Migration (R40 to R42) -/

/-- Steps 1 and 2 of R40 change the cohort's threads and the memory system alone. -/
theorem migrateOut_eq (s : State) : ∃ ms threads, s.migrateOut = { s with th := written s.th, ms := ms, tm := { s.tm with threads := threads } } := by
  rw [← drain_eq_written, State.migrateOut, State.release]
  split
  · exact ⟨_, _, rfl⟩
  · exact ⟨_, _, rfl⟩

/-- The rest of R40 takes the issuing thread to the bay and takes longer than 16 ns. -/
theorem migrateIn_th (s : State) (bay : Nat) (away : Bool) :
    (s.migrateIn bay away).th = { written s.th with bay := bay, migrated := away } ∧ (s.migrateIn bay away).time = s.time + 17 := by
  rw [← drain_eq_written, State.migrateIn]
  simp only [State.acquire]
  split
  · exact ⟨rfl, rfl⟩
  · exact ⟨rfl, rfl⟩

theorem written_written (t : Thread) : written (written t) = written t := rfl

theorem migrateCohort_th (s : State) (bay : Nat) (away : Bool) :
    (s.migrateCohort bay away).th = { written s.th with bay := bay, migrated := away } ∧ s.time + 16 < (s.migrateCohort bay away).time := by
  obtain ⟨ms, threads, hout⟩ := migrateOut_eq s
  obtain ⟨hth, htime⟩ := migrateIn_th s.migrateOut bay away
  rw [State.migrateCohort, hth, htime, hout]
  exact ⟨rfl, Nat.lt_succ_self _⟩

/-- A cohort of one that stands at its word performs it. -/
theorem cohortWord_alone {s : State} {g : Bool} (h : Meets s false) (hm : s.convMembers false = [s.th]) (hg : s.th.guarded g = true)
    (k : State → State) : cohortWord s g k = k s := by
  obtain ⟨hc, ha⟩ := h
  simp only [cohortWord, hc, ha, if_true]
  rw [hm]
  simp [hg]

theorem pick_mem {α : Type} {s : State} {l : List α} {x : α} {t : State} (h : s.pick l = some (x, t)) :
    x ∈ l ∧ ∃ n, t = { s with draws := n } := by
  match l with
  | [] => cases h
  | [y] => obtain ⟨rfl, rfl⟩ := Prod.mk.inj (Option.some.inj h); exact ⟨List.mem_singleton_self _, _, rfl⟩
  | y :: z :: l =>
    obtain ⟨rfl, rfl⟩ := Prod.mk.inj (Option.some.inj h)
    refine ⟨?_, _, rfl⟩
    have hlt := Nat.mod_lt (Config.choice s.draws) (show 0 < (y :: z :: l).length by simp)
    rw [List.getD_eq_getElem _ _ hlt]
    exact List.getElem_mem _

theorem pick_isSome {α : Type} (s : State) {l : List α} {x : α} (h : x ∈ l) : ∃ y t, s.pick l = some (y, t) := by
  match l with
  | [_] => exact ⟨_, _, rfl⟩
  | _ :: _ :: _ => exact ⟨_, _, rfl⟩

/-- A cohort goes to a fitting bay with a free vestibule slot. -/
theorem migrateTo_free {s : State} {die b : Nat} (hb : b ∈ s.baysFor die) (hv : vestibuleFree s b = true) :
    ∃ c, c ∈ s.baysFor die ∧ vestibuleFree s c = true ∧ (s.migrateOut.migrateTo die).th = { written s.th with bay := c, migrated := true } ∧
      s.time + 16 < (s.migrateOut.migrateTo die).time := by
  obtain ⟨ms, threads, hout⟩ := migrateOut_eq s
  have hfit : (s.migrateOut.baysFor die).filter (vestibuleFree s.migrateOut) = (s.baysFor die).filter (vestibuleFree s) := by rw [hout]; rfl
  obtain ⟨c, t, hpick⟩ := pick_isSome s.migrateOut (List.mem_filter.mpr ⟨hb, hv⟩)
  obtain ⟨hc, n, rfl⟩ := pick_mem hpick
  obtain ⟨hcb, hcv⟩ := List.mem_filter.mp hc
  refine ⟨c, hcb, hcv, ?_⟩
  obtain ⟨hth, htime⟩ := migrateIn_th { s.migrateOut with draws := n } c true
  rw [State.migrateTo, hfit, hpick, hth, htime, hout]
  exact ⟨rfl, Nat.lt_succ_self _⟩

/-- MIGR where the thread does not wait for a vestibule slot already. -/
theorem exec_migr {o : EFmt} {s : State} (h : ∀ d, s.grp.view.status ≠ .blocked (.migr (some d))) :
    exec (.migr o) s = .next (cohortWord s o.g fun s =>
      let va := (s.srcPair o.a).toNat
      if !addrOk56 va then s.raise cRange va
      else
        match Machine.translate s s.accessor .load va with
        | (.ok l _, s) =>
          let die := leafHome l
          if die == s.th.bay / 96 || (s.baysFor die).isEmpty then s.migrateCohort s.th.bay s.th.migrated
          else s.migrateOut.migrateTo die
        | (r, s) => s.xstop r va .load) := by
  show Host.Outcome.next _ = _
  split
  · next hs => exact absurd hs (h _)
  · rfl

/-- Settles O35. -/
theorem threadWordResults : Obligations.ThreadWordResults := by
  intro o s
  refine ⟨rfl, fun hg => ⟨fun hdet => ?_, fun hdet => ?_, ?_, fun hfree => ?_⟩, fun c n last => ?_, fun hmeets halone hguard hstatus => ⟨?_, fun e hmap hlt => ⟨fun hhome => ?_, fun fit hfit haway hslot => ?_⟩⟩⟩
  · exact congrArg _ (if_neg (by simp [hdet]))
  · refine congrArg _ ((if_pos (by simp [hg, hdet])).trans ?_)
    by_cases hnew : grantFor o.arg.toNat (bayCap s s.tm.bay) s.tm.pcap = s.tm.grant
    · simp [State.wouldGrant, hnew, State.mapTm, Team.unhold]
    · simp [State.wouldGrant, hnew, State.mapTm]
  · exact congrArg _ (if_pos hg)
  · obtain ⟨hlo, hlast, hhi⟩ := readTime_bounds s
    have hword : exec (.rdtime o) s = .next (withPending s.readTime.2 (longN o.d 2 s.readTime.1)) := by
      refine congrArg _ ((if_pos hg).trans ?_)
      rw [overLink_free hfree]
      exact pendTo_eq ..
    refine ⟨s.readTime.1, _, hword, rfl, rfl, hlo, fun d hd => ?_⟩
    rw [hd] at hlast hhi
    have hset := readTime_lastTime s
    rw [hd] at hset
    exact ⟨hlast, hhi, hset⟩
  · rw [timeResult, max_def]
    split <;> split <;> omega
  · obtain ⟨hth, htime⟩ := migrateCohort_th s (if s.th.migrated then s.tm.bay else s.th.bay) false
    exact ⟨_, congrArg Host.Outcome.next (cohortWord_alone hmeets halone hguard _), hth, htime⟩
  all_goals
    have htr := translate_hit (w := s.accessor) hmap.hit hmap.unlocked hmap.allowed
  · obtain ⟨hth, htime⟩ := migrateCohort_th s s.th.bay s.th.migrated
    refine ⟨_, (exec_migr hstatus).trans (congrArg _ ((cohortWord_alone hmeets halone hguard _).trans ?_)), hth, htime⟩
    simp [addrOk56_true hlt, htr, hhome]
  · obtain ⟨b, hb, hv⟩ := hslot
    have hbays : fit = s.baysFor (leafHome e.leaf.toNat) := hfit
    have hne : (s.baysFor (leafHome e.leaf.toNat)).isEmpty = false := List.isEmpty_eq_false_iff_exists_mem.mpr ⟨b, hbays ▸ hb⟩
    obtain ⟨c, hc, hcv, hth, htime⟩ := migrateTo_free (hbays ▸ hb) hv
    refine ⟨_, c, (exec_migr hstatus).trans (congrArg _ ((cohortWord_alone hmeets halone hguard _).trans ?_)), hbays ▸ hc, hcv, hth, htime⟩
    simp [addrOk56_true hlt, htr, haway, hne]

end Sys2Proof.Proofs
end

section
/-! PROOFS. WAITU (R232 to R238). -/

namespace Sys2Proof.Proofs

open Sys2Proof.Machine Sys2Proof.Spec

/-! ### Accesses that pass every check (R252) -/

/-- Every check of an access passes, and nothing changes. -/
theorem checkGlobal_of_reaches {s : State} {va n : Nat} {k : AccKind} {e : TlbEnt} (h : Reaches s va n k e) (al : Alloc) :
    s.checkGlobal va n k al = .ok (homeOf e va) e.leaf.toNat s :=
  State.checkGlobal_ok h.range h.aligned h.hit h.unlocked h.allowed h.answered.1 (h.sound _) h.near

/-- An access beside the pod leaves the local copies of pod-tier sectors as they are. -/
theorem podTake_near {s : State} {ha : Nat} (h : isPod ha = false) (sc n : Nat) : s.podTake sc ha n = s := by
  simp [State.podTake, h]

theorem podFresh_near {s : State} {ha : Nat} (h : isPod ha = false) (sc n : Nat) : s.podFresh sc ha n = s := by
  simp [State.podFresh, State.podAnew, h]

/-! ### Conditions (R232) -/

theorem sextN_mod (n v : Nat) : sextN (v % 2 ^ n) n = (BitVec.ofNat n v).toInt := by
  rw [← BitVec.toNat_ofNat, sextN_toNat]

/-- The condition of a WAITU is that of its row. -/
theorem latchCond_eq_table {cc : Nat} (h : cc < 8) (wide : Bool) (v x : Nat) :
    latchCond cc wide v x = (waitTable (8 * if wide then 8 else 4) v x).getD cc false := by
  have hn : (if wide then 64 else 32) = 8 * (if wide then 8 else 4) := by cases wide <;> rfl
  simp only [latchCond, hn, waitTable, sextN_mod]
  interval_cases cc <;> simp [beq_eq_decide, bne]

theorem srcs_lt (s : State) (r : BitVec 6) : ∀ k, s.srcs r k < 2 ^ (32 * k) := by
  have h : ∀ k n, s.grp.view.regsNat n k < 2 ^ (32 * k) := by
    intro k
    induction k with
    | zero => intro n; simp [Thread.regsNat]
    | succ k ih =>
      intro n
      have h1 := (s.grp.view.reg n).isLt
      have h2 := ih (n + 1)
      rw [Thread.regsNat, show 32 * (k + 1) = 32 + 32 * k by ring, Nat.pow_add]
      nlinarith
  exact fun k => h k _

theorem toNat_eq_zero_iff (w : Word) : w.toNat = 0 ↔ w = 0#32 := by
  rw [← BitVec.toNat_inj]; rfl

/-- The state in which the thread's entry is gone. -/
def dropped (s : State) : State := { s with ms := { s.ms with latches := s.ms.latches.filter fun l => l.who != .thread ⟨s.tm.ref, s.th.tid⟩ } }

theorem waitEnds_true {s : State} (h : s.det = false) (o : EFmt) :
    waitEnds o s true = withPending (acquiring s s.ms 2) [.pred o.d.toNat true] := by
  simp only [waitEnds, if_true, State.acquire_ordinary h]; rfl

/-- The word in a thread that has an outcome. -/
theorem exec_waitu_outcome {o : EFmt} {s : State} {l : Latch} {b : Bool} (hg : s.active o.g = true) (hl : s.myLatch = some l)
    (hb : l.outcome = some b) : exec (.waitu o) s = .next (waitEnds o (dropped s) b) := by
  refine congrArg Host.Outcome.next ((if_pos hg).trans ?_)
  simp only [hl, hb]; rfl

/-- The word in a thread that has no entry, on a line that can be read. -/
theorem exec_waitu_starts {o : EFmt} {s : State} {e : TlbEnt} (hg : s.active o.g = true) (hl : s.myLatch = none)
    (hr : Reaches s (s.srcPair o.a).toNat (if o.arg.getLsbD 3 then 8 else 4) .load e) (hlost : s.ms.lost (homeOf e (s.srcPair o.a).toNat / 16) = false) :
    exec (.waitu o) s = .next (waitStarts o s (homeOf e (s.srcPair o.a).toNat) e.leaf.toNat) := by
  refine congrArg Host.Outcome.next ((if_pos hg).trans ?_)
  simp only [hl, checkGlobal_of_reaches hr, hlost]
  rfl

/-- The entry of a thread that begins to wait, before its place is chosen. -/
def newLatch (o : EFmt) (s : State) (ha leaf : Nat) : Latch :=
  let d := if (s.src (o.a + 4)).toNat == 0 then s.grp.view.timeout.toNat else (s.src (o.a + 4)).toNat
  { who := .thread s.self, cohort := s.cohort, gang := s.th.gang, slice := homeSlice (leafHome leaf) ha, pa := ha,
    cc := o.arg.toNat / 16, wide := o.arg.getLsbD 3, operand := BitVec.ofNat 64 (s.srcs (o.a + 2) ((if o.arg.getLsbD 3 then 8 else 4) / 4)),
    deadline := if d == 0 then none else some (s.time + d), place := .table, ownView := false, lapsed := false, reread := s.time, outcome := none }

/-- In an ordinary launch the line's value at its home slice decides at once, or the thread blocks behind its entry. -/
theorem waitStarts_near {s : State} (hdet : s.det = false) (o : EFmt) {ha : Nat} (hp : isPod ha = false) (leaf : Nat) :
    waitStarts o s ha leaf =
      if latchCond (o.arg.toNat / 16) (o.arg.getLsbD 3) (homeNat s.ms ha (if o.arg.getLsbD 3 then 8 else 4)) (newLatch o s ha leaf).operand.toNat then
        waitEnds o s true
      else (s.register { newLatch o s ha leaf with place := latchPlace s (newLatch o s ha leaf) }).block .waitu := by
  simp only [waitStarts, podTake_near hp, hdet, Bool.false_and, Bool.false_eq_true, if_false, hp]
  rfl

/-- Settles O37. -/
theorem waituResults : Obligations.WaituResults := by
  intro o s hg hdet
  refine ⟨fun e hl hr hlost => ?_, fun l b hl hb => ?_⟩
  · have hop : (newLatch o s (homeOf e (s.srcPair o.a).toNat) e.leaf.toNat).operand.toNat =
        s.srcs (o.a + 2) ((if o.arg.getLsbD 3 then 8 else 4) / 4) := by
      refine Nat.mod_eq_of_lt ((srcs_lt s (o.a + 2) _).trans_le (Nat.pow_le_pow_right two_pos ?_))
      cases o.arg.getLsbD 3 <;> simp
    have hcc : o.arg.toNat / 16 < 8 := by have := o.arg.isLt; omega
    rw [exec_waitu_starts hg hl hr hlost, waitStarts_near hdet o hr.near, latchCond_eq_table hcc, hop]
    refine ⟨fun h => ?_, fun h => ?_⟩
    · rw [if_pos h, waitEnds_true hdet]
    · rw [if_neg (by rw [h]; exact Bool.false_ne_true)]
      refine ⟨_, _, rfl, rfl, rfl, rfl, rfl, rfl, hop, ?_⟩
      simp [newLatch, toNat_eq_zero_iff]
  · rw [exec_waitu_outcome hg hl hb]
    refine ⟨?_, ?_, ?_⟩
    · rintro rfl
      exact congrArg Host.Outcome.next (waitEnds_true (s := dropped s) hdet o)
    · rintro rfl h
      exact congrArg Host.Outcome.next ((if_neg Bool.false_ne_true).trans (if_neg (by rw [h]; exact Bool.false_ne_true)))
    · rintro rfl h
      exact congrArg Host.Outcome.next ((if_neg Bool.false_ne_true).trans (if_pos h))

end Sys2Proof.Proofs
end

section
/-! PROOFS. Phasers (R228 to R231). -/

namespace Sys2Proof.Proofs

open Sys2Proof.Machine Sys2Proof.Spec

/-- The comparison of counts modulo 2^32 (R229). -/
theorem countGt_iff (x y : Word) : countGt x y = true ↔ after x y := by
  simp only [countGt, Bool.and_eq_true, decide_eq_true_eq, after]
  constructor
  · intro h
    exact ⟨(x - y).toNat, h.1, h.2, by rw [BitVec.ofNat_toNat, BitVec.setWidth_eq, BitVec.add_comm, BitVec.sub_add_cancel]⟩
  · rintro ⟨k, h1, h2, rfl⟩
    have hk : (y + BitVec.ofNat 32 k - y).toNat = k := by
      rw [BitVec.add_comm, BitVec.add_sub_cancel, BitVec.toNat_ofNat, Nat.mod_eq_of_lt (by omega)]
    rw [hk]; exact ⟨h1, h2⟩

theorem countGt_false_iff (x y : Word) : countGt x y = false ↔ ¬ after x y := by
  rw [← countGt_iff, Bool.not_eq_true]

/-! ### Counts and phases -/

/-- A count that the thread sees as the phaser holds it (log entry 60). -/
def Plain (s : State) (k : PhKind) : Prop := s.det = false ∨ k ≠ .cluster

theorem not_rerun_of_plain {s : State} {k : PhKind} (h : Plain s k) : (s.det && k == .cluster) = false := by
  rcases h with h | h
  · simp [h]
  · simp [h]

theorem phPc_of_plain {s : State} {k : PhKind} (h : Plain s k) (i : Nat) : s.phPc k i = s.phHeld k i := by
  simp [State.phPc, not_rerun_of_plain h]

theorem groupHere_of_plain {s : State} {k : PhKind} (h : Plain s k) : s.groupHere k = true := by
  simp only [State.groupHere, not_rerun_of_plain h, Bool.not_false, Bool.true_or]

/-- The signallers of a phaser that have not exited. -/
def signallers (s : State) (k : PhKind) (slot : Nat) : List Thread := (s.phParts k).filter fun t => (t.phRec slot).sig

/-- Every signaller has arrived in the phase after a count. -/
def AllArrived (s : State) (k : PhKind) (slot : Nat) (pc : Word) : Prop :=
  signallers s k slot ≠ [] ∧ ∀ t ∈ signallers s k slot, after (t.phRec slot).arr pc

/-- No waiter is as far behind a count as a comparison reaches. -/
def NoneLags (s : State) (k : PhKind) (slot : Nat) (pc : Word) : Prop :=
  ∀ t ∈ s.phParts k, (t.phRec slot).wait = true → pc - (t.phRec slot).wai ≠ BitVec.ofNat 32 (2 ^ 31 - 1)

section
variable {s : State} {k : PhKind} {i : Nat}

theorem allArrived_iff (pc : Word) : AllArrived s k (phSlot k i) pc ↔
    (!(signallers s k (phSlot k i)).isEmpty && (signallers s k (phSlot k i)).all fun t => countGt (t.phRec (phSlot k i)).arr pc) = true := by
  simp [AllArrived, countGt_iff]

/-- A phase that lacks a signaller goes on. -/
theorem phSettle_unmet (hp : Plain s k) (h : ¬ AllArrived s k (phSlot k i) (s.phHeld k i)) : s.phSettle k i = s := by
  rw [allArrived_iff] at h
  simp only [State.phSettle, groupHere_of_plain hp, Bool.and_true]
  exact if_neg h

/-- A phase in which every signaller has arrived completes. -/
theorem phSettle_met (hp : Plain s k) (h : AllArrived s k (phSlot k i) (s.phHeld k i))
    (hlag : NoneLags (s.setPhPc k i (s.phHeld k i + 1)) k (phSlot k i) (s.phHeld k i + 1)) :
    s.phSettle k i = s.setPhPc k i (s.phHeld k i + 1) := by
  rw [allArrived_iff] at h
  have hadv : s.phAdvance k i = s.setPhPc k i (s.phHeld k i + 1) := by
    refine if_neg ?_
    rw [List.any_eq_true]
    rintro ⟨t, ht, hw⟩
    simp only [Bool.and_eq_true, beq_iff_eq] at hw
    exact hlag t ht hw.1 hw.2
  simp only [State.phSettle, groupHere_of_plain hp, Bool.and_true]
  exact (if_pos h).trans hadv

end

/-! ### Words -/

section
variable {o : EFmt} {s : State} {k : PhKind} {i : Nat}

theorem phWord_phased (h : Phased o s k i) (f : PhKind → Nat → State → State) : phWord o s f = f k i s := by
  have hi : phIndex o.arg = i := h.index
  simp [phWord, h.active, h.home, h.kind, hi, h.declared]

theorem phWord_migrated (hg : s.active o.g = true) (hm : s.th.migrated = true) (f : PhKind → Nat → State → State) :
    phWord o s f = s.raise cMigrated 0 := by
  simp [phWord, hg, hm]

theorem phWord_range (hg : s.active o.g = true) (hm : s.th.migrated = false) (hr : s.phOk (phKindOf o.arg) (o.arg.toNat % 32) = false)
    (f : PhKind → Nat → State → State) : phWord o s f = s.raise cPhRange 0 := by
  have hr : s.phOk (phKindOf o.arg) (phIndex o.arg) = false := hr
  simp [phWord, hg, hm, hr]

/-- The words of major 0x32, sub-operations 0 to 4, make one set of checks. -/
theorem exec_phaser_word (o : EFmt) (s : State) {w : Instr} (hw : w ∈ [Instr.phreg o, .pharr o, .phwait o, .phaw o, .phq o]) :
    ∃ f, exec w s = .next (phWord o s f) := by
  simp only [List.mem_cons, List.not_mem_nil, or_false] at hw
  rcases hw with rfl | rfl | rfl | rfl | rfl
  all_goals exact ⟨_, rfl⟩

end

/-- An arrival, the phase of which may complete. -/
theorem arrive_eq (s : State) (k : PhKind) (i : Nat) : s.arrive k i = (arrived s k (phSlot k i)).phSettle k i := by
  simp only [State.arrive, State.release, arrived]
  cases s.det <;> rfl

/-- What a completed wait leaves, with the acquire of the phaser's scope. -/
def waitedState (s : State) (k : PhKind) (slot : Nat) : State :=
  let u := { s with th := { withRecord s.th slot { s.th.phRec slot with wai := (s.th.phRec slot).wai + 1 } with conv := none } }
  if u.det then u else acquiring u u.ms (phScope k)

theorem phWai_done {s : State} {k : PhKind} {i : Nat} (h : after (s.phPc k i) (s.th.phRec (phSlot k i)).wai) :
    s.phWai k i = waitedState s k (phSlot k i) := by
  rw [State.phWai]
  exact (if_pos ((countGt_iff ..).mpr h)).trans rfl

theorem phWai_blocks {s : State} {k : PhKind} {i : Nat} (h : ¬ after (s.phPc k i) (s.th.phRec (phSlot k i)).wai) :
    s.phWai k i = s.block (.phaser (phSlot k i) false) := by
  rw [State.phWai]
  exact if_neg (mt (countGt_iff ..).mp h)

theorem th_setPhPc (s : State) (k : PhKind) (i : Nat) (v : Word) : (s.setPhPc k i v).th = s.th := by
  cases k <;> rfl

theorem plain_setPhPc {s : State} {k : PhKind} (h : Plain s k) (i : Nat) (v : Word) : Plain (s.setPhPc k i v) k := by
  cases k <;> exact h

/-- The second half of PHAW, once the thread has arrived: it goes on. -/
theorem phWai_arrived {s : State} {k : PhKind} {i : Nat} (hp : Plain s k) (h : after (s.phHeld k i) (s.th.phRec (phSlot k i)).wai) :
    (s.mapTh fun t => { t with conv := some [] }).phWai k i = waitedState s k (phSlot k i) := by
  refine (phWai_done ?_).trans rfl
  have hq : Plain (s.mapTh fun t => { t with conv := some [] }) k := hp
  rw [phPc_of_plain hq]
  exact h

/-- The second half of PHAW, once the thread has arrived: it waits, the arrival done. -/
theorem phWai_waits {s : State} {k : PhKind} {i : Nat} (hp : Plain s k) (h : ¬ after (s.phHeld k i) (s.th.phRec (phSlot k i)).wai) :
    ((s.mapTh fun t => { t with conv := some [] }).phWai k i).th.status = .blocked (.phaser (phSlot k i) false) ∧
    ((s.mapTh fun t => { t with conv := some [] }).phWai k i).th.conv = some [] ∧
    ((s.mapTh fun t => { t with conv := some [] }).phWai k i).th.ph = s.th.ph ∧
    ((s.mapTh fun t => { t with conv := some [] }).phWai k i).ms = s.ms := by
  have hq : Plain (s.mapTh fun t => { t with conv := some [] }) k := hp
  rw [phWai_blocks (by rw [phPc_of_plain hq]; exact h)]
  exact ⟨rfl, rfl, rfl, rfl⟩

theorem det_overTeams (s : State) {f : Team → Team} (hf : ∀ t, (f t).decl = t.decl) : (s.overTeams f).det = s.det :=
  congrArg (fun d : Decl => d.det != 0) (hf s.syncTm)

theorem det_setPhPc (s : State) (k : PhKind) (i : Nat) (v : Word) : (s.setPhPc k i v).det = s.det := by
  cases k <;> rfl

theorem det_phAdvance (s : State) (k : PhKind) (i : Nat) : (s.phAdvance k i).det = s.det := by
  rw [State.phAdvance]
  split
  · refine (det_overTeams _ fun t => ?_).trans (det_setPhPc ..)
    split
    · rfl
    · rfl
  · exact det_setPhPc ..

theorem det_phSettle (s : State) (k : PhKind) (i : Nat) : (s.phSettle k i).det = s.det := by
  rw [State.phSettle]
  split
  · exact det_phAdvance s k i
  · rfl

theorem plain_arrive {s : State} {k : PhKind} (h : Plain s k) (i : Nat) : Plain (s.arrive k i) k := by
  rw [arrive_eq]
  exact h.imp_left fun hd => (det_phSettle ..).trans hd

/-! ### The five words on a phaser that passes the checks -/

/-- PHARR once the thread may arrive. -/
theorem phArr_arrives {s : State} {k : PhKind} {i : Nat} (h : ¬ after (s.th.phRec (phSlot k i)).arr (s.phPc k i)) (f : State → State) :
    s.phArr k i f = f (s.arrive k i) := by
  rw [State.phArr]
  exact if_neg (mt (countGt_iff ..).mp h)

/-- A thread that is too far ahead waits to arrive. -/
theorem phArr_blocks {s : State} {k : PhKind} {i : Nat} (h : after (s.th.phRec (phSlot k i)).arr (s.phPc k i)) (f : State → State) :
    s.phArr k i f = s.block (.phaser (phSlot k i) true) := by
  rw [State.phArr]
  exact if_pos ((countGt_iff ..).mpr h)

/-- An arrival leaves the waiter's count. -/
theorem wai_arrived (s : State) (k : PhKind) (slot : Nat) : ((arrived s k slot).th.phRec slot).wai = (s.th.phRec slot).wai := by
  simp only [arrived, withRecord, Thread.phRec, PhRec.none, List.getD_eq_getElem?_getD, List.getElem?_set]
  by_cases h : slot < s.th.ph.length
  · simp [h]
  · simp [h]

section
variable {o : EFmt} {s : State} {k : PhKind} {i : Nat} (h : Phased o s k i)
include h

theorem exec_phq : exec (.phq o) s = .next (withPending s (long1 o.d (s.phPc k i))) := by
  refine congrArg Host.Outcome.next ((phWord_phased h _).trans ?_)
  rw [pendTo_eq]
  simp [long1, longN]

theorem exec_pharr : exec (.pharr o) s =
    .next (if (s.th.phRec (phSlot k i)).sig then s.phArr k i id else s.raise cPhRole 0) := by
  refine congrArg Host.Outcome.next ((phWord_phased h _).trans ?_)
  cases (s.th.phRec (phSlot k i)).sig <;> rfl

theorem exec_phwait : exec (.phwait o) s =
    .next (if (s.th.phRec (phSlot k i)).wait then s.phWai k i else s.raise cPhRole 0) := by
  refine congrArg Host.Outcome.next ((phWord_phased h _).trans ?_)
  cases (s.th.phRec (phSlot k i)).wait <;> rfl

/-- PHAW whose arrival is done. -/
theorem exec_phaw_again (hc : s.th.conv ≠ none) : exec (.phaw o) s = .next (s.phWai k i) :=
  congrArg Host.Outcome.next ((phWord_phased h _).trans (if_pos (Option.isSome_iff_ne_none.mpr hc)))

theorem exec_phaw_first (hc : s.th.conv = none) : exec (.phaw o) s =
    .next (if (s.th.phRec (phSlot k i)).sig && (s.th.phRec (phSlot k i)).wait then
      s.phArr k i fun s => (s.mapTh fun t => { t with conv := some [] }).phWai k i else s.raise cPhRole 0) := by
  refine congrArg Host.Outcome.next ((phWord_phased h _).trans ?_)
  simp only [hc]
  cases ((s.th.phRec (phSlot k i)).sig && (s.th.phRec (phSlot k i)).wait) <;> rfl

end

section
variable {o : EFmt} {s : State} {k : PhKind} {i : Nat} (h : Phased o s k i)
include h

/-- PHAW that makes its arrival. -/
theorem exec_phaw_arrives (hc : s.th.conv = none) (hs : (s.th.phRec (phSlot k i)).sig = true)
    (hw : (s.th.phRec (phSlot k i)).wait = true) (ha : ¬ after (s.th.phRec (phSlot k i)).arr (s.phPc k i)) :
    exec (.phaw o) s = .next (((s.arrive k i).mapTh fun t => { t with conv := some [] }).phWai k i) :=
  (exec_phaw_first h hc).trans
    (congrArg Host.Outcome.next ((if_pos (Bool.and_eq_true_iff.mpr ⟨hs, hw⟩)).trans (phArr_arrives ha _)))

end

/-- PHREG's record (R231). -/
def registered (o : EFmt) (pc : Word) (r : PhRec) : PhRec :=
  ⟨o.d.getLsbD 0, o.d.getLsbD 1, if o.d.getLsbD 0 && !r.sig then pc + 1 else r.arr, if o.d.getLsbD 1 && !r.wait then pc + 1 else r.wai⟩

theorem registered_eq (o : EFmt) (pc : Word) (r : PhRec) : registered o pc r =
    ⟨o.d.getLsbD 0, o.d.getLsbD 1, if o.d.getLsbD 0 = true ∧ r.sig = false then pc + 1 else r.arr,
      if o.d.getLsbD 1 = true ∧ r.wait = false then pc + 1 else r.wai⟩ := by
  simp [registered]

theorem wai_registered (o : EFmt) (pc : Word) (r : PhRec) :
    (registered o pc r).wai = if o.d.getLsbD 1 = true ∧ r.wait = false then pc + 1 else r.wai := by
  rw [registered_eq]

theorem registered_dropped {o : EFmt} (hd : o.d.getLsbD 0 = false) (pc : Word) (r : PhRec) :
    registered o pc r = ⟨false, o.d.getLsbD 1, r.arr, (registered o pc r).wai⟩ := by
  simp only [registered, hd, Bool.false_and, Bool.false_eq_true, if_false]

/-- PHREG's roles, once the arrival has been made or is not due. -/
def register (o : EFmt) (s : State) (k : PhKind) (i : Nat) : State :=
  withThread s (withRecord s.th (phSlot k i) (registered o (s.phPc k i) (s.th.phRec (phSlot k i))))

section
variable {o : EFmt} {s : State} {k : PhKind} {i : Nat} (h : Phased o s k i)
include h

/-- A PHREG that drops the signaller role first arrives, where the thread may. -/
theorem exec_phreg_drops (hs : (s.th.phRec (phSlot k i)).sig = true) (hd : o.d.getLsbD 0 = false)
    (ha : ¬ after (s.th.phRec (phSlot k i)).arr (s.phPc k i)) :
    exec (.phreg o) s = .next ((register o (s.arrive k i) k i).phSettle k i) := by
  refine congrArg Host.Outcome.next ((phWord_phased h _).trans ?_)
  have hc := (countGt_false_iff ..).mpr ha
  simp only [hs, hd, hc, Bool.not_false, Bool.and_self, if_true, bne, Bool.false_beq, Bool.not_true, register, registered,
    Bool.false_and]
  rfl

/-- Any other PHREG makes no arrival, and makes the completion check where the signaller role changes. -/
theorem exec_phreg_keeps (ha : (s.th.phRec (phSlot k i)).sig = true → o.d.getLsbD 0 = false →
      after (s.th.phRec (phSlot k i)).arr (s.phPc k i)) :
    exec (.phreg o) s = .next (if o.d.getLsbD 0 = (s.th.phRec (phSlot k i)).sig then register o s k i
      else (register o s k i).phSettle k i) := by
  refine congrArg Host.Outcome.next ((phWord_phased h _).trans ?_)
  have hc : ((s.th.phRec (phSlot k i)).sig && !o.d.getLsbD 0 && !countGt (s.th.phRec (phSlot k i)).arr (s.phPc k i)) = false := by
    cases hs : (s.th.phRec (phSlot k i)).sig <;> cases hd : o.d.getLsbD 0
    all_goals simp
    exact (countGt_iff ..).mpr (ha hs hd)
  simp only [hc, Bool.false_eq_true, if_false, bne_iff_ne, ne_eq, ite_not]
  rfl

end

/-- Settles O36. -/
theorem phaserResults : Obligations.PhaserResults := by
  unfold Obligations.PhaserResults
  refine ⟨countGt_iff, fun o s hg w hw => ?_, fun o s k i h => ?_⟩
  · obtain ⟨f, hf⟩ := exec_phaser_word o s hw
    exact ⟨fun hm => hf.trans (congrArg Host.Outcome.next (phWord_migrated hg hm f)),
      fun hm hr => hf.trans (congrArg Host.Outcome.next (phWord_range hg hm hr f))⟩
  intro slot r pc a sigs met next near waited
  have hp : Plain s k := h.plain
  have hpc : pc = s.phHeld k i := phPc_of_plain hp i
  have unmet : ∀ x : State, Plain x k → x.phHeld k i = s.phHeld k i → ¬ met x → x.phSettle k i = x := fun x hx he hm =>
    phSettle_unmet hx (by rw [he, ← hpc]; exact hm)
  have complete : ∀ x : State, Plain x k → x.phHeld k i = s.phHeld k i → met x → near x → x.phSettle k i = next x := fun x hx he hm hn => by
    have hxe : x.phHeld k i = pc := he.trans hpc.symm
    rw [phSettle_met hx (by rw [hxe]; exact hm) (by rw [hxe]; exact hn), hxe]
  have arr_unmet : ¬ met a → s.arrive k i = a := fun hm => (arrive_eq s k i).trans (unmet a hp rfl hm)
  have arr_met : met a → near a → s.arrive k i = next a := fun hm hn => (arrive_eq s k i).trans (complete a hp rfl hm hn)
  refine ⟨exec_phq h, fun hr => ?_, fun hr => ?_, fun hc hr => ?_, fun hs ha w hw => ?_, fun hs ha hm => ?_, fun hs ha hm hn => ?_,
    fun hw ha => ?_, fun hw ha => ?_, fun hc ha => ?_, fun hc hs hw ha => ⟨fun hm hw' => ?_, fun hm hn he hw' => ?_, fun hm hw' => ?_⟩,
    fun hs hd ha t ht => ?_, fun ha => ?_⟩
  · exact (exec_pharr h).trans (congrArg Host.Outcome.next (if_neg (Bool.eq_false_iff.mp hr)))
  · exact (exec_phwait h).trans (congrArg Host.Outcome.next (if_neg (Bool.eq_false_iff.mp hr)))
  · exact (exec_phaw_first h hc).trans (congrArg Host.Outcome.next (if_neg (Bool.eq_false_iff.mp hr)))
  · refine ⟨s.block (.phaser slot true), ?_, rfl, rfl⟩
    rcases List.mem_append.mp hw with hw | hw
    · rw [List.mem_singleton.mp hw]
      exact (exec_pharr h).trans (congrArg Host.Outcome.next ((if_pos hs).trans (phArr_blocks ha id)))
    · split at hw
      · next hc =>
        rw [List.mem_singleton.mp hw]
        exact (exec_phaw_first h hc.2).trans
          (congrArg Host.Outcome.next ((if_pos (Bool.and_eq_true_iff.mpr ⟨hs, hc.1⟩)).trans (phArr_blocks ha _)))
      · cases hw
  · exact (exec_pharr h).trans (congrArg Host.Outcome.next ((if_pos hs).trans ((phArr_arrives ha id).trans (arr_unmet hm))))
  · exact (exec_pharr h).trans (congrArg Host.Outcome.next ((if_pos hs).trans ((phArr_arrives ha id).trans (arr_met hm hn))))
  · exact (exec_phwait h).trans (congrArg Host.Outcome.next ((if_pos hw).trans (phWai_done ha)))
  · exact ⟨_, (exec_phwait h).trans (congrArg Host.Outcome.next ((if_pos hw).trans (phWai_blocks ha))), rfl, rfl⟩
  · exact (exec_phaw_again h hc).trans (congrArg Host.Outcome.next (phWai_done ha))
  · refine (exec_phaw_arrives h hc hs hw ha).trans (congrArg Host.Outcome.next ?_)
    rw [arr_unmet hm]
    exact phWai_arrived hp (hpc ▸ (wai_arrived s k slot).symm ▸ hw')
  · refine (exec_phaw_arrives h hc hs hw ha).trans (congrArg Host.Outcome.next ?_)
    have hpn : Plain (next a) k := plain_setPhPc (s := a) hp i (pc + 1)
    have hth : (next a).th = a.th := th_setPhPc a k i (pc + 1)
    rw [arr_met hm hn]
    refine phWai_arrived hpn ?_
    rw [← phPc_of_plain hpn, he, hth]
    exact (wai_arrived s k slot).symm ▸ hw'
  · have hwait : ¬ after (a.phHeld k i) (a.th.phRec slot).wai := hpc ▸ (wai_arrived s k slot).symm ▸ hw'
    refine ⟨_, (exec_phaw_arrives h hc hs hw ha).trans (congrArg Host.Outcome.next ?_), phWai_waits hp hwait⟩
    rw [arr_unmet hm]
  · obtain rfl : s.arrive k i = t :=
      Host.Outcome.next.inj (((exec_pharr h).trans (congrArg Host.Outcome.next ((if_pos hs).trans (phArr_arrives ha id)))).symm.trans ht)
    intro q
    refine ⟨(registered o ((s.arrive k i).phPc k i) q).wai, ?_, ?_⟩
    · rw [wai_registered]
      split
      · exact Or.inr rfl
      · rfl
    intro b hb
    have hreg : register o (s.arrive k i) k i = b :=
      congrArg (fun r => withThread (s.arrive k i) (withRecord (s.arrive k i).th slot r)) (registered_dropped hd _ q)
    refine (exec_phreg_drops h hs hd ha).trans (congrArg Host.Outcome.next ?_)
    rw [hreg]
    have hpb : Plain b k := plain_arrive hp i
    refine phSettle_unmet hpb fun hall => ?_
    have hpt : b.phHeld k i = (s.arrive k i).phPc k i := (phPc_of_plain (plain_arrive hp i) i).symm
    rw [hpt] at hall
    rcases hb with hb | ⟨u, hu, hnot⟩
    · exact hall.1 hb
    · exact hnot (hall.2 u hu)
  · intro b
    have hreg : register o s k i = b :=
      congrArg (fun r => withThread s (withRecord s.th slot r)) (registered_eq o pc r)
    have hexec := exec_phreg_keeps h ha
    rw [hreg] at hexec
    have hpb : Plain b k := hp
    refine ⟨fun hor => hexec.trans (congrArg Host.Outcome.next ?_),
      fun hne hm hn => hexec.trans (congrArg Host.Outcome.next ((if_neg hne).trans (complete b hpb rfl hm hn)))⟩
    split
    · rfl
    · next hne => exact unmet b hpb rfl (hor.resolve_left hne)

end Sys2Proof.Proofs
end

section
/-! PROOFS. The delivery of traps (R435 to R444). -/

namespace Sys2Proof.Proofs

open Sys2Proof.Machine Sys2Proof.Spec

/-- A wait that is over leaves what a fetch depends on. -/
theorem enterable_unwaited {s : State} {w : Accessor} {a : Nat} {entry : Bool} (h : Enterable s w a entry) :
    Enterable s.unwaited w a entry := h

theorem causeWord_eq (s : State) (cause code : Nat) : causeWord cause code s.slot s.grp.words.length = causeOf s cause code := by
  simp only [causeWord, causeOf, State.slot, State.wordPc]
  norm_num

theorem userCause_of_mem {c : Nat} (h : c ∈ userCauses) : userCause c = true := by
  revert c; decide

theorem not_userCause_of_mem {c : Nat} (h : c ∈ supervisorCauses) : userCause c = false := by
  revert c; decide

/-- A thread with its results written that enters a handler in a gang of its own. -/
theorem atHandler_entered {s : State} {t : Thread} {h : DWord} (hregs : t.regs = (written s.th).regs) (hpreds : t.preds = (written s.th).preds)
    (hfps : t.fps = (written s.th).fps) (hpend : t.pending = []) : AtHandler s (entered s.unwaited t h.toNat).newGang h := by
  have hgang : s.tm.gangs ≤ (entered s.unwaited t h.toNat).tm.gangs := by
    simp only [entered]
    split
    · exact Nat.le_refl _
    · exact Nat.le_succ _
  have hw : written t = t := by
    rw [written, hpend]; cases t; cases hpend; rfl
  refine ⟨(BitVec.ofNat_toNat ..).trans (BitVec.setWidth_eq h), rfl, rfl, ?_, ?_, ?_, rfl, rfl, Nat.lt_succ_of_le hgang, rfl, rfl, rfl, rfl, rfl, rfl, rfl, rfl,
    rfl, rfl, rfl, rfl⟩
  · exact (congrArg Thread.regs hw).trans hregs
  · exact (congrArg Thread.preds hw).trans hpreds
  · exact (congrArg Thread.fps hw).trans hfps

/-- The thread that user delivery takes to TRAPV, as it enters. -/
def userThread (s : State) (cw : Word) (addr : Nat) : Thread :=
  { written s.th with trapc := cw, trapa := BitVec.ofNat 64 addr, trappc := s.th.pc }

/-- User delivery to a TRAPV that is an entry (R439). -/
theorem toUser_enters {s : State} (h : Enterable s s.accessor s.tm.trapv.toNat true) (cw : Word) (addr : Nat) :
    s.toUser cw addr = ((entered s (userThread s cw addr) s.tm.trapv.toNat).newGang).mapTh fun t =>
      { t with entering := s.tm.st == .shuttered } := by
  rw [State.toUser, checkTarget_of_enterable rfl h]
  simp only [if_true, drain_eq_written, enter_eq_entered]
  rfl

/-- The thread that supervisor delivery takes to SVEC, as it enters. -/
def supervisorThread (s : State) (cw : Word) (addr : Nat) : Thread :=
  { written s.th with
    scause := cw, saddr := BitVec.ofNat 64 addr, spc := s.th.pc
    sgrp := [s.grp.words.getD 0 0, s.grp.words.getD 1 0, s.grp.words.getD 2 0], sup := true, tl := true }

/-- Supervisor delivery to an SVEC that is an entry (R443). -/
theorem toSupervisor_enters {s : State} (h : Enterable s { s.accessor with sup := true } (s.ctxOf s.tm.ref.ctx).svec.toNat true)
    (cw : Word) (addr : Nat) :
    s.toSupervisor cw addr = (entered s (supervisorThread s cw addr) (s.ctxOf s.tm.ref.ctx).svec.toNat).newGang := by
  rw [State.toSupervisor, checkTarget_of_enterable rfl h]
  simp only [if_true, drain_eq_written, enter_eq_entered]
  rfl

/-- A cause that is raised goes to the user handler. -/
theorem raiseCode_user {s : State} {cause : Nat} (hc : cause ∈ userCauses) (htl : s.th.tl = false) (hv : s.tm.trapv ≠ 0#64)
    (h : Enterable s s.accessor s.tm.trapv.toNat true) (addr code : Nat) :
    s.deliver cause addr code s.slot s.grp.words.length =
      ((entered s.unwaited (userThread s (causeOf s cause code) addr) s.tm.trapv.toNat).newGang).mapTh fun t =>
        { t with entering := s.tm.st == .shuttered } := by
  rw [State.deliver_user htl (userCause_of_mem hc) hv, causeWord_eq]
  exact toUser_enters (s := s.unwaited) h _ _

/-- A cause that is raised goes to the supervisor handler. -/
theorem raiseCode_supervisor {s : State} {cause : Nat} (hc : cause ∈ supervisorCauses ∨ (cause ∈ userCauses ∧ s.tm.trapv = 0#64))
    (htl : s.th.tl = false) (h : Enterable s { s.accessor with sup := true } (s.ctxOf s.tm.ref.ctx).svec.toNat true) (addr code : Nat) :
    s.deliver cause addr code s.slot s.grp.words.length =
      (entered s.unwaited (supervisorThread s (causeOf s cause code) addr) (s.ctxOf s.tm.ref.ctx).svec.toNat).newGang := by
  rw [State.deliver_supervisor htl (hc.imp not_userCause_of_mem And.right), causeWord_eq]
  exact toSupervisor_enters (s := s.unwaited) h _ _

/-- Settles O38. -/
theorem userTrapDelivery : Obligations.UserTrapDelivery := by
  intro s cause addr code hc htl hv hstop h t
  have ht : t = { s.deliver cause addr code s.slot s.grp.words.length with
      grp := { s.grp with stop := some (s.grp.stop.getD (.trap cause addr code)) } } := by
    simp only [t, State.raiseCode, raiseCode_user hc htl hv h]
    rfl
  rw [ht, raiseCode_user hc htl hv h, hstop]
  exact ⟨atHandler_entered (t := userThread s (causeOf s cause code) addr) rfl rfl rfl rfl, rfl, rfl, rfl, rfl, htl, rfl, rfl, rfl, rfl, rfl⟩

/-- What a kill makes of a context (R444). -/
def killed (c : Ctx) (cause inner : Nat) : Ctx := { c with st := .killing, killn := cause + 256 * inner }

/-- A kill of a resident context marks it. -/
theorem ctx?_killContext {s : State} {id : Nat} {c : Ctx} (hc : s.ctx? id = some c) (hst : c.st = .resident) (cause inner : Nat) :
    (s.killContext id cause inner).ctx? id = some (killed c cause inner) := by
  have hid : c.id = id := by simpa using List.find?_some hc
  have hkill : (s.killContext id cause inner).ctxs = (s.ctxs.map fun x => if x.id == c.id then killed c cause inner else x) := by
    simp only [State.killContext, hc, hst]
    rfl
  rw [State.ctx?, hkill, List.find?_map]
  have hpred : ((fun c : Ctx => c.id == id) ∘ fun x => if x.id == c.id then killed c cause inner else x) = fun c => c.id == id := by
    funext x
    by_cases hx : x.id = c.id
    · simp [hx, killed]
    · simp [hx]
  rw [hpred, show s.ctxs.find? (fun c => c.id == id) = some c from hc]
  simp

/-- A kill leaves the thread in the focus. -/
theorem th_killContext (s : State) (id cause inner : Nat) : (s.killContext id cause inner).th = s.th := by
  rw [State.killContext]
  split
  · rfl
  · split
    · rfl
    · rfl
    · rfl

/-- Settles O39. -/
theorem supervisorTrapDelivery : Obligations.SupervisorTrapDelivery := by
  intro s cause addr code svec t
  refine ⟨fun hc htl h => ?_, fun _ htl c hctx hst => ?_⟩
  · have ht : t = { s.deliver cause addr code s.slot s.grp.words.length with grp := t.grp } := rfl
    rw [ht, raiseCode_supervisor hc htl h]
    exact ⟨atHandler_entered (t := supervisorThread s (causeOf s cause code) addr) rfl rfl rfl rfl, rfl, rfl, rfl, rfl, rfl, rfl, rfl,
      rfl, rfl⟩
  · have ht : t = { s.unwaited.killContext s.tm.ref.ctx 0x41 cause with grp := t.grp } := by
      rw [← State.deliver_kill htl cause addr code s.slot s.grp.words.length]
      rfl
    rw [ht]
    exact ⟨_, ctx?_killContext (s := s.unwaited) hctx hst 0x41 cause, rfl, rfl, congrArg Thread.regs (th_killContext ..)⟩

end Sys2Proof.Proofs
end

section
/-! PROOFS. The SYS words (R366 to R375). -/

namespace Sys2Proof.Proofs

open Sys2Proof.Machine Sys2Proof.Spec

/-- TRAP, BRK and SYSC raise a cause each. -/
theorem softTrap_active {o : EFmt} {s : State} (h : s.active o.g = true) (cause : Nat) :
    softTrap cause o s = s.raiseCode cause 0 o.arg.toNat := if_pos h

theorem privileged_sup {s : State} (h : s.th.sup = true) (k : State → State) : privileged s k = k s := if_pos h

theorem privileged_user {s : State} (h : s.th.sup = false) (k : State → State) : privileged s k = s.raise cPrivileged 0 :=
  if_neg (by simp [h])

/-- The words that only the supervisor level has are performed as `privileged`. -/
theorem exec_privileged (o : EFmt) (s : State) {w : Instr} (hw : w ∈ [Instr.eret o, .rdpr o, .wrpr o, .ctxfl o, .halt o]) :
    ∃ k, exec w s = .next (privileged s k) := by
  simp only [List.mem_cons, List.not_mem_nil, or_false] at hw
  rcases hw with rfl | rfl | rfl | rfl | rfl
  all_goals exact ⟨_, rfl⟩

/-- Whether SPC names a word (R369). -/
def spcBad (s : State) : Bool := s.th.spc.toNat % 4 != 0 || s.th.spc.toNat % 64 == 60 || !addrOk56 s.th.spc.toNat

theorem spcBad_iff (s : State) : spcBad s = true ↔ s.th.spc.toNat % 4 ≠ 0 ∨ s.th.spc.toNat % 64 = 60 ∨ 2 ^ 56 ≤ s.th.spc.toNat := by
  simp [spcBad, addrOk56, or_assoc]

/-- ERET at supervisor level with an SPC that names a word. -/
theorem eret_returns {s : State} (h : spcBad s = false) : s.eret = { s with
    th := { written s.th with
      sup := false, tl := false, pc := s.th.spc, seg := 1, status := .within, gang := s.tm.gangs, yielded := false, passed := false,
      held := false, woke := none, sent := none, issued := [], copy := none, step := none, conv := none, fin := false,
      entering := false, asked := none, lost := [] }
    tm := { s.tm with gangs := s.tm.gangs + 1 } } := by
  refine (if_neg (Bool.eq_false_iff.mp h)).trans ?_
  rw [drain_eq_written]
  rfl

/-- ERET with an SPC that names none. -/
theorem eret_raises {s : State} (h : spcBad s = true) : s.eret = s.raise cTarget s.th.spc.toNat := if_pos h

theorem fairValue_eq (v : Nat) : fairValue v = if 8 ≤ v % 32 ∧ v % 32 ≤ 16 then v % 32 else 11 := by
  simp [fairValue]

/-- The registers that RDPR reads are those of the table. -/
theorem pr_of_mem (s : State) {r : Nat × Bool × Nat} (hr : r ∈ privilegedRegisters s) :
    s.pr r.1 = r.2.2 ∧ pr64.contains r.1 = r.2.1 := by
  simp only [privilegedRegisters, List.mem_cons, List.not_mem_nil, or_false] at hr
  rcases hr with rfl | rfl | rfl | rfl | rfl | rfl | rfl | rfl | rfl | rfl | rfl | rfl | rfl | rfl | rfl | rfl | rfl | rfl | rfl
  all_goals exact ⟨rfl, rfl⟩

/-- A long result of one register. -/
theorem pendTo_one (s : State) (d : BitVec 6) (v : Nat) : s.pendTo d 1 v = withPending s (long1 d (BitVec.ofNat 32 v)) := rfl

/-- Whether a context is one of those of the partition of the issuing thread's context (R371). -/
def Mine (s : State) (id : Nat) : Prop :=
  let p := s.iod.parts.getD (s.ctxOf s.tm.ref.ctx).part Part.unused
  id < 4096 ∧ p.ctxBase ≤ id ∧ id < p.ctxBase + p.ctxCnt

theorem not_mine_iff (s : State) (id : Nat) :
    (id ≥ 4096 || !ctxInPart s (s.ctxOf s.tm.ref.ctx).part id) = true ↔ ¬ Mine s id := by
  simp [Mine, ctxInPart, nth]
  omega

section
variable {o : EFmt} {s : State} (hsup : s.th.sup = true)
include hsup

/-- CTXFL at supervisor level. -/
theorem exec_ctxfl : exec (.ctxfl o) s = .next
    (let id := (s.src o.a).toNat
     let ts := s.teams.filter fun t => t.ref.ctx == id
     if id ≥ 4096 || !ctxInPart s (s.ctxOf s.tm.ref.ctx).part id then withPending s (long1 o.d 2)
     else if ts.any (fun t => t.st == .running) || id == s.tm.ref.ctx then withPending s (long1 o.d 1)
     else if ts.any (fun t => t.st == .shuttered) then s.block .flush
     else (ts.foldl flushTeam s).pendTo o.d 1 0) := by
  exact congrArg Host.Outcome.next (privileged_sup hsup _)

end

/-- Settles O40. -/
theorem systemWordResults : Obligations.SystemWordResults := by
  intro o s
  refine ⟨fun hg => ⟨?_, ?_, ?_⟩, fun hu w hw => ?_, fun hsup => ⟨fun h4 h60 h56 => ?_, fun h => ?_, fun r hr hn => ?_, fun h => ?_,
    fun k hk hn => ?_, fun h => ?_, fun h => ?_, fun n hn h => ?_, fun c hc hst => ?_, ?_⟩⟩
  · exact congrArg Host.Outcome.next (softTrap_active hg cTrap)
  · exact congrArg Host.Outcome.next (softTrap_active hg cBrk)
  · exact congrArg Host.Outcome.next (softTrap_active hg cSysc)
  · obtain ⟨k, hk⟩ := exec_privileged o s hw
    exact hk.trans (congrArg Host.Outcome.next (privileged_user hu k))
  · have hok : spcBad s = false := Bool.eq_false_iff.mpr (mt (spcBad_iff s).mp (by omega))
    exact congrArg Host.Outcome.next ((privileged_sup hsup _).trans (eret_returns hok))
  · exact congrArg Host.Outcome.next ((privileged_sup hsup _).trans (eret_raises ((spcBad_iff s).mpr h)))
  · obtain ⟨hval, hwide⟩ := pr_of_mem s hr
    refine congrArg Host.Outcome.next ((privileged_sup hsup _).trans ?_)
    rw [hn, hval, hwide, pendTo_eq]
  · refine congrArg Host.Outcome.next ((privileged_sup hsup _).trans ?_)
    rw [h]; rfl
  · refine congrArg Host.Outcome.next ((privileged_sup hsup _).trans ?_)
    rw [hn]
    interval_cases k <;> rfl
  · refine congrArg Host.Outcome.next ((privileged_sup hsup _).trans ?_)
    rw [h]; rfl
  · refine congrArg Host.Outcome.next ((privileged_sup hsup _).trans ?_)
    rw [h, ← fairValue_eq]
    have hval : ((s.src o.a).setWidth 64).toNat = (s.src o.a).toNat := by
      rw [BitVec.toNat_setWidth]
      omega
    exact congrArg (fun v => s.setCtx { s.ctxOf s.tm.ref.ctx with fairk := fairValue v }) hval
  · refine congrArg Host.Outcome.next ((privileged_sup hsup _).trans ?_)
    rw [h]
    simp only [List.mem_cons, List.not_mem_nil, or_false] at hn
    rcases hn with rfl | rfl | rfl | rfl | rfl | rfl | rfl | rfl | rfl | rfl | rfl | rfl
    all_goals rfl
  · exact ⟨_, _, congrArg Host.Outcome.next (privileged_sup hsup _), ctx?_killContext hc hst 0x45 o.arg.toNat, rfl, rfl⟩
  · intro id p mine
    rw [exec_ctxfl hsup]
    have out : (id ≥ 4096 || !ctxInPart s (s.ctxOf s.tm.ref.ctx).part id) = true ↔ ¬ mine := not_mine_iff s id
    refine ⟨fun hm => ?_, fun hm hid => ?_, fun hm hid hno => ?_, fun hm hid hshut hex => ?_⟩
    · exact congrArg Host.Outcome.next (if_pos (out.mpr hm))
    · exact congrArg Host.Outcome.next ((if_neg (mt out.mp (not_not_intro hm))).trans (if_pos (by simp [hid, id])))
    · have hteams : (s.teams.filter fun t => t.ref.ctx == id) = [] := List.filter_eq_nil_iff.mpr (by simpa using hno)
      refine congrArg Host.Outcome.next ((if_neg (mt out.mp (not_not_intro hm))).trans ?_)
      simp [id, hteams, hid, pendTo_one]
    · obtain ⟨t, ht, htid⟩ := hex
      have hnone : ((s.teams.filter fun t => t.ref.ctx == id).any fun t => t.st == .running) = false := by
        simp only [List.any_eq_false, List.mem_filter, beq_iff_eq, and_imp]
        intro u hu hc
        simp [hshut u hu hc]
      have hsome : ((s.teams.filter fun t => t.ref.ctx == id).any fun t => t.st == .shuttered) = true := by
        simp only [List.any_eq_true, List.mem_filter, beq_iff_eq]
        exact ⟨t, ⟨ht, htid⟩, hshut t ht htid⟩
      refine ⟨s.block .flush, congrArg Host.Outcome.next ((if_neg (mt out.mp (not_not_intro hm))).trans ?_), rfl⟩
      simp [id, hnone, hsome, hid]

end Sys2Proof.Proofs
end

section
/-! PROOFS. Accesses of an ordinary launch that pass their checks: the loads and stores of global memory (R247 to R254, R265). -/

namespace Sys2Proof.Proofs

open Sys2Proof.Machine Sys2Proof.Spec

/-! ### Sizes and addresses -/

theorem eaM_eq_eaOf (s : State) (o : MFmt) : s.eaM o = eaOf s o := State.eaM_eq s o

theorem memSize_div (w : BitVec 2) : memSize w / 4 = groupRegs w := Nat.mul_div_cancel_left _ (by decide)

theorem length_toBytes : ∀ n v, (toBytes n v).length = n
  | 0, _ => rfl
  | n + 1, v => congrArg (· + 1) (length_toBytes n (v / 256))

/-! ### Another memory system (R127, R139, R146, R157, R249) -/

/-- The state with another memory system, and nothing else changed. -/
def withMs (s : State) (ms : MemSys) : State := { s with ms := ms }

@[simp] theorem withMs_withMs (s : State) (ms ms' : MemSys) : withMs (withMs s ms) ms' = withMs s ms' := rfl
@[simp] theorem ms_withMs (s : State) (ms : MemSys) : (withMs s ms).ms = ms := rfl
@[simp] theorem det_withMs (s : State) (ms : MemSys) : (withMs s ms).det = s.det := rfl
@[simp] theorem th_withMs (s : State) (ms : MemSys) : (withMs s ms).th = s.th := rfl

section
variable {s : State}

theorem gload_withMs (h : s.det = false) (ms : MemSys) (leaf ha n : Nat) (al : Alloc) : (withMs s ms).gload leaf ha n al =
    some ((readMem ms s.th.bay (max al (leafAlloc leaf)) ha n).1, withMs s (readMem ms s.th.bay (max al (leafAlloc leaf)) ha n).2) :=
  State.gload_ordinary (s := withMs s ms) h leaf ha n al

theorem gstore_withMs (h : s.det = false) (hl : s.th.lost = []) (ms : MemSys) (leaf ha : Nat) (bs : List Byte) (al : Alloc) :
    (withMs s ms).gstore leaf ha bs al = some (withMs s (writeMem ms s.th.bay (max al (leafAlloc leaf)) ha bs)) :=
  State.gstore_ordinary (s := withMs s ms) h hl leaf ha bs al

theorem acquire_withMs (h : s.det = false) (ms : MemSys) (sc : Nat) : (withMs s ms).acquire sc = acquiring s ms sc :=
  State.acquire_ordinary (s := withMs s ms) h sc

/-- What an ordered access leaves in the caches. -/
theorem allocate_withMs (h : s.det = false) (ms : MemSys) (e : TlbEnt) (ha n : Nat) :
    (withMs s ms).allocate e.leaf.toNat ha n = withMs s (allocated s e ha n ms) := by
  simp only [State.allocate, det_withMs, h, Bool.false_or, decide_eq_true_eq, allocated, ge_iff_le]
  split
  · rfl
  · rfl

/-- The record of a release in the promotion filter. -/
theorem record_eq (h : s.det = false) (e : TlbEnt) (ha : Nat) (rel : Bool) :
    (if (rel || s.th.relFence != 0) = true then s.recordRelease e.leaf.toNat ha else s) = withMs s (recorded s e ha rel) := by
  simp only [recorded, Bool.or_eq_true, bne_iff_ne]
  split
  · exact if_neg (by simp [h])
  · rfl

theorem podSendDirty_clean {ms : MemSys} (h : ∀ p ∈ ms.pod, p.dirty = false) (who : Option ThreadRef) : podSendDirty ms who = ms := by
  have hnone : ms.pod.filter (·.dirty) = [] := List.filter_eq_nil_iff.mpr fun p hp => by simp [h p hp]
  have hsame : ms.pod.map (fun p => { p with dirty := false }) = ms.pod :=
    (List.map_congr_left fun p hp => show _ = id p by rw [← h p hp]; rfl).trans (List.map_id _)
  simp only [podSendDirty, hnone, List.foldl_nil, hsame]

/-- A release that no peer holds up. -/
theorem releasing_acknowledged (h : s.det = false) (hs : s.th.sent = none) {ms : MemSys} {sc : Nat} (ha : Acknowledged s ms sc)
    (k : State → State) : (withMs s ms).releasing sc k = k (withMs s (released s ms sc)) := by
  by_cases h3 : sc = 3
  · subst h3
    obtain ⟨hun, hpod⟩ := ha rfl
    have hrel : ((withMs s ms).release 3).mapMs (fun ms => podSendDirty ms (some s.self)) = withMs s (released s ms 3) := by
      rw [State.release_ordinary (s := withMs s ms) h]
      exact congrArg (withMs s) (podSendDirty_clean hpod _)
    have hrest : ((withMs s (released s ms 3)).awaiting 1 [] 0).awaitsNothing = withMs s (released s ms 3) :=
      congrArg (fun t => withMs { s with th := t } (released s ms 3)) (show { s.th with sent := none } = s.th by rw [← hs])
    have hwait : ((withMs s (released s ms 3)).awaiting 1 [] 0).podAwaits = false := by
      simp [State.podAwaits, State.awaiting]
    have hself : (withMs s ms).self = s.self := rfl
    rw [State.releasing, if_pos (by simp [h]), State.sysRelease]
    simp only [th_withMs, hs]
    rw [hself, hrel, ms_withMs, hun, if_neg (by simp [hwait]), hrest]
  · rw [State.releasing_local h3, State.release_ordinary (s := withMs s ms) h]
    rfl

end

/-! ### Loads -/

/-- What a load of an ordinary launch leaves before it delivers. -/
def loadedState (s : State) (e : TlbEnt) (va n : Nat) (ord : Bool) (x : Nat) : State :=
  let r := readMem s.ms s.th.bay (retention (if ord then (if s.effScope x ≥ 2 then 3 else 0) else x) e) (homeOf e va) n
  if ord then
    { acquiring s r.2 (s.effScope x) with ms := allocated s e (homeOf e va) n (acquireCaches r.2 s.th.bay (s.effScope x)) }
  else { s with ms := r.2 }

section
variable {s : State} {e : TlbEnt} {va n : Nat}

theorem loadGlobal_reaches (hd : s.det = false) (h : Reaches s va n .load e) (ord : Bool) (x : Nat) (k : List Byte → State → State) :
    loadGlobal s va n ord x k =
      k (readMem s.ms s.th.bay (retention (if ord then (if s.effScope x ≥ 2 then 3 else 0) else x) e) (homeOf e va) n).1
        (loadedState s e va n ord x) := by
  have hnear : (if ord then s.podFresh (s.effScope x) (homeOf e va) n else s) = s := by rw [podFresh_near h.near, ite_self]
  simp only [loadGlobal, checkGlobal_of_reaches h, hnear, State.gload_ordinary hd]
  cases ord
  · rfl
  · refine congrArg (k _) ?_
    simp only [if_true]
    rw [show ∀ ms, ({ s with ms := ms } : State) = withMs s ms from fun _ => rfl, acquire_withMs hd]
    exact allocate_withMs (s := acquiring s _ _) hd _ e _ _

end

/-- Settles O22. -/
theorem globalLoadResults : Obligations.GlobalLoadResults := by
  refine ⟨fun o s e hg hd h => ?_, fun o s e hg hd => ?_⟩
  · intro n ha sc plain acq home
    have hea := eaM_eq_eaOf s o
    have hn : n / 4 = groupRegs o.w := memSize_div o.w
    have hld : exec (.ld o) s = .next (loadGlobal s (eaOf s o) n (isOrdered o.o) (scopeOf o.o) fun bs s => s.pendTo o.d (n / 4) (ofBytes bs)) := by
      rw [hn, ← hea]; exact congrArg Host.Outcome.next (if_pos hg)
    rw [loadGlobal_reaches hd h] at hld
    refine ⟨fun ho => ?_, fun ho => ?_, ?_⟩
    · rw [hld, show isOrdered o.o = false from ho, pendTo_eq]; rfl
    · rw [hld, show isOrdered o.o = true from ho, pendTo_eq]; rfl
    · refine congrArg Host.Outcome.next ((if_pos hg).trans ?_)
      rw [hea]
      have hload := gload_withMs hd (promote s.ms (homeSlice (leafHome e.leaf.toNat) ha) (ha / 64)) e.leaf.toNat ha n 3
      simp only [checkGlobal_of_reaches h, hd, Bool.false_eq_true, if_false]
      rw [show ∀ f, s.mapMs f = withMs s (f s.ms) from fun _ => rfl, hload, ← hn]
      exact (pendTo_eq ..).trans (congrArg (withPending · _) (acquire_withMs hd home.2 2))
  · intro n va r h
    exact congrArg Host.Outcome.next ((if_pos hg).trans (loadGlobal_reaches hd h false 0 _))

/-! ### Stores -/

section
variable {s : State} {e : TlbEnt} {va : Nat} {bs : List Byte}

theorem flagSent_none (h : s.th.sent = none) : s.flagSent = none := by simp [State.flagSent, h]

/-- A plain store. -/
theorem storeGlobal_plain (hd : s.det = false) (hs : s.th.sent = none) (h : Reaches s va bs.length .store e) (x : Nat) :
    storeGlobal s va bs false x =
      withMs s (writeMem (recorded s e (homeOf e va) false) s.th.bay (retention x e) (homeOf e va) bs) := by
  have hrec := record_eq hd e (homeOf e va) false
  simp only [storeGlobal, flagSent_none hs, checkGlobal_of_reaches h, Bool.false_and, Bool.false_eq_true, if_false]
  rw [hrec, gstore_withMs hd h.answered.2]
  rfl

/-- A store that releases at a scope. -/
theorem storeGlobal_release (hd : s.det = false) (hs : s.th.sent = none) (h : Reaches s va bs.length .store e) (x : Nat)
    (hack : Acknowledged s (recorded s e (homeOf e va) (decide (s.effScope x < 2))) (s.effScope x)) :
    storeGlobal s va bs true x =
      withMs s (allocated s e (homeOf e va) bs.length
        (writeMem (released s (recorded s e (homeOf e va) (decide (s.effScope x < 2))) (s.effScope x)) s.th.bay
          (retention (scopeAlloc (s.effScope x)) e) (homeOf e va) bs)) := by
  have hrec := record_eq hd e (homeOf e va) (decide (s.effScope x < 2))
  simp only [storeGlobal, flagSent_none hs, checkGlobal_of_reaches h, Bool.true_and, if_true]
  rw [hrec, releasing_acknowledged hd hs hack]
  simp only [h.near, Bool.and_false, Bool.false_and, Bool.false_eq_true, if_false, gstore_withMs hd h.answered.2]
  exact allocate_withMs hd ..

end

theorem withBit_eq (n j : Nat) (b : Bool) :
    n - (if bitAt n j = true then 2 ^ j else 0) + (if b = true then 2 ^ j else 0) = withBit n j b := by
  simp [withBit, bitAt]

theorem exec_st {o : MFmt} {s : State} (hg : s.active o.g = true) : exec (.st o) s =
    .next (storeGlobal s (eaOf s o) (toBytes (memSize o.w) (s.srcs o.d (memSize o.w / 4))) (isOrdered o.o) (scopeOf o.o)) := by
  rw [memSize_div, ← eaM_eq_eaOf]
  exact congrArg Host.Outcome.next (if_pos hg)

/-- Settles O23. -/
theorem globalStoreResults : Obligations.GlobalStoreResults := by
  refine ⟨fun o s e hg hd hs h => ?_, fun o s e hg hd => ?_⟩
  · intro n ha sc bs
    have hlen : bs.length = n := length_toBytes ..
    have hr : Reaches s (eaOf s o) bs.length .store e := hlen.symm ▸ h
    refine ⟨fun ho => ?_, fun ho hack => ?_⟩
    · rw [exec_st hg, show isOrdered o.o = false from ho]
      exact congrArg Host.Outcome.next (storeGlobal_plain hd hs hr _)
    · rw [exec_st hg, show isOrdered o.o = true from ho, ← hlen]
      exact congrArg Host.Outcome.next (storeGlobal_release hd hs hr _ hack)
  · intro n va al r h
    have hrec := record_eq hd e (homeOf e va) false
    refine congrArg Host.Outcome.next ((if_pos hg).trans ?_)
    rw [Bool.false_or] at hrec
    simp only [show s.eaR o = va from rfl]
    rw [checkGlobal_of_reaches h]
    simp only [hrec, gload_withMs hd, gstore_withMs hd h.answered.2]
    exact congrArg (fun v => withMs s (writeMem r.2 s.th.bay al (homeOf e va) (toBytes n v))) (withBit_eq ..)

end Sys2Proof.Proofs
end

section
/-! PROOFS. Returning atomics and reductions (R148, R255 to R259). -/

namespace Sys2Proof.Proofs

open Sys2Proof.Machine Sys2Proof.Spec

/-! ### The functions (R256, R257, R259) -/

theorem sMin_comm {n : Nat} (a b : BitVec n) : sMin a b = sMin b a := by
  simp only [sMin]
  split <;> split
  · exact BitVec.eq_of_toInt_eq (by omega)
  · rfl
  · rfl
  · omega

theorem uMin_comm {n : Nat} (a b : BitVec n) : uMin a b = uMin b a := by
  simp only [uMin]
  split <;> split
  · exact BitVec.eq_of_toNat_eq (by omega)
  · rfl
  · rfl
  · omega

theorem atomInt_eq (f : BitVec 3) (old b : Word) : atomInt f.toNat old b = (atomTable old b).getD f.toNat 0 := by
  have hf := f.isLt
  generalize f.toNat = n at hf
  interval_cases n
  · rfl
  · rfl
  · rfl
  · rfl
  · exact (sMin_comm old b).trans (sMin_eq b old)
  · exact sMax_eq old b
  · exact (uMin_comm old b).trans (uMin_eq b old)
  · exact uMax_eq old b

/-- The size of each ATOMX. -/
theorem atomxSize_eq (f : BitVec 3) (old b d : Nat) : ((atomxTable old b d).getD f.toNat (4, none)).1 = atomxSize f.toNat := by
  have hf := f.isLt
  generalize f.toNat = n at hf
  interval_cases n <;> rfl

theorem atomxFn_eq (f : BitVec 3) (old b d : Nat) : atomxFn f.toNat old b d = ((atomxTable old b d).getD f.toNat (4, none)).2 := by
  have hf := f.isLt
  generalize f.toNat = n at hf
  have hcas : (if (old == d) = true then some b else none) = if old = d then some b else none := by simp
  interval_cases n
  · rfl
  · exact hcas
  · rfl
  · exact hcas
  · rfl
  · rfl
  · rfl
  · rfl

theorem redxSize_eq {f : BitVec 3} (h : f.toNat < 5) (old b : Nat) : ((redxTable old b).getD f.toNat (4, 0)).1 = redxSize f.toNat := by
  generalize f.toNat = n at h
  interval_cases n <;> rfl

theorem redxFn_eq {f : BitVec 3} (h : f.toNat < 5) (old b : Nat) : redxFn f.toNat old b = ((redxTable old b).getD f.toNat (4, 0)).2 := by
  generalize f.toNat = n at h
  interval_cases n <;> rfl

/-- The functions of RED among the operations of a reduction. -/
theorem redFn_int (f : BitVec 3) (old : Nat) (b : Word) :
    redFn f.toNat old b.toNat = ((atomTable (BitVec.ofNat 32 old) b).getD f.toNat 0).toNat := by
  rw [redFn, if_pos f.isLt, BitVec.ofNat_toNat, BitVec.setWidth_eq, atomInt_eq]

/-- The functions of REDX among the operations of a reduction. -/
theorem redFn_float (f old b : Nat) : redFn (8 + f) old b = redxFn f old b := by
  rw [redFn, if_neg (by omega), Nat.add_sub_cancel_left]

/-! ### The accesses -/

section
variable {s : State} {e : TlbEnt} {va n : Nat}

theorem threadWrite_withMs (h : s.th.lost = []) (ms : MemSys) (al : Alloc) (ha : Nat) (bs : List Byte) :
    (withMs s ms).threadWrite al ha bs = writeMem ms s.th.bay al ha bs := State.threadWrite_whole (s := withMs s ms) h al ha bs

/-- A returning atomic that passes its checks and that no peer holds up. -/
theorem returningAtomic_reaches (hd : s.det = false) (hs : s.th.sent = none) (h : Reaches s va n .atomic e) (sc : Nat)
    (hack : Acknowledged s (recorded s e (homeOf e va) (decide (s.effScope sc < 2))) (s.effScope sc)) (d : BitVec 6)
    (f : Nat → Option Nat) :
    returningAtomic s va n sc d f =
      withPending (acquiring s (atomicAt s e (homeOf e va) n (s.effScope sc) f).2 (s.effScope sc))
        (longN d (n / 4) (atomicAt s e (homeOf e va) n (s.effScope sc) f).1) := by
  have hrec := record_eq hd e (homeOf e va) (decide (s.effScope sc < 2))
  simp only [returningAtomic, hs, Option.bind_none, checkGlobal_of_reaches h]
  rw [hrec, releasing_acknowledged hd hs hack]
  simp only [podTake_near h.near, gload_withMs hd, gstore_withMs hd h.answered.2, h.near, Bool.and_false, Bool.false_and,
    Bool.false_eq_true, if_false, acquire_withMs hd, pendTo_eq, atomicAt, retention]
  split
  · next hf => rw [hf]
  · next v hf => rw [hf]

/-- A reduction that passes its checks. -/
theorem reduction_reaches (hd : s.det = false) (h : Reaches s va n .atomic e) (sc op b : Nat) :
    reduction s va n sc op b = withMs s (reducedAt s e (homeOf e va) n (s.effScope sc) fun old => redFn op old b) := by
  have hrec := record_eq hd e (homeOf e va) false
  rw [Bool.false_or] at hrec
  simp only [reduction, checkGlobal_of_reaches h, hd, Bool.false_eq_true, if_false]
  rw [hrec, podTake_near h.near]
  simp only [h.near, Bool.and_false, Bool.false_eq_true, if_false]
  rw [maxAlloc_eq]
  exact congrArg (withMs s) (threadWrite_withMs h.answered.2 (readMem (recorded s e (homeOf e va) false) s.th.bay _ _ n).2 ..)

end

/-- Settles O24. -/
theorem atomicResults : Obligations.AtomicResults := by
  intro f o s e hg hd hs va ha sc b d nx nr atom atomx
  have hnx : nx = atomxSize f.toNat := atomxSize_eq f 0 0 0
  refine ⟨fun hack => ⟨fun h => ?_, fun h => ?_⟩, fun h => ?_, fun hf h => ?_⟩
  · refine congrArg Host.Outcome.next ((if_pos hg).trans ((returningAtomic_reaches hd hs h o.w.toNat hack o.d _).trans ?_))
    simp only [atomInt_eq]
    rfl
  · refine congrArg Host.Outcome.next ((if_pos hg).trans ?_)
    simp only [← hnx, atomxFn_eq]
    exact returningAtomic_reaches hd hs h o.w.toNat hack o.d _
  · refine congrArg Host.Outcome.next ((if_pos hg).trans ((reduction_reaches hd h o.w.toNat f.toNat _).trans ?_))
    simp only [redFn_int]
    rfl
  · have hnr : nr = redxSize f.toNat := redxSize_eq hf 0 0
    refine congrArg Host.Outcome.next ((if_pos hg).trans ?_)
    simp only [← hnr]
    refine (reduction_reaches hd h o.w.toNat (8 + f.toNat) _).trans ?_
    simp only [redFn_float, redxFn_eq hf]
    rfl

end Sys2Proof.Proofs
end

section
/-! PROOFS. Typed stores, and the order of the checks of a memory word (R247 to R252). -/

namespace Sys2Proof.Proofs

open Sys2Proof.Machine Sys2Proof.Spec

theorem memSize_pos (w : BitVec 2) : 0 < memSize w := Nat.mul_pos (by decide) (Nat.two_pow_pos _)

theorem mem_rangeFrom {x : Nat} : ∀ {n a : Nat}, x ∈ rangeFrom a n ↔ a ≤ x ∧ x < a + n
  | 0, a => by simp [rangeFrom]
  | n + 1, a => by
    rw [rangeFrom, List.mem_cons, mem_rangeFrom]
    omega

/-! ### Typed stores (R110 to R115, R251) -/

section
variable {s : State} {sp o n : Nat}

/-- An access that meets no failed sector. -/
theorem badIn_none (hn : 0 < n) (h : ∀ q, 16 * q < o + n → o < 16 * q + 16 → (sp, q) ∉ s.tm.badStore) : s.tm.badIn sp o n = none := by
  simp only [Team.badIn, List.find?_eq_none, mem_rangeFrom, List.contains_iff_mem]
  intro q hq
  exact h q (by omega) (by omega)

theorem checkStore_held (hn : 0 < n) (h : Held s sp o n) (store : Bool) : s.checkStore sp o n store = none := by
  have hin := h.inside
  rw [State.checkStore, if_neg (by simp [h.home]), if_neg (by simp [h.aligned]), if_neg (by omega), badIn_none hn h.sound]

end

theorem exec_storeLoad {p : (MFmt → Instr) × Nat} (hp : p ∈ [(Instr.ldl, 0), (.lda, 1), (.ldw, 2), (.ldc, 3)]) (o : MFmt) (s : State) :
    exec (p.1 o) s = .next (loadStore p.2 o s) := by
  simp only [List.mem_cons, List.not_mem_nil, or_false] at hp
  rcases hp with rfl | rfl | rfl | rfl
  all_goals rfl

theorem exec_storeStore {p : (MFmt → Instr) × Nat} (hp : p ∈ [(Instr.stl, 0), (.sta, 1), (.stc, 3)]) (o : MFmt) (s : State) :
    exec (p.1 o) s = .next (storeStore p.2 o s) := by
  simp only [List.mem_cons, List.not_mem_nil, or_false] at hp
  rcases hp with rfl | rfl | rfl
  all_goals rfl

theorem badStore_setStore (t : Team) (sp : Nat) (m : Memory) : (t.setStore sp m).badStore = t.badStore := by
  match sp with
  | 0 => rfl
  | 1 => rfl
  | 2 => rfl
  | _ + 3 => rfl

theorem ring_setStore (t : Team) (sp : Nat) (m : Memory) : (t.setStore sp m).ring = t.ring := by
  match sp with
  | 0 => rfl
  | 1 => rfl
  | 2 => rfl
  | _ + 3 => rfl

theorem ring_storedTeam (t : Team) (sp o : Nat) (bs : List Byte) : (storedTeam t sp o bs).ring = t.ring := ring_setStore ..

/-- The bytes of a store, and the failed marks of the sectors that it covers. -/
theorem storeWrite_eq (s : State) (sp o : Nat) (bs : List Byte) : s.storeWrite sp o bs = { s with tm := storedTeam s.tm sp o bs } := by
  have hb := badStore_setStore s.tm sp ((s.tm.store sp).write o bs)
  simp only [State.storeWrite, State.mapTm, storedTeam, ← hb, ge_iff_le]
  split
  · rfl
  · rfl

theorem store_setStore (t : Team) {sp sp' : Nat} (h : sp < 4) (h' : sp' < 4) (m : Memory) :
    (t.setStore sp m).store sp' = if sp' = sp then m else t.store sp' := by
  interval_cases sp <;> interval_cases sp' <;> rfl

/-- A release to the notify word of a ring appends; without a ring it does not. -/
theorem noteAppend_eq (s : State) : s.noteAppend =
    if s.tm.ring.size ≠ 0 then
      { s with
        tm := { s.tm with ring := { s.tm.ring with
          appends := s.tm.ring.appends ++ [⟨BitVec.ofNat 32 (s.tm.lst.readNat 0 4), s.turns, s.th.tid⟩] } }
        turns := s.turns + 1 }
    else s := by
  by_cases h : s.tm.ring.size = 0
  · rw [if_neg (not_not_intro h)]
    exact if_pos (by simp [h])
  · rw [if_pos h]
    exact if_neg (by simp [h])

/-- A typed-store store that passes its checks. -/
theorem exec_storeStore_held {p : (MFmt → Instr) × Nat} (hp : p ∈ [(Instr.stl, 0), (.sta, 1), (.stc, 3)]) {o : MFmt} {s : State}
    (hg : s.active o.g = true) (h : Held s p.2 (eaOf s o) (memSize o.w)) :
    let bs := toBytes (memSize o.w) (s.srcs o.d (memSize o.w / 4))
    let ea := eaOf s o
    exec (p.1 o) s = .next (
      if isOrdered o.o then
        s.releasing (s.effScope (scopeOf o.o)) fun u =>
          if p.2 == 0 && ea == 0 then (u.storeWrite p.2 ea bs).noteAppend else u.storeWrite p.2 ea bs
      else s.storeWrite p.2 ea bs) := by
  intro bs ea
  refine (exec_storeStore hp o s).trans (congrArg Host.Outcome.next ((if_pos hg).trans ?_))
  simp only [bs, ea, eaM_eq_eaOf, checkStore_held (memSize_pos o.w) h, memSize_div]

/-- Settles O25. -/
theorem typedStoreResults : Obligations.TypedStoreResults := by
  refine ⟨fun p hp o s hg hd h => ?_, fun p hp o s hg hd hs h => ?_, fun t sp sp' o a bs hsp hsp' => ?_⟩
  · intro v
    refine (exec_storeLoad hp o s).trans (congrArg Host.Outcome.next ((if_pos hg).trans ?_))
    simp only [eaM_eq_eaOf, checkStore_held (memSize_pos o.w) h, memSize_div, pendTo_eq]
    have hacq : (if isOrdered o.o then s.acquire (s.effScope (scopeOf o.o)) else s) =
        if o.o.getLsbD 2 then acquiring s s.ms (s.effScope (o.o.toNat % 4)) else s :=
      congrArg (fun x => if isOrdered o.o then x else s) (acquire_withMs hd s.ms _)
    rw [hacq]
    rfl
  · intro sc t note
    rw [exec_storeStore_held hp hg h]
    refine ⟨fun ho => ?_, fun ho hack => ?_⟩
    · rw [show isOrdered o.o = false from ho]
      exact congrArg Host.Outcome.next (storeWrite_eq ..)
    · rw [show isOrdered o.o = true from ho, if_pos rfl]
      refine congrArg Host.Outcome.next ((releasing_acknowledged hd hs hack _).trans ?_)
      have hring : t.ring = s.tm.ring := ring_storedTeam ..
      have hu : (withMs s (released s s.ms sc)).storeWrite p.2 (eaOf s o) (toBytes (memSize o.w) (s.srcs o.d (memSize o.w / 4))) =
          { s with tm := t, ms := released s s.ms sc } := storeWrite_eq (withMs s _) ..
      simp only [hu, noteAppend_eq, Bool.and_eq_true, beq_iff_eq, ← ite_and, hring, and_assoc]
      rfl
  · have hstore : (storedTeam t sp o bs).store sp' = (t.setStore sp ((t.store sp).write o bs)).store sp' := by
      interval_cases sp' <;> rfl
    rw [hstore, store_setStore t hsp hsp']
    by_cases he : sp' = sp
    · simp only [he, if_true, true_and, Memory.get_write]
    · simp only [he, if_false, false_and]

/-! ### The order of the checks (R252) -/

section
variable {s : State} {va n : Nat} {u : State}

theorem loadGlobal_stop {ord : Bool} {x : Nat} (h : ∀ al, s.checkGlobal va n .load al = .stop u) (k : List Byte → State → State) :
    loadGlobal s va n ord x k = u := by
  simp only [loadGlobal, h]

theorem storeGlobal_stop {bs : List Byte} (hs : s.th.sent = none) (h : ∀ al, s.checkGlobal va bs.length .store al = .stop u)
    (ord : Bool) (x : Nat) : storeGlobal s va bs ord x = u := by
  simp only [storeGlobal, flagSent_none hs, h]

theorem returningAtomic_stop (hs : s.th.sent = none) (h : ∀ al, s.checkGlobal va n .atomic al = .stop u) (sc : Nat) (d : BitVec 6)
    (f : Nat → Option Nat) : returningAtomic s va n sc d f = u := by
  simp only [returningAtomic, hs, Option.bind_none, h]

theorem reduction_stop (h : ∀ al, s.checkGlobal va n .atomic al = .stop u) (sc op b : Nat) : reduction s va n sc op b = u := by
  simp only [reduction, h]

end

section
variable {o : MFmt} {s u : State} (hg : s.active o.g = true) (hs : s.th.sent = none)
include hg

theorem exec_ld_stop (h : ∀ al, s.checkGlobal (eaOf s o) (memSize o.w) .load al = .stop u) : exec (.ld o) s = .next u := by
  refine congrArg Host.Outcome.next ((if_pos hg).trans ?_)
  rw [eaM_eq_eaOf, loadGlobal_stop h]

theorem exec_ldra_stop (h : ∀ al, s.checkGlobal (eaOf s o) (memSize o.w) .load al = .stop u) : exec (.ldra o) s = .next u := by
  refine congrArg Host.Outcome.next ((if_pos hg).trans ?_)
  rw [eaM_eq_eaOf, h]

include hs in
theorem exec_st_stop (h : ∀ al, s.checkGlobal (eaOf s o) (memSize o.w) .store al = .stop u) : exec (.st o) s = .next u := by
  rw [exec_st hg, storeGlobal_stop hs (by rw [length_toBytes]; exact h)]

/-- A cause that a load, a store and an LDRA raise alike. -/
theorem exec_access_stop (h : ∀ k al, s.checkGlobal (eaOf s o) (memSize o.w) k al = .stop u) (hs : s.th.sent = none) {i : Instr}
    (hi : i ∈ [Instr.ld o, .st o, .ldra o]) : exec i s = .next u := by
  simp only [List.mem_cons, List.not_mem_nil, or_false] at hi
  rcases hi with rfl | rfl | rfl
  · exact exec_ld_stop hg (h _)
  · exact exec_st_stop hg hs (h _)
  · exact exec_ldra_stop hg (h _)

/-- A typed-store word that stops. -/
theorem exec_typed_stop {p : (MFmt → Instr) × Nat}
    (hp : p ∈ [(Instr.ldl, 0), (.lda, 1), (.ldw, 2), (.ldc, 3), (.stl, 0), (.sta, 1), (.stc, 3)])
    (h : ∀ store, s.checkStore p.2 (eaOf s o) (memSize o.w) store = some u) : exec (p.1 o) s = .next u := by
  have hload : loadStore p.2 o s = u := (if_pos hg).trans (by rw [eaM_eq_eaOf]; simp only [h])
  have hstore : storeStore p.2 o s = u := (if_pos hg).trans (by rw [eaM_eq_eaOf]; simp only [h])
  simp only [List.mem_cons, List.not_mem_nil, or_false] at hp
  rcases hp with rfl | rfl | rfl | rfl | rfl | rfl | rfl
  · exact congrArg Host.Outcome.next hload
  · exact congrArg Host.Outcome.next hload
  · exact congrArg Host.Outcome.next hload
  · exact congrArg Host.Outcome.next hload
  · exact congrArg Host.Outcome.next hstore
  · exact congrArg Host.Outcome.next hstore
  · exact congrArg Host.Outcome.next hstore

end

section
variable {f : BitVec 3} {o : RFmt} {s u : State} (hg : s.active o.g = true) (hs : s.th.sent = none)
include hg

theorem exec_red_stop (h : ∀ al, s.checkGlobal (s.srcPair o.a).toNat 4 .atomic al = .stop u) : exec (.red f o) s = .next u :=
  congrArg Host.Outcome.next ((if_pos hg).trans (reduction_stop h ..))

include hs in
theorem exec_atom_stop (h : ∀ al, s.checkGlobal (s.srcPair o.a).toNat 4 .atomic al = .stop u) : exec (.atom f o) s = .next u :=
  congrArg Host.Outcome.next ((if_pos hg).trans (returningAtomic_stop hs h ..))

/-- A cause that every access of an R-format word raises, whatever its size. -/
theorem exec_rformat_stop (h : ∀ n k al, s.checkGlobal (s.srcPair o.a).toNat n k al = .stop u) (hs : s.th.sent = none) {i : Instr}
    (hi : i ∈ [Instr.atom f o, .atomx f o, .red f o, .redx f o, .pstb o, .pldb o]) : exec i s = .next u := by
  simp only [List.mem_cons, List.not_mem_nil, or_false] at hi
  rcases hi with rfl | rfl | rfl | rfl | rfl | rfl
  · exact exec_atom_stop hg hs (h _ _)
  · exact congrArg Host.Outcome.next ((if_pos hg).trans (returningAtomic_stop hs (h _ _) ..))
  · exact exec_red_stop hg (h _ _)
  · exact congrArg Host.Outcome.next ((if_pos hg).trans (reduction_stop (h _ _) ..))
  · refine congrArg Host.Outcome.next ((if_pos hg).trans ?_)
    simp only [State.eaR, h]
  · exact congrArg Host.Outcome.next ((if_pos hg).trans (loadGlobal_stop (h _ _) _))

end

/-- Settles O26. -/
theorem memoryWordsStopInOrder : Obligations.MemoryWordsStopInOrder := by
  refine ⟨fun o s hg hs i hi => ⟨fun hr => ?_, fun hr ha => ?_⟩, fun f o s hg hs hr i hi => ?_, fun f o s hg hs hr ha i hi => ?_,
    fun o s e hg hs hm hr ha hw => ?_, fun p hp o s hg => ⟨fun hm => ?_, fun hm ha => ?_, fun hm ha hb => ?_⟩⟩
  · exact exec_access_stop hg (fun k al => State.checkGlobal_range _ k al hr) hs hi
  · exact exec_access_stop hg (fun k al => State.checkGlobal_align k al hr ha) hs hi
  · exact exec_rformat_stop hg (fun n k al => State.checkGlobal_range n k al hr) hs hi
  · have hstop : ∀ al, s.checkGlobal (s.srcPair o.a).toNat 4 .atomic al = .stop (s.raise cAlign (s.srcPair o.a).toNat) := fun al => State.checkGlobal_align .atomic al hr ha
    simp only [List.mem_cons, List.not_mem_nil, or_false] at hi
    rcases hi with rfl | rfl
    · exact exec_atom_stop hg hs hstop
    · exact exec_red_stop hg hstop
  · have hden : leafDenied e.leaf.toNat .store s.accessor = true := by simp [leafDenied, AccKind.writes, hw]
    exact exec_st_stop hg hs fun al => State.checkGlobal_denied al hr ha hm.hit hm.unlocked hden
  · exact exec_typed_stop hg hp fun store => if_pos hm
  · exact exec_typed_stop hg hp fun store => (if_neg (by simp [hm])).trans (if_pos (by simp [ha]))
  · exact exec_typed_stop hg hp fun store => (if_neg (by simp [hm])).trans ((if_neg (by simp [ha])).trans (if_pos hb))

end Sys2Proof.Proofs
end

section
/-! PROOFS. Fences (R135, R139, R152, R157, R261). -/

namespace Sys2Proof.Proofs

open Sys2Proof.Machine Sys2Proof.Spec

/-! ### Messages to peers (R157, R158) -/

theorem podOut_podSend (ms : MemSys) (who : Option ThreadRef) (ha n v : Nat) (flag : Bool) :
    ∃ m : PodMsg, (podSend ms who ha n v flag).podOut = ms.podOut ++ [m] ∧ m.n = n := by
  have hnext : ∀ peer, (podNext ms peer).2.podOut = ms.podOut := fun peer => by
    rw [podNext]
    split
    · rfl
    · rfl
  refine ⟨⟨who, ha % aliasBase / podBase - 1, (podNext ms (ha % aliasBase / podBase - 1)).1, ha % podBase, n, v, flag⟩, ?_, rfl⟩
  exact congrArg (· ++ _) (hnext _)

/-- One message for each sector sent. -/
theorem podOut_podSendDirty (ms : MemSys) (who : Option ThreadRef) :
    ∃ l : List PodMsg, (podSendDirty ms who).podOut = ms.podOut ++ l ∧ l.length = (ms.pod.filter (·.dirty)).length ∧ ∀ m ∈ l, m.n = 16 := by
  suffices h : ∀ (ps : List PodSec) (ms : MemSys), ∃ l : List PodMsg,
      (ps.foldl (fun ms p => podSend ms who (16 * p.sec) 16 p.data.toNat false) ms).podOut = ms.podOut ++ l ∧ l.length = ps.length ∧
        ∀ m ∈ l, m.n = 16 from h (ms.pod.filter (·.dirty)) ms
  intro ps
  induction ps with
  | nil => exact fun ms => ⟨[], by simp, rfl, by simp⟩
  | cons p ps ih =>
    intro ms
    obtain ⟨m, hm, hn⟩ := podOut_podSend ms who (16 * p.sec) 16 p.data.toNat false
    obtain ⟨l, hl, hlen, hall⟩ := ih (podSend ms who (16 * p.sec) 16 p.data.toNat false)
    refine ⟨m :: l, ?_, by simp [hlen], fun x hx => ?_⟩
    · rw [List.foldl_cons, hl, hm, List.append_assoc]; rfl
    · rcases List.mem_cons.mp hx with rfl | hx
      · exact hn
      · exact hall x hx

theorem clean_podSendDirty (ms : MemSys) (who : Option ThreadRef) : ∀ p ∈ (podSendDirty ms who).pod, p.dirty = false := by
  intro p hp
  obtain ⟨q, -, rfl⟩ := List.mem_map.mp hp
  rfl

/-! ### FENCE.engine (R152) -/

/-- What a FENCE.engine awaits has come about (log entry 90). -/
def EngineQuiet (s : State) : Prop :=
  s.ringRetired s.tm.ref (BitVec.ofNat 32 (s.tm.lst.readNat 0 4)) = true ∧ (∀ c ∈ s.otherRings, s.ringRetired c.1 c.2 = true) ∧
    s.tm.mxDoneTo s.tm.mxOrder = true

section
variable {s : State} (hs : s.th.sent = none)
include hs

/-- A FENCE.engine that first issues fixes what it awaits; where that has come about, it goes on. -/
theorem fenceEngine_goes (hd : s.det = false) (h : EngineQuiet s) (sc : Nat) : fenceEngine s sc = acquiring s s.ms sc := by
  obtain ⟨hown, hother, hmx⟩ := h
  have hall : (((s.tm.ref, BitVec.ofNat 32 (s.tm.lst.readNat 0 4)) :: s.otherRings).all fun c => s.ringRetired c.1 c.2) = true := by
    rw [List.all_cons, hown, List.all_eq_true.mpr hother]; rfl
  have hsent : { s.th with sent := none } = s.th := by rw [← hs]
  rw [fenceEngine, hs]
  refine (if_pos (Bool.and_eq_true_iff.mpr ⟨hall, hmx⟩)).trans ?_
  refine Eq.trans ?_ (acquire_withMs hd s.ms sc)
  exact congrArg (fun t => State.acquire { s with th := t } sc) hsent

/-- Where it has not, the thread waits. -/
theorem fenceEngine_blocks (h : ¬ EngineQuiet s) (sc : Nat) : (fenceEngine s sc).th.status = .blocked .fence ∧
    (fenceEngine s sc).th.regs = s.th.regs ∧ (fenceEngine s sc).ms = s.ms := by
  have hnot : ¬ ((((s.tm.ref, BitVec.ofNat 32 (s.tm.lst.readNat 0 4)) :: s.otherRings).all fun c => s.ringRetired c.1 c.2) &&
      s.tm.mxDoneTo s.tm.mxOrder) = true := by
    simp only [List.all_cons, Bool.and_eq_true, List.all_eq_true]
    exact fun ⟨⟨hown, hother⟩, hmx⟩ => h ⟨hown, hother, hmx⟩
  have hblock : fenceEngine s sc = (s.mapTh fun t => { t with sent := some ⟨0, [],
      (s.tm.ref, BitVec.ofNat 32 (s.tm.lst.readNat 0 4)) :: s.otherRings, s.tm.mxOrder, s.time, false⟩ }).block .fence := by
    rw [fenceEngine, hs]
    exact if_neg hnot
  rw [hblock]
  exact ⟨rfl, rfl, rfl⟩

end

/-- A team without ring and streams, for which no other team's cards are awaited. -/
theorem engineQuiet_of_idle {s : State} (hring : s.tm.ring.size = 0)
    (hothers : ∀ t ∈ s.teams, t.ref ≠ s.tm.ref → t.ring.appendedBy s.tm.acquired = none) (hstreams : s.tm.streams = []) :
    EngineQuiet s := by
  refine ⟨by simp [State.ringRetired, hring], fun c hc => ?_, by simp [Team.mxDoneTo, hstreams]⟩
  obtain ⟨t, ht, hn⟩ := List.mem_filterMap.mp hc
  obtain ⟨hmem, hp⟩ := List.mem_filter.mp ht
  have hne : t.ref ≠ s.tm.ref := by simp only [Bool.and_eq_true, bne_iff_ne] at hp; exact hp.1.1
  rw [hothers t hmem hne] at hn
  cases hn

/-- A matrix operation of an earlier order runs. -/
theorem not_engineQuiet_of_running {s : State} {st : Stream} {r : MxRun} (hst : st ∈ s.tm.streams) (hr : st.running = some r)
    (ho : r.job.order < s.tm.mxOrder) : ¬ EngineQuiet s := by
  rintro ⟨-, -, hmx⟩
  have h := List.all_eq_true.mp hmx st hst
  simp only [hr, Bool.and_eq_true, decide_eq_true_eq] at h
  omega

/-- A card before the count of NOTIFY is left. -/
theorem not_engineQuiet_of_card {s : State} {c : Card} (hring : s.tm.ring.size ≠ 0) (hc : c ∈ s.tm.ring.cards)
    (hb : countBefore (BitVec.ofNat 32 c.seq) (BitVec.ofNat 32 (s.tm.lst.readNat 0 4)) = true) : ¬ EngineQuiet s := by
  rintro ⟨hown, -, -⟩
  simp only [State.ringRetired, beq_self_eq_true, if_true, Bool.or_eq_true, beq_iff_eq, hring, false_or, Ring.retiredTo,
    Bool.and_eq_true, List.all_eq_true] at hown
  have h := hown.2 c hc
  rw [hb] at h
  cases h

/-- A card of another team is left that was appended before this team last acquired. -/
theorem not_engineQuiet_of_other {s : State} {t : Team} {n : Word} (ht : t ∈ s.teams) (hne : t.ref ≠ s.tm.ref) (hring : t.ring.size ≠ 0)
    (hst : t.st ≠ .retired) (hfind : (s.teams.find? fun x => x.ref == t.ref) = some t) (hn : t.ring.appendedBy s.tm.acquired = some n)
    (hleft : t.ring.retiredTo n = false) : ¬ EngineQuiet s := by
  rintro ⟨-, hother, -⟩
  have hmem : (t.ref, n) ∈ s.otherRings := by
    refine List.mem_filterMap.mpr ⟨t, List.mem_filter.mpr ⟨ht, ?_⟩, by rw [hn]; rfl⟩
    simp [hne, hring, hst]
  have h := hother _ hmem
  simp [State.ringRetired, hne, hfind, hring, hleft] at h

/-- A release that sends to a peer waits. -/
theorem releasing_sends {s : State} (hd : s.det = false) (hs : s.th.sent = none) (hdirty : ∃ p ∈ (released s s.ms 3).pod, p.dirty = true)
    (k : State → State) :
    (s.releasing 3 k).th.status = .blocked .pod ∧ (s.releasing 3 k).th.sent ≠ none ∧ (∀ p ∈ (s.releasing 3 k).ms.pod, p.dirty = false) ∧
      (released s s.ms 3).podOut.length < (s.releasing 3 k).ms.podOut.length := by
  obtain ⟨l, hl, hlen, hall⟩ := podOut_podSendDirty (released s s.ms 3) (some s.self)
  have hpos : 0 < l.length := by
    obtain ⟨p, hp, hpd⟩ := hdirty
    rw [hlen]
    exact List.length_pos_of_mem (List.mem_filter.mpr ⟨hp, hpd⟩)
  have hsent : (s.release 3).mapMs (fun ms => podSendDirty ms (some s.self)) = withMs s (podSendDirty (released s s.ms 3) (some s.self)) := by
    rw [State.release_ordinary hd]; rfl
  have hwait : (State.awaiting (withMs s (podSendDirty (released s s.ms 3) (some s.self))) 1
      (podSendDirty (released s s.ms 3) (some s.self)).unacked 0).podAwaits = true := by
    obtain ⟨m, hm⟩ := List.exists_mem_of_length_pos hpos
    have hmem : m ∈ (podSendDirty (released s s.ms 3) (some s.self)).podOut := hl ▸ List.mem_append_right _ hm
    refine List.any_eq_true.mpr ⟨m, hmem, List.contains_iff_mem.mpr ?_⟩
    exact List.mem_map.mpr ⟨m, List.mem_filter.mpr ⟨hmem, by simp [hall m hm]⟩, rfl⟩
  have hblock : s.releasing 3 k = (State.awaiting (withMs s (podSendDirty (released s s.ms 3) (some s.self))) 1
      (podSendDirty (released s s.ms 3) (some s.self)).unacked 0).block .pod := by
    rw [State.releasing, if_pos (by simp [hd]), State.sysRelease]
    simp only [hs]
    rw [hsent]
    exact if_pos hwait
  rw [hblock]
  exact ⟨rfl, nofun, clean_podSendDirty _ _, by
    show _ < (podSendDirty (released s s.ms 3) (some s.self)).podOut.length
    rw [hl, List.length_append]; omega⟩

/-- Settles O27. -/
theorem fenceResults : Obligations.FenceResults := by
  intro o s hg hd hs sc marked
  have hmark : ∀ u : State, u.markFence sc = { u with th := marked u.th } := fun u => by
    simp only [State.markFence, marked]
    split
    · rfl
    · rfl
  refine ⟨fun hb => ?_, fun hack => ⟨fun hb => ?_, fun hb => ?_⟩, fun hb hring hothers hstreams => ?_, fun hb hleft => ?_, fun hb hsc hdirty => ?_⟩
  · refine congrArg Host.Outcome.next ((if_pos hg).trans ?_)
    rw [hb]
    exact acquire_withMs hd s.ms _
  · refine congrArg Host.Outcome.next ((if_pos hg).trans ?_)
    rw [hb]
    exact (releasing_acknowledged hd hs hack _).trans (hmark _)
  · refine congrArg Host.Outcome.next ((if_pos hg).trans ?_)
    rw [hb]
    have hbay : (marked s.th).bay = s.th.bay := by
      simp only [marked]
      split
      · rfl
      · rfl
    refine (releasing_acknowledged hd hs hack _).trans ((congrArg (State.acquire · sc) (hmark _)).trans ?_)
    refine (acquire_withMs (s := { s with th := marked s.th }) hd (released s s.ms sc) sc).trans ?_
    simp only [acquiring, hbay]
  · refine congrArg Host.Outcome.next ((if_pos hg).trans ?_)
    rw [hb]
    exact fenceEngine_goes hs hd (engineQuiet_of_idle hring hothers hstreams) _
  · have hexec : exec (.fence o) s = .next (fenceEngine s sc) := by
      refine congrArg Host.Outcome.next ((if_pos hg).trans ?_)
      rw [hb]; rfl
    refine ⟨_, hexec, fenceEngine_blocks hs ?_ sc⟩
    rcases hleft with ⟨st, hst, r, hr, ho⟩ | ⟨hring, c, hc, hbefore⟩ | ⟨t, ht, hne, hring, hst, hfind, n, hn, hleft⟩
    · exact not_engineQuiet_of_running hst hr ho
    · exact not_engineQuiet_of_card hring hc hbefore
    · exact not_engineQuiet_of_other ht hne hring hst hfind hn hleft
  · refine ⟨_, congrArg Host.Outcome.next ((if_pos hg).trans ?_), releasing_sends hd hs hdirty fun s => s.markFence sc⟩
    rw [hb, ← hsc]
    rfl

end Sys2Proof.Proofs
end

section
/-! PROOFS. Cache control and prefetch (R260 to R264). -/

namespace Sys2Proof.Proofs

open Sys2Proof.Machine Sys2Proof.Spec

/-! ### Range words (R262) -/

section
variable {s : State} {va n : Nat}

theorem rangeWord_empty (s : State) (va : Nat) (act : State → Nat → Nat → State) : rangeWord s va 0 act = s := rfl

theorem rangeWord_raises (hn : 0 < n) (h : 2 ^ 56 < va + n) (act : State → Nat → Nat → State) : rangeWord s va n act = s.raise cRange va := by
  rw [rangeWord, if_neg (by simp; omega), if_pos h]

variable {e : TlbEnt} (hm : Mapped s va .load e) (hn : 0 < n) (hpage : n ≤ 65536 - va % 65536)
include hm hn hpage

omit hn in
/-- The walker asks nothing of another die for a page that the TLB holds. -/
theorem askRange_held : s.askRange va n = .go s := by
  have hwalk : walkAway s s.tm.ref.ctx s.th.bay va = false := by simp [walkAway, hm.hit]
  refine if_neg ?_
  simp only [Bool.and_eq_true, not_and]
  rintro - hany
  obtain ⟨p, hp, hpw⟩ := List.any_eq_true.mp hany
  obtain ⟨hp, hlt⟩ := List.mem_filter.mp hp
  obtain ⟨i, -, rfl⟩ := List.mem_map.mp hp
  have hva : max va ((va / 65536 + i) * 65536) = va := by
    simp only [decide_eq_true_eq] at hlt
    omega
  rw [hva, hwalk] at hpw
  cases hpw

theorem rangeParts_held (k : Nat) : rangeParts s va n (k + 1) = ([.part (homeOf e va) n], s) := by
  have hlen : min n (65536 - va % 65536) = n := Nat.min_eq_left hpage
  have hrest : rangeParts s (va + n) 0 k = ([], s) := by cases k <;> rfl
  rw [rangeParts, if_neg (by simp; omega)]
  simp only [translate_hit hm.hit hm.unlocked hm.allowed (w := s.accessor), hlen, Nat.sub_self, hrest]
  rfl

/-- A range word of one mapped page acts on its lines. -/
theorem rangeWord_held (hr : va + n ≤ 2 ^ 56) (act : State → Nat → Nat → State) :
    rangeWord s va n act = (linesOf (homeOf e va) n).foldl (fun s ln => act s ln n) s := by
  rw [rangeWord, if_neg (by simp; omega), if_neg (by omega), askRange_held hm hpage]
  simp only [rangeParts_held hm hn hpage]
  rfl

end

/-! ### CWB and CINV (R262) -/

/-- What a line act leaves of the state: the group and, where it sends nothing, the thread. -/
theorem cacheLine_eq (s : State) (sc ln : Nat) (drop : Bool) : cacheLine s sc ln drop = withMs s (cacheLine s sc ln drop).ms := by
  simp only [cacheLine]
  split
  · rfl
  · split
    · rfl
    · rfl

theorem foldl_cacheLine_eq (sc : Nat) (drop : Bool) (l : List Nat) : ∀ s : State,
    l.foldl (fun s ln => cacheLine s sc ln drop) s = withMs s (l.foldl (fun s ln => cacheLine s sc ln drop) s).ms := by
  induction l with
  | nil => exact fun s => rfl
  | cons ln l ih =>
    intro s
    rw [List.foldl_cons, ih, cacheLine_eq]
    rfl

/-! ### IINV (R263) -/

/-- The issuing thread stands among those of its team. -/
def Present (s : State) : Prop := ∃ x ∈ s.tm.threads, x.tid = s.th.tid

/-- What IINV does to code lines that a test names. -/
structure Dropped (s u : State) (named : CodeLine → Bool) : Prop where
  ms : u.ms = { s.ms with icache := s.ms.icache.filter fun c => !named c }
  th : u.th = { s.th with fetched := u.th.fetched }
  present : Present s → Present u
  kept : s.th.status ≠ .exited → Present s → s.th.fetched ⊆ u.th.fetched ∧
    ∀ c ∈ s.ms.icache, named c = true → c.bay = s.th.bay → c ∈ u.th.fetched
  same : (∀ c ∈ s.ms.icache, named c = false) → u = s

theorem Dropped.refl (s : State) : Dropped s s fun _ => false where
  ms := by simp
  th := rfl
  present := id
  kept _ _ := ⟨List.Subset.refl _, by simp⟩
  same _ := rfl

theorem Dropped.trans {s u v : State} {a b : CodeLine → Bool} (h : Dropped s u a) (k : Dropped u v b) : Dropped s v fun c => a c || b c where
  ms := by
    rw [k.ms, h.ms]
    simp [List.filter_filter, Bool.and_comm]
  th := by rw [k.th, h.th]
  present hp := k.present (h.present hp)
  kept hst hp := by
    obtain ⟨hsub, hmem⟩ := h.kept hst hp
    have hst' : u.th.status ≠ .exited := by rw [h.th]; exact hst
    have hbay : u.th.bay = s.th.bay := by rw [h.th]
    obtain ⟨ksub, kmem⟩ := k.kept hst' (h.present hp)
    refine ⟨List.Subset.trans hsub ksub, fun c hc hab hcb => ?_⟩
    cases ha : a c with
    | true => exact ksub (hmem c hc ha hcb)
    | false =>
      refine kmem c ?_ (by simpa [ha] using hab) (hcb.trans hbay.symm)
      rw [h.ms]
      exact List.mem_filter.mpr ⟨hc, by simp [ha]⟩
  same hnone := by
    have hu : u = s := h.same fun c hc => (Bool.or_eq_false_iff.mp (hnone c hc)).1
    refine (k.same fun c hc => ?_).trans hu
    exact (Bool.or_eq_false_iff.mp (hnone c (hu ▸ hc))).2

theorem tid_keepFetched (x : Thread) (gone : List CodeLine) : (x.keepFetched gone).tid = x.tid := rfl

/-- A state in which every thread of the focus's team keeps code lines that go. -/
def keptAll (s : State) (gone : List CodeLine) : State :=
  s.overTeams fun t => { t with threads := t.threads.map fun x => x.keepFetched gone }

theorem threads_keptAll (s : State) (gone : List CodeLine) :
    (keptAll s gone).tm.threads = s.tm.threads.map fun t => (if t.tid == s.th.tid then s.th else t).keepFetched gone := by
  simp only [keptAll, State.overTeams, State.flush, State.syncTm, List.map_map]
  rfl

theorem th_keptAll (s : State) (gone : List CodeLine) :
    (keptAll s gone).th = (((keptAll s gone).tm.threads.find? fun t => t.tid == s.th.tid).getD s.th) := rfl

/-- A thread among the threads kept that has the number of the focus is the focus's. -/
theorem eq_of_mem_keptAll {s : State} {gone : List CodeLine} {x : Thread} (hx : x ∈ (keptAll s gone).tm.threads) (ht : x.tid = s.th.tid) :
    x = s.th.keepFetched gone := by
  rw [threads_keptAll] at hx
  obtain ⟨t, -, rfl⟩ := List.mem_map.mp hx
  rw [tid_keepFetched] at ht
  split at ht
  · next h => rw [if_pos h]
  · next h => exact absurd (by simpa using ht) h

theorem th_keptAll_of_present {s : State} (h : Present s) (gone : List CodeLine) : (keptAll s gone).th = s.th.keepFetched gone := by
  obtain ⟨x, hx, hxt⟩ := h
  have hmem : s.th.keepFetched gone ∈ (keptAll s gone).tm.threads := by
    rw [threads_keptAll]
    exact List.mem_map.mpr ⟨x, hx, by rw [if_pos (by simp [hxt])]⟩
  rw [th_keptAll]
  cases hf : (keptAll s gone).tm.threads.find? fun t => t.tid == s.th.tid with
  | none => exact absurd (List.find?_eq_none.mp hf _ hmem) (by simp [tid_keepFetched])
  | some y => exact eq_of_mem_keptAll (List.mem_of_find?_eq_some hf) (by simpa using List.find?_some hf)

theorem th_keptAll_fetched (s : State) (gone : List CodeLine) :
    (keptAll s gone).th = { s.th with fetched := (keptAll s gone).th.fetched } := by
  rw [th_keptAll]
  cases hf : (keptAll s gone).tm.threads.find? fun t => t.tid == s.th.tid with
  | none => rfl
  | some y =>
    have hy : y = s.th.keepFetched gone := eq_of_mem_keptAll (List.mem_of_find?_eq_some hf) (by simpa using List.find?_some hf)
    rw [hy]
    rfl

theorem present_keptAll {s : State} (h : Present s) (gone : List CodeLine) : Present (keptAll s gone) := by
  refine ⟨s.th.keepFetched gone, ?_, by rw [th_keptAll_of_present h]⟩
  obtain ⟨x, hx, hxt⟩ := h
  rw [threads_keptAll]
  exact List.mem_map.mpr ⟨x, hx, by rw [if_pos (by simp [hxt])]⟩

theorem dropped_dropCode (s : State) (test : CodeLine → Bool) : Dropped s (s.dropCode test) test := by
  by_cases hgone : s.ms.icache.filter test = []
  · have hsame : s.dropCode test = s := if_pos (by simp [hgone])
    have hnone : ∀ c ∈ s.ms.icache, test c = false := fun c hc => by simpa using List.filter_eq_nil_iff.mp hgone c hc
    rw [hsame]
    refine ⟨?_, rfl, id, fun _ _ => ⟨List.Subset.refl _, fun c hc ht => ?_⟩, fun _ => rfl⟩
    · rw [List.filter_eq_self.mpr fun c hc => by simp [hnone c hc]]
    · rw [hnone c hc] at ht; cases ht
  · have heq : s.dropCode test = withMs (keptAll s (s.ms.icache.filter test)) { s.ms with icache := s.ms.icache.filter fun c => !test c } :=
      if_neg (by simpa using hgone)
    rw [heq]
    refine ⟨rfl, th_keptAll_fetched .., fun hp => present_keptAll hp _, fun hst hp => ?_, fun hnone => ?_⟩
    · rw [th_withMs, th_keptAll_of_present hp, Thread.keepFetched, if_neg (by simpa using hst)]
      refine ⟨List.subset_append_right _ _, fun c hc ht hb => List.mem_append_left _ ?_⟩
      exact List.mem_filter.mpr ⟨List.mem_filter.mpr ⟨hc, ht⟩, by simpa using hb⟩
    · exact absurd (List.filter_eq_nil_iff.mpr fun c hc => by simp [hnone c hc]) hgone

/-- The code lines that IINV names. -/
def iinvNames (w bay : Nat) (lines : List Nat) (c : CodeLine) : Bool := lines.contains c.line && iinvBay w bay c.bay

theorem iinvBay_eq (w : BitVec 2) (bay b : Nat) :
    iinvBay w.toNat bay b = if w = 0#2 then b == bay else if w = 1#2 then b / 8 == bay / 8 else true := by
  simp [iinvBay, BitVec.toNat_eq, clusterOf]

theorem dropped_foldl (w : Nat) (l : List Nat) : ∀ s : State,
    Dropped s (l.foldl (fun s ln => s.dropCode fun c => c.line == ln && iinvBay w s.th.bay c.bay) s) (iinvNames w s.th.bay l) := by
  induction l with
  | nil => exact fun s => (show iinvNames w s.th.bay [] = fun _ => false from rfl) ▸ Dropped.refl s
  | cons ln l ih =>
    intro s
    have hd := dropped_dropCode s fun c => c.line == ln && iinvBay w s.th.bay c.bay
    have hk := ih (s.dropCode fun c => c.line == ln && iinvBay w s.th.bay c.bay)
    have hbay : (s.dropCode fun c => c.line == ln && iinvBay w s.th.bay c.bay).th.bay = s.th.bay := by rw [hd.th]
    rw [hbay] at hk
    have hnames : iinvNames w s.th.bay (ln :: l) = fun c => (c.line == ln && iinvBay w s.th.bay c.bay) || iinvNames w s.th.bay l c := by
      funext c
      rw [iinvNames, iinvNames, List.contains_cons, Bool.and_or_distrib_right]
    rw [List.foldl_cons, hnames]
    exact hd.trans hk

/-! ### PREF (R264) -/

/-- The sectors of a line beside the pod lie beside it. -/
theorem isPod_sector {ha i : Nat} (h : isPod ha = false) (hi : i < 4) : isPod (16 * (ha / 64 * 4 + i)) = false := by
  have h : ¬ 2 ^ 52 ≤ ha % 2 ^ 72 := of_decide_eq_false h
  exact decide_eq_false (show ¬ 2 ^ 52 ≤ 16 * (ha / 64 * 4 + i) % 2 ^ 72 by omega)

theorem foldl_podFill_near {ha : Nat} (h : isPod ha = false) (who : ThreadRef) (s : State) :
    (rangeFrom (ha / 64 * 4) 4).foldl (podFill who) s = s := by
  have hfill : ∀ i < 4, podFill who s (ha / 64 * 4 + i) = s := fun i hi => if_pos (by simp [isPod_sector h hi])
  have h0 := hfill 0 (by decide)
  simp only [rangeFrom, List.foldl_cons, List.foldl_nil, Nat.add_assoc]
  rw [Nat.add_zero] at h0
  rw [h0, hfill 1 (by decide), hfill 2 (by decide), hfill 3 (by decide)]

section
variable {o : RFmt} {s : State} {e : TlbEnt}

/-- PREF of a held page beside the pod. -/
theorem exec_pref_held (hg : s.active o.g = true) (hm : Mapped s (s.srcPair o.a).toNat .load e) (hr : (s.srcPair o.a).toNat < 2 ^ 56)
    (hp : isPod (homeOf e (s.srcPair o.a).toNat) = false) :
    exec (.pref o) s = .next (
      if s.refLost && s.leavesDie e.leaf.toNat (homeOf e (s.srcPair o.a).toNat) 0 then countLink s
      else withMs s ((rangeFrom (homeOf e (s.srcPair o.a).toNat / 64 * 4) 4).foldl
        (fun ms q =>
          if secFailed ms s.th.bay (maxAlloc (leafAlloc e.leaf.toNat) (if o.w == 0 then 0 else 2)) q then ms
          else if o.w.toNat ≥ 2 then (if leafBias e.leaf.toNat then ms else l2Fill ms q)
          else (readSec ms s.th.bay (maxAlloc (leafAlloc e.leaf.toNat) (if o.w == 0 then 0 else 2)) q).2) s.ms)) := by
  have hwalk : walkAway s s.tm.ref.ctx s.th.bay (s.srcPair o.a).toNat = false := by simp [walkAway, hm.hit]
  refine congrArg Host.Outcome.next ((if_pos hg).trans ((if_neg (by simp [State.eaR, addrOk56_true hr])).trans
    ((if_neg (by simp [State.eaR, hwalk])).trans ?_)))
  rw [show s.eaR o = (s.srcPair o.a).toNat from rfl, translate_hit hm.hit hm.unlocked hm.allowed (w := s.accessor)]
  simp only
  rw [← show homeOf e (s.srcPair o.a).toNat = leafHa e.leaf.toNat (2 ^ Nat.log2 e.size) (s.srcPair o.a).toNat from rfl, foldl_podFill_near hp]
  rfl

end

/-- What CWB and CINV do to one line. -/
def lineAct (sc : Nat) (drop : Bool) (s : State) (ln : Nat) : State :=
  if sc = 3 then
    podLine { cacheLine s sc ln drop with
      ms := (List.range 4).foldl (fun ms i => l2WriteBack ms (4 * ln + i) drop) (cacheLine s sc ln drop).ms } ln drop
  else cacheLine s sc ln drop

theorem grp_lineAct (sc : Nat) (drop : Bool) (s : State) (ln : Nat) : (lineAct sc drop s ln).grp = s.grp := by
  have h : (cacheLine s sc ln drop).grp = s.grp := by rw [cacheLine_eq]; rfl
  rw [lineAct]
  split
  · exact h
  · exact h

theorem grp_foldl_lineAct (sc : Nat) (drop : Bool) (l : List Nat) : ∀ s : State, (l.foldl (lineAct sc drop) s).grp = s.grp := by
  induction l with
  | nil => exact fun s => rfl
  | cons ln l ih => exact fun s => (ih _).trans (grp_lineAct ..)

/-- How CWB and CINV end once their acts are done: at a stop, waiting for peers, or past the word. -/
def rangeEnd (u : State) : State := if u.grp.stop.isSome then u else if u.podAwaits then u.block .flush else u.awaitsNothing

/-- CWB and CINV that first issue. -/
theorem cacheRange_first {o : RFmt} {s : State} (hg : s.active o.g = true) (hs : s.th.sent = none) (drop : Bool) :
    cacheRange o s drop =
      rangeEnd (rangeWord s (s.srcPair o.a).toNat (s.src o.b).toNat fun u ln _ => lineAct (s.effScope o.w.toNat) drop u ln) := by
  have hact : ∀ (sc : Nat) (u : State) (ln : Nat), (if sc == 3 then
      podLine ((cacheLine u sc ln drop).mapMs fun ms => (rangeFrom (4 * ln) 4).foldl (fun ms q => l2WriteBack ms q drop) ms) ln drop
      else cacheLine u sc ln drop) = lineAct sc drop u ln := fun sc u ln => by
    simp only [lineAct, beq_iff_eq]
    rfl
  refine (if_pos hg).trans ?_
  simp only [hs, hact]
  rfl

/-- Settles O28. -/
theorem cacheControlResults : Obligations.CacheControlResults := by
  intro o s e hg hs hstop va n sc lines toHost acts
  have hthread : { s.th with sent := none } = s.th := by rw [← hs]
  have hend : ∀ ms, rangeEnd (withMs s ms) = withMs s ms := fun ms => by
    have hrest : (withMs s ms).podAwaits = false := by simp [State.podAwaits, hs]
    rw [rangeEnd, if_neg (by rw [show (withMs s ms).grp = s.grp from rfl, hstop]; simp), if_neg (by simp [hrest])]
    exact congrArg (fun t => withMs (withThread s t) ms) hthread
  refine ⟨congrArg Host.Outcome.next (if_pos hg), fun hn => ?_, fun hn hr i hi => ?_, fun hm hn hr hpage => ⟨fun hsc => ?_, fun p hp hsc => ?_, ?_⟩,
    fun hr => ?_, fun hm hr hp => ?_⟩
  · have hrange : ∀ drop, cacheRange o s drop = s := fun drop => by
      rw [cacheRange_first hg hs, show (s.src o.b).toNat = 0 from hn, rangeWord_empty]
      exact hend s.ms
    refine ⟨congrArg Host.Outcome.next (hrange _), congrArg Host.Outcome.next (hrange _), congrArg Host.Outcome.next ((if_pos hg).trans ?_)⟩
    rw [show (s.src o.b).toNat = 0 from hn, rangeWord_empty]
  · have hrange : ∀ drop, cacheRange o s drop = s.raise cRange va := fun drop => by
      rw [cacheRange_first hg hs, rangeWord_raises hn hr]
      rfl
    simp only [List.mem_cons, List.not_mem_nil, or_false] at hi
    rcases hi with rfl | rfl | rfl
    · exact congrArg Host.Outcome.next (hrange _)
    · exact congrArg Host.Outcome.next (hrange _)
    · exact congrArg Host.Outcome.next ((if_pos hg).trans (rangeWord_raises hn hr _))
  · have hrange : ∀ drop, cacheRange o s drop = acts drop := fun drop => by
      have hacts : acts drop = withMs s (acts drop).ms := by
        have hline : acts drop = lines.foldl (fun s ln => cacheLine s sc ln drop) s := by
          simp only [acts, if_neg hsc]
        rw [hline]
        exact foldl_cacheLine_eq ..
      rw [cacheRange_first hg hs, rangeWord_held hm hn hpage hr]
      refine (?_ : rangeEnd (acts drop) = acts drop)
      rw [hacts]
      exact hend _
    exact ⟨congrArg Host.Outcome.next (hrange _), congrArg Host.Outcome.next (hrange _)⟩
  · have hgrp : (acts p.2).grp = s.grp := grp_foldl_lineAct sc p.2 lines s
    have hrange : cacheRange o s p.2 = if (acts p.2).podAwaits then (acts p.2).block .flush else (acts p.2).awaitsNothing := by
      rw [cacheRange_first hg hs, rangeWord_held hm hn hpage hr]
      refine (if_neg (c := (acts p.2).grp.stop.isSome = true) ?_ : rangeEnd (acts p.2) = _)
      rw [hgrp, hstop]
      simp
    have hexec : exec p.1 s = .next (cacheRange o s p.2) := by
      simp only [List.mem_cons, List.not_mem_nil, or_false] at hp
      rcases hp with rfl | rfl
      · rfl
      · rfl
    rw [hexec, hrange]
    exact ⟨fun h => congrArg Host.Outcome.next (if_neg (by simp [h])), fun h => congrArg Host.Outcome.next (if_pos h)⟩
  · intro named
    have hd := dropped_foldl o.w.toNat lines s
    have hnames : named = iinvNames o.w.toNat s.th.bay lines := funext fun c => congrArg (lines.contains c.line && ·) (iinvBay_eq ..).symm
    refine ⟨_, congrArg Host.Outcome.next ((if_pos hg).trans (rangeWord_held hm hn hpage hr _)), ?_⟩
    rw [hnames]
    exact ⟨hd.ms, hd.th, fun hst hp => (hd.kept hst hp).2, hd.same⟩
  · exact congrArg Host.Outcome.next ((if_pos hg).trans (if_pos (by rw [show s.eaR o = va from rfl, addrOk56_false hr]; rfl)))
  · intro quarter lost
    rw [exec_pref_held hg hm hr hp]
    have hlost : (s.refLost && s.leavesDie e.leaf.toNat (homeOf e va) 0) = true ↔ lost := Bool.and_eq_true_iff
    have hw0 : (if (o.w == 0) = true then (0 : Nat) else 2) = if o.w = 0#2 then 0 else 2 := by simp
    refine ⟨fun h => congrArg Host.Outcome.next (if_pos (hlost.mpr h)), fun h hw => ?_, fun h hw => ?_⟩
    · refine congrArg Host.Outcome.next ((if_neg (mt hlost.mp h)).trans (congrArg (withMs s) ?_))
      have hret : retention (if o.w = 0#2 then 0 else 2) e = max (leafAlloc e.leaf.toNat) (if o.w = 0#2 then 0 else 2) := Nat.max_comm ..
      simp only [maxAlloc_eq, hw0, if_neg (Nat.not_le.mpr hw), ge_iff_le, quarter, hret]
      rfl
    · refine congrArg Host.Outcome.next ((if_neg (mt hlost.mp h)).trans (congrArg (withMs s) ?_))
      simp only [maxAlloc_eq, hw0, if_pos hw, ge_iff_le]
      rfl

end Sys2Proof.Proofs
end

section
/-! PROOFS. Accesses of a deterministic launch (R160, R161, R406, R407). -/

namespace Sys2Proof.Proofs

open Sys2Proof.Machine Sys2Proof.Spec

theorem length_logStore_le (log : List LogRec) (ha : Nat) (bs : List Byte) : (logStore log ha bs).length ≤ log.length + 1 := by
  rw [logStore]
  split
  · simp
  · simp

section
variable {s : State}

/-- A touch that spills no record. -/
theorem touch_eq {die ha : Nat} {red : Bool} {os : List Owner}
    (ht : touchLine s.ms.owners s.grid s.tm.ref.team (homeSlice die ha) (ha / 64) red = some os)
    (hsp : spilledBy s os = spilledBy s s.ms.owners) : s.touch die ha red = some (withMs s { s.ms with owners := os }) := by
  simp only [State.touch, ht]
  exact congrArg some (if_pos (beq_iff_eq.mpr hsp))

/-- A log that fits on chip writes nothing to its region. -/
theorem spillLog_short (h : s.tm.log.length ≤ 512) (old : List LogRec) : s.spillLog old = s := by
  simp [State.spillLog, List.drop_eq_nil_of_le h]

theorem wakeOwn_none (h : s.ms.latches = []) (line : Nat) : s.wakeOwn line = s := by
  have hms : ({ s.ms with latches := [] } : MemSys) = s.ms := by rw [← h]
  rw [State.wakeOwn, State.mapMs, h]
  exact congrArg (withMs s) hms

/-- The state once a line is touched and the log is another. -/
def logged (s : State) (os : List Owner) (log : List LogRec) : State :=
  { s with ms := { s.ms with owners := os }, tm := { s.tm with log := log } }

variable {die ha : Nat} {os : List Owner} (hl : s.lockedLog = none)
include hl

theorem viewLoad_eq (n : Nat) (ht : touchLine s.ms.owners s.grid s.tm.ref.team (homeSlice die ha) (ha / 64) false = some os)
    (hsp : spilledBy s os = spilledBy s s.ms.owners) :
    s.viewLoad die ha n = some (viewRead { s.ms with owners := os } s.grid s.tm.log ha n, withMs s { s.ms with owners := os }) := by
  rw [State.viewLoad, hl]
  simp only [Option.isSome_none, Bool.false_eq_true, if_false, touch_eq ht hsp]
  rfl

theorem viewStore_eq {bs : List Byte} (ht : touchLine s.ms.owners s.grid s.tm.ref.team (homeSlice die ha) (ha / 64) false = some os)
    (hsp : spilledBy s os = spilledBy s s.ms.owners) (hbs : bs.length ≤ 16) (hlen : s.tm.log.length < 512) (hlat : s.ms.latches = []) :
    s.viewStore die ha bs = some (logged s os (logStore s.tm.log ha bs)) := by
  have hnew : newRecords s.tm.log ha bs.length ≤ 1 := by
    rw [newRecords, if_pos hbs]
    split
    · exact Nat.le_refl _
    · exact Nat.zero_le _
  have hroom : ¬ (s.lockedLog.isSome || decide (s.tm.log.length + newRecords s.tm.log ha bs.length > logCapacity s.grid)) = true := fun h => by
    rw [hl] at h
    have hover : logCapacity s.grid < _ := of_decide_eq_true h
    rw [logCapacity] at hover
    omega
  have hshort := length_logStore_le s.tm.log ha bs
  rw [State.viewStore, if_neg hroom, touch_eq ht hsp]
  simp only [if_pos hbs]
  have hspill := spillLog_short (s := logged s os (logStore s.tm.log ha bs)) (Nat.le_trans hshort (by omega)) s.tm.log
  have hwake := wakeOwn_none (s := logged s os (logStore s.tm.log ha bs)) hlat (ha / 64)
  exact congrArg some ((congrArg (State.wakeOwn · (ha / 64)) hspill).trans hwake)

theorem viewRed_eq (n op : Nat) (v : DWord) (ht : touchLine s.ms.owners s.grid s.tm.ref.team (homeSlice die ha) (ha / 64) true = some os)
    (hsp : spilledBy s os = spilledBy s s.ms.owners) (hlen : s.tm.log.length < 512) :
    s.viewRed die ha n op v = some (logged s os (s.tm.log ++ [.red ha n op v s.th.tid s.turns])) := by
  have hroom : ¬ (s.lockedLog.isSome || decide (s.tm.log.length + 1 > logCapacity s.grid)) = true := fun h => by
    rw [hl] at h
    have hover : logCapacity s.grid < _ := of_decide_eq_true h
    rw [logCapacity] at hover
    omega
  rw [State.viewRed, State.viewRedOf, if_neg hroom, touch_eq ht hsp]
  have hspill := spillLog_short (s := logged s os (s.tm.log ++ [.red ha n op v s.th.tid s.turns])) (by simp [logged]; omega) s.tm.log
  exact congrArg some hspill

end

section
variable {s u : State} {e : TlbEnt} {va : Nat}

/-- A plain load that passes its checks, in any launch. -/
theorem loadGlobal_plain {n x : Nat} {bs : List Byte} (h : Reaches s va n .load e)
    (hload : s.gload e.leaf.toNat (homeOf e va) n x = some (bs, u)) (k : List Byte → State → State) : loadGlobal s va n false x k = k bs u := by
  simp only [loadGlobal, Bool.false_eq_true, if_false]
  rw [checkGlobal_of_reaches h]
  simp only [hload]

/-- A plain store of a deterministic launch that passes its checks. -/
theorem storeGlobal_det {bs : List Byte} (hd : s.det = true) (hs : s.th.sent = none) (h : Reaches s va bs.length .store e) {x : Nat}
    (hstore : s.viewStore (leafHome e.leaf.toNat) (homeOf e va) bs = some u) : storeGlobal s va bs false x = u := by
  have hrec : (if (s.th.relFence != 0) = true then s.recordRelease e.leaf.toNat (homeOf e va) else s) = s := by
    rw [State.recordRelease, if_pos hd, ite_self]
  have hgstore : s.gstore e.leaf.toNat (homeOf e va) bs x = some u := (if_pos hd).trans hstore
  simp only [storeGlobal, flagSent_none hs, Bool.false_and, Bool.false_or, Bool.false_eq_true, if_false]
  rw [checkGlobal_of_reaches h]
  simp only [hrec, hgstore]

/-- A reduction of a deterministic launch that passes its checks. -/
theorem reduction_det {n sc op b : Nat} (hd : s.det = true) (h : Reaches s va n .atomic e)
    (hred : s.viewRed (leafHome e.leaf.toNat) (homeOf e va) n op (BitVec.ofNat 64 b) = some u) : reduction s va n sc op b = u := by
  simp only [reduction]
  rw [checkGlobal_of_reaches h]
  simp only [hd, if_true, hred]

end

/-- Settles O29. -/
theorem deterministicAccessResults : Obligations.DeterministicAccessResults := by
  intro s e hd hdt hl
  refine ⟨fun o os hg ho => ?_, fun f o os hg => ?_⟩
  · intro va ha n slice s' ht hsp
    have hord : isOrdered o.o = false := ho
    refine ⟨fun h => ?_, fun h hn hlen hlat hs => ?_⟩
    · refine congrArg Host.Outcome.next ((if_pos hg).trans ?_)
      have hload : s.gload e.leaf.toNat ha n (scopeOf o.o) = some (viewRead s'.ms s.grid s.tm.log ha n, s') :=
        (if_pos hd).trans ((if_pos hdt).trans (viewLoad_eq hl n ht hsp))
      rw [eaM_eq_eaOf, hord, ← memSize_div, loadGlobal_plain h hload, pendTo_eq]
    · have hsize : (toBytes n (s.srcs o.d (n / 4))).length = n := length_toBytes ..
      rw [exec_st hg, hord]
      exact congrArg Host.Outcome.next (storeGlobal_det hd hs (hsize.symm ▸ h) (viewStore_eq hl ht hsp (hsize.symm ▸ hn) hlen hlat))
  · intro va ha ht hsp h hlen
    refine congrArg Host.Outcome.next ((if_pos hg).trans ?_)
    have hval : BitVec.ofNat 64 (s.src o.b).toNat = (s.src o.b).setWidth 64 := BitVec.ofNat_toNat ..
    refine reduction_det hd h ?_
    rw [hval]
    exact viewRed_eq hl 4 f.toNat _ ht hsp hlen

end Sys2Proof.Proofs
end

section
/-! PROOFS. Handles (R110, R116 to R120, R270 to R272). -/

namespace Sys2Proof.Proofs

open Sys2Proof.Machine Sys2Proof.Spec

/-! ### Codes and HSTAT -/

theorem hcode_eq (x : HState) : hcode x = handleCode x := by cases x <;> rfl

theorem hstateOf_handleCode (x : HState) : hstateOf (handleCode x) = x := by cases x <;> rfl

theorem handleCode_hstateOf {n : Nat} (h : n < 4) : handleCode (hstateOf n) = n := by interval_cases n <;> rfl

theorem handleCode_lt (x : HState) : handleCode x < 4 := by cases x <;> decide

theorem hstatAfter_eq (old : Word) (h want seen : Nat) : hstatAfter old h want seen = trapHstat old h (want % 4) (seen % 4) := by
  have hcnt : (if bits old.toNat 15 8 == 255 then 255 else bits old.toNat 15 8 + 1) = min 255 (old.toNat / 256 % 256 + 1) := by
    simp only [bits, beq_iff_eq]
    split <;> omega
  simp only [hstatAfter, hcnt, trapHstat]
  norm_num

theorem updAt_eq_set {α : Type} {l : List α} {i : Nat} {x : α} (h : l[i]? = some x) (f : α → α) : updAt l i f = l.set i (f x) := by
  simp [updAt, h]

/-! ### Releases and acquires of team scope -/

theorem release_team (s : State) : s.release 0 = s := by
  rw [State.release]
  split
  · rfl
  · rfl

theorem acquire_team (s : State) : s.acquire 0 = s := by
  rw [State.acquire]
  split
  · rfl
  · rfl

/-! ### Regions (R110, R112) -/

theorem regionSpace_eq (r : DWord) : regionSpace r = r.toNat / 2 ^ 60 % 8 := rfl

theorem regionOffset_eq (r : DWord) : regionOffset r = r.toNat % 2 ^ 32 := by
  rw [regionOffset, bits, Nat.pow_zero, Nat.div_one]

theorem regionOk_of_held {t : Team} {r : DWord} {len : Nat} (h : RegionHeld t r len) : regionOk r = true ∧ t.regionFits r len = true := by
  rw [RegionHeld] at h
  by_cases hs : r.getLsbD 63 = true
  · rw [if_pos hs] at h
    obtain ⟨hsp, hres, hfit⟩ := h
    have hst : regionIsStore r = true := hs
    have hbits : bits r.toNat 59 32 = 0 := hres
    rw [regionOk, Team.regionFits, hst, if_pos rfl, hbits, regionSpace_eq, regionOffset_eq]
    exact ⟨by simpa using hsp, by simpa using hfit⟩
  · rw [if_neg hs] at h
    have hst : regionIsStore r = false := by simpa [regionIsStore] using hs
    have hbits : bits r.toNat 62 56 = 0 := by rw [bits]; omega
    rw [regionOk, Team.regionFits, hst, if_neg (by simp), hbits]
    exact ⟨rfl, rfl⟩

/-! ### Transitions (R117, R272) -/

section
variable {t : Team} {h : Nat} {x : Handle} (hx : t.handles[h]? = some x)
include hx

theorem handle_eq : t.handle h = x := by
  simp [Team.handle, nth, hx]

/-- A handle that no HSET waits for enters a state. -/
theorem enterHandle_eq (hno : ∀ w ∈ t.hwaits, w.h = h → w.sets = none) (st : HState) : t.enterHandle h st = handleEntered t h x st := by
  have hset : updAt t.handles h (fun x => { x with st := st }) = t.handles.set h { x with st := st } := updAt_eq_set hx _
  have hhandle : ({ t with handles := t.handles.set h { x with st := st } } : Team).handle h = { x with st := st } := by
    have hlt : h < t.handles.length := (List.getElem?_eq_some_iff.mp hx).1
    simp [Team.handle, nth, hlt]
  have hmap : (t.hwaits.map fun (w : HWait) => if w.h == h && w.sets.isNone && w.st == st then { w with done := true } else w) =
      t.hwaits.map fun w => if w.h = h ∧ w.sets = none ∧ w.st = st then { w with done := true } else w := by
    refine List.map_congr_left fun w _ => ?_
    simp [and_assoc]
  rw [Team.enterHandle, hset, Team.handleIn]
  simp only [hhandle, hmap]
  have hnone : ((t.hwaits.map fun w => if w.h = h ∧ w.sets = none ∧ w.st = st then { w with done := true } else w).find? fun w =>
      w.due { x with st := st } h) = none := by
    rw [List.find?_eq_none]
    intro w hw
    obtain ⟨v, hv, rfl⟩ := List.mem_map.mp hw
    by_cases hvh : v.h = h
    · simp only [HWait.due]
      split
      · next hc => simp [hc.2.1]
      · simp [hno v hv hvh]
    · simp [HWait.due, hvh]
  rw [hnone]
  rfl

/-- An HSET that waits for the state entered makes its own transition. -/
theorem enterHandle_waiting (hr : x.readers = 0) {tid : Nat} {st sets : HState} (hw : t.hwaits = [⟨tid, h, st, some sets, false⟩]) :
    t.enterHandle h st = { t with handles := t.handles.set h { x with st := sets }, hwaits := [⟨tid, h, st, some sets, true⟩] } := by
  have hlt : h < t.handles.length := (List.getElem?_eq_some_iff.mp hx).1
  have hset : updAt t.handles h (fun x => { x with st := st }) = t.handles.set h { x with st := st } := updAt_eq_set hx _
  rw [Team.enterHandle, hset, hw]
  simp [Team.handleIn, hlt, Team.handle, nth, HWait.due, Handle.counts, hr, updAt]

end

/-! ### The words (R270 to R272) -/

section
variable {o : EFmt} {s : State} {h : Nat}

theorem handleWord_handled (hh : Handled o s h) (want : Option HState) (k : Nat → State → State) : handleWord o s want k = k h s := by
  have hn : o.arg.toNat % 64 = h := hh.number
  rw [handleWord, if_pos hh.active, if_neg (by simp [hh.home])]
  simp only [hn]
  exact if_neg (Nat.not_le.mpr hh.declared)

theorem handleWord_migrated (hg : s.active o.g = true) (hm : s.th.migrated = true) (want : Option HState) (k : Nat → State → State) :
    handleWord o s want k = s.raise cMigrated 0 := (if_pos hg).trans (if_pos hm)

theorem handleWord_range (hg : s.active o.g = true) (hm : s.th.migrated = false) (hr : s.tm.decl.handles ≤ o.arg.toNat % 64)
    (want : Option HState) (k : Nat → State → State) : handleWord o s want k = s.handleRange (o.arg.toNat % 64) want :=
  (if_pos hg).trans ((if_neg (by simp [hm])).trans (if_pos hr))

/-- The handle-range fault. -/
theorem handleRange_eq (s : State) (h : Nat) (want : Option HState) : ∃ a b n, a < 4 ∧ b < 4 ∧ (∀ x, want = some x → a = handleCode x) ∧
    s.handleRange h want = State.raise { s with draws := n, tm := { s.tm with hstat := trapHstat s.tm.hstat h a b } } cHandleRange 0 := by
  have hcode : ∀ x : HState, hcode x % 4 = handleCode x := fun x => by rw [hcode_eq, Nat.mod_eq_of_lt (handleCode_lt x)]
  refine ⟨_ % 4, _ % 4, s.draws + 1 + 1, Nat.mod_lt _ (by decide), Nat.mod_lt _ (by decide), fun x hx => ?_,
    congrArg (fun v => State.raise { s with draws := s.draws + 1 + 1, tm := { s.tm with hstat := v } } cHandleRange 0) (hstatAfter_eq ..)⟩
  rw [hx]
  exact hcode x

theorem handleTrap_eq {x : Handle} (hx : s.tm.handles[h]? = some x) (want : HState) : s.handleTrap h want =
    State.raise { s with tm := { s.tm with hstat := trapHstat s.tm.hstat h (handleCode want) (handleCode x.counts) } } cHandleState 0 := by
  rw [State.handleTrap, handle_eq hx, hcode_eq, hcode_eq]
  exact congrArg (fun v => State.raise { s with tm := { s.tm with hstat := v } } cHandleState 0)
    ((hstatAfter_eq ..).trans (by rw [Nat.mod_eq_of_lt (handleCode_lt _), Nat.mod_eq_of_lt (handleCode_lt _)]))

/-- What HSET and HWAIT do to a handle of which the thread does not wait. -/
theorem exec_hsetFull (hh : Handled o s h) {x : Handle} (hx : s.tm.handles[h]? = some x) (hmine : s.myHWait = none) :
    exec (.hsetFull o) s = .next (match x.counts with
      | .free => s.mapTm fun t => t.enterHandle h .full
      | .filling | .full => s.handleTrap h .free
      | .draining => s.startHWait h .free (some .full)) := by
  refine congrArg Host.Outcome.next ((handleWord_handled hh _ _).trans ?_)
  simp only [hmine, handle_eq hx, release_team] <;> cases x.counts <;> rfl

theorem exec_hsetFree (hh : Handled o s h) {x : Handle} (hx : s.tm.handles[h]? = some x) (hmine : s.myHWait = none) :
    exec (.hsetFree o) s = .next (match x.counts with
      | .full => if x.readers == 0 then s.mapTm fun t => t.enterHandle h .free else s.startHWait h .full (some .free)
      | .filling => s.startHWait h .full (some .free)
      | .free | .draining => s.handleTrap h .full) := by
  refine congrArg Host.Outcome.next ((handleWord_handled hh _ _).trans ?_)
  simp only [hmine, handle_eq hx] <;> cases x.counts <;> rfl

theorem exec_hwait (hh : Handled o s h) {x : Handle} (hx : s.tm.handles[h]? = some x) (hmine : s.myHWait = none) :
    exec (.hwait o) s = .next (if x.st == hstateOf o.d.toNat then s else s.startHWait h (hstateOf o.d.toNat) none) := by
  refine congrArg Host.Outcome.next ((handleWord_handled hh _ _).trans ?_)
  simp only [hmine, handle_eq hx, acquire_team]

/-- A handle word whose thread waits. -/
theorem exec_waiting (hh : Handled o s h) {w : HWait} (hmine : s.myHWait = some w) {i : Instr}
    (hi : i ∈ [Instr.hsetFull o, .hsetFree o, .hwait o]) :
    exec i s = .next (if w.done then { s with tm := waitOver s.tm s.th.tid } else s.block .handle) := by
  simp only [List.mem_cons, List.not_mem_nil, or_false] at hi
  rcases hi with rfl | rfl | rfl
  · refine congrArg Host.Outcome.next ((handleWord_handled hh _ _).trans ?_)
    simp only [hmine]
    rfl
  · refine congrArg Host.Outcome.next ((handleWord_handled hh _ _).trans ?_)
    simp only [hmine]
    rfl
  · refine congrArg Host.Outcome.next ((handleWord_handled hh _ _).trans ?_)
    simp only [hmine, handleWait, acquire_team]
    rfl

/-- The words of major 0x2E (R270), each with the state that it wants. -/
theorem exec_handle_word (o : EFmt) (s : State) {p : Instr × Option Nat} (hd : o.d.toNat < 4)
    (hp : p ∈ [(Instr.hsetBind o, some 0), (.hsetFull o, some 0), (.hsetFree o, some 2), (.hwait o, some o.d.toNat), (.hq o, none)]) :
    ∃ want k, exec p.1 s = .next (handleWord o s want k) ∧ want.map handleCode = p.2 := by
  simp only [List.mem_cons, List.not_mem_nil, or_false] at hp
  rcases hp with rfl | rfl | rfl | rfl | rfl
  · exact ⟨some .free, _, rfl, rfl⟩
  · exact ⟨some .free, _, rfl, rfl⟩
  · exact ⟨some .full, _, rfl, rfl⟩
  · exact ⟨some (hstateOf o.d.toNat), _, rfl, congrArg some (handleCode_hstateOf hd)⟩
  · exact ⟨none, _, rfl, rfl⟩

theorem exec_handle_words (o : EFmt) (s : State) {i : Instr} (hi : i ∈ [Instr.hsetBind o, .hsetFull o, .hsetFree o, .hwait o, .hq o]) :
    ∃ want k, exec i s = .next (handleWord o s want k) := by
  simp only [List.mem_cons, List.not_mem_nil, or_false] at hi
  rcases hi with rfl | rfl | rfl | rfl | rfl
  all_goals exact ⟨_, _, rfl⟩

/-- HSET.bind of a free handle (R271). -/
theorem exec_hsetBind (hh : Handled o s h) {x : Handle} (hx : s.tm.handles[h]? = some x) (hfree : x.counts = .free)
    (hheld : RegionHeld s.tm (s.srcPair o.a) (s.src (o.a + 2)).toNat) : exec (.hsetBind o) s =
      .next { s with tm := { s.tm with handles := s.tm.handles.set h { x with region := s.srcPair o.a, len := s.src (o.a + 2) } } } := by
  obtain ⟨hok, hfits⟩ := regionOk_of_held hheld
  refine congrArg Host.Outcome.next ((handleWord_handled hh _ _).trans ((if_neg ?_).trans ((if_neg ?_).trans ((if_neg ?_).trans ?_))))
  · simp [handle_eq hx, hfree]
  · rw [hok]; decide
  · rw [hfits]; decide
  · exact congrArg (fun l => { s with tm := { s.tm with handles := l } }) (updAt_eq_set hx _)

/-- HSET.bind of a handle that is not free. -/
theorem exec_hsetBind_trap (hh : Handled o s h) {x : Handle} (hx : s.tm.handles[h]? = some x) (hne : x.counts ≠ .free) :
    exec (.hsetBind o) s = .next (s.handleTrap h .free) :=
  congrArg Host.Outcome.next ((handleWord_handled hh _ _).trans (if_pos (by simpa [handle_eq hx] using hne)))

end

/-- Settles O42. -/
theorem handleResults : Obligations.HandleResults := by
  refine ⟨fun o s h x hh hx => ?_, fun t h x tid st sets hx hr hw => enterHandle_waiting hx hr hw,
    fun o s hg => ⟨fun hm i hi => ?_, fun hm hr hd p hp => ?_⟩⟩
  · intro st r len trap waits
    have hst : x.counts = st := rfl
    have hwaits : ∀ (st : HState) (sets : Option HState), (s.startHWait h st sets).th = { s.th with status := .blocked .handle, issued := s.grp.words } ∧
        (s.startHWait h st sets).ms = s.ms ∧ (s.startHWait h st sets).tm = { s.tm with hwaits := s.tm.hwaits ++ [⟨s.th.tid, h, st, sets, false⟩] } :=
      fun st sets => ⟨rfl, rfl, rfl⟩
    refine ⟨fun hfree hheld => exec_hsetBind hh hx hfree hheld,
      fun hne => (exec_hsetBind_trap hh hx hne).trans (congrArg Host.Outcome.next (handleTrap_eq hx _)), ?_,
      fun hmine => ?_, fun w hw => ⟨fun hdone i hi => ?_, fun hdone i hi => ?_⟩⟩
    · refine congrArg Host.Outcome.next ((handleWord_handled hh _ _).trans ?_)
      rw [handle_eq hx, hcode_eq]
      rfl
    · have hnone : s.myHWait = none := List.find?_eq_none.mpr fun w hw => by simpa using hmine w hw
      have hsetFull := exec_hsetFull hh hx hnone
      have hsetFree := exec_hsetFree hh hx hnone
      have hwait := exec_hwait hh hx hnone
      rw [hst] at hsetFull hsetFree
      refine ⟨fun hno => ⟨fun hfree => ?_, fun hf hr => ?_⟩, fun hc => ?_, fun hc => ?_, fun hc => ?_, fun hc => ?_, fun hc => ?_, fun h4 hc => ?_⟩
      · rw [hsetFull, hfree]
        exact congrArg (fun t => Host.Outcome.next { s with tm := t }) (enterHandle_eq hx hno _)
      · rw [hsetFree, hf]
        simp only [hr, beq_self_eq_true, if_true]
        exact congrArg (fun t => Host.Outcome.next { s with tm := t }) (enterHandle_eq hx hno _)
      · rw [hsetFull]
        rcases hc with hc | hc
        · rw [hc]; exact congrArg Host.Outcome.next (handleTrap_eq hx _)
        · rw [hc]; exact congrArg Host.Outcome.next (handleTrap_eq hx _)
      · rw [hsetFree]
        rcases hc with hc | hc
        · rw [hc]; exact congrArg Host.Outcome.next (handleTrap_eq hx _)
        · rw [hc]; exact congrArg Host.Outcome.next (handleTrap_eq hx _)
      · rw [hc] at hsetFull
        exact ⟨_, hsetFull, hwaits ..⟩
      · rcases hc with hc | ⟨hc, hr⟩
        · rw [hc] at hsetFree
          exact ⟨_, hsetFree, hwaits ..⟩
        · rw [hc] at hsetFree
          exact ⟨_, hsetFree.trans (congrArg Host.Outcome.next (if_neg (by simp; omega))), hwaits ..⟩
      · rw [hwait, ← hc, hstateOf_handleCode]
        simp
      · have hne : ¬ (x.st == hstateOf o.d.toNat) = true := by
          rw [beq_iff_eq]
          rintro heq
          exact hc (by rw [heq, handleCode_hstateOf h4])
        exact ⟨_, hwait.trans (congrArg Host.Outcome.next (if_neg hne)), hwaits ..⟩
    · rw [exec_waiting hh hw hi, hdone]
      rfl
    · exact ⟨_, exec_waiting hh hw hi, by rw [hdone]; rfl, by rw [hdone]; rfl⟩
  · obtain ⟨want, k, hexec⟩ := exec_handle_words o s hi
    exact hexec.trans (congrArg Host.Outcome.next (handleWord_migrated hg hm want k))
  · obtain ⟨want, k, hexec, hwant⟩ := exec_handle_word o s hd hp
    obtain ⟨a, b, n, ha, hb, hcode, heq⟩ := handleRange_eq s (o.arg.toNat % 64) want
    refine ⟨a, b, ha, hb, fun y hy => ?_, n, hexec.trans (congrArg Host.Outcome.next ((handleWord_range hg hm hr want k).trans heq))⟩
    rw [hy] at hwant
    obtain ⟨z, hz, rfl⟩ := Option.map_eq_some_iff.mp hwant
    exact hcode z hz

end Sys2Proof.Proofs
end

section
/-! PROOFS. MXOP, MXWAIT and ENQ (R275 to R285). -/

namespace Sys2Proof.Proofs

open Sys2Proof.Machine Sys2Proof.Spec

theorem badIn_of_sound {t : Team} (h : t.badStore = []) (sp o n : Nat) : t.badIn sp o n = none := by
  simp [Team.badIn, h]

/-! ### MXOP and MXWAIT -/

theorem checkMxBlk_checked {s : State} {off : Nat} {blk : List Byte} (hh : ∀ h ∈ (MxBlk.ofBytes blk).named, h.1 < s.tm.decl.handles)
    (hf : ∀ f ∈ (MxBlk.ofBytes blk).footprints, f.stop ≤ s.tm.storeSize f.space) (k : State → State) :
    checkMxBlk s off blk k = if mxParamOk s.tm blk then k s else s.raise cMatrix off := by
  have hnamed : ((MxBlk.ofBytes blk).named.find? fun h => h.1 ≥ s.tm.decl.handles) = none :=
    List.find?_eq_none.mpr fun h hm => by have := hh h hm; simp; omega
  have hfoot : ((MxBlk.ofBytes blk).footprints.find? fun f => f.stop > s.tm.storeSize f.space) = none :=
    List.find?_eq_none.mpr fun f hm => by have := hf f hm; simp; omega
  simp only [checkMxBlk, hnamed, hfoot]

section
variable {o : EFmt} {s : State} {n off : Nat} {blk : List Byte} {st : Stream} (hst : s.tm.streams[n]? = some st)
include hst

theorem mxAppend_appends (hc : s.th.copy = none) (hd : s.det = false) (h : st.jobs.length < 8) : mxAppend o s n off blk = { s with
    th := { s.th with pending := s.th.pending ++ [.reg o.d.toNat (st.tick + 1)] }
    tm := { s.tm with
      streams := s.tm.streams.set n { st with tick := st.tick + 1, queue := st.queue ++ [⟨blk, st.tick + 1, off, false, s.tm.mxOrder⟩] }
      mxOrder := s.tm.mxOrder + 1 } } := by
  have hnth : nth s.tm.streams n ⟨0, 0, [], none⟩ = st := by simp [nth, hst]
  have hcopy : { s.th with copy := none } = s.th := by rw [← hc]
  rw [mxAppend, hnth]
  refine (if_neg (Nat.not_le.mpr h)).trans ?_
  simp only [hd, Bool.false_and]
  refine (pendTo_one ..).trans ?_
  rw [BitVec.ofNat_toNat, BitVec.setWidth_eq]
  exact congrArg₂ (fun (t : Thread) (l : List Stream) =>
    withPending { s with th := t, tm := { s.tm with streams := l, mxOrder := s.tm.mxOrder + 1 } } [.reg o.d.toNat (st.tick + 1)])
    hcopy (updAt_eq_set hst _)

theorem mxAppend_waits (h : 8 ≤ st.jobs.length) : mxAppend o s n off blk = (s.mapTh fun t => { t with copy := some blk }).block .stream := by
  have hnth : nth s.tm.streams n ⟨0, 0, [], none⟩ = st := by simp [nth, hst]
  rw [mxAppend, hnth]
  exact if_pos h

end

/-- The checks that MXOP and MXWAIT share (R275, R279). -/
def streamChecks (o : EFmt) (s : State) (k : State) : State :=
  if s.th.migrated then s.raise cMigrated 0 else if o.arg.toNat % 4 ≥ s.tm.decl.streams then s.raise cStreamRange 0 else k

theorem streamChecks_passed {o : EFmt} {s : State} (hm : s.th.migrated = false) (hn : o.arg.toNat % 4 < s.tm.decl.streams) (k : State) :
    streamChecks o s k = k := (if_neg (by simp [hm])).trans (if_neg (Nat.not_le.mpr hn))

theorem exec_stream_word {o : EFmt} {s : State} (hg : s.active o.g = true) {i : Instr} (hi : i ∈ [Instr.mxop o, .mxwait o]) :
    ∃ k, exec i s = .next (streamChecks o s k) := by
  simp only [List.mem_cons, List.not_mem_nil, or_false] at hi
  rcases hi with rfl | rfl
  all_goals exact ⟨_, congrArg Host.Outcome.next (if_pos hg)⟩

section
variable {o : EFmt} {s : State} (hg : s.active o.g = true) (hm : s.th.migrated = false) (hn : o.arg.toNat % 4 < s.tm.decl.streams)
include hg hm hn

/-- MXOP on a stream of the team, when it first issues. -/
theorem exec_mxop (hc : s.th.copy = none) : exec (.mxop o) s = .next (
    if (s.src o.a).toNat % 64 != 0 then s.raise cAlign (s.src o.a).toNat
    else if (s.src o.a).toNat + 64 > s.tm.decl.lstore then s.raise cBounds (s.src o.a).toNat
    else
      match s.tm.badIn 0 (s.src o.a).toNat 64 with
      | some q => s.raise cDataError (16 * q)
      | none => checkMxBlk s (s.src o.a).toNat (s.tm.lst.read (s.src o.a).toNat 64) fun s' =>
          mxAppend o s' (o.arg.toNat % 4) (s.src o.a).toNat (s.tm.lst.read (s.src o.a).toNat 64)) := by
  refine congrArg Host.Outcome.next ((if_pos hg).trans ((streamChecks_passed hm hn _).trans ?_))
  simp only [hc] <;> rfl

/-- MXOP whose block passes the checks before R275's last (step by step). -/
theorem exec_mxop_checked (hc : s.th.copy = none) (ha : (s.src o.a).toNat % 64 = 0) (hb : (s.src o.a).toNat + 64 ≤ s.tm.decl.lstore)
    (hbad : s.tm.badStore = []) (hh : ∀ h ∈ (MxBlk.ofBytes (s.tm.lst.read (s.src o.a).toNat 64)).named, h.1 < s.tm.decl.handles)
    (hf : ∀ f ∈ (MxBlk.ofBytes (s.tm.lst.read (s.src o.a).toNat 64)).footprints, f.stop ≤ s.tm.storeSize f.space) :
    exec (.mxop o) s = .next (
      if mxParamOk s.tm (s.tm.lst.read (s.src o.a).toNat 64) then
        mxAppend o s (o.arg.toNat % 4) (s.src o.a).toNat (s.tm.lst.read (s.src o.a).toNat 64)
      else s.raise cMatrix (s.src o.a).toNat) := by
  rw [exec_mxop hg hm hn hc, if_neg (by simpa using ha), if_neg (Nat.not_lt.mpr hb), badIn_of_sound hbad]
  exact congrArg Host.Outcome.next (checkMxBlk_checked hh hf _)

/-- MXWAIT on a stream of the team, when it first issues. -/
theorem exec_mxwait (hw : s.th.woke = none) {st : Stream} (hst : s.tm.streams[o.arg.toNat % 4]? = some st) : exec (.mxwait o) s = .next (
    if st.jobs.all fun j => countBefore st.tick j.tick then s
    else (s.mapTh fun t => { t with woke := some (st.tick.setWidth 64) }).block .stream) := by
  have hnth : nth s.tm.streams (o.arg.toNat % 4) ⟨0, 0, [], none⟩ = st := by simp [nth, hst]
  have hwoke : (s.mapTh fun t => { t with woke := none }) = s := congrArg (withThread s) (show { s.th with woke := none } = s.th by rw [← hw])
  refine congrArg Host.Outcome.next ((if_pos hg).trans ((streamChecks_passed hm hn _).trans ?_))
  simp only [hnth, hw, acquire_team, hwoke]

end

/-- Settles O43. -/
theorem matrixWordResults : Obligations.MatrixWordResults := by
  intro o s hg n off blk b job
  refine ⟨fun i hi => ⟨fun hm => ?_, fun hm hr => ?_⟩, fun hm hn hc => ⟨fun ha => ?_, fun ha hb => ?_, fun ha hb hbad hh hf => ⟨fun hp => ?_, fun hp hd st hst => ⟨fun hj => ?_, fun hj => ?_⟩⟩⟩,
    fun hm hn hw hd st hst => ⟨fun hj => ?_, fun j hj ht => ?_⟩⟩
  · obtain ⟨k, hk⟩ := exec_stream_word hg hi
    exact hk.trans (congrArg Host.Outcome.next (if_pos hm))
  · obtain ⟨k, hk⟩ := exec_stream_word hg hi
    exact hk.trans (congrArg Host.Outcome.next ((if_neg (by simp [hm])).trans (if_pos hr)))
  · exact (exec_mxop hg hm hn hc).trans (congrArg Host.Outcome.next (if_pos (by simpa using ha)))
  · exact (exec_mxop hg hm hn hc).trans (congrArg Host.Outcome.next ((if_neg (by simpa using ha)).trans (if_pos hb)))
  · rw [exec_mxop_checked hg hm hn hc ha hb hbad hh hf, if_neg (Bool.eq_false_iff.mp hp)]
  · rw [exec_mxop_checked hg hm hn hc ha hb hbad hh hf, if_pos hp]
    exact congrArg Host.Outcome.next (mxAppend_appends hst hc hd hj)
  · rw [exec_mxop_checked hg hm hn hc ha hb hbad hh hf, if_pos hp, mxAppend_waits hst hj]
    exact ⟨_, rfl, rfl, rfl, rfl⟩
  · exact (exec_mxwait hg hm hn hw hst).trans (congrArg Host.Outcome.next (if_pos (by rw [hj]; rfl)))
  · have hleft : ¬ (st.jobs.all fun j => countBefore st.tick j.tick) = true := by
      rw [List.all_eq_true]
      intro hall
      have hb := hall j hj
      rw [ht] at hb
      simp [countBefore] at hb
    exact ⟨_, (exec_mxwait hg hm hn hw hst).trans (congrArg Host.Outcome.next (if_neg hleft)), rfl, rfl, rfl⟩

/-! ### ENQ (R280 to R285) -/

theorem zeroBytes_one (c : List Byte) (k : Nat) : zeroBytes c k 1 = true ↔ c.getD k 0 = 0#8 := by
  rw [zeroBytes, List.getD_eq_getElem?_getD]
  by_cases h : k < c.length
  · rw [List.drop_eq_getElem_cons h, List.take_succ_cons, List.take_zero, List.getElem?_eq_getElem h]
    simp
  · simp [List.drop_eq_nil_of_le (Nat.le_of_not_lt h), List.getElem?_eq_none (Nat.le_of_not_lt h)]

theorem cardType_iff (red : Bool) (ty : Nat) : (!cardTypeOk ty || (red && !cardTypeReduced ty)) = false ↔
    ty ∈ (if red then [1, 2, 3] else [1, 2, 3, 4, 5, 6, 0x10, 0x11, 0x12, 0x13]) := by
  cases red
  · simp [cardTypeOk]
    omega
  · simp [cardTypeOk, cardTypeReduced]
    omega

theorem regionOk_iff (r : DWord) : regionOk r = true ↔
    if r.getLsbD 63 then r.toNat / 2 ^ 60 % 8 < 4 ∧ r.toNat / 2 ^ 32 % 2 ^ 28 = 0 else r.toNat / 2 ^ 56 % 2 ^ 7 = 0 := by
  by_cases h : r.getLsbD 63 = true
  · have hok : regionOk r = (decide (regionSpace r < 4) && bits r.toNat 59 32 == 0) := if_pos h
    rw [if_pos h, hok, Bool.and_eq_true, decide_eq_true_iff, beq_iff_eq]
    rfl
  · have hok : regionOk r = (bits r.toNat 62 56 == 0) := if_neg h
    rw [if_neg h, hok, beq_iff_eq]
    rfl

/-- What a card needs of the ring and of its own format (step 2 of R285). -/
def CardPlain (red : Bool) (t : Team) (c : List Byte) : Prop :=
  t.ring.size ≠ 0 ∧ t.ring.stopped = false ∧ cardType c ∈ (if red then [1, 2, 3] else [1, 2, 3, 4, 5, 6, 0x10, 0x11, 0x12, 0x13]) ∧
  cardFlags c < 8 ∧ c.getD 3 0 = 0#8 ∧ (∀ r ∈ [cardRbase c, cardWbase c], if r.getLsbD 63 then r.toNat / 2 ^ 60 % 8 < 4 ∧
    r.toNat / 2 ^ 32 % 2 ^ 28 = 0 else r.toNat / 2 ^ 56 % 2 ^ 7 = 0) ∧ cardParam c % 64 = 0

theorem cardPlain_iff (red : Bool) (t : Team) (c : List Byte) : CardPlain red t c ↔
    ¬ (t.ring.size == 0 || t.ring.stopped || !cardTypeOk (cardType c) || (red && !cardTypeReduced (cardType c)) ||
      cardFlags c ≥ 8 || !zeroBytes c 3 1 || !regionOk (cardRbase c) || !regionOk (cardWbase c) || cardParam c % 64 != 0) = true := by
  rw [CardPlain, ← cardType_iff, ← zeroBytes_one]
  simp only [List.mem_cons, List.not_mem_nil, or_false, forall_eq_or_imp, forall_eq, ← regionOk_iff]
  simp [and_assoc]

theorem cardCheck_format {red : Bool} {t : Team} {c : List Byte} (h : ¬ CardPlain red t c) : cardCheck red t c = some .format :=
  if_pos (not_not.mp (mt (cardPlain_iff red t c).mpr h))

theorem cardCheck_handle {red : Bool} {t : Team} {c : List Byte} (h : CardPlain red t c) (hh : cardHandle c ≠ 0xFF)
    (hd : t.decl.handles ≤ cardHandle c) : cardCheck red t c = some (.handle (cardHandle c)) :=
  (if_neg ((cardPlain_iff red t c).mp h)).trans (if_pos (by simpa using ⟨hh, hd⟩))

/-- ENQ of a thread at home that first issues (R281). -/
theorem exec_enq {o : EFmt} {s : State} (hg : s.active o.g = true) (hm : s.th.migrated = false) (hc : s.th.copy = none) :
    exec (.enq o) s = .next (
      match cardCheck (decide (s.iod.service = .reduced)) s.tm (toBytes 32 (s.srcs o.a 8)) with
      | some e => s.cardTrap e
      | none =>
        match s.tm.badIn 0 (cardParam (toBytes 32 (s.srcs o.a 8))) (paramSize (cardType (toBytes 32 (s.srcs o.a 8)))) with
        | some q => s.raise cDataError (16 * q)
        | none => enqAppend o (toBytes 32 (s.srcs o.a 8)) s) := by
  refine congrArg Host.Outcome.next ((if_pos hg).trans ((if_neg (by simp [hm])).trans ?_))
  simp only [hc] <;> rfl

/-- A team whose ring has noted one more append, at the turn that the state counts. -/
def noted (s : State) (t : Team) : State := { s with
  tm := { t with ring := { t.ring with appends := t.ring.appends ++ [⟨BitVec.ofNat 32 (t.lst.readNat 0 4), s.turns, s.th.tid⟩] } }
  turns := s.turns + 1 }

/-- A card stored at its slot and then NOTIFY: the release to NOTIFY appends. -/
theorem card_stored {s : State} (hring : s.tm.ring.size ≠ 0) (a : Nat) (bs bs' : List Byte) :
    (((s.storeWrite 0 a bs).release 0).storeWrite 0 0 bs').noteAppend = noted s (storedTeam (storedTeam s.tm 0 a bs) 0 0 bs') := by
  have hsize : (storedTeam (storedTeam s.tm 0 a bs) 0 0 bs').ring.size ≠ 0 := by rwa [ring_storedTeam, ring_storedTeam]
  rw [release_team, storeWrite_eq, storeWrite_eq, noteAppend_eq]
  exact if_pos hsize

/-- The number of a card, left as a long result of a thread that keeps no copy. -/
theorem noted_pendTo {s : State} (hc : s.th.copy = none) (t : Team) (d : BitVec 6) (n : Nat) :
    ((noted s t).mapTh fun u => { u with copy := none }).pendTo d 1 n =
      noted { s with th := { s.th with pending := s.th.pending ++ [.reg d.toNat (BitVec.ofNat 32 n)] } } t := by
  have hcopy : { s.th with copy := none } = s.th := by rw [← hc]
  rw [pendTo_one]
  exact congrArg (fun th : Thread => withPending { noted s t with th := th } [.reg d.toNat (BitVec.ofNat 32 n)]) hcopy

/-- A card that the ring has room for is stored, and NOTIFY released. -/
theorem enqAppend_appends {o : EFmt} {s : State} (hc : s.th.copy = none) (c : List Byte) (h : s.tm.unretired < s.tm.ring.size) :
    enqAppend o c s = noted
      { s with th := { s.th with pending := s.th.pending ++ [.reg o.d.toNat (BitVec.ofNat 32 (s.tm.lst.readNat 0 4))] } }
      (storedTeam (storedTeam s.tm 0 (32 + 32 * (s.tm.lst.readNat 0 4 % s.tm.ring.size)) c) 0 0
        (toBytes 4 ((s.tm.lst.readNat 0 4 + 1) % 2 ^ 32))) := by
  have hring : s.tm.ring.size ≠ 0 := Nat.ne_of_gt (Nat.lt_of_le_of_lt (Nat.zero_le _) h)
  refine (if_neg (Nat.not_le.mpr h)).trans ?_
  dsimp only
  rw [card_stored hring, noted_pendTo hc]

/-- Settles O44. -/
theorem enqueueResults : Obligations.EnqueueResults := by
  refine ⟨fun red t c => ⟨fun h => cardCheck_format h, fun h hh hd => cardCheck_handle h hh hd⟩, fun o s hg hd => ?_⟩
  intro c e n t note
  refine ⟨fun hm => congrArg Host.Outcome.next ((if_pos hg).trans (if_pos hm)), fun hm hc => ⟨fun x hx => ?_, fun hx hbad => ?_⟩⟩
  · have hexec : exec (.enq o) s = .next (s.cardTrap x) := by rw [exec_enq hg hm hc, hx]
    refine ⟨fun h => ?_, fun h heq => ?_, fun h => ?_, fun a h => ?_, fun a h => ?_⟩
    · rw [hexec, h]; rfl
    · obtain ⟨a, b, n, ha, hb, -, hrange⟩ := handleRange_eq s h none
      exact ⟨a, b, n, ha, hb, by rw [hexec, heq]; exact congrArg Host.Outcome.next hrange⟩
    · rw [hexec, h]; rfl
    · rw [hexec, h]; rfl
    · rw [hexec, h]; rfl
  · have hexec : exec (.enq o) s = .next (enqAppend o c s) := by rw [exec_enq hg hm hc, hx, badIn_of_sound hbad]
    refine ⟨fun h => hexec.trans (congrArg Host.Outcome.next (enqAppend_appends hc c h)), fun h => ?_⟩
    exact ⟨_, hexec.trans (congrArg Host.Outcome.next (if_pos h)), rfl, rfl, rfl⟩

end Sys2Proof.Proofs
end

section
/-! PROOFS. The function table (R294): what FTLD leaves besides the table in force. -/

namespace Sys2Proof.Proofs

open Sys2Proof.Machine Sys2Proof.Spec

/-- The page at 0, mapped to itself and readable at user level, as the TLB of bay 0 holds it. -/
def zeroPage : TlbEnt := ⟨0, 1, 0, 65536, 0x8007⟩

/-- A thread in bay 0 whose registers are all zero, one append after its team last acquired; memory reads zero. -/
def ftldState : State := { State.reset with
  ms := { MemSys.reset with tlb := [zeroPage] }
  ctxs := [⟨1, .resident, 0, 1, 0, 0, 0, 0, 0⟩]
  tm := { Team.blank with ref := ⟨1, 1, 0⟩ }
  iod := { Iod.reset with dies := Iod.reset.dies.map fun d => { d with st := .ready } }
  turns := 1 }

/-- An unguarded FTLD of the table at 0. -/
def ftldWord : EFmt := ⟨false, false, false, 0, 0, 0⟩

/-- The zero table passes R76, and the reads of it acquire nothing. -/
theorem tableRead_ftldState : (match tableRead ftldState 0 256 with
    | .ok (bs, s) => (ftabOfBytes bs).isSome && s.tm.acquired != s.turns && s.det == false
    | .error _ => false) = true := by decide +kernel

/-- What FTLD leaves has acquired, at device scope, what other teams did. -/
theorem acquired_exec_ftld {o : EFmt} {s s' : State} {bs : List Byte} {tab : List FRec} (hg : s.active o.g = true)
    (ha : (s.srcPair o.a).toNat < 2 ^ 56) (h4 : (s.srcPair o.a).toNat % 4096 = 0) (hread : tableRead s (s.srcPair o.a).toNat 256 = .ok (bs, s'))
    (htab : ftabOfBytes bs = some tab) (hd : s'.det = false) :
    ∃ t, exec (.ftld o) s = .next t ∧ t.tm.acquired = s'.turns := by
  have hrange : addrOk56 (s.srcPair o.a).toNat = true := decide_eq_true ha
  refine ⟨_, congrArg Host.Outcome.next ((if_pos hg).trans ((if_neg (by simp [hrange])).trans (if_neg (by simp [h4])))), ?_⟩
  simp only [hread, htab, State.acquire, hd]
  rfl

/-- Refutes O45: FTLD's acquire (R136, R294) marks what the team has acquired, and the statement keeps the old mark. -/
theorem not_tableAndChildResults : ¬ Obligations.TableAndChildResults := by
  intro h
  have hva : (ftldState.srcPair ftldWord.a).toNat = 0 := by decide +kernel
  have hg : ftldState.active ftldWord.g = true := by decide +kernel
  have hrun := tableRead_ftldState
  split at hrun
  case h_2 => cases hrun
  case h_1 bs s' hread =>
    simp only [Bool.and_eq_true, Option.isSome_iff_exists, bne_iff_ne, beq_iff_eq] at hrun
    obtain ⟨⟨⟨tab, htab⟩, hne⟩, hd⟩ := hrun
    rw [← hva] at hread
    obtain ⟨hftld, -⟩ := h ftldWord ftldState hg (by decide +kernel)
    obtain ⟨-, hok⟩ := hftld (by rw [hva]; decide) (by rw [hva]) bs s' hread
    obtain ⟨t, ht, rfl⟩ := hok tab htab
    obtain ⟨t, ht', hacq⟩ := acquired_exec_ftld hg (by rw [hva]; decide) (by rw [hva]) hread htab hd
    rw [ht, Host.Outcome.next.injEq] at ht'
    exact hne (by rw [← hacq, ← ht'])

end Sys2Proof.Proofs
end

section
/-! PROOFS. Power-on reset: the module registers (R470) and the state of recovery (R475). -/

namespace Sys2Proof.Proofs

open Sys2Proof.Machine Sys2Proof.Spec

/-! ### A base register that reads 0 names no region -/

theorem acceptQueue_of_no_contexts {s : State} (h : s.iod.ctxtb = 0) (q : Nat) : acceptQueue s q = s :=
  if_pos (by simp [h])

/-- Every queue reads as disabled while LQTB is 0 (R470). -/
theorem queueDesc_of_no_table {s : State} (h : s.iod.lqtb = 0) (q : Nat) : queueDesc s q = List.replicate 32 0 :=
  if_pos (by simp [h])

theorem execLqdbWrite_of_no_table {s : State} (h : s.iod.lqtb = 0) (v : BitVec 64) : execLqdbWrite v s = .next s := by
  refine congrArg Host.Outcome.next (if_pos ?_)
  rw [queueDesc_of_no_table h]
  rfl

theorem faultRecord_of_no_queue {s : State} {w : Accessor} (h : (s.iod.fqb.getD (s.ctxOf w.ctx).part (0, 0)).1 = 0) (k : AccKind)
    (va lv : Nat) : faultRecord s w k va lv = s :=
  if_pos (by rw [Bool.or_eq_true, beq_iff_eq]; exact .inl h)

/-- No entry overflows where no region is named and none has before. -/
theorem latchPlace_ne_overflow {s : State} (h : s.iod.lovb = 0) (hl : ∀ x ∈ s.ms.latches, x.place ≠ .overflow) (l : Latch) :
    latchPlace s l ≠ .overflow := by
  unfold latchPlace
  cases hf : s.ms.latches.find? fun x => x.key == l.key with
  | some x => exact hl x (List.mem_of_find?_eq_some hf)
  | none =>
    dsimp only
    split
    · exact LatchAt.noConfusion
    · simp [h]

/-- Settles O54. -/
theorem resetValues : Obligations.ResetValues :=
  ⟨rfl, rfl, rfl, by decide, rfl, rfl, rfl, rfl, rfl, rfl, by decide, rfl, by decide,
    fun _ h q => congrArg Host.Outcome.next (acceptQueue_of_no_contexts h q), fun _ h v => execLqdbWrite_of_no_table h v,
    fun _ _ k va lv h => faultRecord_of_no_queue h k va lv, fun _ l h hl => latchPlace_ne_overflow h hl l⟩

/-- Settles O58. -/
theorem recoveryHoldsAtReset : Obligations.RecoveryHoldsAtReset := by
  refine ⟨⟨?_, rfl, rfl, rfl, rfl, rfl, rfl, rfl, ?_⟩, _, rfl, rfl, ⟨?_, rfl, rfl, rfl, rfl, rfl, rfl, rfl, ?_⟩⟩
  all_goals decide

end Sys2Proof.Proofs
end

section
/-! PROOFS. Recovery (R475): where no latch entry is held, no act of the memory system makes one. -/

namespace Sys2Proof.Proofs

open Sys2Proof.Machine Sys2Proof.Spec

section
variable {ms : MemSys}

/-- Acts one after another, of which none makes an entry. -/
theorem latches_foldl {α : Type} {f : MemSys → α → MemSys} (hf : ∀ ms x, ms.latches = [] → (f ms x).latches = []) (l : List α)
    (h : ms.latches = []) : (l.foldl f ms).latches = [] :=
  List.foldlRecOn l f (motive := fun m => m.latches = []) h fun m hm x _ => hf m x hm

theorem latches_wakeLine (h : ms.latches = []) (line : Nat) : (wakeLine ms line).latches = [] := by simp [wakeLine, h]

theorem latches_homeWrite (h : ms.latches = []) (ha : Nat) (bs : List Byte) : (homeWrite ms ha bs).latches = [] := by
  refine latches_wakeLine ?_ _
  simp only [apply_ite MemSys.latches, h, ite_self]

theorem latches_homeWriteGo (h : ms.latches = []) (ha : Nat) (bs : List Byte) (k : Nat) : (homeWriteGo ms ha bs k).latches = [] := by
  induction k generalizing ms ha bs with
  | zero => exact h
  | succ k ih =>
    unfold homeWriteGo
    split
    · exact h
    · exact ih (latches_homeWrite h _ _) _ _

theorem latches_l2WriteBack (q : Nat) (drop : Bool) : (l2WriteBack ms q drop).latches = ms.latches := by
  unfold l2WriteBack
  split
  · split <;> rfl
  · rfl

theorem latches_toHost (h : ms.latches = []) (ha n : Nat) : (toHost ms ha n).latches = [] :=
  latches_foldl (fun _ q hm => (latches_l2WriteBack q false).trans hm) _ h

theorem latches_sysWrite (h : ms.latches = []) (ha : Nat) (bs : List Byte) : (sysWrite ms ha bs).latches = [] :=
  latches_toHost (latches_homeWriteGo h _ _ _) _ _

theorem latches_pullUp (c q : Nat) : (pullUp ms c q).latches = ms.latches := by
  unfold pullUp
  split <;> rfl

theorem latches_cachePut (own q : Nat) (v : Sec) (dirty stream : Bool) : (cachePut ms own q v dirty stream).latches = ms.latches := rfl

theorem latches_writeBack (h : ms.latches = []) (c q : Nat) : (writeBack ms c q).latches = [] := by
  have hp : (pullUp ms c q).latches = [] := (latches_pullUp c q).trans h
  unfold writeBack
  dsimp only
  split
  · split
    · exact latches_homeWrite ((latches_cachePut ..).trans hp) _ _
    · exact hp
  · exact hp

theorem latches_evict (h : ms.latches = []) (c q : Nat) : (evict ms c q).latches = [] := latches_writeBack h c q

theorem latches_podSend (who : Option ThreadRef) (ha n v : Nat) (flag : Bool) : (podSend ms who ha n v flag).latches = ms.latches := by
  simp only [podSend, podNext]
  split <;> rfl

theorem latches_podWriteBack (h : ms.latches = []) (who : Option ThreadRef) (q : Nat) (drop : Bool) :
    (podWriteBack ms who q drop).latches = [] :=
  latches_foldl (fun _ _ hm => (latches_podSend who _ _ _ _).trans hm) _ h

theorem latches_podRoom (h : ms.latches = []) (who : ThreadRef) (q : Nat) : (podRoom ms who q).latches = [] := by
  unfold podRoom
  split
  · exact h
  · split
    · exact h
    · split
      · exact latches_podWriteBack h _ _ _
      · exact (latches_l2WriteBack _ _).trans h

theorem latches_purgeLine (h : ms.latches = []) (line : Nat) : (purgeLine ms line).latches = [] :=
  latches_foldl (fun _ _ hm => (latches_l2WriteBack _ _).trans hm) _ (latches_foldl (fun _ _ hm => latches_evict hm _ _) _ h)

theorem latches_purgePage (h : ms.latches = []) (who : ThreadRef) (pa n : Nat) : (purgePage ms who pa n).latches = [] :=
  latches_foldl (fun _ _ hm => (latches_podSend _ _ _ _ _).trans hm) _ (latches_foldl (fun _ _ hm => latches_purgeLine hm _) _ h)

theorem latches_wakeRange (h : ms.latches = []) (ha n : Nat) : (wakeRange ms ha n).latches = [] :=
  latches_foldl (fun _ _ hm => latches_wakeLine hm _) _ h

theorem latches_walkInstall (h : ms.latches = []) (die asid va : Nat) (path : List PathEntry) :
    (walkInstall ms die asid va path).latches = [] := by
  refine latches_foldl (fun m p hm => ?_) _ h
  split <;> exact hm

theorem latches_dropHostLine (line : Nat) : (dropHostLine line ms).latches = ms.latches := by
  unfold dropHostLine
  split <;> rfl

end

end Sys2Proof.Proofs
end

section
/-! PROOFS. Recovery (R475): what finds nothing to act on, and what the acts that change the module leave. -/

namespace Sys2Proof.Proofs

open Sys2Proof.Machine Sys2Proof.Spec

/-! ### What recovery depends on -/

/-- The fields that recovery speaks of. -/
def vital (s : State) :=
  (s.iod.service, s.iod.fwok, s.iod.launches, s.iod.node, s.iod.fwwrite, s.teams, s.grids, s.ctxs, s.ms.latches)

section
variable {s t : State}

theorem inRecovery_of_vital (h : InRecovery s) (e : vital t = vital s) : InRecovery t := by
  simp only [vital, Prod.mk.injEq] at e
  obtain ⟨e1, e2, e3, e4, e5, e6, e7, e8, e9⟩ := e
  obtain ⟨h1, h2, h3, h4, h5, h6, h7, h8, h9⟩ := h
  exact ⟨by rwa [e1], by rwa [e2], by rwa [e6], by rwa [e7], by rwa [e8], by rwa [e3], by rwa [e9], by rwa [e4], by rwa [e5]⟩

theorem inRecovery_withMs (h : InRecovery s) {ms : MemSys} (hl : ms.latches = []) : InRecovery { s with ms := ms } :=
  ⟨h.service, h.image, h.noTeams, h.noGrids, h.noCtxs, h.noLaunches, hl, h.noNode, h.verified⟩

theorem inRecovery_mapMs (h : InRecovery s) {f : MemSys → MemSys} (hf : ∀ ms, ms.latches = [] → (f ms).latches = []) :
    InRecovery (s.mapMs f) := inRecovery_withMs h (hf _ h.noLatches)

theorem inRecovery_withTh (h : InRecovery s) (th : Thread) : InRecovery { s with th := th } := inRecovery_of_vital h rfl

theorem inRecovery_newGang (h : InRecovery s) : InRecovery s.newGang := inRecovery_of_vital h rfl

theorem inRecovery_foldl {α : Type} {f : State → α → State} (hf : ∀ s x, InRecovery s → InRecovery (f s x)) (l : List α)
    (h : InRecovery s) : InRecovery (l.foldl f s) :=
  List.foldlRecOn l f (motive := InRecovery) h fun s hs x _ => hf s x hs

/-! ### Nothing is found -/

theorem team?_none (h : InRecovery s) (r : TeamRef) : s.team? r = none := by simp only [State.team?, h.noTeams, List.find?_nil]

theorem placedTeam_none (h : InRecovery s) (r : TeamRef) : s.placedTeam r = none := by simp only [State.placedTeam, team?_none h]

theorem runningTeam_none (h : InRecovery s) (r : TeamRef) : s.runningTeam r = none := by simp only [State.runningTeam, team?_none h]

theorem thread?_none (h : InRecovery s) (r : ThreadRef) : s.thread? r = none := by simp only [State.thread?, placedTeam_none h]

theorem ctx?_none (h : InRecovery s) (id : Nat) : s.ctx? id = none := by simp only [State.ctx?, h.noCtxs, List.find?_nil]

theorem ctxOf_blank (h : InRecovery s) (id : Nat) : s.ctxOf id = Ctx.blank id := by simp only [State.ctxOf, ctx?_none h, Option.getD_none]

theorem gridOf_blank (h : InRecovery s) (ctx gid : Nat) : s.gridOf ctx gid = Grid.blank ctx gid := by
  simp only [State.gridOf, h.noGrids, List.find?_nil, Option.getD_none]

theorem killContext_none (h : InRecovery s) (id cause inner : Nat) : s.killContext id cause inner = s := by
  simp only [State.killContext, ctx?_none h]

theorem not_inService (h : InRecovery s) : s.inService = false := by
  rcases h.service with e | e <;> simp only [State.inService, e]

theorem not_placing (h : InRecovery s) : placing s = false := by simp only [placing, not_inService h, Bool.false_and]

theorem wakeWalkers_none (h : InRecovery s) (asids cover : Nat → Bool) : wakeWalkers s asids cover = s := by
  simp only [wakeWalkers, h.noTeams, List.flatMap_nil, List.foldl_nil]

theorem not_reduced (h : InRecovery s) : (s.iod.service == .reduced) = false := by
  rcases h.service with e | e <;> rw [e] <;> rfl

/-! ### Translation, fetch and traps of a thread that no team holds -/

theorem inRecovery_leafFor (h : InRecovery s) (ctx bay va : Nat) : InRecovery (leafFor s ctx bay va).2 := by
  unfold leafFor
  dsimp only
  split
  · exact h
  · split
    · exact inRecovery_withMs h h.noLatches
    · rcases walkWith s (fun lv _ => walkHeld s.ms (dieOf bay) (s.ctxOf ctx).asid va lv) (s.ctxOf ctx) va with ⟨r, path⟩
      have hp := inRecovery_withMs h (latches_walkInstall h.noLatches (dieOf bay) (s.ctxOf ctx).asid va path)
      cases r
      case leaf l k a =>
        dsimp only
        split
        · exact hp
        · exact inRecovery_withMs h hp.noLatches
      case invalid | format | partition | failed => exact hp

theorem inRecovery_translate (h : InRecovery s) (w : Accessor) (k : AccKind) (va : Nat) : InRecovery (Machine.translate s w k va).2 := by
  have hl := inRecovery_leafFor h w.ctx w.place va
  unfold Machine.translate
  generalize leafFor s w.ctx w.place va = x at hl ⊢
  obtain ⟨r, s'⟩ := x
  cases r
  case leaf l sz a =>
    dsimp only
    split
    · exact hl
    · split <;> exact hl
  case invalid | format | partition | failed => exact hl

theorem inRecovery_fetchLine (h : InRecovery s) (w : Accessor) (va : Nat) : InRecovery (fetchLine s w va).2 := by
  have ht := inRecovery_translate h w .fetch va
  unfold fetchLine
  generalize Machine.translate s w .fetch va = x at ht ⊢
  obtain ⟨r, s'⟩ := x
  cases r
  case ok l k =>
    dsimp only
    split
    · split
      · exact ht
      · exact inRecovery_of_vital ht rfl
    · split
      · exact ht
      · exact inRecovery_withMs ht ht.noLatches
  case unmapped | locked | fault | failed | lost => exact ht

theorem inRecovery_checkTarget (h : InRecovery s) (w : Accessor) (a : Nat) : InRecovery (checkTarget s w a).2 := by
  have hf := inRecovery_fetchLine h w a
  unfold checkTarget
  split
  · exact h
  · generalize fetchLine s w a = x at hf ⊢
    obtain ⟨r, s'⟩ := x
    cases r <;> exact hf

theorem inRecovery_faultRecord (h : InRecovery s) (w : Accessor) (k : AccKind) (va level : Nat) :
    InRecovery (faultRecord s w k va level) := by
  unfold faultRecord
  dsimp only
  split
  · exact h
  · split
    · exact inRecovery_of_vital (inRecovery_withMs h (latches_toHost (latches_homeWrite h.noLatches _ _) _ _)) rfl
    · exact inRecovery_of_vital (inRecovery_withMs h (latches_toHost (latches_toHost
        (latches_homeWrite (latches_homeWrite (latches_homeWrite h.noLatches _ _) _ _) _ _) _ _) _ _)) rfl

theorem inRecovery_park (h : InRecovery s) (va kind level : Nat) : InRecovery (s.park va kind level) :=
  inRecovery_of_vital (inRecovery_faultRecord h _ _ _ _) rfl

theorem inRecovery_setAside (h : InRecovery s) (va : Nat) : InRecovery (s.setAside va) := inRecovery_of_vital h rfl

theorem inRecovery_killLost (h : InRecovery s) (ctx q : Nat) : InRecovery (s.killLost ctx q) := by
  have hc : InRecovery (s.countDown q) := by
    unfold State.countDown
    split
    · exact inRecovery_of_vital h rfl
    · exact h
  rw [State.killLost, killContext_none hc]
  exact hc

theorem inRecovery_enter (h : InRecovery s) (target : Nat) : InRecovery (s.enter target) := by
  unfold State.enter State.gangAt
  dsimp only
  split <;> split <;> exact inRecovery_of_vital h rfl

theorem inRecovery_of_snd {α : Type} {x : α × State} {a : α} (h : InRecovery x.2) (e : x = (a, s)) : InRecovery s := by
  subst e
  exact h

theorem inRecovery_killContext (h : InRecovery s) (id cause inner : Nat) : InRecovery (s.killContext id cause inner) := by
  rw [killContext_none h]
  exact h

theorem inRecovery_toSupervisor (h : InRecovery s) (cw : Word) (addr : Nat) : InRecovery (s.toSupervisor cw addr) := by
  have hc {w a r u} (e : checkTarget s w a = (r, u)) : InRecovery u := inRecovery_of_snd (inRecovery_checkTarget h w a) e
  unfold State.toSupervisor
  dsimp only
  split
  next e => exact inRecovery_newGang (inRecovery_enter (inRecovery_withTh (hc e) _) _)
  next e => exact inRecovery_park (hc e) _ _ _
  next e => exact inRecovery_setAside (hc e) _
  next e => exact inRecovery_killLost (hc e) _ _
  next e => exact inRecovery_killContext (hc e) _ _ _

theorem inRecovery_toUser (h : InRecovery s) (cw : Word) (addr : Nat) : InRecovery (s.toUser cw addr) := by
  have hc {w a r u} (e : checkTarget s w a = (r, u)) : InRecovery u := inRecovery_of_snd (inRecovery_checkTarget h w a) e
  unfold State.toUser
  dsimp only
  split
  next e => exact inRecovery_withTh (inRecovery_newGang (inRecovery_enter (inRecovery_withTh (hc e) _) _)) _
  next e => exact inRecovery_park (hc e) _ _ _
  next e => exact inRecovery_setAside (hc e) _
  next e => exact inRecovery_killLost (hc e) _ _
  next e => exact inRecovery_toSupervisor (hc e) _ _

theorem inRecovery_deliver (h : InRecovery s) (cause addr code slot len : Nat) : InRecovery (s.deliver cause addr code slot len) := by
  have hgo : ∀ (u : State) (cw : Word), InRecovery u → InRecovery (if u.th.tl then u.killContext u.tm.ref.ctx 0x41 cause
      else if userCause cause && u.tm.trapv != 0 then u.toUser cw addr else u.toSupervisor cw addr) := by
    intro u cw hu
    split
    · exact inRecovery_killContext hu _ _ _
    · split
      · exact inRecovery_toUser hu _ _
      · exact inRecovery_toSupervisor hu _ _
  have hw : InRecovery (s.mapMs fun ms => { ms with latches := ms.latches.filter fun l => l.who != .thread s.self }) :=
    inRecovery_mapMs h fun ms hl => by simp [hl]
  exact hgo _ _ (inRecovery_of_vital hw rfl)

theorem inRecovery_raise (h : InRecovery s) (cause addr : Nat) : InRecovery (s.raise cause addr) :=
  inRecovery_of_vital (inRecovery_deliver h _ _ _ _ _) rfl

end

end Sys2Proof.Proofs
end

section
/-! PROOFS. Recovery (R475): the mailbox, the movers, and a step. -/

namespace Sys2Proof.Proofs

open Sys2Proof.Machine Sys2Proof.Spec

section
variable {s t : State}

/-! ### The mailbox (R468) -/

theorem inRecovery_mbFinish (h : InRecovery s) (at' status : Nat) : InRecovery (mbFinish s at' status) :=
  inRecovery_of_vital (inRecovery_mapMs h fun _ hl => latches_sysWrite hl _ _) rfl

/-- The state that a command's answer leaves: with its status written, or as it goes on. -/
def afterCommand (at' : Nat) : MbOut → State
  | .done st s => mbFinish s at' st
  | .busy s => s

/-- What holds of the state, of each way of ending at once, and of what the command leaves, holds of the mailbox's act. -/
theorem mbRun_induct {P : State → Prop} (h : P s) (hfin : ∀ a st, P (mbFinish s a st)) {k : List Byte → State → MbOut}
    (hk : ∀ r a, s.iod.mb = some a → P (afterCommand a (k r s))) (cmd : Nat) (mine : List Byte → Bool) (used : List (Nat × Nat)) :
    P (mbRun s cmd mine used k) := by
  unfold mbRun
  dsimp only
  split
  · exact h
  next a ha =>
    have hr := hk (s.iod.mbrec.take 64) a ha
    split
    · exact h
    · split
      · exact hfin _ _
      · split
        · exact hfin _ _
        · split
          next e => rw [e] at hr; exact hr
          next e => rw [e] at hr; exact hr

/-- What a command answers with is in recovery. -/
def commandKeeps : MbOut → Prop
  | .done _ s => InRecovery s
  | .busy s => InRecovery s

theorem inRecovery_after {a : Nat} {o : MbOut} (h : commandKeeps o) : InRecovery (afterCommand a o) := by
  cases o
  case done st u => exact inRecovery_mbFinish h a st
  case busy u => exact h

theorem inRecovery_mbRun (h : InRecovery s) (cmd : Nat) (mine : List Byte → Bool) (used : List (Nat × Nat))
    {k : List Byte → State → MbOut} (hk : ∀ r, commandKeeps (k r s)) : InRecovery (mbRun s cmd mine used k) :=
  mbRun_induct h (inRecovery_mbFinish h) (fun r _ _ => inRecovery_after (hk r)) cmd mine used

/-- The commands that recovery refuses. -/
theorem inRecovery_mbRun_refused (h : InRecovery s) {cmd : Nat} (hc : 2 ≤ cmd ∧ cmd ≤ 9) (mine : List Byte → Bool)
    (used : List (Nat × Nat)) (k : List Byte → State → MbOut) : InRecovery (mbRun s cmd mine used k) := by
  unfold mbRun
  dsimp only
  split
  · exact h
  · split
    · exact h
    next hoff =>
      have hrec : s.iod.service = .recovery := h.service.resolve_left (by rintro e; simp [e] at hoff)
      have href : mbRefused s cmd = true := by simpa only [mbRefused, hrec, Bool.and_eq_true, decide_eq_true_eq] using hc
      rw [if_pos href]
      split <;> exact inRecovery_mbFinish h _ _

/-- A translation request is refused as every command but three is. -/
theorem inRecovery_trRun (h : InRecovery s) (cmd : Nat) (k : List Byte → Nat → State → TrOut) : InRecovery (trRun s cmd k) :=
  inRecovery_mbRun_refused h (by decide) _ _ _

theorem inRecovery_setreg (h : InRecovery s) (reg : Nat) (sized : Bool) (ok : Nat → Nat → Nat → Bool)
    (k : Nat → Nat → Nat → State → MbOut) : InRecovery (setreg s reg sized ok k) :=
  inRecovery_mbRun_refused h (by decide) _ _ _

theorem inRecovery_endUnknown (h : InRecovery s) (at' : Nat) (r q : List Byte) : InRecovery (endUnknown s at' r q) := by
  unfold endUnknown
  split
  · exact inRecovery_mbFinish h _ _
  · split
    · exact inRecovery_mbFinish h _ _
    · split
      · exact inRecovery_mbFinish (inRecovery_mapMs h fun _ hl => latches_sysWrite hl _ _) _ _
      · exact inRecovery_mbFinish h _ _

theorem inRecovery_resync (h : InRecovery s) : ∃ u, execResync s = .next u ∧ InRecovery u := by
  refine ⟨_, rfl, inRecovery_mbRun h _ _ _ fun r => ?_⟩
  dsimp only
  split
  · exact h
  · exact inRecovery_mapMs (inRecovery_of_vital (t := sampleErrors s) h rfl) fun _ hl => latches_sysWrite hl _ _

theorem inRecovery_attest (h : InRecovery s) : ∃ u, execAttest s = .next u ∧ InRecovery u := by
  refine ⟨_, rfl, inRecovery_mbRun h _ _ _ fun r => ?_⟩
  split
  · exact h
  · exact inRecovery_mapMs h fun _ hl => latches_sysWrite hl _ _

/-! ### The migration engines (R429) -/

/-- What a stage leaves is in recovery. -/
def JobOut.Keeps : JobOut → Prop
  | .done _ _ s => InRecovery s
  | .goesOn _ s => InRecovery s

theorem inRecovery_askShoot (h : InRecovery s) (id : Nat) : InRecovery (askShoot id s) := by
  unfold askShoot
  split
  · exact h
  · exact inRecovery_of_vital h rfl

theorem jobShoot_keeps (h : InRecovery s) (id : Nat) (j : TransJob) {k : TransJob → State → JobOut}
    (hk : ∀ j u, InRecovery u → JobOut.Keeps (k j u)) : JobOut.Keeps (jobShoot id s j k) := by
  unfold jobShoot
  split
  · exact h
  · split
    · exact inRecovery_of_vital (t := jobShootdown s j) h rfl
    · split
      · exact h
      · refine hk _ _ ?_
        have hq : InRecovery (if id == 0 then s else { s with iod := { s.iod with shootq := s.iod.shootq.tail } }) := by
          split
          · exact h
          · exact inRecovery_of_vital h rfl
        rw [jobWake, wakeWalkers_none hq]
        exact hq

/-- No context holds an ASID, and no walk finds a leaf. -/
theorem jobLock_ends (h : InRecovery s) (id : Nat) (j : TransJob) (sized : Nat → Bool) (refused done : Nat → Nat → Bool) :
    jobLock id s j sized refused done = .done 3 0 s := by
  simp only [jobLock, trWalk, asidCtx, h.noCtxs, List.find?_nil]

theorem cas64_keeps (h : InRecovery s) {at' old new : Nat} {u : State} (e : cas64 s at' old new = some u) : InRecovery u := by
  unfold cas64 at e
  split at e
  · cases e
    exact inRecovery_mapMs h fun _ hl => latches_homeWrite hl _ _
  · cases e

theorem jobUnlock_keeps (h : InRecovery s) (id : Nat) (j : TransJob) (new status pages : Nat) :
    JobOut.Keeps (jobUnlock id s j new status pages fun s => s) := by
  unfold jobUnlock
  split
  next e => exact inRecovery_askShoot (cas64_keeps h e) id
  · exact inRecovery_askShoot h id

theorem inRecovery_podFill (h : InRecovery s) (who : ThreadRef) (q : Nat) : InRecovery (podFill who s q) := by
  unfold podFill
  split
  · exact h
  · have hs : (podSend (podRoom s.ms who q) (some who) (16 * q) 0 0 false).latches = [] :=
      (latches_podSend _ _ _ _ _).trans (latches_podRoom h.noLatches _ _)
    exact inRecovery_of_vital (inRecovery_withMs h hs) rfl

theorem inRecovery_copyPage (h : InRecovery s) (j : TransJob) : InRecovery (copyPage s j) := by
  have hl2 (f : List PodSec → List PodSec) : InRecovery (s.mapMs fun ms => { ms with l2 := f ms.l2 }) := inRecovery_of_vital h rfl
  unfold copyPage
  dsimp only
  split
  · refine inRecovery_of_vital (inRecovery_mapMs (inRecovery_foldl (fun _ _ hs => inRecovery_podFill hs _ _) _ (hl2 _)) fun _ hl => ?_) rfl
    refine latches_foldl (fun m i hm => ?_) _ hl
    split
    · exact (latches_podSend _ _ _ _ _).trans hm
    · exact latches_homeWrite hm _ _
  · split
    · exact inRecovery_mapMs (hl2 _) fun _ hl => (latches_podSend _ _ _ _ _).trans hl
    · refine inRecovery_mapMs (hl2 _) fun ms hl => latches_wakeRange ?_ _ _
      exact hl

theorem migrateStage_keeps (h : InRecovery s) (j : TransJob) : JobOut.Keeps (migrateStage s j) := by
  unfold migrateStage
  dsimp only
  split
  · rw [jobLock_ends h]; exact h
  · exact jobShoot_keeps h _ _ fun _ _ hu => inRecovery_mapMs hu fun _ hl => latches_purgePage hl _ _ _
  · split
    · exact h
    · split
      · exact inRecovery_askShoot (inRecovery_mapMs h fun _ hl => latches_homeWrite hl _ _) _
      · exact inRecovery_copyPage h j
  · split
    · exact h
    · exact jobUnlock_keeps h _ _ _ _ _
  · exact jobShoot_keeps h _ _ fun _ _ hu => hu

theorem inRecovery_trFinish (h : InRecovery s) (q : List Byte) (status pages : Nat) : InRecovery (trFinish s q status pages) := by
  unfold trFinish
  split
  · exact inRecovery_mapMs h fun _ hl => latches_sysWrite hl _ _
  · exact h

theorem inRecovery_moverStep (h : InRecovery s) (e : Nat) : InRecovery (moverStep e s) := by
  unfold moverStep
  split
  · exact h
  next j rest _ =>
    have hm := migrateStage_keeps h j
    dsimp only
    split
    next e =>
      rw [e] at hm
      refine inRecovery_trFinish ?_ _ _ _
      exact inRecovery_of_vital hm rfl
    next e => rw [e] at hm; exact inRecovery_of_vital hm rfl

theorem inRecovery_migrate (h : InRecovery s) : ∃ u, execMigrate s = .next u ∧ InRecovery u := by
  refine ⟨_, rfl, ?_⟩
  dsimp only
  split
  · exact inRecovery_trRun h _ _
  · split
    · exact h
    · exact inRecovery_moverStep h _
    · refine inRecovery_moverStep ?_ _
      exact inRecovery_of_vital h rfl

/-! ### Reset and firmware (R475) -/

/-- A module that has been reset with an image that verifies. -/
def Restarted (t : State) : Prop :=
  t.iod.fwok = true ∧ t.iod.service = .off ∧ t.teams = [] ∧ t.grids = [] ∧ t.ctxs = [] ∧ imageOk t.iod.fwimage = true

/-- The one way out of recovery: the image that a load has verified and written, and the reset that follows. -/
theorem fwload_recovers_or_restarts (h : InRecovery s) : ∃ u, execFwload s = .next u ∧ (InRecovery u ∨ Restarted u) := by
  refine ⟨_, rfl, mbRun_induct (P := fun u => InRecovery u ∨ Restarted u) (.inl h) (fun a st => .inl (inRecovery_mbFinish h a st)) (fun r a ha => ?_) _ _ _⟩
  cases hw : s.iod.fwwrite with
  | some image =>
    rw [ha]
    exact .inr ⟨rfl, rfl, rfl, rfl, rfl, h.verified _ hw⟩
  | none =>
    refine .inl (inRecovery_after ?_)
    dsimp only
    split
    · exact h
    · split
      next hok =>
        refine ⟨h.service, rfl, h.noTeams, h.noGrids, h.noCtxs, h.noLaunches, h.noLatches, h.noNode, fun image e => ?_⟩
        rw [← Option.some.inj e]
        exact hok
      · exact h

theorem inRecovery_powerOnReset (h : InRecovery s) : ∃ u, execPowerOnReset s = .next u ∧ InRecovery u := by
  refine ⟨_, rfl, ?_⟩
  split
  · split
    · exact ⟨.inl rfl, rfl, rfl, rfl, rfl, rfl, rfl, rfl, fun _ e => by cases e⟩
    · exact h
  · split
    · exact ⟨.inr rfl, h.image, h.noTeams, h.noGrids, h.noCtxs, h.noLaunches, h.noLatches, h.noNode, h.verified⟩
    next hok => simp [h.image] at hok

end

end Sys2Proof.Proofs
end

section
/-! PROOFS. Recovery (R475): every event and every act of a step. -/

namespace Sys2Proof.Proofs

open Sys2Proof.Machine Sys2Proof.Spec

/-! ### Instruction words are no events -/

section
variable {m : BitVec 6}

theorem ne_zero_of_major {w : Word} (hm : m ≠ 0) (hw : majorOf w = m) : w ≠ 0 := by
  rintro rfl
  exact hm hw.symm

theorem buildR_ne_zero {f : BitVec 3} {o : RFmt} (hm : m ≠ 0) : buildR m f o ≠ 0 := ne_zero_of_major hm (majorOf_buildR m f o)
theorem buildI_ne_zero {o : IFmt} (hm : m ≠ 0) : buildI m o ≠ 0 := ne_zero_of_major hm (majorOf_buildI m o)
theorem buildM_ne_zero {o : MFmt} (hm : m ≠ 0) : buildM m o ≠ 0 := ne_zero_of_major hm (majorOf_buildM m o)
theorem buildP_ne_zero {f : BitVec 5} {o : PFmt} (hm : m ≠ 0) : buildP m f o ≠ 0 := ne_zero_of_major hm (majorOf_buildP m f o)
theorem buildU_ne_zero {o : UFmt} (hm : m ≠ 0) : buildU m o ≠ 0 := ne_zero_of_major hm (majorOf_buildU m o)
theorem buildX_ne_zero {o : XFmt} (hm : m ≠ 0) : buildX m o ≠ 0 := ne_zero_of_major hm (majorOf_buildX m o)
theorem buildE_ne_zero {sub : BitVec 4} {o : EFmt} (hm : m ≠ 0) : buildE m sub o ≠ 0 := ne_zero_of_major hm (majorOf_buildE m sub o)

end

section
variable {s t : State}

/-! ### Events that the module's own state guards -/

theorem stays (h : InRecovery s) {o : Out} (hs : o = .next t) (e : o = .next s) : InRecovery t := by
  rw [hs, Host.Outcome.next.injEq] at e
  rwa [e]

theorem inRecovery_ite {c : Prop} [Decidable c] {u : State} (h : InRecovery s) (hu : InRecovery u) : InRecovery (if c then s else u) := by
  split
  · exact h
  · exact hu

theorem inRecovery_mapDie (h : InRecovery s) (die : Nat) (f : Die → Die) : InRecovery (s.mapDie die f) := inRecovery_of_vital h rfl

theorem inRecovery_settleSync (h : InRecovery s) : InRecovery (settleSync s) := by
  unfold settleSync
  split
  · exact inRecovery_of_vital h rfl
  · exact h

theorem timeSource_none (h : InRecovery s) : timeSource s = none := by simp only [timeSource, h.noNode]

theorem acceptQueue_stays (h : InRecovery s) (q : Nat) : acceptQueue s q = s := if_pos (by simp [not_inService h])

theorem acceptChild_stays (h : InRecovery s) (r : ThreadRef) : acceptChild s r = s := by
  simp only [acceptChild, h.noLaunches, List.find?_nil]

theorem inRecovery_nonInstructionWord (h : InRecovery s) (w : Word) : ∃ u, execNonInstructionWord w s = .next u ∧ InRecovery u := by
  refine ⟨_, rfl, ?_⟩
  split
  · exact inRecovery_raise h _ _
  · exact inRecovery_raise h _ _
  · exact inRecovery_raise h _ _
  · exact h

theorem inRecovery_pageWalk (h : InRecovery s) (bay ctx va : Nat) : ∃ u, execPageWalk bay ctx va s = .next u ∧ InRecovery u := by
  refine ⟨_, rfl, ?_⟩
  split
  · refine inRecovery_leafFor ?_ _ _ _
    exact inRecovery_of_vital h rfl
  · exact h

theorem inRecovery_cacheWriteback (h : InRecovery s) (cluster sec : Nat) (drop : Bool) :
    ∃ u, execCacheWriteback cluster sec drop s = .next u ∧ InRecovery u := by
  refine ⟨_, rfl, ?_⟩
  split
  · refine inRecovery_mapMs h fun ms hl => ?_
    split
    · exact latches_evict hl _ _
    · exact latches_writeBack hl _ _
  · split
    · simp only [imageHolder, h.noTeams, List.findSome?_nil]
      exact h
    · split
      · exact inRecovery_mapMs h fun ms hl => latches_podWriteBack hl _ _ _
      · exact inRecovery_mapMs h fun ms hl => (latches_l2WriteBack _ _).trans hl

theorem inRecovery_hostAccess (h : InRecovery s) (store : Bool) (pa n v : Nat) :
    ∃ u, execHostAccess store pa n v s = .next u ∧ InRecovery u := by
  refine ⟨_, rfl, ?_⟩
  split
  · split
    · exact h
    · exact inRecovery_of_vital h rfl
  · split
    · exact h
    · split
      · split
        · exact inRecovery_of_vital h rfl
        · exact inRecovery_mapMs h fun ms hl => latches_homeWriteGo hl _ _ _
      · split
        · exact h
        · exact inRecovery_of_vital h rfl

/-- No peer's message is performed where the module is no node of a pod; a refusal kills no context. -/
theorem inRecovery_podMessageReceive (h : InRecovery s) (peer seq : Nat) (ack : Bool) (pa n v : Nat) :
    ∃ u, execPodMessageReceive peer seq ack pa n v s = .next u ∧ InRecovery u := by
  refine ⟨_, rfl, ?_⟩
  have hf (f : List PodMsg → List PodMsg) : InRecovery (s.mapMs fun ms => { ms with podOut := f ms.podOut }) := inRecovery_of_vital h rfl
  split
  · exact h
  · split
    · dsimp only
      split
      · exact h
      · split
        · split
          · exact hf _
          · exact inRecovery_killContext (hf _) _ _ _
        · exact hf _
    · rw [if_pos (by simp [h.noNode])]
      exact h

theorem inRecovery_uncorrectableError (h : InRecovery s) (e : ErrorSite) : ∃ u, execUncorrectableError e s = .next u ∧ InRecovery u := by
  refine ⟨_, rfl, ?_⟩
  cases e
  case cacheCopy own q =>
    dsimp only
    split
    · exact h
    · split <;> exact inRecovery_of_vital h rfl
  case memory q =>
    dsimp only
    split
    · exact inRecovery_of_vital h rfl
    · exact h
  case register r n => simpa only [thread?_none h] using h
  case typedStore r sp off => simpa only [placedTeam_none h] using h

theorem inRecovery_lqdbWrite (h : InRecovery s) (v : BitVec 64) : ∃ u, execLqdbWrite v s = .next u ∧ InRecovery u := by
  refine ⟨_, rfl, ?_⟩
  dsimp only
  split
  · exact h
  · split
    · exact inRecovery_mapMs h fun ms hl => latches_homeWrite hl _ _
    · exact inRecovery_of_vital h rfl

theorem inRecovery_mbctlWrite (h : InRecovery s) (addr : Nat) : ∃ u, execMbctlWriteWhileBusy addr s = .next u ∧ InRecovery u := by
  refine ⟨_, rfl, ?_⟩
  split
  · exact h
  · split
    · exact inRecovery_of_vital h rfl
    · refine inRecovery_ite ?_ (inRecovery_endUnknown ?_ _ _ _)
      · exact inRecovery_of_vital h rfl
      · exact inRecovery_of_vital h rfl

theorem inRecovery_startDie (h : InRecovery s) : InRecovery (startDie s) := by
  unfold startDie
  split
  · exact inRecovery_mapDie h _ _
  · exact h

theorem inRecovery_bayStartBatch (h : InRecovery s) (die : Nat) : ∃ u, execBayStartBatch die s = .next u ∧ InRecovery u :=
  ⟨_, rfl, inRecovery_ite (inRecovery_startDie h) (inRecovery_ite (inRecovery_mapDie h _ _) (inRecovery_ite (inRecovery_mapDie h _ _) h))⟩

theorem inRecovery_dieFailed (h : InRecovery s) (die : Nat) : ∃ u, execDieFailed die s = .next u ∧ InRecovery u := by
  refine ⟨_, rfl, ?_⟩
  dsimp only
  split
  · rw [h.noCtxs]
    exact inRecovery_mapDie h _ _
  · exact h

theorem inRecovery_referenceClockLoss (h : InRecovery s) (die : Nat) : ∃ u, execReferenceClockLoss die s = .next u ∧ InRecovery u := by
  refine ⟨_, rfl, ?_⟩
  split
  · rw [h.noTeams]
    refine inRecovery_mapDie ?_ _ _
    exact ⟨h.service, h.image, rfl, h.noGrids, h.noCtxs, h.noLaunches, h.noLatches, h.noNode, h.verified⟩
  · exact h

/-- The events that find no team, thread or grid to act on, or no service that admits them. -/
def idleInRecovery : Instr → Bool
  | .longResultWrite .. | .reslice _ | .setwHoldLapse _ | .convergenceFault .. | .rcvHoldExpiry _ | .yieldHoldEnd _
  | .impreciseTrapDelivery _ | .faultReplayWalk _ | .lockedPageRewalk _ | .podLinkFault _ | .cardAccept _ | .copy .. | .gather ..
  | .scatter .. | .xpose .. | .quant .. | .mxpre .. | .proj .. | .bin .. | .blend .. | .back .. | .cardReadsComplete .. | .cardRetire ..
  | .engineFaultRetry .. | .mxopStart .. | .mxopReadsComplete .. | .mxopComplete .. | .mxopAbandon .. | .launchAccept _
  | .dependenceMet .. | .gridTimedStart .. | .teamPlace .. | .priorityPreempt .. | .teamRetire _ | .gridRetire .. | .phaseCommit ..
  | .detTeamAbort _ | .teamSaved _ | .teamResume .. | .contextKillComplete _ | .timeSyncMeasure .. | .linkTimeout .. | .trainingEnd
  | .fullServiceStart | .reducedServiceStart => true
  | _ => false

theorem exec_idle (h : InRecovery s) {i : Instr} (hi : idleInRecovery i = true) : exec i s = .next s := by
  cases i
  case longResultWrite | rcvHoldExpiry | yieldHoldEnd | podLinkFault =>
    exact congrArg Host.Outcome.next (by simp only [thread?_none h])
  case faultReplayWalk => exact congrArg Host.Outcome.next (by simp only [replayWalk, thread?_none h])
  case lockedPageRewalk => exact congrArg Host.Outcome.next (by simp only [lockedRewalk, thread?_none h])
  case reslice | setwHoldLapse | convergenceFault | cardAccept | mxopStart =>
    exact congrArg Host.Outcome.next (by simp only [runningTeam_none h])
  case copy | gather | scatter | xpose | quant | mxpre | proj | bin | blend | back =>
    exact congrArg Host.Outcome.next (by simp only [runCard, runningTeam_none h])
  case impreciseTrapDelivery | cardReadsComplete | cardRetire | engineFaultRetry | mxopReadsComplete | mxopComplete | mxopAbandon |
      teamRetire =>
    exact congrArg Host.Outcome.next (by simp only [placedTeam_none h])
  case linkTimeout =>
    exact congrArg Host.Outcome.next (by simp [placedTeam_none h, h.noGrids])
  case detTeamAbort | teamSaved | teamResume => exact congrArg Host.Outcome.next (by simp only [team?_none h])
  case launchAccept src =>
    cases src
    case queue q => exact congrArg Host.Outcome.next (acceptQueue_stays h q)
    case child r => exact congrArg Host.Outcome.next (acceptChild_stays h r)
  case dependenceMet | gridTimedStart | gridRetire | phaseCommit =>
    exact congrArg Host.Outcome.next (by simp [gridOf_blank h, Grid.blank, gridDone])
  case teamPlace => exact congrArg Host.Outcome.next (if_neg (by simp [not_placing h]))
  case priorityPreempt =>
    refine congrArg Host.Outcome.next ?_
    dsimp only
    split
    · rfl
    · exact if_pos (by simp [not_placing h])
  case contextKillComplete => exact congrArg Host.Outcome.next (by simp [ctxOf_blank h, Ctx.blank])
  case timeSyncMeasure => exact congrArg Host.Outcome.next (by simp [timeSource_none h])
  case trainingEnd => exact congrArg Host.Outcome.next (by simp [bne, not_reduced h])
  case fullServiceStart | reducedServiceStart => exact congrArg Host.Outcome.next (by simp [not_reduced h])
  all_goals exact absurd hi Bool.false_ne_true

/-- The events of the module as a whole. -/
def moduleEvent : Instr → Bool
  | .fwload | .powerOnReset | .migrate | .resync | .attest | .setregCtxtb | .setregLqtb | .setregFqb | .setregPriwt | .setregLovb
  | .setregLto | .shootdown | .biasFlip | .shutter | .kill | .partset | .powercap | .podcfg | .timeset | .mbctlWriteWhileBusy _
  | .nonInstructionWord _ | .pageWalk .. | .cacheWriteback .. | .hostAccess .. | .podMessageReceive .. | .uncorrectableError _
  | .lqdbWrite _ | .bayStartBatch _ | .dieFailed _ | .referenceClockLoss _ | .referenceClockReturn _ | .powerCapStretch ..
  | .clockRestore .. | .flitCrcRetry _ | .podLinkTrainingFail _ | .podFlagResend _ | .waituExpiry _ | .latchBayReread _
  | .hostLineReread _ => true
  | _ => false

/-- What has no word is an event. -/
theorem event_of_noWord {i : Instr} (h : encode i = 0) : idleInRecovery i = true ∨ moduleEvent i = true := by
  cases i
  case iadd | isub | imin | imax | iminu | imaxu | iabs | ineg | and | or | xor | andn | not | sel | mov | popc | shl | shr | sar | rol |
    clz | brev | bfx | bfi | imul | imulh | imulhu | imad | idiv | irem | idivu | iremu | lea | leaX2 | leaX4 | leaX8 | iaddc | isubb |
    fadd | fsub | fmul | fma | fmin | fmax | fdiv | fsqrt | fadd64 | fsub64 | fmul64 | fma64 | fmin64 | fmax64 | fdiv64 | fsqrt64 |
    faddH2 | fsubH2 | fmulH2 | fmaH2 | fminH2 | fmaxH2 | fdivH2 | fsqrtH2 | faddB2 | fsubB2 | fmulB2 | fmaB2 | fminB2 | fmaxB2 |
    fdivB2 | fsqrtB2 | frcp | frsq | frred | fsinr | fcosr | fexp2 | flog2 | feval | cvt | atom | atomx | red | redx | fence | cwb |
    cinv | iinv | fbar | pref | pstb | pldb | shfl | shflx | lswap | vote | lred | lscan | tred | lbcst | nexti | calli |
    ret | exit | rcv | yield | nop => exact (buildR_ne_zero (by decide) h).elim
  case ld | st | ldl | stl | lda | sta | ldw | ldc | stc | ldra => exact (buildM_ne_zero (by decide) h).elim
  case icmp | fcmp32 | fcmp64 | pand | por | pxor | pnot | pmov | pset | pfrom | pto => exact (buildP_ne_zero (by decide) h).elim
  case mxop | mxwait | enq | hsetBind | hsetFull | hsetFree | hwait | hq | ftld | launch | chwait | chwaitAll | twinit | twstep |
    twgetVal | twgetSt | twend | phreg | pharr | phwait | phaw | phq | waitu | rdsr | wrsr | rdtime | rand | trap | brk | sysc | setw |
    migr | migrh | gsel | eret | rdpr | wrpr | ctxfl | halt => exact (buildE_ne_zero (by decide) h).elim
  case iaddi | andi | ori | xori | shli | shri | sari | movi => exact (buildI_ne_zero (by decide) h).elim
  case luih | adrh | next | call => exact (buildU_ne_zero (by decide) h).elim
  case nextp | nextn => exact (buildX_ne_zero (by decide) h).elim
  case longResultWrite | reslice | setwHoldLapse | convergenceFault | rcvHoldExpiry | yieldHoldEnd | impreciseTrapDelivery |
    faultReplayWalk | lockedPageRewalk | podLinkFault | cardAccept | copy | gather | scatter | xpose | quant | mxpre | proj | bin |
    blend | back | cardReadsComplete | cardRetire | engineFaultRetry | mxopStart | mxopReadsComplete | mxopComplete | mxopAbandon |
    launchAccept | dependenceMet | gridTimedStart | teamPlace | priorityPreempt | teamRetire | gridRetire | phaseCommit |
    detTeamAbort | teamSaved | teamResume | contextKillComplete | timeSyncMeasure | linkTimeout | trainingEnd | fullServiceStart |
    reducedServiceStart => exact .inl rfl
  all_goals exact .inr rfl

/-- An event leaves the module in recovery, but the end of a firmware load. -/
theorem exec_recovery (h : InRecovery s) {i : Instr} (hi : i.hasWord = false) : ∃ u, exec i s = .next u ∧ (InRecovery u ∨ Restarted u) := by
  have hkeep {o : Out} (ho : ∃ u, o = .next u ∧ InRecovery u) : ∃ u, o = .next u ∧ (InRecovery u ∨ Restarted u) := by
    obtain ⟨u, e, hu⟩ := ho
    exact ⟨u, e, .inl hu⟩
  obtain hidle | hmod := event_of_noWord (by simpa [Instr.hasWord] using hi)
  · exact ⟨s, exec_idle h hidle, .inl h⟩
  clear hi
  cases i
  case fwload => exact fwload_recovers_or_restarts h
  case powerOnReset => exact hkeep (inRecovery_powerOnReset h)
  case migrate => exact hkeep (inRecovery_migrate h)
  case resync => exact hkeep (inRecovery_resync h)
  case attest => exact hkeep (inRecovery_attest h)
  case setregCtxtb | setregLqtb | setregFqb | setregPriwt | setregLovb | setregLto => exact ⟨_, rfl, .inl (inRecovery_setreg h _ _ _ _)⟩
  case shootdown | biasFlip => exact ⟨_, rfl, .inl (inRecovery_trRun h _ _)⟩
  case shutter | kill | partset | powercap | podcfg | timeset =>
    exact ⟨_, rfl, .inl (inRecovery_mbRun_refused h (by decide) _ _ _)⟩
  case mbctlWriteWhileBusy a => exact hkeep (inRecovery_mbctlWrite h a)
  case nonInstructionWord w => exact hkeep (inRecovery_nonInstructionWord h w)
  case pageWalk b c va => exact hkeep (inRecovery_pageWalk h b c va)
  case cacheWriteback c q d => exact hkeep (inRecovery_cacheWriteback h c q d)
  case hostAccess st pa n v => exact hkeep (inRecovery_hostAccess h st pa n v)
  case podMessageReceive p q a pa n v => exact hkeep (inRecovery_podMessageReceive h p q a pa n v)
  case uncorrectableError e => exact hkeep (inRecovery_uncorrectableError h e)
  case lqdbWrite v => exact hkeep (inRecovery_lqdbWrite h v)
  case bayStartBatch d => exact hkeep (inRecovery_bayStartBatch h d)
  case dieFailed d => exact hkeep (inRecovery_dieFailed h d)
  case referenceClockLoss d => exact hkeep (inRecovery_referenceClockLoss h d)
  case referenceClockReturn | powerCapStretch | clockRestore => exact ⟨_, rfl, .inl (inRecovery_ite (inRecovery_mapDie h _ _) h)⟩
  case flitCrcRetry p =>
    refine ⟨_, rfl, .inl (inRecovery_ite ?_ h)⟩
    exact inRecovery_of_vital h rfl
  case podLinkTrainingFail p =>
    refine ⟨_, rfl, .inl (inRecovery_ite (inRecovery_settleSync ?_) h)⟩
    exact inRecovery_of_vital h rfl
  case podFlagResend p => exact ⟨_, rfl, .inl (inRecovery_of_vital h rfl)⟩
  case waituExpiry r => exact ⟨_, rfl, .inl (inRecovery_mapMs h fun ms hl => by simp [hl])⟩
  case latchBayReread r => exact ⟨s, congrArg Host.Outcome.next (by simp only [bayReread, h.noLatches, List.find?_nil]), .inl h⟩
  case hostLineReread l =>
    refine ⟨_, rfl, .inl (inRecovery_ite (inRecovery_mapMs h fun ms hl => ?_) h)⟩
    simp [latches_dropHostLine, hl]
  all_goals exact absurd hmod Bool.false_ne_true

/-! ### What comes before an act -/

theorem inRecovery_latchTime (h : InRecovery s) (now : Nat) : InRecovery (latchTime now s) := by
  unfold latchTime
  split
  · exact inRecovery_mapMs h fun _ hl => hl
  · have hr : rereadsDue now s = s := by simp only [rereadsDue, h.noLatches, List.filter_nil, List.foldl_nil]
    rw [hr]
    exact inRecovery_mapMs h fun ms hl => by simp [settleSpill, hl]

theorem inRecovery_settleLov (h : InRecovery s) : InRecovery (settleLov s) := by
  unfold settleLov
  split
  · exact h
  · split
    · exact h
    · exact inRecovery_of_vital h rfl

theorem walkTime_stays (h : InRecovery s) : walkTime s = s := by
  simp only [walkTime, walksDue, h.noTeams, List.filter_nil, List.flatMap_nil, List.foldl_nil]

theorem timeoutsDue_stays (h : InRecovery s) : timeoutsDue s = s := by
  simp only [timeoutsDue, h.noTeams, List.flatMap_nil, List.foldl_nil]

theorem inRecovery_advance (h : InRecovery s) (dns dcy : Nat) : InRecovery (advance dns dcy s) := by
  have hl := inRecovery_latchTime (inRecovery_of_vital (t := { s with walked := [] }) h rfl) (countOn s dns).1
  unfold advance
  dsimp only
  have hs : InRecovery (settleLov { latchTime (countOn s dns).1 { s with walked := [] } with
      time := (countOn s dns).1
      cycle := (latchTime (countOn s dns).1 { s with walked := [] }).cycle + dcy
      turns := (latchTime (countOn s dns).1 { s with walked := [] }).turns + 1
      iod := { (latchTime (countOn s dns).1 { s with walked := [] }).iod with syncRem := (countOn s dns).2 }
      teams := if dcy == 0 then (latchTime (countOn s dns).1 { s with walked := [] }).teams
        else (latchTime (countOn s dns).1 { s with walked := [] }).teams.map fun t => t.convTick dcy }) := by
    refine inRecovery_settleLov ⟨hl.service, hl.image, ?_, hl.noGrids, hl.noCtxs, hl.noLaunches, hl.noLatches, hl.noNode, hl.verified⟩
    simp only [hl.noTeams, List.map_nil, ite_self]
  rw [walkTime_stays hs, timeoutsDue_stays hs]
  exact hs

theorem inRecovery_performWord (h : InRecovery s) (l : LateWord) : InRecovery (performWord s l) := by
  refine inRecovery_foldl (fun u x hu => ?_) _ h
  rw [performFor, team?_none hu]
  exact hu

theorem inRecovery_performWhere (h : InRecovery s) (test : LateWord → Bool) : InRecovery (performWhere test s) := by
  refine inRecovery_foldl (fun _ _ hu => inRecovery_performWord hu _) _ ?_
  exact inRecovery_of_vital h rfl

theorem recallLines_stays (h : InRecovery s) (a : Act) : recallLines a s = s := if_pos (by simp [h.noTeams])

theorem inRecovery_beforeAct (h : InRecovery s) (a : Act) : InRecovery (beforeAct a s) := by
  have hl : InRecovery (lateBeforeAct a s) := by
    unfold lateBeforeAct
    split
    · exact h
    · exact h
    · exact h
    · exact inRecovery_performWhere h _
    · exact h
  rw [beforeAct, recallLines_stays hl]
  exact hl

/-! ### Acts -/

theorem issueGang_stays (h : InRecovery s) (r : ThreadRef) : issueGang r s = s := by
  simp only [issueGang, lateBefore, thread?_none h]

theorem issueLate_stays (h : InRecovery s) (r : ThreadRef) : issueLate r s = s := by
  simp only [issueLate, lateBefore, thread?_none h, issueGang_stays h]

theorem quadChoice_none (h : InRecovery s) (bay q : Nat) : quadChoice s bay q = none := by
  simp only [quadChoice, readyCohorts, h.noTeams, List.filter_nil, List.flatMap_nil]
  rfl

theorem issueCycle_stays (h : InRecovery s) (qs : List (Nat × Nat)) : issueCycle qs s = s := by
  have hc : qs.eraseDups.foldl (choiceOf s) ([], s) = ([], s) := by
    refine List.foldlRecOn _ _ (motive := fun u => u = ([], s)) rfl fun u hu q _ => ?_
    rw [hu, choiceOf, quadChoice_none h]
  rw [issueCycle, hc]
  rfl

theorem stepAct_recovery (h : InRecovery s) (a : Act) (ht : stepAct a s = .next t) : InRecovery t ∨ Restarted t := by
  have hb := inRecovery_beforeAct h a
  unfold stepAct at ht
  dsimp only at ht
  generalize beforeAct a s = u at hb ht
  have hkeep {v : State} (hv : InRecovery v) (e : (.next v : Out) = .next t) : InRecovery t ∨ Restarted t := by
    rw [Host.Outcome.next.injEq] at e
    exact .inl (e ▸ hv)
  cases a
  case event i =>
    dsimp only at ht
    split at ht
    · exact hkeep hb ht
    next hw =>
      obtain ⟨v, hv, hor⟩ := exec_recovery hb (Bool.eq_false_iff.mpr hw)
      rw [hv, Host.Outcome.next.injEq] at ht
      exact ht ▸ hor
  case issue r => exact hkeep (by rw [issueGang_stays hb]; exact hb) ht
  case issueLate r => exact hkeep (by rw [issueLate_stays hb]; exact hb) ht
  case send r =>
    refine hkeep ?_ ht
    have hs : InRecovery { u with sending := true } := inRecovery_of_vital hb rfl
    rw [sendGang, issueGang_stays hs]
    exact inRecovery_of_vital hb rfl
  case performLate n =>
    refine hkeep ?_ ht
    unfold performLate
    split
    · refine inRecovery_performWord ?_ _
      exact inRecovery_of_vital hb rfl
    · exact hb
  case cycle qs => exact hkeep (by rw [issueCycle_stays hb]; exact hb) ht
  case cardEarly r n => exact hkeep (by simpa only [cardEarly, runningTeam_none hb] using hb) ht
  case mxEarly r n => exact hkeep (by simpa only [mxEarly, placedTeam_none hb] using hb) ht
  case mxTile r n k => exact hkeep (by simpa only [mxTile, placedTeam_none hb] using hb) ht
  case route n p up =>
    refine hkeep (inRecovery_ite (inRecovery_settleSync ?_) hb) ht
    exact inRecovery_of_vital hb rfl
  case hostLink p st =>
    refine hkeep (inRecovery_ite ?_ hb) ht
    exact inRecovery_of_vital hb rfl
  case gate d b => exact hkeep (inRecovery_ite (inRecovery_mapDie hb _ _) hb) ht

end

/-- Settles O57: every act of the agenda or of the default policy, and what comes before it. -/
theorem recoveryEndsOnlyByFirmwareLoad : Obligations.RecoveryEndsOnlyByFirmwareLoad := by
  intro s t h ht
  unfold step at ht
  split at ht
  · refine stepAct_recovery (inRecovery_advance ?_ _ _) _ ht
    exact inRecovery_of_vital h rfl
  · have ha := inRecovery_advance (inRecovery_performWhere h fun _ => true) 1 2
    dsimp only at ht
    split at ht
    · exact stepAct_recovery ha _ ht
    · rw [Host.Outcome.next.injEq] at ht
      exact .inl (ht ▸ ha)

end Sys2Proof.Proofs
end

section
/-! PROOFS. The checks of a launch, in their order (R388 to R391). -/

namespace Sys2Proof.Proofs

open Sys2Proof.Machine Sys2Proof.Spec

/-! ### Fields of records -/

theorem ofBytes_eq_zero_iff (l : List Byte) : ofBytes l = 0 ↔ ∀ b ∈ l, b = 0#8 := by
  induction l with
  | nil => simp [ofBytes]
  | cons b l ih =>
    rw [ofBytes, Nat.add_eq_zero_iff, List.forall_mem_cons, ← ih]
    simp [BitVec.toNat_eq]

theorem zeroBytes_iff (r : List Byte) (o n : Nat) : zeroBytes r o n = true ↔ field r o n = 0 := by
  simp [zeroBytes, field, ofBytes_eq_zero_iff]

theorem ofBytes_lt (l : List Byte) : ofBytes l < 256 ^ l.length := by
  induction l with
  | nil => simp [ofBytes]
  | cons b l ih =>
    have hb := b.isLt
    rw [ofBytes, List.length_cons, pow_succ]
    omega

theorem field_lt (r : List Byte) (o n : Nat) : field r o n < 256 ^ n :=
  Nat.lt_of_lt_of_le (ofBytes_lt _) (Nat.pow_le_pow_right (by decide) (List.length_take_le _ _))

theorem bitAt_eq_testBit (x k : Nat) : bitAt x k = x.testBit k := by
  rw [Nat.testBit_eq_decide_div_mod_eq, bitAt, beq_eq_decide]

/-! ### Descriptor, extension, kernel record and declarations -/

theorem descOk_iff (d : List Byte) (child : Bool) : descOk d child = true ↔ DescriptorOk d child := by
  simp only [descOk, Bool.and_eq_true, Bool.or_eq_true, decide_eq_true_eq, beq_iff_eq, bne_iff_ne, zeroBytes_iff, bitAt_eq_testBit,
    Bool.not_eq_true']
  constructor
  · rintro ⟨⟨⟨⟨⟨⟨⟨⟨⟨⟨⟨h1, h2⟩, h3⟩, h4⟩, h5⟩, h6⟩, h7⟩, h8⟩, h9⟩, h10⟩, h11⟩, h12⟩
    refine ⟨by omega, h2, h3, fun hc => ?_, ⟨h5, h6⟩, h7, h8, h9, h10, h11, fun hn => ?_⟩
    · have := h4.resolve_left (by simp [hc])
      omega
    · refine h12.resolve_right fun ⟨hk, ht⟩ => ?_
      obtain hk' | ht' := hn
      · omega
      · rw [ht] at ht'; exact Bool.false_ne_true ht'
  · rintro ⟨h1, h2, h3, h4, h5, h7, h8, h9, h10, h11, h12⟩
    refine ⟨⟨⟨⟨⟨⟨⟨⟨⟨⟨⟨by omega, h2⟩, h3⟩, ?_⟩, h5.1⟩, h5.2⟩, h7⟩, h8⟩, h9⟩, h10⟩, h11⟩, ?_⟩
    · cases child
      · exact .inl rfl
      · exact .inr (Nat.lt_succ_of_le (h4 rfl))
    · by_contra hn
      obtain ⟨he, hk⟩ := not_or.mp hn
      refine hk ⟨?_, ?_⟩
      · by_contra hk0
        exact he (h12 (.inl (by omega)))
      · rw [Bool.eq_false_iff]
        exact fun ht => he (h12 (.inr ht))

theorem extOk_iff (d x : List Byte) : extOk d x = true ↔ ExtensionOk d x := by
  have hpred : ((field x 8 8 != 0) == (field d 0 1 == 1)) = true ↔ (field x 8 8 ≠ 0 ↔ field d 0 1 = 1) := by
    rw [beq_iff_eq, Bool.eq_iff_iff, bne_iff_ne, beq_iff_eq]
  rw [extOk]
  simp only [Bool.and_eq_true, hpred]
  simp only [beq_iff_eq, zeroBytes_iff]
  constructor
  · rintro ⟨⟨⟨⟨⟨h1, h2⟩, h3⟩, h4⟩, h5⟩, h6⟩
    exact ⟨⟨h1, h2⟩, ⟨h3, h4⟩, h5, h6⟩
  · rintro ⟨⟨h1, h2⟩, ⟨h3, h4⟩, h5, h6⟩
    exact ⟨⟨⟨⟨⟨h1, h2⟩, h3⟩, h4⟩, h5⟩, h6⟩

theorem eq_pow2Floor_iff {n : Nat} (h : n ≠ 0) : n = pow2Floor n ↔ ∃ k, n = 2 ^ k := by
  rw [show pow2Floor n = 2 ^ n.log2 from if_neg (by simpa using h)]
  constructor
  · exact fun e => ⟨_, e⟩
  · rintro ⟨k, rfl⟩
    rw [Nat.log2_two_pow]

theorem krecOk_iff (k : List Byte) : krecOk k = true ↔ KernelOk k := by
  have hring : (field k 32 2 = 0 ∨ field k 32 2 = pow2Floor (field k 32 2) ∧ 4 ≤ field k 32 2) ↔
      (field k 32 2 = 0 ∨ (4 ≤ field k 32 2 ∧ ∃ n, field k 32 2 = 2 ^ n)) := by
    refine or_congr_right ?_
    rw [and_comm]
    exact and_congr_right fun h4 => eq_pow2Floor_iff (by omega)
  simp only [krecOk, Bool.and_eq_true, Bool.or_eq_true, decide_eq_true_eq, beq_iff_eq, zeroBytes_iff, packetOffset_iff, addrOk56,
    List.contains_iff_mem, hring]
  constructor
  · rintro ⟨⟨⟨⟨⟨⟨⟨⟨⟨⟨⟨⟨⟨h1, h2⟩, h3⟩, h4⟩, h5⟩, h6⟩, h7⟩, h8⟩, h9⟩, h10⟩, h11⟩, h12⟩, h13⟩, h14⟩
    exact ⟨⟨h1, h2⟩, h3, ⟨h4, h5, h6, h7⟩, h8, h10, ⟨h9, h11⟩, ⟨h12, h13⟩, h14⟩
  · rintro ⟨⟨h1, h2⟩, h3, ⟨h4, h5, h6, h7⟩, h8, h10, ⟨h9, h11⟩, ⟨h12, h13⟩, h14⟩
    exact ⟨⟨⟨⟨⟨⟨⟨⟨⟨⟨⟨⟨⟨h1, h2⟩, h3⟩, h4⟩, h5⟩, h6⟩, h7⟩, h8⟩, h9⟩, h10⟩, h11⟩, h12⟩, h13⟩, h14⟩

/-- The limits of R37 and of F1, of any declarations. -/
theorem declOk_iff_limits (d : Decl) : declOk d = true ↔
    (d.lstore ≤ 262144 ∧ d.astore ≤ 524288 ∧ d.wstore ≤ 524288 ∧ d.cstore ≤ 262144 ∧ d.handles ≤ 64 ∧ d.streams ≤ 4 ∧ d.phasers ≤ 16 ∧
      d.cphasers ≤ 8 ∧ d.ring ≤ 1024) ∧ (d.ring ≠ 0 → 32 * (d.ring + 1) ≤ d.lstore) ∧
    (d.cls = 1 ∨ (d.cls = 0 ∧ d.lstore ≤ 131072 ∧ d.astore ≤ 262144 ∧ d.wstore ≤ 262144 ∧ d.cstore ≤ 131072 ∧ d.handles ≤ 32 ∧
      d.streams ≤ 2 ∧ d.phasers ≤ 8 ∧ d.cphasers ≤ 4 ∧ d.ring ≤ 64)) := by
  simp only [declOk, declWithin, Bool.and_eq_true, Bool.or_eq_true, decide_eq_true_eq, beq_iff_eq, and_assoc, ne_eq,
    ← or_iff_not_imp_left]

theorem declOk_iff (k : List Byte) : declOk (declOf k) = true ↔ DeclaredOk k := declOk_iff_limits (declOf k)

/-! ### Reads of the front end at acceptance -/

section
variable {s s1 u : State} {ctx va n cmpl : Nat}

theorem accRead_read {bs : List Byte} (h : feRead s ctx 0 va n = .ok (bs, s1)) (k : List Byte → State → AccOut) :
    accRead s ctx va n cmpl k = k bs s1 := by simp only [accRead, h]

theorem accRead_locked (h : feRead s ctx 0 va n = .error .locked) (k : List Byte → State → AccOut) :
    accRead s ctx va n cmpl k = .stall .locked := by simp only [accRead, h]

theorem accRead_unread (h : Unread s ctx va n u) (k : List Byte → State → AccOut) : accRead s ctx va n cmpl k = .refused 6 cmpl u := by
  obtain ⟨hf, rfl⟩ | ⟨a, lv, hf, rfl⟩ := h
  · simp only [accRead, hf]
  · simp only [accRead, hf]

theorem entryMarked_read {e : Nat} {b : List Byte} (h : feRead s ctx 0 (e / 64 * 64 + 60) 4 = .ok (b, s1)) (k : Bool → State → AccOut) :
    entryMarked s ctx e cmpl k = k ((ofBytes b).testBit (e % 64 / 12)) s1 := by
  simp only [entryMarked, h, bitAt_eq_testBit]

end

/-! ### The stages of acceptance -/

section
variable {s s1 s2 s3 s4 u : State} {c : Ctx} {d x k : List Byte} {prio depth : Nat} {parent : Option TeamRef}

/-- Checks 7 to 11, from the function table on. -/
def checkTable (c : Ctx) (d x k : List Byte) (prio depth : Nat) (parent : Option TeamRef) (s : State) : AccOut :=
  if (declOf k).ftab == 0 then acceptGrid s c d x (declOf k) trigA prio depth parent (field x 32 8)
  else
    accRead s c.id (declOf k).ftab.toNat 4096 (field x 32 8) fun t s =>
      match ftabOfBytes t with
      | none => .refused 7 (field x 32 8) s
      | some tab => acceptGrid s c d x (declOf k) tab prio depth parent (field x 32 8)

/-- Checks 5 and 6 of a kernel record, and what follows. -/
def checkKernel (c : Ctx) (d x : List Byte) (prio depth : Nat) (parent : Option TeamRef) (k : List Byte) (s : State) : AccOut :=
  if !krecOk k then .refused 2 (field x 32 8) s
  else entryMarked s c.id (field k 48 8) (field x 32 8) fun marked s =>
    if !marked then .refused 2 (field x 32 8) s else checkTable c d x k prio depth parent s

/-- Checks 3 and 4 of an extension, and what follows. -/
def checkExtension (c : Ctx) (d : List Byte) (prio depth : Nat) (parent : Option TeamRef) (x : List Byte) (s : State) : AccOut :=
  if field d 56 8 != 0 && !extOk d x then .refused 1 (if field x 32 8 % 64 == 0 then field x 32 8 else 0) s
  else accRead s c.id (field d 8 8) 64 (field x 32 8) (checkKernel c d x prio depth parent)

theorem acceptDesc_eq (s : State) (c : Ctx) (d : List Byte) (prio depth : Nat) (parent : Option TeamRef) :
    acceptDesc s c d prio depth parent =
      if !descOk d parent.isSome then .refused 1 0 s
      else if field d 56 8 == 0 then checkExtension c d prio depth parent (List.replicate 64 0) s
      else accRead s c.id (field d 56 8) 64 0 (checkExtension c d prio depth parent) := rfl

theorem acceptDesc_checked (hd : DescriptorOk d parent.isSome) : acceptDesc s c d prio depth parent =
    if field d 56 8 == 0 then checkExtension c d prio depth parent (List.replicate 64 0) s
    else accRead s c.id (field d 56 8) 64 0 (checkExtension c d prio depth parent) := by
  rw [acceptDesc_eq, (descOk_iff d parent.isSome).mpr hd]
  rfl

theorem acceptDesc_extended (hd : DescriptorOk d parent.isSome) (he : field d 56 8 ≠ 0) : acceptDesc s c d prio depth parent =
    accRead s c.id (field d 56 8) 64 0 (checkExtension c d prio depth parent) :=
  (acceptDesc_checked hd).trans (if_neg (by simpa using he))

/-- Of a descriptor without an extension, or with one that is in order, the kernel record is read next. -/
theorem acceptDesc_kernel (hd : DescriptorOk d parent.isSome)
    (hx : (field d 56 8 = 0 ∧ x = List.replicate 64 0 ∧ s1 = s) ∨ (field d 56 8 ≠ 0 ∧ feRead s c.id 0 (field d 56 8) 64 = .ok (x, s1) ∧ ExtensionOk d x)) :
    acceptDesc s c d prio depth parent = accRead s1 c.id (field d 8 8) 64 (field x 32 8) (checkKernel c d x prio depth parent) := by
  obtain ⟨he, rfl, rfl⟩ | ⟨he, hr, hok⟩ := hx
  · refine (acceptDesc_checked hd).trans ((if_pos (by simpa using he)).trans (if_neg ?_))
    simp [he]
  · rw [acceptDesc_extended hd he, accRead_read hr]
    exact if_neg (by simp [(extOk_iff d x).mpr hok])

theorem checkKernel_marked {last : List Byte} (hk : KernelOk k) (hl : feRead s c.id 0 (field k 48 8 / 64 * 64 + 60) 4 = .ok (last, s3))
    (hm : (ofBytes last).testBit (field k 48 8 % 64 / 12) = true) :
    checkKernel c d x prio depth parent k s = checkTable c d x k prio depth parent s3 := by
  refine (if_neg (by simp [(krecOk_iff k).mpr hk])).trans ((entryMarked_read hl _).trans ?_)
  rw [hm]
  rfl

theorem ftab_declOf (k : List Byte) : (declOf k).ftab.toNat = field k 56 8 := by
  have h := field_lt k 56 8
  exact Nat.mod_eq_of_lt h

theorem checkTable_read (hf : field k 56 8 ≠ 0) : checkTable c d x k prio depth parent s =
    accRead s c.id (field k 56 8) 4096 (field x 32 8) fun t s =>
      match ftabOfBytes t with
      | none => .refused 7 (field x 32 8) s
      | some tab => acceptGrid s c d x (declOf k) tab prio depth parent (field x 32 8) := by
  rw [← ftab_declOf] at hf ⊢
  refine if_neg fun h => hf ?_
  rw [eq_of_beq h]
  rfl

/-- With the table that is in force, checks 9 to 11 come next. -/
theorem checkTable_taken {tab : List FRec} (h : (field k 56 8 = 0 ∧ tab = trigA ∧ s4 = s3) ∨
    (field k 56 8 ≠ 0 ∧ ∃ t, feRead s3 c.id 0 (field k 56 8) 4096 = .ok (t, s4) ∧ ftabOfBytes t = some tab)) :
    checkTable c d x k prio depth parent s3 = acceptGrid s4 c d x (declOf k) tab prio depth parent (field x 32 8) := by
  obtain ⟨hf, rfl, rfl⟩ | ⟨hf, t, hr, ht⟩ := h
  · refine if_pos ?_
    rw [beq_iff_eq, BitVec.toNat_eq, ftab_declOf, hf]
    rfl
  · rw [checkTable_read hf, accRead_read hr, ht]

/-! ### Checks 9 to 11 (R391) -/

/-- A team of a deterministic launch makes no children. -/
def parentDet (s : State) (parent : Option TeamRef) : Bool :=
  match parent with
  | some r => (s.gridOf r.ctx r.gid).decl.det != 0
  | none => false

theorem parentDet_iff : parentDet s parent = true ↔ ∃ r, parent = some r ∧ (s.gridOf r.ctx r.gid).decl.det ≠ 0 := by
  cases parent <;> simp [parentDet]

/-- What check 10 refuses. -/
def detRefused (s : State) (c : Ctx) (parent : Option TeamRef) (e : Decl) (cores : Bool) (group : Nat) : Bool :=
  parentDet s parent || (e.det != 0 && (cores || e.det % group != 0 || !(partBays s c.part).any fun b => e.width ≤ bayCap s b))

theorem detRefused_iff {e : Decl} {cores : Bool} {group : Nat} : detRefused s c parent e cores group = true ↔
    (∃ r, parent = some r ∧ (s.gridOf r.ctx r.gid).decl.det ≠ 0) ∨
      (e.det ≠ 0 ∧ (cores = true ∨ e.det % group ≠ 0 ∨ ¬ ∃ b ∈ partBays s c.part, e.width ≤ bayCap s b)) := by
  simp [detRefused, parentDet_iff, or_assoc]

section
variable {e : Decl} {tab : List FRec} {cmpl : Nat}

theorem acceptGrid_undeclared (h : ¬ declOk e = true) : acceptGrid s c d x e tab prio depth parent cmpl = .refused 3 cmpl s :=
  if_pos (by simpa using h)

/-- The group of a launch: 1 where the descriptor names none. -/
def launchGroup (d : List Byte) : Nat := if field d 2 1 == 0 then 1 else field d 2 1

theorem launchGroup_eq (d : List Byte) : launchGroup d = if field d 2 1 = 0 then 1 else field d 2 1 := by
  simp only [launchGroup, beq_iff_eq]

theorem acceptGrid_detRefused (h : declOk e = true) (hb : detRefused s c parent e (bitAt (field d 1 1) 0) (launchGroup d) = true) :
    acceptGrid s c d x e tab prio depth parent cmpl = .refused 5 cmpl s :=
  (if_neg (by simp [h])).trans (if_pos hb)

theorem acceptGrid_unfit (h : declOk e = true) (hb : ¬ detRefused s c parent e (bitAt (field d 1 1) 0) (launchGroup d) = true)
    (hc : bitAt (field d 1 1) 0 = true) (hf : coResidentFits s c.part e (field d 4 4) (launchGroup d) = false) :
    acceptGrid s c d x e tab prio depth parent cmpl = .refused 4 cmpl s :=
  (if_neg (by simp [h])).trans ((if_neg hb).trans (if_pos (Bool.and_eq_true_iff.mpr ⟨hc, Bool.not_eq_true' _ |>.mpr hf⟩)))

/-- The grid of a launch that passes every check. -/
theorem acceptGrid_taken (h : declOk e = true) (hb : ¬ detRefused s c parent e (bitAt (field d 1 1) 0) (launchGroup d) = true)
    (hf : bitAt (field d 1 1) 0 = true → coResidentFits s c.part e (field d 4 4) (launchGroup d) = true) :
    ∃ gid u, acceptGrid s c d x e tab prio depth parent cmpl = .ok gid u ∧ ∃ g ∈ u.grids, g.ctx = c.id ∧ g.gid = gid ∧ g.st = .waiting ∧
      g.decl = e ∧ g.ftab = tab ∧ g.nteams = field d 4 4 ∧ g.args = BitVec.ofNat 64 (field d 16 8) ∧
      g.rngkey = BitVec.ofNat 64 (field d 24 8) ∧ g.prio = prio ∧ g.depth = depth ∧ g.parent = parent ∧ g.cmpl = cmpl ∧
      g.cond = (field d 0 1 == 1) ∧ g.cores = bitAt (field d 1 1) 0 ∧ g.timed = bitAt (field d 1 1) 1 ∧ u.teams = s.teams := by
  have hfit : ¬ (bitAt (field d 1 1) 0 && !coResidentFits s c.part e (field d 4 4) (launchGroup d)) = true := by
    cases hc : bitAt (field d 1 1) 0
    · simp
    · simp [hf hc]
  refine ⟨_, _, (if_neg (by simp [h])).trans ((if_neg hb).trans (if_neg hfit)), _, List.mem_append_right _ (List.mem_singleton_self _),
    rfl, rfl, rfl, rfl, rfl, rfl, rfl, rfl, rfl, rfl, rfl, rfl, rfl, rfl, rfl, rfl⟩

end

end

/-- Settles O60: the first check that fails decides, and what passes them all is a waiting grid. -/
theorem launchDescriptorChecks : Obligations.LaunchDescriptorChecks := by
  intro s c d prio depth parent verdict ext
  refine ⟨fun hd => ?_, fun hd => ⟨fun u he hu => ?_, fun he hl => ?_, fun x s1 he hr hx => ?_, fun x s1 hx => ⟨fun u hu => ?_, fun hl => ?_,
    fun k s2 hr => ⟨fun hk => ?_, fun last s3 hk hl => ⟨fun hm => ?_, fun hm => ⟨fun u hf hu => ?_, fun t s4 hf ht hn => ?_,
      fun tab s4 htab => ?_⟩⟩⟩⟩⟩⟩
  · exact if_pos (by simpa using mt (descOk_iff d parent.isSome).mp hd)
  · exact (acceptDesc_extended hd he).trans (accRead_unread hu _)
  · exact (acceptDesc_extended hd he).trans (accRead_locked hl _)
  · refine (acceptDesc_extended hd he).trans ((accRead_read hr _).trans ((if_pos ?_).trans ?_))
    · simpa [mt (extOk_iff d x).mp hx] using he
    · simp only [beq_iff_eq]
  · exact (acceptDesc_kernel hd hx).trans (accRead_unread hu _)
  · exact (acceptDesc_kernel hd hx).trans (accRead_locked hl _)
  · exact (acceptDesc_kernel hd hx).trans ((accRead_read hr _).trans (if_pos (by simpa using mt (krecOk_iff k).mp hk)))
  · refine (acceptDesc_kernel hd hx).trans ((accRead_read hr _).trans ((if_neg (by simp [(krecOk_iff k).mpr hk])).trans ?_))
    rw [entryMarked_read hl, hm]
    rfl
  all_goals have htable : verdict = checkTable c d x k prio depth parent s3 :=
    (acceptDesc_kernel hd hx).trans ((accRead_read hr _).trans (checkKernel_marked hk hl hm))
  · rw [htable, checkTable_read hf, accRead_unread hu]
  · rw [htable, checkTable_read hf, accRead_read ht, hn]
  · intro det group cores fromDet wide bad
    have hgrid : verdict = acceptGrid s4 c d x (declOf k) tab prio depth parent (field x 32 8) := htable.trans (checkTable_taken htab)
    have hcores : bitAt (field d 1 1) 0 = cores := bitAt_eq_testBit _ _
    have hgroup : launchGroup d = group := launchGroup_eq d
    have hbad : detRefused s4 c parent (declOf k) (bitAt (field d 1 1) 0) (launchGroup d) = true ↔ bad := by
      rw [hcores, hgroup]
      exact detRefused_iff
    refine ⟨fun hdecl => ?_, fun hdecl hb => ?_, fun hdecl hb hc hf => ?_, fun hdecl hb hf => ?_⟩
    · exact hgrid.trans (acceptGrid_undeclared (mt (declOk_iff k).mp hdecl))
    · exact hgrid.trans (acceptGrid_detRefused ((declOk_iff k).mpr hdecl) (hbad.mpr hb))
    · exact hgrid.trans (acceptGrid_unfit ((declOk_iff k).mpr hdecl) (mt hbad.mp hb) (hcores.trans hc) (by rw [hgroup]; exact hf))
    · obtain ⟨gid, u, hok, g, hg, h1, h2, h3, h4, h5, h6, h7, h8, h9, h10, h11, h12, h13, h14, h15, h16⟩ :=
        acceptGrid_taken (x := x) (tab := tab) (prio := prio) (depth := depth) (cmpl := field x 32 8) ((declOk_iff k).mpr hdecl) (mt hbad.mp hb)
          fun hc => by rw [hgroup]; exact hf (hcores.symm.trans hc)
      exact ⟨gid, u, hgrid.trans hok, g, hg, h1, h2, h3, h4, h5, h6, by rw [h7]; rfl, by rw [h8]; rfl, h9, h10, h11, h12,
        h13.trans (beq_eq_decide ..), h14.trans hcores, h15.trans (bitAt_eq_testBit _ _), h16⟩

end Sys2Proof.Proofs
end

section
/-! PROOFS. Tree walks: FP32 comparisons, the bounds of a node and the tests (R302, R303). -/

namespace Sys2Proof.Proofs

open Sys2Proof.Machine Sys2Proof.Spec

/-! ### NaNs and the order of FP32 values -/

theorem f32isNan_iff (a : Nat) : f32isNan a = true ↔ isNan a := by
  rw [f32isNan, isNan]
  cases fmt32.read a <;> simp [FVal.isNan]

theorem f32isNan_false_iff (a : Nat) : f32isNan a = false ↔ ¬ isNan a := by
  rw [← f32isNan_iff, Bool.not_eq_true]

theorem f32lt_eq_below (a b : Nat) : f32lt a b = below a b := by
  rw [f32lt, cmp_eq_relation, below]

/-- Where a number stands on the extended line; a NaN has no place of its own. -/
def place : FVal → WithBot (WithTop ℚ)
  | .nan _ => ⊥
  | .inf p => if p then ⊥ else ⊤
  | .fin p m e => ((ratOf p m e : WithTop ℚ) : WithBot (WithTop ℚ))

/-- The place of the number that bits stand for. -/
def placeOf (a : Nat) : WithBot (WithTop ℚ) := place (fmt32.read a)

theorem not_nan_left {x y : FVal} {o : Ordering} (h : relation x y = some o) : x.isNan = false ∧ y.isNan = false := by
  have hn := mt (relation_eq_none_iff x y).mpr (by rw [h]; exact Option.some_ne_none _)
  simpa using hn

theorem bot_lt_rat (r : ℚ) : (⊥ : WithBot (WithTop ℚ)) < ((r : WithTop ℚ) : WithBot (WithTop ℚ)) := WithBot.bot_lt_coe _

theorem rat_lt_top (r : ℚ) : ((r : WithTop ℚ) : WithBot (WithTop ℚ)) < ⊤ := WithBot.coe_lt_coe.mpr (WithTop.coe_lt_top _)

/-- The relation of two numbers is the order of their places. -/
theorem relation_eq_compare {x y : FVal} (hx : x.isNan = false) (hy : y.isNan = false) : relation x y = some (compare (place x) (place y)) := by
  match x, y with
  | .nan _, _ => cases hx
  | .inf _, .nan _ => cases hy
  | .fin _ _ _, .nan _ => cases hy
  | .inf true, .inf true => exact congrArg some (compare_eq_iff_eq.mpr rfl).symm
  | .inf true, .inf false => exact congrArg some (compare_lt_iff_lt.mpr bot_lt_top).symm
  | .inf false, .inf true => exact congrArg some (compare_gt_iff_gt.mpr bot_lt_top).symm
  | .inf false, .inf false => exact congrArg some (compare_eq_iff_eq.mpr rfl).symm
  | .inf true, .fin _ _ _ => exact congrArg some (compare_lt_iff_lt.mpr (bot_lt_rat _)).symm
  | .inf false, .fin _ _ _ => exact congrArg some (compare_gt_iff_gt.mpr (rat_lt_top _)).symm
  | .fin _ _ _, .inf true => exact congrArg some (compare_gt_iff_gt.mpr (bot_lt_rat _)).symm
  | .fin _ _ _, .inf false => exact congrArg some (compare_lt_iff_lt.mpr (rat_lt_top _)).symm
  | .fin p m e, .fin q n g =>
    have hcoe : ∀ a b : ℚ, (((a : WithTop ℚ) : WithBot (WithTop ℚ)) < ((b : WithTop ℚ) : WithBot (WithTop ℚ))) ↔ a < b := fun a b =>
      WithBot.coe_lt_coe.trans WithTop.coe_lt_coe
    refine congrArg some ?_
    rcases lt_trichotomy (ratOf p m e) (ratOf q n g) with h | h | h
    · rw [if_pos h, place, place, compare_lt_iff_lt.mpr ((hcoe _ _).mpr h)]
    · rw [if_neg h.not_lt, if_neg h.not_gt, place, place, h, compare_eq_iff_eq.mpr rfl]
    · rw [if_neg h.not_gt, if_pos h, place, place, compare_gt_iff_gt.mpr ((hcoe _ _).mpr h)]

theorem relation_read {a b : Nat} (ha : ¬ isNan a) (hb : ¬ isNan b) :
    relation (fmt32.read a) (fmt32.read b) = some (compare (placeOf a) (placeOf b)) :=
  relation_eq_compare ((f32isNan_false_iff a).mpr ha) ((f32isNan_false_iff b).mpr hb)

theorem below_iff {a b : Nat} (ha : ¬ isNan a) (hb : ¬ isNan b) : below a b = true ↔ placeOf a < placeOf b := by
  rw [below, beq_iff_eq, relation_read ha hb, Option.some_inj, compare_lt_iff_lt]

theorem not_isNan_of_below {a b : Nat} (h : below a b = true) : ¬ isNan a ∧ ¬ isNan b := by
  obtain ⟨ha, hb⟩ := not_nan_left (eq_of_beq h)
  exact ⟨(f32isNan_false_iff a).mp ha, (f32isNan_false_iff b).mp hb⟩

theorem below_asymm {a b : Nat} (h : below a b = true) : below b a ≠ true := by
  obtain ⟨ha, hb⟩ := not_isNan_of_below h
  exact fun h' => ((below_iff ha hb).mp h).not_gt ((below_iff hb ha).mp h')

theorem f32le_iff {a b : Nat} (ha : ¬ isNan a) (hb : ¬ isNan b) : f32le a b = true ↔ ¬ below b a = true := by
  rw [below_iff hb ha, not_lt, f32le, cmp_eq_relation, relation_read ha hb]
  rcases lt_trichotomy (placeOf a) (placeOf b) with h | h | h
  · rw [compare_lt_iff_lt.mpr h]; exact iff_of_true rfl h.le
  · rw [compare_eq_iff_eq.mpr h]; exact iff_of_true rfl h.le
  · rw [compare_gt_iff_gt.mpr h]; exact iff_of_false Bool.false_ne_true h.not_ge

/-! ### Least and greatest of two -/

/-- Without DAZ and FTZ, FMAX of two numbers delivers the bits of one that is not below the other. -/
theorem most2_cases {a b : Nat} (ha : ¬ isNan a) (hb : ¬ isNan b) :
    (most2 a b = a ∧ placeOf b ≤ placeOf a) ∨ (most2 a b = b ∧ placeOf a ≤ placeOf b) := by
  simp only [most2, Fmt.minmax, Fmt.readDaz, Fmt.dazBits, Fmt.flushBits, Bool.false_and, Bool.false_eq_true, if_false, if_true, cmp_eq_relation,
    relation_read ha hb]
  rcases lt_trichotomy (placeOf a) (placeOf b) with h | h | h
  · rw [compare_lt_iff_lt.mpr h]; exact .inr ⟨rfl, h.le⟩
  · rw [compare_eq_iff_eq.mpr h]
    cases (fmt32.read a).isNeg
    · exact .inl ⟨rfl, h.ge⟩
    · exact .inr ⟨rfl, h.le⟩
  · rw [compare_gt_iff_gt.mpr h]; exact .inl ⟨rfl, h.le⟩

theorem least2_cases {a b : Nat} (ha : ¬ isNan a) (hb : ¬ isNan b) : least2 a b = a ∨ least2 a b = b := by
  simp only [least2, Fmt.minmax, Fmt.readDaz, Fmt.dazBits, Fmt.flushBits, Bool.false_and, Bool.false_eq_true, if_false, cmp_eq_relation,
    relation_read ha hb]
  rcases lt_trichotomy (placeOf a) (placeOf b) with h | h | h
  · rw [compare_lt_iff_lt.mpr h]; exact .inl rfl
  · rw [compare_eq_iff_eq.mpr h]
    cases (fmt32.read a).isNeg
    · exact .inr rfl
    · exact .inl rfl
  · rw [compare_gt_iff_gt.mpr h]; exact .inr rfl

theorem max3_of_numbers {a b c : Nat} (ha : ¬ isNan a) (hb : ¬ isNan b) (hc : ¬ isNan c) : max3 a b c = most2 (most2 a b) c := by
  rw [max3, (f32isNan_false_iff a).mpr ha, (f32isNan_false_iff b).mpr hb, (f32isNan_false_iff c).mpr hc]
  rfl

/-- The greatest of three numbers is one of them, and none is above it. -/
theorem most2_most2 {a b c : Nat} (ha : ¬ isNan a) (hb : ¬ isNan b) (hc : ¬ isNan c) :
    (most2 (most2 a b) c = a ∨ most2 (most2 a b) c = b ∨ most2 (most2 a b) c = c) ∧
      placeOf a ≤ placeOf (most2 (most2 a b) c) ∧ placeOf b ≤ placeOf (most2 (most2 a b) c) ∧ placeOf c ≤ placeOf (most2 (most2 a b) c) := by
  rcases most2_cases ha hb with ⟨h, hle⟩ | ⟨h, hle⟩ <;> rw [h]
  · rcases most2_cases ha hc with ⟨h', hle'⟩ | ⟨h', hle'⟩ <;> rw [h']
    · exact ⟨.inl rfl, le_rfl, hle, hle'⟩
    · exact ⟨.inr (.inr rfl), hle', hle.trans hle', le_rfl⟩
  · rcases most2_cases hb hc with ⟨h', hle'⟩ | ⟨h', hle'⟩ <;> rw [h']
    · exact ⟨.inr (.inl rfl), hle, le_rfl, hle'⟩
    · exact ⟨.inr (.inr rfl), hle.trans hle', hle', le_rfl⟩

/-! ### The bits of a number, and its neighbours -/

theorem read_isNan_iff {f : Fmt} (hf : f.kind = .ieee) (x : Nat) :
    (f.read x).isNan = true ↔ x / 2 ^ f.mb % 2 ^ f.eb = 2 ^ f.eb - 1 ∧ x % 2 ^ f.mb ≠ 0 := by
  simp only [Fmt.read, hf, beq_iff_eq]
  split_ifs with htop hm
  · exact iff_of_false Bool.false_ne_true fun h => h.2 hm
  · exact iff_of_true rfl ⟨htop, hm⟩
  · exact iff_of_false Bool.false_ne_true fun h => htop h.1
  · exact iff_of_false Bool.false_ne_true fun h => htop h.1

/-- The NaNs of FP32 lie above the infinities. -/
theorem isNan_iff_bits (x : Nat) : isNan x ↔ 0x7F800000 < x % 2 ^ 31 := by
  rw [← f32isNan_iff, f32isNan]
  refine (read_isNan_iff (f := fmt32) rfl x).trans ?_
  change x / 2 ^ 23 % 2 ^ 8 = 2 ^ 8 - 1 ∧ x % 2 ^ 23 ≠ 0 ↔ _
  omega

theorem nextDown_eq {x : Nat} (hx : x < 2 ^ 32) : nextDown x = stepDown x := by
  simp only [nextDown, stepDown, beq_iff_eq]
  split_ifs <;> omega

theorem f32neg_positive {x : Nat} (hx : x < 2 ^ 31) : f32neg x = x + 2 ^ 31 := by
  rw [f32neg, if_neg (by simp; omega)]

theorem f32neg_negative {x : Nat} (hx : x < 2 ^ 31) : f32neg (x + 2 ^ 31) = x := by
  rw [f32neg, if_pos (by simp; omega), Nat.add_sub_cancel]

theorem nextDown_positive {x : Nat} (hx : x < 2 ^ 31) (h0 : x ≠ 0) : nextDown x = x - 1 := by
  rw [nextDown_eq (by omega), stepDown, if_neg (by omega), if_neg (by omega), if_pos (by omega)]

theorem nextDown_negative {x : Nat} (hx : x < 2 ^ 31) (h0 : x ≠ 0) (hi : x ≠ 0x7F800000) : nextDown (x + 2 ^ 31) = x + 1 + 2 ^ 31 := by
  rw [nextDown_eq (by omega), stepDown, if_neg (by omega), if_neg (by omega), if_neg (by omega)]
  omega

/-- Toward +∞ is toward −∞ of the negated value, negated. -/
theorem nextUp_eq {x : Nat} (hx : x < 2 ^ 32) (hn : ¬ isNan x) : nextUp x = stepUp x := by
  rw [isNan_iff_bits] at hn
  by_cases hs : x < 2 ^ 31
  · rw [nextUp, f32neg_positive hs, stepUp]
    by_cases h0 : x = 0
    · subst h0; rfl
    by_cases hi : x = 0x7F800000
    · subst hi; rfl
    rw [nextDown_negative hs h0 hi, f32neg_negative (by omega), if_neg (by omega), if_neg hi, if_pos (by omega)]
  · obtain ⟨y, rfl⟩ := Nat.exists_eq_add_of_le' (not_lt.mp hs)
    rw [nextUp, f32neg_negative (by omega), stepUp]
    by_cases h0 : y = 0
    · subst h0; rfl
    rw [nextDown_positive (by omega) h0, f32neg_positive (by omega), if_neg (by omega), if_neg (by omega), if_neg (by omega)]
    omega

/-- One value toward −∞ or +∞ of a number is a number. -/
theorem stepDown_number {x : Nat} (hx : x < 2 ^ 32) (hn : ¬ isNan x) : stepDown x < 2 ^ 32 ∧ ¬ isNan (stepDown x) := by
  rw [isNan_iff_bits] at hn ⊢
  rw [stepDown]
  split_ifs <;> omega

theorem stepUp_number {x : Nat} (hx : x < 2 ^ 32) (hn : ¬ isNan x) : stepUp x < 2 ^ 32 ∧ ¬ isNan (stepUp x) := by
  rw [isNan_iff_bits] at hn ⊢
  rw [stepUp]
  split_ifs <;> omega

theorem quot_lt (a b : Nat) : quot a b < 2 ^ 32 := by
  have hinf := infBits_lt ieee_fmt32
  have hsign := signBit_lt (f := fmt32)
  rw [quot]
  cases fmt32.read a <;> cases fmt32.read b
  case fin.fin p m e q n g =>
    simp only [Fmt.div]
    split
    · split
      · exact nanFR_lt _
      · exact hinf _
    · exact round_lt ieee_fmt32 (by simp [Fixed]) _ _ _ _ _
  case inf.fin => exact hinf _
  case fin.inf => exact hsign _
  all_goals exact nanFR_lt _

end Sys2Proof.Proofs
end

section
/-! PROOFS. Tree walks: the bound of a node and the RAY, SPHERE and OPEN tests (R302, R303). -/

namespace Sys2Proof.Proofs

open Sys2Proof.Machine Sys2Proof.Spec

/-! ### Bounds -/

theorem forall_lt_three {P : Nat → Prop} : (∀ i < 3, P i) ↔ P 0 ∧ P 1 ∧ P 2 :=
  ⟨fun h => ⟨h 0 (by decide), h 1 (by decide), h 2 (by decide)⟩, fun ⟨h0, h1, h2⟩ i hi => by interval_cases i <;> assumption⟩

theorem exists_lt_three {P : Nat → Prop} : (∃ i < 3, P i) ↔ P 0 ∨ P 1 ∨ P 2 := by
  rw [← not_iff_not]
  simpa [not_or] using forall_lt_three (P := fun i => ¬ P i)

/-- The greatest of three numbers is one of them, and is below none. -/
theorem greatest_of_three {a b c : Nat} (ha : ¬ isNan a) (hb : ¬ isNan b) (hc : ¬ isNan c) :
    (most2 (most2 a b) c = a ∨ most2 (most2 a b) c = b ∨ most2 (most2 a b) c = c) ∧
      ¬ below (most2 (most2 a b) c) a ∧ ¬ below (most2 (most2 a b) c) b ∧ ¬ below (most2 (most2 a b) c) c := by
  obtain ⟨hone, hle⟩ := most2_most2 ha hb hc
  have hm : ¬ isNan (most2 (most2 a b) c) := by
    rcases hone with h | h | h <;> rw [h] <;> assumption
  rw [below_iff hm ha, below_iff hm hb, below_iff hm hc]
  exact ⟨hone, hle.1.not_gt, hle.2.1.not_gt, hle.2.2.not_gt⟩

/-- The centre of a box is the middle of it, its size the longest edge. -/
theorem boxBound_boxed (l0 l1 l2 h0 h1 h2 : Nat) :
    let b := boxBound [l0, l1, l2] [h0, h1, h2]
    (∀ i < 3, b.centre.getD i 0 = times .rne (plus .rne (b.lo.getD i 0) (b.hi.getD i 0)) 0x3F000000) ∧
      ((∀ i < 3, ¬ isNan (less .ru (b.hi.getD i 0) (b.lo.getD i 0))) →
        (∃ i < 3, b.size = less .ru (b.hi.getD i 0) (b.lo.getD i 0)) ∧ ∀ i < 3, ¬ below b.size (less .ru (b.hi.getD i 0) (b.lo.getD i 0))) := by
  refine ⟨forall_lt_three.mpr ⟨rfl, rfl, rfl⟩, fun hn => ?_⟩
  obtain ⟨hn0, hn1, hn2⟩ := forall_lt_three.mp hn
  have hsize : (boxBound [l0, l1, l2] [h0, h1, h2]).size = most2 (most2 (less .ru h0 l0) (less .ru h1 l1)) (less .ru h2 l2) :=
    max3_of_numbers hn0 hn1 hn2
  obtain ⟨hone, hle0, hle1, hle2⟩ := greatest_of_three hn0 hn1 hn2
  rw [exists_lt_three, forall_lt_three, hsize]
  exact ⟨hone, hle0, hle1, hle2⟩

theorem bound_boundIs (w : Walk) (node : List Byte) : BoundIs w node (w.bound node) := by
  unfold BoundIs Walk.bound Walk.bkind Walk.boff Walk.origin
  match field w.desc 2 1 with
  | 0 => exact ⟨rfl, rfl, boxBound_boxed _ _ _ _ _ _⟩
  | 1 => exact ⟨forall_lt_three.mpr ⟨⟨rfl, rfl⟩, ⟨rfl, rfl⟩, ⟨rfl, rfl⟩⟩, boxBound_boxed _ _ _ _ _ _⟩
  | 2 => exact ⟨forall_lt_three.mpr ⟨⟨rfl, rfl, rfl⟩, ⟨rfl, rfl, rfl⟩, ⟨rfl, rfl, rfl⟩⟩, rfl⟩
  | _ + 3 => exact ⟨forall_lt_three.mpr ⟨⟨rfl, rfl, rfl⟩, ⟨rfl, rfl, rfl⟩, ⟨rfl, rfl, rfl⟩⟩, rfl⟩

/-! ### The RAY test -/

theorem q_lt (w : Walk) (i : Nat) : w.q i < 2 ^ 32 := field_lt _ _ _

theorem zero_direction_iff {d : Nat} (hd : d < 2 ^ 32) : d % 2 ^ 31 = 0 ↔ d = 0 ∨ d = 0x80000000 := by omega

theorem most2_number {a b : Nat} (ha : a < 2 ^ 32 ∧ ¬ isNan a) (hb : b < 2 ^ 32 ∧ ¬ isNan b) : most2 a b < 2 ^ 32 ∧ ¬ isNan (most2 a b) := by
  rcases most2_cases ha.2 hb.2 with h | h <;> rw [h.1] <;> assumption

theorem least2_number {a b : Nat} (ha : a < 2 ^ 32 ∧ ¬ isNan a) (hb : b < 2 ^ 32 ∧ ¬ isNan b) : least2 a b < 2 ^ 32 ∧ ¬ isNan (least2 a b) := by
  rcases least2_cases ha.2 hb.2 with h | h <;> rw [h] <;> assumption

/-- The quotients of an axis, those of its low and of its high side. -/
def lowQuot (q : Nat → Nat) (b : Bound) (i : Nat) : Nat := quot (less .rne (b.lo.getD i 0) (q i)) (q (3 + i))
def highQuot (q : Nat → Nat) (b : Bound) (i : Nat) : Nat := quot (less .rne (b.hi.getD i 0) (q i)) (q (3 + i))

/-- One axis of the slab test, where no NaN is met. -/
theorem rayAxis_sound {w : Walk} {b : Bound} {i tn tf : Nat} (h : SoundAxis w.q b i) (hn : ¬ isNan tn) (hf : ¬ isNan tf) :
    rayAxis w b (.span tn tf) i =
      if w.q (3 + i) = 0 ∨ w.q (3 + i) = 0x80000000 then
        (if below (w.q i) (b.lo.getD i 0) = true ∨ below (b.hi.getD i 0) (w.q i) = true then .miss else .span tn tf)
      else .span (most2 tn (stepDown (least2 (lowQuot w.q b i) (highQuot w.q b i)))) (least2 tf (stepUp (most2 (lowQuot w.q b i) (highQuot w.q b i)))) := by
  obtain ⟨ho, hd, hlo, hhi, hq⟩ := h
  have hpre : (f32isNan tn || f32isNan tf || f32isNan (w.q i) || f32isNan (w.q (3 + i)) || f32isNan (nth b.lo i 0) || f32isNan (nth b.hi i 0)) = false := by
    simp only [Bool.or_eq_false_iff, f32isNan_false_iff, nth]
    exact ⟨⟨⟨⟨⟨hn, hf⟩, ho⟩, hd⟩, hlo⟩, hhi⟩
  rw [rayAxis]
  simp only [hpre, Bool.false_eq_true, if_false, beq_iff_eq, zero_direction_iff (q_lt w _), Bool.or_eq_true, f32lt_eq_below]
  split
  · rfl
  · next hnz =>
    rw [not_or] at hnz
    obtain ⟨hx, hy⟩ := hq hnz.1 hnz.2
    refine (if_neg ?_).trans ?_
    · rw [not_or, f32isNan_iff, f32isNan_iff]; exact ⟨hx, hy⟩
    · have hl := least2_number ⟨quot_lt _ _, hx⟩ ⟨quot_lt _ _, hy⟩
      have hm := most2_number ⟨quot_lt _ _, hx⟩ ⟨quot_lt _ _, hy⟩
      exact congrArg₂ RayRes.span (congrArg (most2 tn) (nextDown_eq hl.1)) (congrArg (least2 tf) (nextUp_eq hm.1 hm.2))

/-- The slab test over axes where no NaN is met: a miss, or the interval that is left, of numbers. -/
theorem foldl_rayAxis_sound {w : Walk} {b : Bound} : ∀ {l : List Nat} {tn tf : Nat}, (∀ i ∈ l, SoundAxis w.q b i) →
    (tn < 2 ^ 32 ∧ ¬ isNan tn) → (tf < 2 ^ 32 ∧ ¬ isNan tf) →
    (∀ t, slab w.q b l (tn, tf) = some t → l.foldl (rayAxis w b) (.span tn tf) = .span t.1 t.2 ∧ ¬ isNan t.1 ∧ ¬ isNan t.2) ∧
      (slab w.q b l (tn, tf) = none → l.foldl (rayAxis w b) (.span tn tf) = .miss)
  | [], tn, tf, _, hn, hf => ⟨fun _ ht => Option.some.inj ht ▸ ⟨rfl, hn.2, hf.2⟩, fun h => absurd h (Option.some_ne_none _)⟩
  | i :: l, tn, tf, hs, hn, hf => by
    obtain ⟨hi, hl⟩ := List.forall_mem_cons.mp hs
    rw [List.foldl_cons, rayAxis_sound hi hn.2 hf.2, slab]
    dsimp only
    by_cases hz : w.q (3 + i) = 0 ∨ w.q (3 + i) = 0x80000000
    · rw [if_pos hz, if_pos hz]
      by_cases hm : below (w.q i) (b.lo.getD i 0) = true ∨ below (b.hi.getD i 0) (w.q i) = true
      · rw [if_pos hm, if_pos (by simpa [below] using hm)]
        exact ⟨fun t ht => (Option.some_ne_none t ht.symm).elim, fun _ => foldl_rayAxis_miss l⟩
      · rw [if_neg hm, if_neg (by simpa [below] using hm)]
        exact foldl_rayAxis_sound hl hn hf
    · rw [if_neg hz, if_neg hz]
      have hq := hi.2.2.2.2 (fun h => hz (.inl h)) (fun h => hz (.inr h))
      have hl' := least2_number ⟨quot_lt _ _, hq.1⟩ ⟨quot_lt _ _, hq.2⟩
      have hm' := most2_number ⟨quot_lt _ _, hq.1⟩ ⟨quot_lt _ _, hq.2⟩
      exact foldl_rayAxis_sound hl (most2_number hn (stepDown_number hl'.1 hl'.2)) (least2_number hf (stepUp_number hm'.1 hm'.2))
where
  foldl_rayAxis_miss : ∀ l : List Nat, l.foldl (rayAxis w b) .miss = .miss
    | [] => rfl
    | _ :: l => foldl_rayAxis_miss l

theorem foldl_rayAxis_nan (w : Walk) (b : Bound) : ∀ l : List Nat, l.foldl (rayAxis w b) .nan = .nan
  | [] => rfl
  | _ :: l => foldl_rayAxis_nan w b l

/-- What the RAY test makes of an interval or a miss. -/
def rayVerdict (w : Walk) : RayRes → Option Nat
  | .miss => none
  | .nan => some (w.q 6)
  | .span tn tf => if f32le tn tf then some tn else none

theorem test_ray {w : Walk} (hk : field w.blk 16 1 = 0) (b : Bound) :
    w.test b = rayVerdict w ([0, 1, 2].foldl (rayAxis w b) (.span (w.q 6) w.tmax.toNat)) := by
  rw [Walk.test, Walk.qkind, hk]
  rfl

/-- A test that asks for f32le passes unless the order is the other way. -/
theorem if_f32le {x y : Nat} (hx : ¬ isNan x) (hy : ¬ isNan y) (v : Nat) :
    (if f32le x y then some v else none) = if below y x then none else some v := by
  by_cases hb : below y x = true
  · rw [if_pos hb, if_neg fun h => (f32le_iff hx hy).mp h hb]
  · rw [if_neg hb, if_pos ((f32le_iff hx hy).mpr hb)]

theorem test_ray_sound {w : Walk} {b : Bound} (hk : field w.blk 16 1 = 0) (hs : ∀ i < 3, SoundAxis w.q b i) (h6 : ¬ isNan (w.q 6))
    (ht : ¬ isNan w.tmax.toNat) :
    (∀ t, slab w.q b [0, 1, 2] (w.q 6, w.tmax.toNat) = some t → w.test b = if below t.2 t.1 then none else some t.1) ∧
      (slab w.q b [0, 1, 2] (w.q 6, w.tmax.toNat) = none → w.test b = none) := by
  obtain ⟨hspan, hmiss⟩ := foldl_rayAxis_sound (l := [0, 1, 2]) (b := b) (by simpa using forall_lt_three.mp hs) ⟨q_lt w 6, h6⟩ ⟨w.tmax.isLt, ht⟩
  refine ⟨fun t h => ?_, fun h => ?_⟩
  · obtain ⟨heq, hn, hf⟩ := hspan t h
    rw [test_ray hk, heq, rayVerdict, if_f32le hn hf]
  · rw [test_ray hk, hmiss h, rayVerdict]

/-- A NaN on the second axis passes the node with tmin. -/
theorem test_ray_nan {w : Walk} {b : Bound} (hk : field w.blk 16 1 = 0) (h0 : SoundAxis w.q b 0) (hz : w.q 3 ≠ 0) (hz' : w.q 3 ≠ 0x80000000)
    (h6 : ¬ isNan (w.q 6)) (ht : ¬ isNan w.tmax.toNat) (h4 : w.q 4 ≠ 0) (h4' : w.q 4 ≠ 0x80000000)
    (hn : isNan (lowQuot w.q b 1) ∨ isNan (highQuot w.q b 1)) : w.test b = some (w.q 6) := by
  have haxis : ∀ tn tf, rayAxis w b (.span tn tf) 1 = .nan := fun tn tf => by
    have hd : (w.q (3 + 1) % 2 ^ 31 == 0) = false :=
      beq_eq_false_iff_ne.mpr fun h => ((zero_direction_iff (q_lt w 4)).mp h).elim h4 h4'
    rw [rayAxis]
    simp only [hd, Bool.false_eq_true, if_false]
    split
    · rfl
    · exact if_pos (by rw [Bool.or_eq_true, f32isNan_iff, f32isNan_iff]; exact hn)
  rw [test_ray hk]
  rw [List.foldl_cons, rayAxis_sound h0 h6 ht, if_neg (fun h => h.elim hz hz'), List.foldl_cons, haxis, foldl_rayAxis_nan, rayVerdict]

/-! ### The SPHERE and OPEN tests -/

/-- The distance from a sphere's centre to a box, by its axes. -/
def sphereDist (w : Walk) (b : Bound) (i : Nat) : Nat := most2 (most2 (less .rne (b.lo.getD i 0) (w.q i)) 0) (less .rne (w.q i) (b.hi.getD i 0))

/-- The distances that the SPHERE test forms: NaN where a difference is one. -/
def sphereAxis (w : Walk) (b : Bound) (i : Nat) : Nat := max3 (less .rne (b.lo.getD i 0) (w.q i)) 0 (less .rne (w.q i) (b.hi.getD i 0))

theorem test_sphere {w : Walk} (hk : field w.blk 16 1 = 1) (b : Bound) :
    w.test b =
      let d2 := square3 (sphereAxis w b 0) (sphereAxis w b 1) (sphereAxis w b 2)
      let r2 := times .rne (w.q 3) (w.q 3)
      if f32isNan d2 || f32isNan r2 then some 0 else if f32le d2 r2 then some d2 else none := by
  rw [Walk.test, Walk.qkind, hk]
  rfl

theorem not_isNan_zero : ¬ isNan 0 := by rw [isNan_iff_bits]; omega

theorem isNan_nanBits : isNan fmt32.nanBits := ⟨_, rfl⟩

theorem sphereAxis_number {w : Walk} {b : Bound} {i : Nat} (h : ¬ isNan (less .rne (b.lo.getD i 0) (w.q i)) ∧ ¬ isNan (less .rne (w.q i) (b.hi.getD i 0))) :
    sphereAxis w b i = sphereDist w b i :=
  max3_of_numbers h.1 not_isNan_zero h.2

theorem sphereAxis_nan {w : Walk} {b : Bound} {i : Nat} (h : isNan (less .rne (b.lo.getD i 0) (w.q i)) ∨ isNan (less .rne (w.q i) (b.hi.getD i 0))) :
    isNan (sphereAxis w b i) := by
  have hany : (f32isNan (less .rne (b.lo.getD i 0) (w.q i)) || f32isNan 0 || f32isNan (less .rne (w.q i) (b.hi.getD i 0))) = true := by
    rw [Bool.or_eq_true, Bool.or_eq_true, f32isNan_iff, f32isNan_iff, f32isNan_iff]
    exact h.imp_left .inl
  rw [sphereAxis, max3, if_pos hany]
  exact isNan_nanBits

theorem isNan_of_bits {x : Nat} (h : x = fmt32.nanBits) : isNan x := h ▸ isNan_nanBits

/-- A NaN in a product or multiply-add gives one. -/
theorem isNan_square3 {x y z : Nat} (h : isNan x ∨ isNan y ∨ isNan z) : isNan (square3 x y z) := by
  have hadd : ∀ {a b c : Nat}, isNan a → isNan (fused a b c) := fun ⟨sg, ha⟩ =>
    isNan_of_bits (by rw [fused, ha]; exact (nan_operands fmt32 .rne false sg _ _).2.2.2.2.1)
  have hlast : ∀ {a b c : Nat}, isNan c → isNan (fused a b c) := fun ⟨sg, hc⟩ =>
    isNan_of_bits (by rw [fused, hc]; exact fma_nan_addend fmt32 .rne false sg _ _)
  rcases h with ⟨sg, hx⟩ | hy | hz
  · have hmul : isNan (times .rne x x) := isNan_of_bits (by rw [times, hx]; rfl)
    exact hlast (hlast hmul)
  · exact hlast (hadd hy)
  · exact hadd hz

theorem test_sphere_number {w : Walk} {b : Bound} (hk : field w.blk 16 1 = 1)
    (hs : ∀ i < 3, ¬ isNan (less .rne (b.lo.getD i 0) (w.q i)) ∧ ¬ isNan (less .rne (w.q i) (b.hi.getD i 0)))
    (hd : ¬ isNan (square3 (sphereDist w b 0) (sphereDist w b 1) (sphereDist w b 2))) (hr : ¬ isNan (times .rne (w.q 3) (w.q 3))) :
    w.test b = if below (times .rne (w.q 3) (w.q 3)) (square3 (sphereDist w b 0) (sphereDist w b 1) (sphereDist w b 2)) then none
      else some (square3 (sphereDist w b 0) (sphereDist w b 1) (sphereDist w b 2)) := by
  obtain ⟨h0, h1, h2⟩ := forall_lt_three.mp hs
  rw [test_sphere hk, sphereAxis_number h0, sphereAxis_number h1, sphereAxis_number h2]
  dsimp only
  rw [(f32isNan_false_iff _).mpr hd, (f32isNan_false_iff _).mpr hr]
  exact (if_neg Bool.false_ne_true).trans (if_f32le hd hr _)

theorem test_sphere_nan {w : Walk} {b : Bound} (hk : field w.blk 16 1 = 1)
    (h : isNan (times .rne (w.q 3) (w.q 3)) ∨ ∃ i < 3, isNan (less .rne (b.lo.getD i 0) (w.q i)) ∨ isNan (less .rne (w.q i) (b.hi.getD i 0))) :
    w.test b = some 0 := by
  rw [test_sphere hk]
  refine if_pos ?_
  rw [Bool.or_eq_true, f32isNan_iff, f32isNan_iff]
  refine h.symm.imp_left fun hi => isNan_square3 ?_
  exact (exists_lt_three.mp hi).imp sphereAxis_nan (.imp sphereAxis_nan sphereAxis_nan)

theorem test_open {w : Walk} (hk : field w.blk 16 1 = 2) (b : Bound) :
    w.test b = some (square3 (less .rne (w.q 0) (b.centre.getD 0 0)) (less .rne (w.q 1) (b.centre.getD 1 0)) (less .rne (w.q 2) (b.centre.getD 2 0))) := by
  rw [Walk.test, Walk.qkind, hk]
  rfl

theorem far_iff (w : Walk) (b : Bound) (d2 : Nat) :
    w.far b d2 = true ↔ below (times .rne b.size b.size) (times .rne (times .rne (w.q 3) (w.q 3)) d2) := by
  rw [Walk.far, f32lt_eq_below]
  rfl

end Sys2Proof.Proofs
end

section
/-! PROOFS. Tree walks: the order of the children, and the turns of a step (R304, R307). -/

namespace Sys2Proof.Proofs

open Sys2Proof.Machine Sys2Proof.Spec

/-! ### Stable insertion -/

/-- Child a stands on top of child b: by their values, equal ones by their slots. -/
def Above (a b : (Nat × Nat) × Nat) : Prop := below a.1.2 b.1.2 ∨ (¬ below b.1.2 a.1.2 ∧ a.2 < b.2)

theorem above_antisymm {a b : (Nat × Nat) × Nat} (h : Above a b) : ¬ Above b a := by
  rintro (h' | ⟨h', hlt'⟩) <;> rcases h with h | ⟨h, hlt⟩
  · exact below_asymm h h'
  · exact h h'
  · exact h' h
  · exact hlt.not_gt hlt'

/-- Insertion by the values of numbered children. -/
def insertChild (x : (Nat × Nat) × Nat) : List ((Nat × Nat) × Nat) → List ((Nat × Nat) × Nat) :=
  insertBy (fun a b => f32lt a.1.2 b.1.2) x

theorem perm_insertChild (x : (Nat × Nat) × Nat) : ∀ l, (insertChild x l).Perm (x :: l)
  | [] => .refl _
  | y :: l => by
    rw [insertChild, insertBy]
    split
    · exact .refl _
    · exact ((perm_insertChild x l).cons y).trans (.swap x y l)

theorem map_insertChild (x : (Nat × Nat) × Nat) : ∀ l, (insertChild x l).map Prod.fst = insertBy (fun a b => f32lt a.2 b.2) x.1 (l.map Prod.fst)
  | [] => rfl
  | y :: l => by
    rw [insertChild, insertBy, List.map_cons, insertBy]
    split
    · rfl
    · exact congrArg _ (map_insertChild x l)

/-- A child of a later slot goes below those of equal value. -/
theorem pairwise_insertChild {x : (Nat × Nat) × Nat} (hx : ¬ isNan x.1.2) : ∀ {l : List ((Nat × Nat) × Nat)}, l.Pairwise Above →
    (∀ y ∈ l, y.2 < x.2 ∧ ¬ isNan y.1.2) → (insertChild x l).Pairwise Above
  | [], _, _ => List.pairwise_singleton _ _
  | y :: l, hp, hl => by
    obtain ⟨hyl, hp'⟩ := List.pairwise_cons.mp hp
    obtain ⟨⟨hlt, hy⟩, hl'⟩ := List.forall_mem_cons.mp hl
    rw [insertChild, insertBy, f32lt_eq_below]
    split
    · next hxy =>
      refine List.pairwise_cons.mpr ⟨List.forall_mem_cons.mpr ⟨.inl hxy, fun z hz => .inl ?_⟩, hp⟩
      have hzn := (hl' z hz).2
      rw [below_iff hx hy] at hxy
      rw [below_iff hx hzn]
      rcases hyl z hz with h | ⟨h, -⟩
      · exact hxy.trans ((below_iff hy hzn).mp h)
      · exact hxy.trans_le (not_lt.mp (mt (below_iff hzn hy).mpr h))
    · next hxy =>
      refine List.pairwise_cons.mpr ⟨fun z hz => ?_, pairwise_insertChild hx hp' hl'⟩
      rcases List.mem_cons.mp ((perm_insertChild x l).mem_iff.mp hz) with rfl | hz
      · exact .inr ⟨hxy, hlt⟩
      · exact hyl z hz

/-- Sorting the children that a fold of insertions has numbered so far and those that follow. -/
theorem sorted_children : ∀ (ps : List (Nat × Nat)) (k : Nat) (z : List ((Nat × Nat) × Nat)), (∀ c ∈ ps, ¬ isNan c.2) → z.Pairwise Above →
    (∀ y ∈ z, y.2 < k ∧ ¬ isNan y.1.2) →
    ∃ z' : List ((Nat × Nat) × Nat), z'.Perm (z ++ ps.zipIdx k) ∧ z'.Pairwise Above ∧
      z'.map Prod.fst = ps.foldl (fun acc x => insertBy (fun a b => f32lt a.2 b.2) x acc) (z.map Prod.fst)
  | [], _, z, _, hp, _ => ⟨z, by simp, hp, rfl⟩
  | c :: ps, k, z, hn, hp, hz => by
    obtain ⟨hc, hn'⟩ := List.forall_mem_cons.mp hn
    have hins := perm_insertChild (c, k) z
    obtain ⟨z', hperm, hp', hmap⟩ := sorted_children ps (k + 1) (insertChild (c, k) z) hn' (pairwise_insertChild hc hp hz) fun y hy => by
      rcases List.mem_cons.mp (hins.mem_iff.mp hy) with rfl | hy
      · exact ⟨Nat.lt_succ_self k, hc⟩
      · exact ⟨Nat.lt_succ_of_lt (hz y hy).1, (hz y hy).2⟩
    refine ⟨z', hperm.trans ?_, hp', ?_⟩
    · rw [List.zipIdx_cons]
      exact (hins.append_right _).trans List.perm_middle.symm
    · rw [hmap, map_insertChild, List.foldl_cons]

/-- The order of R304 is that of the stable sort. -/
theorem sortBy_of_ordered {ps l : List (Nat × Nat)} (hn : ∀ c ∈ ps, ¬ isNan c.2) (h : Ordered true ps l) :
    sortBy (fun a b => f32lt a.2 b.2) ps = l := by
  obtain ⟨z, hperm, rfl, hz⟩ := h
  obtain ⟨z', hperm', hz', hmap⟩ := sorted_children ps 0 [] hn .nil (fun _ h => absurd h List.not_mem_nil)
  have heq : z' = z := (hperm'.trans hperm.symm).eq_of_pairwise (fun _ _ _ _ hab hba => absurd hba (above_antisymm hab)) hz' hz
  rw [sortBy, ← heq, hmap, List.map_nil]

/-! ### Pushing entries -/

/-- One entry of a walk's stack. -/
def pushedOne (w : Walk) (t : Team) (p : (Nat × Nat) × Nat) : Team :=
  storedTeam t 0 (w.area + 64 + 16 * (w.depth + p.2)) (toBytes 4 p.1.1 ++ toBytes 4 p.1.2 ++ toBytes 8 0)

theorem foldl_pushEntry (w : Walk) (s : State) : ∀ (l : List (Nat × Nat)) (k : Nat) (t : Team),
    l.foldl (fun p c => pushEntry p.1 p.2 c.1 c.2) ({ w with depth := w.depth + k }, { s with tm := t }) =
      ({ w with depth := w.depth + (k + l.length) }, { s with tm := (l.zipIdx k).foldl (pushedOne w) t })
  | [], _, _ => rfl
  | c :: l, k, t => by
    rw [List.foldl_cons, List.zipIdx_cons, List.foldl_cons, List.length_cons, pushEntry, storeWrite_eq]
    exact (foldl_pushEntry w s l (k + 1) _).trans (by rw [Nat.add_right_comm k 1, Nat.add_assoc k]; rfl)

theorem pushes_eq (w : Walk) (s : State) (l : List (Nat × Nat)) :
    l.reverse.foldl (fun p c => pushEntry p.1 p.2 c.1 c.2) (w, s) = ({ w with depth := w.depth + l.length }, { s with tm := pushed w s.tm l }) := by
  have h := foldl_pushEntry w s l.reverse 0 s.tm
  rwa [List.length_reverse, Nat.zero_add] at h

/-! ### Reads -/

theorem unitRead_range {va : Nat} (h : 2 ^ 56 ≤ va) (s : State) (k : Nat) : unitRead s va (k + 1) = .error (.fault cRange va) := by
  rw [unitRead]
  exact if_pos (by simpa [addrOk56] using h)

theorem read_range {w : Walk} {s : State} {off : Nat} (h : 2 ^ 56 ≤ w.tbase + 16 * off) (hn : 0 < w.nsize) :
    w.read s off = .error (.fault cRange (w.tbase + 16 * off)) := by
  obtain ⟨k, hk⟩ := Nat.exists_eq_succ_of_ne_zero hn.ne'
  rw [Walk.read, hk, unitRead_range h]

/-- The offset of a node's child. -/
def childOff (w : Walk) (node : List Byte) (j : Nat) : Nat := field node (field w.desc 6 2 + 4 * j) 4

theorem childTests_absent {w : Walk} {node : List Byte} {j : Nat} (h : childOff w node j = 0xFFFFFFFF) (s : State) (rest : List Nat) :
    childTests w node s (j :: rest) = childTests w node s rest := by
  rw [childTests]
  exact if_pos (beq_iff_eq.mpr h)

theorem childTests_present {w : Walk} {node cn : List Byte} {j : Nat} {s s1 s2 : State} {rest : List Nat} {ps : List (Nat × Nat)}
    (h : childOff w node j ≠ 0xFFFFFFFF) (hr : w.read s (childOff w node j) = .ok (cn, s1)) (hc : childTests w node s1 rest = .ok (ps, s2)) :
    (w.test (w.bound cn) = none → childTests w node s (j :: rest) = .ok (ps, s2)) ∧
      ∀ v, w.test (w.bound cn) = some v → childTests w node s (j :: rest) = .ok ((childOff w node j, v) :: ps, s2) := by
  rw [childOff] at hr h
  refine ⟨fun ht => ?_, fun v ht => ?_⟩
  all_goals
    rw [childTests, Walk.coff]
    refine (if_neg (mt beq_iff_eq.mp h)).trans ?_
    simp only [hr, hc, ht] <;> rfl

/-! ### The entry on top -/

/-- The walk once its top entry is popped. -/
def popped (w : Walk) : Walk := { w with depth := w.depth - 1 }

/-- The eight bytes of the top entry: its offset and its value. -/
def topEntry (w : Walk) (s : State) : List Byte := s.tm.lst.read (w.area + 64 + 16 * (w.depth - 1)) 8
def topOff (w : Walk) (s : State) : Nat := ofBytes ((topEntry w s).take 4)
def topVal (w : Walk) (s : State) : Nat := ofBytes ((topEntry w s).drop 4)

/-- A ray's entry beyond tmax. -/
def Beyond (w : Walk) (s : State) : Prop := field w.blk 16 1 = 0 ∧ below w.tmax.toNat (topVal w s)

/-- What a turn does with a node whose children are to be pushed. -/
def expandTurn (w : Walk) (rs : List WalkRec) (node : List Byte) (s : State) : TurnRes :=
  match childTests w node s (List.range w.nchild) with
  | .error e => .stop e
  | .ok (ps, s) =>
    if w.depth + ps.length > w.maxd then .overflow w s
    else
      let p := (if w.qkind == 0 then sortBy (fun a b => f32lt a.2 b.2) ps else ps).reverse.foldl (fun p c => pushEntry p.1 p.2 c.1 c.2) (w, s)
      .go p.1 rs p.2

/-- What a turn does with the node that it has read. -/
def nodeTurn (w : Walk) (rs : List WalkRec) (off val : Nat) (node : List Byte) (s : State) : TurnRes :=
  if bitAt (field node 0 4) w.leafbit then .go w (rs ++ [⟨off, val, false⟩]) s
  else if w.qkind == 2 && w.far (w.bound node) ((w.test (w.bound node)).getD 0) then
    .go w (rs ++ [⟨off, (w.test (w.bound node)).getD 0, true⟩]) s
  else expandTurn w rs node s

/-- What a turn does with the entry that it has popped. -/
def entryTurn (w : Walk) (rs : List WalkRec) (off val : Nat) (s : State) : TurnRes :=
  match w.read s off with
  | .error e => .stop e
  | .ok (node, s) => nodeTurn w rs off val node s

theorem topVal_eq (w : Walk) (s : State) : field (topEntry w s) 4 4 = topVal w s := by
  rw [field, topVal, List.take_of_length_le]
  rw [List.length_drop, topEntry, Memory.length_read]

theorem walkTurn_eq {w : Walk} {s : State} (hb : s.tm.badStore = []) (rs : List WalkRec) :
    walkTurn w rs s = if w.qkind == 0 && f32lt w.tmax.toNat (topVal w s) then .go (popped w) rs s
      else entryTurn (popped w) rs (topOff w s) (topVal w s) s := by
  rw [← topVal_eq, walkTurn]
  refine (if_neg ?_).trans ?_
  · rw [badIn_of_sound hb]; exact Bool.false_ne_true
  · rfl

theorem not_beyond {w : Walk} {s : State} (h : ¬ Beyond w s) : ¬ (w.qkind == 0 && f32lt w.tmax.toNat (topVal w s)) = true := by
  rw [Bool.and_eq_true, beq_iff_eq, f32lt_eq_below]
  exact h

theorem walkTurn_beyond {w : Walk} {s : State} (hb : s.tm.badStore = []) (rs : List WalkRec) (h : Beyond w s) :
    walkTurn w rs s = .go (popped w) rs s := by
  rw [walkTurn_eq hb, if_pos]
  rw [Bool.and_eq_true, beq_iff_eq, f32lt_eq_below]
  exact h

theorem walkTurn_unread {w : Walk} {s : State} (hb : s.tm.badStore = []) (rs : List WalkRec) (h : ¬ Beyond w s) {e : UnitStop}
    (hr : (popped w).read s (topOff w s) = .error e) : walkTurn w rs s = .stop e := by
  rw [walkTurn_eq hb, if_neg (not_beyond h), entryTurn, hr]

theorem walkTurn_node {w : Walk} {s s1 : State} (hb : s.tm.badStore = []) (rs : List WalkRec) (h : ¬ Beyond w s) {node : List Byte}
    (hr : (popped w).read s (topOff w s) = .ok (node, s1)) :
    walkTurn w rs s = nodeTurn (popped w) rs (topOff w s) (topVal w s) node s1 := by
  rw [walkTurn_eq hb, if_neg (not_beyond h), entryTurn, hr]

/-! ### The node -/

/-- A leaf, by the first word of its node. -/
def IsLeaf (w : Walk) (node : List Byte) : Bool := (ofBytes (node.take 4)).testBit (field w.desc 3 1)

/-- An OPEN test that accepts the node. -/
def IsFar (w : Walk) (node : List Byte) : Prop := field w.blk 16 1 = 2 ∧ w.far (w.bound node) ((w.test (w.bound node)).getD 0) = true

variable {w : Walk} {node : List Byte} {s s2 : State} {ps : List (Nat × Nat)}

theorem nodeTurn_leaf (rs : List WalkRec) (off val : Nat) (h : IsLeaf w node = true) :
    nodeTurn w rs off val node s = .go w (rs ++ [⟨off, val, false⟩]) s := by
  rw [nodeTurn, bitAt_eq_testBit]
  exact if_pos h

theorem nodeTurn_far (rs : List WalkRec) (off val : Nat) (h : IsLeaf w node = false) (hf : IsFar w node) :
    nodeTurn w rs off val node s = .go w (rs ++ [⟨off, (w.test (w.bound node)).getD 0, true⟩]) s := by
  rw [nodeTurn, bitAt_eq_testBit]
  refine (if_neg (ne_true_of_eq_false h)).trans (if_pos ?_)
  rw [Bool.and_eq_true, beq_iff_eq]
  exact hf

theorem nodeTurn_inner (rs : List WalkRec) (off val : Nat) (h : IsLeaf w node = false) (hf : ¬ IsFar w node) :
    nodeTurn w rs off val node s = expandTurn w rs node s := by
  rw [nodeTurn, bitAt_eq_testBit]
  refine (if_neg (ne_true_of_eq_false h)).trans (if_neg ?_)
  rw [Bool.and_eq_true, beq_iff_eq]
  exact hf

theorem expandTurn_unread (rs : List WalkRec) {e : UnitStop} (h : childTests w node s (List.range w.nchild) = .error e) :
    expandTurn w rs node s = .stop e := by
  rw [expandTurn, h]

theorem expandTurn_overflow (rs : List WalkRec) (h : childTests w node s (List.range w.nchild) = .ok (ps, s2)) (hd : w.maxd < w.depth + ps.length) :
    expandTurn w rs node s = .overflow w s2 := by
  rw [expandTurn, h]
  exact if_pos hd

theorem length_of_ordered {ray : Bool} {ps l : List (Nat × Nat)} (h : Ordered ray ps l) : l.length = ps.length := by
  cases ray with
  | false => exact congrArg List.length h
  | true =>
    obtain ⟨z, hperm, rfl, -⟩ := h
    rw [List.length_map, hperm.length_eq, List.length_zipIdx]

/-- The children in the order in which the unit pushes them. -/
theorem pushOrder_of_ordered {l : List (Nat × Nat)} (hn : ∀ c ∈ ps, ¬ isNan c.2) (h : Ordered (decide (field w.blk 16 1 = 0)) ps l) :
    (if w.qkind == 0 then sortBy (fun a b => f32lt a.2 b.2) ps else ps) = l := by
  by_cases hk : field w.blk 16 1 = 0
  · rw [decide_eq_true hk] at h
    refine (if_pos (beq_iff_eq.mpr hk)).trans ?_
    exact sortBy_of_ordered hn h
  · rw [decide_eq_false hk] at h
    refine (if_neg (mt beq_iff_eq.mp hk)).trans ?_
    exact Eq.symm h

theorem expandTurn_pushes (rs : List WalkRec) (h : childTests w node s (List.range w.nchild) = .ok (ps, s2)) (hd : w.depth + ps.length ≤ w.maxd)
    (hn : ∀ c ∈ ps, ¬ isNan c.2) {l : List (Nat × Nat)} (hl : Ordered (decide (field w.blk 16 1 = 0)) ps l) :
    expandTurn w rs node s = .go { w with depth := w.depth + ps.length } rs { s2 with tm := pushed w s2.tm l } := by
  rw [expandTurn, h]
  refine (if_neg (Nat.not_lt.mpr hd)).trans ?_
  rw [pushOrder_of_ordered hn hl, pushes_eq, length_of_ordered hl]

/-! ### The loop -/

variable {o : EFmt} {was : List Byte} {n : Nat} {rs : List WalkRec}

theorem twLoop_finish (h : 4 ≤ rs.length ∨ w.depth = 0) : twLoop o was (n + 1) w rs s = twFinish o w rs s := by
  rw [twLoop]
  exact if_pos (by simpa using h)

theorem loop_open (hr : rs.length < 4) (hd : 0 < w.depth) : ¬ (decide (rs.length ≥ 4) || w.depth == 0) = true := by
  simp; omega

theorem twLoop_go (hr : rs.length < 4) (hd : 0 < w.depth) {w' : Walk} {rs' : List WalkRec} {s' : State} (h : walkTurn w rs s = .go w' rs' s') :
    twLoop o was (n + 1) w rs s = twLoop o was n w' rs' s' := by
  rw [twLoop, if_neg (loop_open hr hd), h]

theorem twLoop_overflow (hr : rs.length < 4) (hd : 0 < w.depth) {w' : Walk} {s' : State} (h : walkTurn w rs s = .overflow w' s') :
    twLoop o was (n + 1) w rs s = State.raise (withThread s' { s'.th with walk := some { w' with failed := true } }) cWalkStack w'.area := by
  rw [twLoop, if_neg (loop_open hr hd), h]
  rfl

theorem twLoop_range (hr : rs.length < 4) (hd : 0 < w.depth) {va : Nat} (h : walkTurn w rs s = .stop (.fault cRange va)) :
    twLoop o was (n + 1) w rs s = State.raise (withThread s { s.th with walk := some { w with failed := true } }) cRange va := by
  rw [twLoop, if_neg (loop_open hr hd), h]
  rfl

/-! ### The end of a step -/

theorem acceptedSum (l : List (WalkRec × Nat)) : ∀ a, l.foldl (fun a p => a + if p.1.acc then 2 ^ p.2 else 0) a =
    a + ((l.filter fun p => p.1.acc).map fun p => 2 ^ p.2).sum := by
  induction l with
  | nil => exact fun a => rfl
  | cons p l ih =>
    intro a
    rw [List.foldl_cons, ih, List.filter_cons]
    cases p.1.acc <;> simp [Nat.add_assoc]

theorem walkStatus_eq (depth acc count : Nat) : walkStatus depth acc count = walkWord depth acc count := by
  simp [walkStatus, walkWord]

theorem twFinish_eq (o : EFmt) (w : Walk) (rs : List WalkRec) (s : State) :
    twFinish o w rs s = withThread s { s.th with
      walk := some { w with
        vals := (List.range 4).map fun i => BitVec.ofNat 32 (((rs.map (·.val))[i]?).getD 0)
        status := walkWord w.depth (((rs.zipIdx.filter fun p => p.1.acc).map fun p => 2 ^ p.2).sum) rs.length }
      step := none
      pending := s.th.pending ++ (List.range 4).map fun i => .reg (o.d.toNat + i) (BitVec.ofNat 32 (((rs.map (·.off))[i]?).getD 0xFFFFFFFF)) } := by
  simp only [List.getElem?_map]
  rw [twFinish, acceptedSum, Nat.zero_add, walkStatus_eq]
  rfl

end Sys2Proof.Proofs
end

section
/-! PROOFS. Tree walks: TWINIT, TWSTEP, TWGET and TWEND (R303 to R309). -/

namespace Sys2Proof.Proofs

open Sys2Proof.Machine Sys2Proof.Spec

/-! ### The words of a thread without a live walk -/

variable {o : EFmt} {s : State}

theorem liveWalk_of_walk {t : Thread} {w : Walk} (h : t.walk = some w) (hf : w.failed = false) : t.liveWalk = some w := by
  rw [Thread.liveWalk, h]
  exact if_neg (ne_true_of_eq_false hf)

theorem liveWalk_of_none {t : Thread} (h : t.walk = none) : t.liveWalk = none := by
  rw [Thread.liveWalk, h]

theorem twGet_live (hg : s.active o.g = true) (hm : s.th.migrated = false) {w : Walk} (h : s.th.liveWalk = some w) (k : Walk → State) :
    twGet o s k = k w := by
  rw [twGet, if_pos hg, if_neg (ne_true_of_eq_false hm), h]

theorem twGet_dead (hg : s.active o.g = true) (hm : s.th.migrated = false) (h : s.th.liveWalk = none) (k : Walk → State) :
    twGet o s k = s.raise cWalkState 0 := by
  rw [twGet, if_pos hg, if_neg (ne_true_of_eq_false hm), h]

theorem twGet_migrated (hg : s.active o.g = true) (hm : s.th.migrated = true) (k : Walk → State) : twGet o s k = s.raise cMigrated 0 := by
  rw [twGet, if_pos hg, if_pos hm]

/-! ### TWSTEP -/

theorem exec_twstep_dead (hg : s.active o.g = true) (hm : s.th.migrated = false) (h : s.th.liveWalk = none) :
    exec (.twstep o) s = .next (s.raise cWalkState 0) := by
  refine congrArg Host.Outcome.next ?_
  rw [if_pos hg, if_neg (ne_true_of_eq_false hm), h]

/-- tmax of a step, which a U form makes smaller. -/
def stepTmax (o : EFmt) (w : Walk) (v : Nat) : Nat :=
  if o.arg.getLsbD 0 && w.qkind == 0 && !f32isNan v then f32min w.tmax.toNat v else w.tmax.toNat

theorem exec_twstep (hg : s.active o.g = true) (hm : s.th.migrated = false) {w : Walk} (h : s.th.liveWalk = some w) (hs : s.th.step = none) :
    exec (.twstep o) s = .next (twLoop o (s.tm.lst.read (w.area + 64) (16 * field w.blk 17 1)) 256
      { w with tmax := BitVec.ofNat 32 (stepTmax o w (s.src o.a).toNat) } [] s) := by
  refine congrArg Host.Outcome.next ?_
  rw [if_pos hg, if_neg (ne_true_of_eq_false hm), h, hs]
  rfl

/-- A U form of a ray's walk, with a number. -/
def UForm (o : EFmt) (w : Walk) (v : Nat) : Prop := o.arg.getLsbD 0 = true ∧ field w.blk 16 1 = 0 ∧ ¬ isNan v

theorem stepTmax_uForm {w : Walk} {v : Nat} (h : UForm o w v) : stepTmax o w v = least2 w.tmax.toNat v := by
  rw [stepTmax, if_pos]
  · rfl
  · rw [Bool.and_eq_true, Bool.and_eq_true, Bool.not_eq_true', f32isNan_false_iff, beq_iff_eq, and_assoc]
    exact h

theorem exec_twstep_other (hg : s.active o.g = true) (hm : s.th.migrated = false) {w : Walk} (h : s.th.liveWalk = some w) (hs : s.th.step = none)
    (hu : ¬ UForm o w (s.src o.a).toNat) :
    exec (.twstep o) s = .next (twLoop o (s.tm.lst.read (w.area + 64) (16 * field w.blk 17 1)) 256 w [] s) := by
  have htmax : stepTmax o w (s.src o.a).toNat = w.tmax.toNat := by
    rw [stepTmax, if_neg]
    rw [Bool.and_eq_true, Bool.and_eq_true, Bool.not_eq_true', f32isNan_false_iff, beq_iff_eq, and_assoc]
    exact hu
  rw [exec_twstep hg hm h hs, htmax, BitVec.ofNat_toNat, BitVec.setWidth_eq]

/-- A step on an empty stack. -/
theorem twLoop_empty (was : List Byte) (n : Nat) {w : Walk} (hd : w.depth = 0) :
    twLoop o was (n + 1) w [] s = withThread s { s.th with
      walk := some { w with vals := [0, 0, 0, 0], status := walkWord 0 0 0 }
      step := none
      pending := s.th.pending ++ (List.range 4).map fun i => .reg (o.d.toNat + i) 0xFFFFFFFF } := by
  rw [twLoop_finish (.inr hd), twFinish_eq, hd]
  rfl

/-- A step that finds one leaf, the last entry. -/
theorem twLoop_leaf (was : List Byte) (n : Nat) {w : Walk} (hd : w.depth = 1) (hk : w.qkind ≠ 0) (hb : s.tm.badStore = []) {node : List Byte} {s' : State}
    (hr : w.read s (ofBytes ((s.tm.lst.read (w.area + 64) 8).take 4)) = .ok (node, s')) (hl : IsLeaf w node = true) :
    twLoop o was (n + 2) w [] s = withThread s' { s'.th with
      walk := some { w with depth := 0, vals := [BitVec.ofNat 32 (ofBytes ((s.tm.lst.read (w.area + 64) 8).drop 4)), 0, 0, 0], status := walkWord 0 0 1 }
      step := none
      pending := s'.th.pending ++ [.reg o.d.toNat (BitVec.ofNat 32 (ofBytes ((s.tm.lst.read (w.area + 64) 8).take 4))), .reg (o.d.toNat + 1) 0xFFFFFFFF,
        .reg (o.d.toNat + 2) 0xFFFFFFFF, .reg (o.d.toNat + 3) 0xFFFFFFFF] } := by
  have htop : s.tm.lst.read (w.area + 64) 8 = topEntry w s := by rw [topEntry, hd]
  rw [htop] at hr ⊢
  have hturn : walkTurn w [] s = .go (popped w) [⟨topOff w s, topVal w s, false⟩] s' :=
    (walkTurn_node hb [] (fun h => hk h.1) hr).trans (nodeTurn_leaf [] _ _ hl)
  have hpop : popped w = { w with depth := 0 } := by rw [popped, hd]
  rw [twLoop_go (by decide) (by omega) hturn, hpop, twLoop_finish (.inr rfl), twFinish_eq]
  rfl

/-! ### TWINIT -/

section
variable (hg : s.active o.g = true) (hm : s.th.migrated = false)
include hg hm

theorem twinit_align (ha : (s.src o.a).toNat % 64 ≠ 0) : exec (.twinit o) s = .next (s.raise cAlign (s.src o.a).toNat) := by
  refine congrArg Host.Outcome.next ?_
  rw [if_pos hg, if_neg (ne_true_of_eq_false hm), if_pos (by simpa using ha)]

theorem twinit_bounds (ha : (s.src o.a).toNat % 64 = 0) (hb : s.tm.decl.lstore < (s.src o.a).toNat + 64) :
    exec (.twinit o) s = .next (s.raise cBounds (s.src o.a).toNat) := by
  refine congrArg Host.Outcome.next ?_
  rw [if_pos hg, if_neg (ne_true_of_eq_false hm), if_neg (by simpa using ha), if_pos hb]

variable (ha : (s.src o.a).toNat % 64 = 0) (hb : (s.src o.a).toNat + 64 ≤ s.tm.decl.lstore) (hs : s.tm.badStore = [])
include ha hb hs

theorem twinit_format (hf : walkBlockOk (s.tm.lst.read (s.src o.a).toNat 64) = false) :
    exec (.twinit o) s = .next (s.raise cWalkFormat (s.src o.a).toNat) := by
  refine congrArg Host.Outcome.next ?_
  rw [if_pos hg, if_neg (ne_true_of_eq_false hm), if_neg (by simpa using ha), if_neg (Nat.not_lt.mpr hb), badIn_of_sound hs]
  exact if_pos (by rw [hf]; rfl)

/-- A walk block that passes its checks; then the descriptor is read. -/
theorem twinit_descriptor (hf : walkBlockOk (s.tm.lst.read (s.src o.a).toNat 64) = true)
    (hst : (s.src o.a).toNat + 64 + 16 * field (s.tm.lst.read (s.src o.a).toNat 64) 17 1 ≤ s.tm.decl.lstore)
    (hd : field (s.tm.lst.read (s.src o.a).toNat 64) 0 8 < 2 ^ 56) (ht : field (s.tm.lst.read (s.src o.a).toNat 64) 8 8 < 2 ^ 56)
    {d : List Byte} {s1 : State} (hr : unitRead s (field (s.tm.lst.read (s.src o.a).toNat 64) 0 8) 2 = .ok (d, s1)) :
    exec (.twinit o) s = .next (if walkDescOk d then twStart s1 (s.src o.a).toNat (s.tm.lst.read (s.src o.a).toNat 64) d
      else s1.raise cWalkFormat (s.src o.a).toNat) := by
  refine congrArg Host.Outcome.next ?_
  rw [if_pos hg, if_neg (ne_true_of_eq_false hm), if_neg (by simpa using ha), if_neg (Nat.not_lt.mpr hb), badIn_of_sound hs]
  refine (if_neg (by rw [hf]; exact Bool.false_ne_true)).trans ?_
  refine (if_neg (Nat.not_lt.mpr hst)).trans ((if_neg (by simpa [addrOk56] using hd)).trans ((if_neg (by simpa [addrOk56] using ht)).trans ?_))
  rw [hr]

end

/-- The walk as TWINIT forms it. -/
def newWalk (area : Nat) (b d : List Byte) (status : Word) : Walk :=
  ⟨b, d, area, 0, BitVec.ofNat 32 (field b 60 4), [0, 0, 0, 0], status, false⟩

theorem twStart_root {area : Nat} {b d node : List Byte} {s2 : State}
    (hr : (newWalk area b d (walkWord 0 0 0)).read s (field b 20 4) = .ok (node, s2)) :
    ((newWalk area b d (walkWord 0 0 0)).test ((newWalk area b d (walkWord 0 0 0)).bound node) = none →
      twStart s area b d = withThread s2 { s2.th with walk := some (newWalk area b d (walkWord 0 0 0)) }) ∧
    ∀ v, (newWalk area b d (walkWord 0 0 0)).test ((newWalk area b d (walkWord 0 0 0)).bound node) = some v →
      twStart s area b d = { s2 with
        th := { s2.th with walk := some { newWalk area b d (walkWord 0 0 0) with depth := 1, status := walkWord 1 0 0 } }
        tm := storedTeam s2.tm 0 (area + 64) (toBytes 4 (field b 20 4) ++ toBytes 4 v ++ toBytes 8 0) } := by
  have hread : (newWalk area b d 0).read s (field b 20 4) = .ok (node, s2) := hr
  have htest : ∀ r, (newWalk area b d (walkWord 0 0 0)).test ((newWalk area b d (walkWord 0 0 0)).bound node) = r →
      (newWalk area b d 0).test ((newWalk area b d 0).bound node) = r := fun r h => h
  rw [newWalk] at hread
  refine ⟨fun ht => ?_, fun v ht => ?_⟩
  all_goals
    have hroot := htest _ ht
    rw [newWalk] at hroot
    rw [twStart]
    simp only [hread, hroot, walkStatus_eq, pushEntry, storeWrite_eq] <;> rfl

/-! ### The obligation -/

/-- The turns of a step: the end, an entry beyond tmax, a leaf, an accepted node, a node that is expanded. -/
theorem twLoop_turns (o : EFmt) (s : State) (w : Walk) (rs : List WalkRec) (was : List Byte) (n : Nat) (hr : rs.length < 4) (hd : 0 < w.depth)
    (hb : s.tm.badStore = []) :
    (Beyond w s → twLoop o was (n + 1) w rs s = twLoop o was n (popped w) rs s) ∧
    (¬ Beyond w s →
      (∀ va, (popped w).read s (topOff w s) = .error (.fault cRange va) →
        twLoop o was (n + 1) w rs s = State.raise (withThread s { s.th with walk := some { w with failed := true } }) cRange va) ∧
      ∀ node s1, (popped w).read s (topOff w s) = .ok (node, s1) →
        (IsLeaf w node = true → twLoop o was (n + 1) w rs s = twLoop o was n (popped w) (rs ++ [⟨topOff w s, topVal w s, false⟩]) s1) ∧
        (IsLeaf w node = false → IsFar (popped w) node → twLoop o was (n + 1) w rs s =
          twLoop o was n (popped w) (rs ++ [⟨topOff w s, ((popped w).test ((popped w).bound node)).getD 0, true⟩]) s1) ∧
        (IsLeaf w node = false → ¬ IsFar (popped w) node →
          ∀ va, childTests (popped w) node s1 (List.range (field w.desc 1 1)) = .error (.fault cRange va) →
          twLoop o was (n + 1) w rs s = State.raise (withThread s { s.th with walk := some { w with failed := true } }) cRange va) ∧
        (IsLeaf w node = false → ¬ IsFar (popped w) node →
          ∀ ps s2, childTests (popped w) node s1 (List.range (field w.desc 1 1)) = .ok (ps, s2) →
          ((popped w).depth + ps.length ≤ field w.blk 17 1 → (∀ c ∈ ps, ¬ isNan c.2) → ∀ l, Ordered (decide (field w.blk 16 1 = 0)) ps l →
            twLoop o was (n + 1) w rs s =
              twLoop o was n { popped w with depth := (popped w).depth + ps.length } rs { s2 with tm := pushed (popped w) s2.tm l }) ∧
          (field w.blk 17 1 < (popped w).depth + ps.length →
            twLoop o was (n + 1) w rs s = State.raise (withThread s2 { s2.th with walk := some { popped w with failed := true } }) cWalkStack w.area))) := by
  refine ⟨fun h => twLoop_go hr hd (walkTurn_beyond hb rs h), fun h => ⟨fun va hv => twLoop_range hr hd (walkTurn_unread hb rs h hv), ?_⟩⟩
  intro node s1 hv
  have hturn := walkTurn_node hb rs h hv
  have hinner : IsLeaf w node = false → ¬ IsFar (popped w) node → walkTurn w rs s = expandTurn (popped w) rs node s1 := fun hl hf =>
    hturn.trans (nodeTurn_inner (w := popped w) rs _ _ hl hf)
  refine ⟨fun hl => ?_, fun hl hf => ?_, fun hl hf va hc => ?_, fun hl hf ps s2 hc => ⟨fun hm hn l ho => ?_, fun hm => ?_⟩⟩
  · exact twLoop_go hr hd (hturn.trans (nodeTurn_leaf rs _ _ hl))
  · exact twLoop_go hr hd (hturn.trans (nodeTurn_far rs _ _ hl hf))
  · exact twLoop_range hr hd ((hinner hl hf).trans (expandTurn_unread rs hc))
  · exact twLoop_go hr hd ((hinner hl hf).trans (expandTurn_pushes rs hc hm hn ho))
  · exact twLoop_overflow hr hd ((hinner hl hf).trans (expandTurn_overflow rs hc hm))

/-- A migrated thread has no walk words. -/
theorem walkWords_migrated (hg : s.active o.g = true) (hm : s.th.migrated = true) :
    ∀ i ∈ [Instr.twinit o, .twstep o, .twgetVal o, .twgetSt o, .twend o], exec i s = .next (s.raise cMigrated 0) := by
  have hget : ∀ k, Host.Outcome.next (twGet o s k) = (.next (s.raise cMigrated 0) : Out) := fun k => congrArg _ (twGet_migrated hg hm k)
  have hinit : exec (.twinit o) s = .next (s.raise cMigrated 0) := congrArg Host.Outcome.next ((if_pos hg).trans (if_pos hm))
  have hstep : exec (.twstep o) s = .next (s.raise cMigrated 0) := congrArg Host.Outcome.next ((if_pos hg).trans (if_pos hm))
  have hend : exec (.twend o) s = .next (s.raise cMigrated 0) := congrArg Host.Outcome.next ((if_pos hg).trans (if_pos hm))
  simp only [List.forall_mem_cons, List.not_mem_nil, false_implies, implies_true, and_true]
  exact ⟨hinit, hstep, hget _, hget _, hend⟩

theorem walkWords_dead (hg : s.active o.g = true) (hm : s.th.migrated = false) (hw : s.th.walk = none) :
    ∀ i ∈ [Instr.twstep o, .twgetVal o, .twgetSt o], exec i s = .next (s.raise cWalkState 0) := by
  have hdead := liveWalk_of_none hw
  simp only [List.forall_mem_cons, List.not_mem_nil, false_implies, implies_true, and_true]
  exact ⟨exec_twstep_dead hg hm hdead, congrArg _ (twGet_dead hg hm hdead _), congrArg _ (twGet_dead hg hm hdead _)⟩

theorem not_uForm {w : Walk} {v : Nat} (h : o.arg.getLsbD 0 = false ∨ w.qkind ≠ 0) : ¬ UForm o w v := by
  rintro ⟨ha, hk, -⟩
  exact h.elim (ne_true_of_eq_false · ha) (· hk)

/-- Settles O46: each test, turn and word by the lemma about it. -/
theorem treeWalkResults : Obligations.TreeWalkResults := by
  unfold Obligations.TreeWalkResults
  refine ⟨bound_boundIs, fun w b => ⟨?_, ?_, ?_, ?_⟩, ?_, ?_, ?_, ?_, ?_⟩
  · exact test_ray_sound
  · exact test_ray_nan
  · exact fun hk => ⟨test_sphere_number hk, test_sphere_nan hk⟩
  · exact fun hk => ⟨test_open hk b, far_iff w b⟩
  · exact fun w s off h hn => ⟨_, read_range h hn, rfl⟩
  · exact fun w node s j rest => ⟨rfl, fun h => childTests_absent h s rest, fun _ _ _ _ h hr hc => childTests_present h hr hc⟩
  · exact fun o s w rs was n => ⟨fun h => (twLoop_finish h).trans (twFinish_eq o w rs s), twLoop_turns o s w rs was n⟩
  · intro o s w hg hm hw hf hs
    have hlive := liveWalk_of_walk hw hf
    exact ⟨fun hu => (exec_twstep hg hm hlive hs).trans (by rw [stepTmax_uForm hu]), exec_twstep_other hg hm hlive hs⟩
  · intro o s hg
    refine ⟨fun hm => ?_, fun hm => ⟨?_, fun hn => ?_, fun w hw hf => ?_, twinit_align hg hm, twinit_bounds hg hm, fun ha hb hs => ?_⟩⟩
    · exact walkWords_migrated hg hm
    · exact congrArg Host.Outcome.next ((if_pos hg).trans (if_neg (ne_true_of_eq_false hm)))
    · exact walkWords_dead hg hm hn
    · have hlive := liveWalk_of_walk hw hf
      refine ⟨congrArg _ (twGet_live hg hm hlive _), congrArg _ (twGet_live hg hm hlive _), fun hd hs hu => ?_, fun hd hs hu hk hb node s' hr hl => ?_⟩
      · rw [exec_twstep_other hg hm hlive hs (not_uForm (.inl hu)), twLoop_empty _ 255 hd, ← hs]
      · exact (exec_twstep_other hg hm hlive hs (not_uForm (.inl hu))).trans (congrArg _ (twLoop_leaf _ 254 hd hk hb hr hl))
    · refine ⟨twinit_format hg hm ha hb hs, fun hf hst hd ht d s1 hr => ?_⟩
      have hexec := twinit_descriptor hg hm ha hb hs hf hst hd ht hr
      refine ⟨fun hbad => ?_, fun hok node s2 hread => ?_⟩
      · rw [hexec, hbad]; rfl
      · obtain ⟨hnone, hsome⟩ := twStart_root hread
        rw [hexec, hok]
        exact ⟨fun hr => congrArg _ (hnone hr), fun v hr => congrArg _ (hsome v hr)⟩

end Sys2Proof.Proofs
end

section
/-! PROOFS. A step performs the decoded instruction: events, and the issue of a gang of one thread (R16, R176). -/

namespace Sys2Proof.Proofs

open Sys2Proof.Machine Sys2Proof.Spec

/-! ### The thread that a reference names -/

section
variable {s : State} {r : ThreadRef} {t : Team} {x : Thread}

theorem placedTeam_some (h : s.placedTeam r.team = some t) : s.team? r.team = some t := by
  rw [State.placedTeam] at h
  split at h
  · split at h
    · rwa [← Option.some.inj h]
    · cases h
  · cases h

theorem thread?_of_names (h : Names s r t x) : s.thread? r = some (t, x) := by
  rw [State.thread?, h.1]
  exact congrArg (Option.map _) h.2

theorem tid_of_names (h : Names s r t x) : x.tid = r.tid := by
  simpa using List.find?_some h.2

theorem focus_of_names (h : Names s r t x) : s.focus r = { s with th := x, tm := t, grp := ⟨[], 0, x, t, none⟩ } := by
  have ht := placedTeam_some h.1
  rw [State.team?] at ht
  rw [State.focus, ht]
  simp only [h.2]

end

/-! ### A group of one word -/

variable {s s' u : State} {r : ThreadRef} {t : Team} {x : Thread} {line : List Word} {w : Word} {i : Instr}

theorem runWord_atWord (hw : decode w = .ok i) (hb : s'.tm.badReg = []) (hx : exec i (atWord s' w) = .next u) :
    runWord w 0 (atWord s' w) = u := by
  have hread : badRead (atWord s' w) w i = none := if_pos (congrArg List.isEmpty hb)
  rw [runWord, hw]
  simp only [show { atWord s' w with grp := { (atWord s' w).grp with pos := 0 } } = atWord s' w from rfl, hread, perform, hx]

theorem runWords_one (w : Word) (k : Nat) (s : State) : runWords [w] k s = runWord w k s := by
  rw [runWords]
  dsimp only [runWords]
  rw [List.isEmpty_nil, Bool.not_true, Bool.and_false, if_neg Bool.false_ne_true, ite_self]

/-- What the issue adds where the group has not stopped: the thread waits for its gang. -/
def waitsForGang (u : State) (w : Word) (i : Instr) : State :=
  if u.grp.stop = none ∧ u.alive u.tm.ref.ctx = true ∧ leavesGroup i = false then
    withThread u { u.th with fin := true, status := .within, issued := [w] } else u

theorem waitsForGang_stopped (h : u.grp.stop ≠ none) (w : Word) (i : Instr) : waitsForGang u w i = u := if_neg fun hr => h hr.1

theorem waitsForGang_running (h : u.grp.stop = none) (hw : decode w = .ok i) (hws : u.grp.words = [w]) :
    waitsForGang u w i = if u.alive u.tm.ref.ctx && !u.grp.words.any (okWith leavesGroup) then u.mapTh fun t => t.finish u.grp.words else u := by
  have hleaves : u.grp.words.any (okWith leavesGroup) = leavesGroup i := by
    rw [hws, List.any_cons, List.any_nil, Bool.or_false, okWith, hw]
  rw [waitsForGang, hleaves]
  by_cases hg : u.alive u.tm.ref.ctx = true ∧ leavesGroup i = false
  · rw [if_pos ⟨h, hg⟩, if_pos (by simpa using hg), State.mapTh, Thread.finish, hws, withThread]
  · rw [if_neg fun hr => hg hr.2, if_neg (by simpa using hg)]

/-- A group of one word: no later word traps, and its stop is at its first word. -/
theorem runGroup_one (hw : decode w = .ok i) (hb : s'.tm.badReg = []) (hx : exec i (atWord s' w) = .next u) (hws : u.grp.words = [w]) (hpos : u.grp.pos = 0) :
    runGroup (atWord s' w) = waitsForGang u w i := by
  have hrun : runWords (atWord s' w).grp.words 0 (atWord s' w) = u := (runWords_one w 0 _).trans (runWord_atWord hw hb hx)
  have hlater : ∀ h : Halt, (if h.isBlock then laterTrap (atWord s' w) 0 else none) = none := fun _ => ite_self _
  rw [runGroup, hrun]
  rw [hpos]
  split
  · next hs => exact (waitsForGang_running hs hw hws).symm
  · next h hs =>
    rw [waitsForGang_stopped (by rw [hs]; exact Option.some_ne_none _)]
    simp only [hlater, beq_self_eq_true, if_true]

theorem performGroup_atWord (hw : decode w = .ok i) (hb : s'.tm.badReg = []) (hx : exec i (atWord s' w) = .next u) (hws : u.grp.words = [w])
    (hpos : u.grp.pos = 0) : performGroup (atWord s' w) [w] = (waitsForGang u w i).flush :=
  congrArg State.flush (runGroup_one hw hb hx hws hpos)

/-! ### The issue of a thread that stands alone -/

/-- A member that traps alone traps again as it did. -/
theorem stopAll_again {v : State} (h : issueThread r s = v) :
    (if v.alive r.team.ctx && [(⟨r, v.grp.stop⟩ : Fared)].any fun d => d.halt.any Halt.isTrap then
      stopAll ([(⟨r, v.grp.stop⟩ : Fared)].filter fun d => d.halt.any fun h => !h.isBlock) s else v) = v := by
  split
  · next hc =>
    cases hs : v.grp.stop with
    | none => simp [hs] at hc
    | some c =>
      have hany := (Bool.and_eq_true_iff.mp hc).2
      have htrap : c.isTrap = true := by simpa [hs] using hany
      have hblock : c.isBlock = false := by cases c <;> simp_all [Halt.isTrap, Halt.isBlock]
      have hkeep : ([(⟨r, some c⟩ : Fared)].filter fun d => d.halt.any fun h => !h.isBlock) = [⟨r, some c⟩] := by simp [hblock]
      rw [hkeep, stopAll, List.foldl_cons, List.foldl_nil, stopAgain, h]
      exact if_pos (by rw [hs]; rfl)
  · rfl

section
variable (ha : Alone s r t x line w i s')
include ha

theorem focus_th : (s.focus r).th = x := by rw [focus_of_names ha.names]

/-- The thread fetches, and its group is the one word. -/
theorem issueThread_alone (hx : exec i (atWord s' w) = .next u) (hws : u.grp.words = [w]) (hpos : u.grp.pos = 0) :
    issueThread r s = (waitsForGang u w i).flush := by
  have hth := focus_th ha
  have hfetch : issueThread r s = fetchGroup (s.focus r) := by
    rw [issueThread, hth]
    rcases ha.ready.1 with h | h <;> rw [h]
  have hasked : fetchAsk (s.focus r) = .go (s.focus r) := if_pos ha.linked
  have hline : fetchedLine s' line = (line, s') := if_pos (by rw [ha.fresh]; rfl)
  have hfetched := ha.fetched
  have hgroup := ha.group
  rw [hfetch, fetchGroup]
  refine (if_neg (by simpa [addrOk56, hth] using ha.range)).trans ?_
  simp only [hasked, hfetched, hline, hth, hgroup]
  have hsound : groupFault { s' with grp := ⟨[w], 0, s'.th, s'.tm, none⟩ } line [w] = none := ha.sound
  simp only [hsound]
  exact performGroup_atWord ha.word ha.store hx hws hpos

theorem mayIssue_alone : mayIssue t x = true := by
  obtain ⟨hst, -, himp, -, -⟩ := ha.running
  obtain ⟨hready, hfin, -, hheld⟩ := ha.ready
  have hback : standsBack t x = false := by
    rw [standsBack, himp]; simp
  rw [mayIssue, hfin, hback, hst]
  rcases hready with h | h <;> rw [h]
  · rw [hheld]; rfl
  · rfl

theorem gangOf_alone : gangOf t x = [x] := by
  rw [gangOf, ha.running.2.2.2.2]
  rcases ha.ready.1 with h | h <;> simp [h]

theorem gangReady_alone : gangReady s t x = true := by
  rw [gangReady, mayIssue_alone ha, gangOf_alone ha]
  rcases ha.ready.1 with h | h <;> simp [h]

/-- The gang of one thread issues: it is judged again where its word traps, with the same outcome. -/
theorem issueCore_alone (hx : exec i (atWord s' w) = .next u) (hws : u.grp.words = [w]) (hpos : u.grp.pos = 0) :
    issueCore r s =
      let v := (waitsForGang u w i).flush
      let v := match v.team? r.team with | none => v | some t => v.setTeam (joinParked [x] t)
      (passGang v r.team x).unfocus := by
  have hissue := issueThread_alone ha hx hws hpos
  have hthread := thread?_of_names ha.names
  have hmay := mayIssue_alone ha
  have hteam := placedTeam_some ha.names.1
  have hfirst : deliverFirst s t [x] = s := by rw [deliverFirst, ha.running.2.2.1]
  generalize hv : (waitsForGang u w i).flush = v at hissue ⊢
  have hpass : issuePass [r] [] s = ([⟨r, v.grp.stop⟩], v) := by
    simp only [issuePass, hthread, hissue, ha.ready.2.1, hmay, trapsAhead, List.filterMap_nil, List.append_nil, List.nil_append, Bool.not_true,
      Bool.false_eq_true, if_false, ite_self]
  have hrefs : (([x].filter fun m => t.threads.any fun y => y.tid == m.tid && y.gang == m.gang).map fun m => (⟨r.team, m.tid⟩ : ThreadRef)) = [r] := by
    rw [ha.running.2.2.2.2, List.filter_singleton]
    simp [tid_of_names ha.names]
  have hagain : (if v.alive r.team.ctx && [(⟨r, v.grp.stop⟩ : Fared)].any fun d => d.halt.any Halt.isTrap then
      stopAll ([(⟨r, v.grp.stop⟩ : Fared)].filter fun d => d.halt.any fun h => !h.isBlock) s else v) = v :=
    stopAll_again hissue
  rw [issueCore, hthread]
  refine (if_neg (by rw [hmay]; exact Bool.false_ne_true)).trans ?_
  simp only [gangOf_alone ha, hfirst, hteam, hrefs, hpass, hagain] <;> rfl

/-- The issue of the gang is settled as the statement says. -/
theorem issueGang_alone {s0 : State} (hs : lateBefore r s0 = s) (hx : exec i (atWord s' w) = .next u) (hws : u.grp.words = [w]) (hpos : u.grp.pos = 0) :
    issueGang r s0 = settled s r t x w i u := by
  have hcore := issueCore_alone ha hx hws hpos
  have hyield : x.yielded = false := ha.ready.2.2.1
  have hchosen : (gangReady s t x && !yieldHeld s x) = true := by rw [gangReady_alone ha, yieldHeld, hyield]; rfl
  rw [issueGang, hs]
  dsimp only
  rw [thread?_of_names ha.names]
  refine (if_pos hchosen).trans ?_
  rw [hyield, if_neg Bool.false_ne_true, hcore]
  rfl

end

/-- Settles O55: an event is exec of it, and the issue of a thread alone performs its word by exec and settles the answer. -/
theorem stepRunsDecodedInstruction : Obligations.StepRunsDecodedInstruction := by
  unfold Obligations.StepRunsDecodedInstruction
  refine ⟨fun s i rest n m ha => ?_, fun s s' u r rest n m t x line w i ha halone hx hws hpos => ?_⟩
  · have hstep : step s = if i.hasWord then .next (beforeAct (.event i) (advance n m { s with agenda := rest }))
        else exec i (beforeAct (.event i) (advance n m { s with agenda := rest })) := by
      rw [step, ha]; rfl
    exact ⟨fun h => hstep.trans (if_neg (ne_true_of_eq_false h)), fun h => hstep.trans (if_pos h)⟩
  · rw [step, ha]
    exact congrArg Host.Outcome.next (issueGang_alone halone rfl hx hws hpos)

end Sys2Proof.Proofs
end

section
/-! PROOFS. Caches: the bytes of sectors, and what a home slice holds after a write (R121). -/

namespace Sys2Proof.Proofs

open Sys2Proof.Machine Sys2Proof.Spec

/-! ### Bytes and sectors -/

theorem toBytes_ofBytes : ∀ (l : List Byte) (n : Nat), n ≤ l.length → toBytes n (ofBytes l) = l.take n
  | _, 0, _ => rfl
  | [], n + 1, h => absurd h (Nat.not_succ_le_zero n)
  | b :: l, n + 1, h => by
    have hb := b.isLt
    have hlow : BitVec.ofNat 8 (b.toNat + 256 * ofBytes l) = b := by
      apply BitVec.eq_of_toNat_eq
      rw [BitVec.toNat_ofNat]
      omega
    have hhigh : (b.toNat + 256 * ofBytes l) / 256 = ofBytes l := by omega
    rw [toBytes, ofBytes, hlow, hhigh, toBytes_ofBytes l n (Nat.le_of_succ_le_succ h), List.take_succ_cons]

theorem ofBytes_toBytes : ∀ n v, ofBytes (toBytes n v) = v % 256 ^ n
  | 0, v => by rw [pow_zero, Nat.mod_one]; rfl
  | n + 1, v => by
    have hpow : 256 ^ (n + 1) = 256 * 256 ^ n := pow_succ' 256 n
    rw [toBytes, ofBytes, ofBytes_toBytes n, BitVec.toNat_ofNat, hpow, Nat.mod_mul]

theorem ofBytes_div_pow : ∀ (l : List Byte) (o : Nat), ofBytes l / 256 ^ o = ofBytes (l.drop o)
  | l, 0 => by rw [pow_zero, Nat.div_one, List.drop_zero]
  | [], o + 1 => by rw [List.drop_nil]; exact Nat.zero_div _
  | b :: l, o + 1 => by
    have hb := b.isLt
    have hhigh : (b.toNat + 256 * ofBytes l) / 256 = ofBytes l := by omega
    rw [ofBytes, pow_succ', ← Nat.div_div_eq_div_mul, hhigh, ofBytes_div_pow l o, List.drop_succ_cons]

/-- The bytes of a sector that sixteen bytes make. -/
theorem secBytes_ofBytes {l : List Byte} (hl : l.length = 16) {o n : Nat} (h : o + n ≤ 16) :
    secBytes (BitVec.ofNat 128 (ofBytes l)) o n = (l.drop o).take n := by
  have hlt : ofBytes l < 2 ^ 128 := by
    have h := ofBytes_lt l
    rw [hl] at h
    exact h.trans_eq (by norm_num)
  rw [secBytes, BitVec.toNat_ofNat, Nat.mod_eq_of_lt hlt, ofBytes_div_pow, toBytes_ofBytes _ _ (by rw [List.length_drop]; omega)]

theorem length_secBytes (v : Sec) (o n : Nat) : (secBytes v o n).length = n := length_toBytes _ _

/-- Bytes put into a sector are read from it. -/
theorem secBytes_secPut {v : Sec} {o : Nat} {bs : List Byte} (h : o + bs.length ≤ 16) : secBytes (secPut v o bs) o bs.length = bs := by
  rw [secPut, secBytes_ofBytes (by simp [length_secBytes]; omega) h, List.append_assoc, List.drop_append_of_le_length (by rw [length_secBytes])]
  have hnil : (secBytes v 0 o).drop o = [] := List.drop_eq_nil_of_le (by rw [length_secBytes])
  rw [hnil, List.nil_append, List.take_left]

/-- A sector is the value of its sixteen bytes. -/
theorem ofBytes_secBytes (v : Sec) : BitVec.ofNat 128 (ofBytes (secBytes v 0 16)) = v := by
  apply BitVec.eq_of_toNat_eq
  have hv : v.toNat < 256 ^ 16 := v.isLt.trans_eq (by norm_num)
  rw [secBytes, ofBytes_toBytes, pow_zero, Nat.div_one, Nat.mod_eq_of_lt hv, BitVec.toNat_ofNat, Nat.mod_eq_of_lt v.isLt]

theorem eq_of_secBytes {v w : Sec} (h : secBytes v 0 16 = secBytes w 0 16) : v = w := by
  rw [← ofBytes_secBytes v, h, ofBytes_secBytes]

/-! ### Sectors of memory -/

theorem drop_read : ∀ (k n : Nat) (m : Memory) (a : Nat), (m.read a (k + n)).drop k = m.read (a + k) n
  | 0, n, m, a => by rw [Nat.zero_add]; rfl
  | k + 1, n, m, a => by
    rw [Nat.add_right_comm, Memory.read, List.drop_succ_cons, drop_read k n m (a + 1), Nat.add_assoc, Nat.add_comm 1]

theorem take_read : ∀ (n k : Nat) (m : Memory) (a : Nat), (m.read a (n + k)).take n = m.read a n
  | 0, _, _, _ => rfl
  | n + 1, k, m, a => by
    rw [Nat.add_right_comm, Memory.read, List.take_succ_cons, take_read n k m (a + 1), Memory.read]

theorem secBytes_sector (m : Memory) (q : Nat) {o n : Nat} (h : o + n ≤ 16) : secBytes (m.sector q) o n = m.read (16 * q + o) n := by
  obtain ⟨k, hk⟩ := Nat.exists_eq_add_of_le h
  rw [Memory.sector, Memory.readNat, secBytes_ofBytes (Memory.length_read ..) h, hk, Nat.add_assoc, drop_read, take_read]

theorem read_congr {m m' : Memory} : ∀ {n a : Nat}, (∀ b, a ≤ b → b < a + n → m'.get b = m.get b) → m'.read a n = m.read a n
  | 0, _, _ => rfl
  | n + 1, a, h => by
    rw [Memory.read, Memory.read, h a le_rfl (by omega), read_congr fun b hb hb' => h b (by omega) (by omega)]

/-- A write within one sector leaves the others. -/
theorem sector_write_ne (m : Memory) {a q : Nat} {bs : List Byte} (h : a % 16 + bs.length ≤ 16) (hq : q ≠ a / 16) :
    (m.write a bs).sector q = m.sector q := by
  rw [Memory.sector, Memory.sector, Memory.readNat, Memory.readNat, read_congr fun b hb hb' => ?_]
  rw [Memory.get_write, if_neg (by omega)]

/-! ### The home image after a write -/

theorem isPod_below {a : Nat} (h : a < podBase) : isPod a = false := by
  have hlt : a < aliasBase := h.trans (by decide)
  rw [isPod, Nat.mod_eq_of_lt hlt]
  exact decide_eq_false (Nat.not_le.mpr h)

theorem isPod_sectorOf {a : Nat} (h : a < podBase) : isPod (16 * (a / 16)) = false := isPod_below (by omega)

/-- What a home slice holds of a sector that is no pod-tier one. -/
theorem homeSector_near {q : Nat} (h : isPod (16 * q) = false) (ms : MemSys) :
    homeSector ms q = ((ms.l2.find? fun p => p.sec == q).map (·.data)).getD (ms.mem.sector (q % (podBase / 16))) := by
  rw [homeSector, h]
  simp only [Bool.false_eq_true, if_false]
  cases ms.l2.find? fun p => p.sec == q <;> rfl

/-- The image that a write within one sector leaves at the home slice, before the failed mark and the latch entries. -/
def homePut (ms : MemSys) (ha : Nat) (bs : List Byte) : MemSys :=
  if ms.l2.any fun p => p.sec == ha / 16 then
    { ms with l2 := ⟨ha / 16, secPut (homeSector ms (ha / 16)) (ha % 16) bs, true⟩ :: ms.l2.filter (fun p => p.sec != ha / 16) }
  else { ms with mem := ms.mem.write (ha % podBase) bs }

theorem homeSector_homeWrite (ms : MemSys) {ha : Nat} (h : ha < podBase) (bs : List Byte) (q : Nat) :
    homeSector (homeWrite ms ha bs) q = homeSector (homePut ms ha bs) q := by
  have hput : (if isPod ha then { ms with pod := ⟨ha / 16, secPut (homeSector ms (ha / 16)) (ha % 16) bs, true⟩ :: ms.pod.filter (fun p => p.sec != ha / 16) }
      else homePut ms ha bs) = homePut ms ha bs := if_neg (by rw [isPod_below h]; exact Bool.false_ne_true)
  rw [homeWrite]
  dsimp only [wakeLine]
  rw [← hput]
  split <;> rfl

theorem caches_homeWrite (ms : MemSys) (ha : Nat) (bs : List Byte) : (homeWrite ms ha bs).caches = ms.caches := by
  rw [homeWrite]
  dsimp only [wakeLine]
  split <;> split <;> [rfl; split <;> rfl; rfl; split <;> rfl]

theorem homeSector_homeWrite_ne (ms : MemSys) {ha q : Nat} (h : ha < podBase) {bs : List Byte} (hb : ha % 16 + bs.length ≤ 16) (hq : q < podBase / 16)
    (hne : q ≠ ha / 16) : homeSector (homeWrite ms ha bs) q = homeSector ms q := by
  have hpod : isPod (16 * q) = false := isPod_below (by unfold podBase at *; omega)
  rw [homeSector_homeWrite ms h, homeSector_near hpod, homeSector_near hpod, homePut]
  split
  · have hfind : (ms.l2.filter fun p => p.sec != ha / 16).find? (fun p => p.sec == q) = ms.l2.find? fun p => p.sec == q := by
      rw [List.find?_filter]
      refine List.find?_congr fun p _ => ?_
      by_cases hp : p.sec = q <;> simp [hp, hne]
    rw [List.find?_cons_of_neg (by simpa using hne.symm), hfind]
  · rw [Nat.mod_eq_of_lt h, Nat.mod_eq_of_lt hq, sector_write_ne _ hb hne]

theorem secBytes_homeWrite (ms : MemSys) {ha : Nat} (h : ha < podBase) {bs : List Byte} (hb : ha % 16 + bs.length ≤ 16) :
    secBytes (homeSector (homeWrite ms ha bs) (ha / 16)) (ha % 16) bs.length = bs := by
  have hq : ha / 16 < podBase / 16 := by unfold podBase at *; omega
  rw [homeSector_homeWrite ms h, homeSector_near (isPod_sectorOf h), homePut]
  split
  · rw [List.find?_cons_of_pos (by simp)]
    exact secBytes_secPut hb
  · next hl =>
    have hnone : ms.l2.find? (fun p => p.sec == ha / 16) = none := by simpa using hl
    simp only [hnone, Option.map_none, Option.getD_none, Nat.mod_eq_of_lt h, Nat.mod_eq_of_lt hq]
    rw [secBytes_sector _ _ hb, Nat.div_add_mod, Memory.read_write]

/-- A whole sector written home. -/
theorem homeSector_homeWrite_whole (ms : MemSys) {q : Nat} (hq : q < podBase / 16) (v : Sec) :
    homeSector (homeWrite ms (16 * q) (secBytes v 0 16)) q = v := by
  have h : 16 * q < podBase := by unfold podBase at *; omega
  have hw := secBytes_homeWrite ms h (bs := secBytes v 0 16) (by rw [length_secBytes]; omega)
  rw [Nat.mul_div_cancel_left q (by decide), Nat.mul_mod_right, length_secBytes] at hw
  exact eq_of_secBytes hw

end Sys2Proof.Proofs
end

section
/-! PROOFS. Caches: what a bay reads of a sector, by the copies that its cluster holds (R121, R122, R124). -/

namespace Sys2Proof.Proofs

open Sys2Proof.Machine Sys2Proof.Spec

/-! ### The copies of a sector -/

/-- The copies of a sector in all caches, newest first. -/
def copiesOf (ms : MemSys) (q : Nat) : List CacheSec := ms.caches.filter fun x => x.sec == q

/-- A dirty copy in an L1 of cluster c. -/
def dirtyIn (c : Nat) (x : CacheSec) : Bool := x.dirty && (decide (x.own < 768) && x.own / 8 == c)

/-- A copy in the cache of an owner. -/
def heldBy (own : Nat) (x : CacheSec) : Bool := x.own == own

theorem find?_filter_and {α : Type} (p f : α → Bool) (l : List α) : (l.filter p).find? f = l.find? fun x => p x && f x := by
  rw [List.find?_filter]
  exact List.find?_congr fun x _ => by cases p x <;> cases f x <;> rfl

theorem find?_filter_of_imp {α : Type} {p f : α → Bool} (l : List α) (h : ∀ x, f x = true → p x = true) : (l.filter p).find? f = l.find? f := by
  rw [find?_filter_and]
  refine List.find?_congr fun x _ => ?_
  cases hf : f x with
  | false => rw [Bool.and_false]
  | true => rw [h x hf, Bool.and_true]

theorem dirtyL1_eq (ms : MemSys) (c q : Nat) : dirtyL1 ms c q = (copiesOf ms q).find? (dirtyIn c) := by
  rw [dirtyL1, copiesOf, find?_filter_and]
  refine List.find?_congr fun x _ => ?_
  rw [dirtyIn, Bool.and_assoc, Bool.and_assoc]

theorem cacheGet_eq (ms : MemSys) (own q : Nat) : cacheGet ms own q = (copiesOf ms q).find? (heldBy own) := by
  rw [cacheGet, copiesOf, find?_filter_and]
  exact List.find?_congr fun x _ => Bool.and_comm _ _

theorem copiesOf_cachePut_ne (ms : MemSys) (own : Nat) {q q' : Nat} (h : q' ≠ q) (v : Sec) (d st : Bool) :
    copiesOf (cachePut ms own q v d st) q' = copiesOf ms q' := by
  rw [copiesOf, cachePut, List.filter_cons_of_neg (by simpa using h.symm), List.filter_filter, copiesOf]
  refine List.filter_congr fun x _ => ?_
  by_cases hx : x.sec = q'
  · simp [hx, h]
  · simp [hx]

theorem copiesOf_cachePut (ms : MemSys) (own q : Nat) (v : Sec) (d st : Bool) :
    copiesOf (cachePut ms own q v d st) q = ⟨own, q, v, d, st⟩ :: (copiesOf ms q).filter fun x => !heldBy own x := by
  rw [copiesOf, cachePut, List.filter_cons_of_pos (by simp), copiesOf, List.filter_filter, List.filter_filter]
  congr 1
  refine List.filter_congr fun x _ => ?_
  rw [heldBy]
  cases x.sec == q <;> cases x.own == own <;> rfl

/-- The copies of a sector of cluster c once a dirty one of an L1 has been merged. -/
def pulled (c q : Nat) (cs : List CacheSec) : List CacheSec :=
  match cs.find? (dirtyIn c) with
  | none => cs
  | some x => ⟨x.own, q, x.data, false, x.stream⟩ ::
      (⟨clOwn c, q, x.data, true, x.stream⟩ :: cs.filter fun y => !heldBy (clOwn c) y).filter fun y => !heldBy x.own y

theorem copiesOf_pullUp (ms : MemSys) (c q : Nat) : copiesOf (pullUp ms c q) q = pulled c q (copiesOf ms q) := by
  rw [pullUp, dirtyL1_eq, pulled]
  cases (copiesOf ms q).find? (dirtyIn c) with
  | none => rfl
  | some x => simp only [copiesOf_cachePut]

theorem copiesOf_pullUp_ne (ms : MemSys) (c : Nat) {q q' : Nat} (h : q' ≠ q) : copiesOf (pullUp ms c q) q' = copiesOf ms q' := by
  rw [pullUp]
  cases dirtyL1 ms c q with
  | none => rfl
  | some x => simp only [copiesOf_cachePut_ne _ _ h]

theorem homeSector_pullUp (ms : MemSys) (c q q' : Nat) : homeSector (pullUp ms c q) q' = homeSector ms q' := by
  rw [pullUp]
  cases dirtyL1 ms c q <;> rfl

theorem dirtyIn_own {c : Nat} {x : CacheSec} (h : dirtyIn c x = true) : x.own < 768 ∧ x.own / 8 = c := by
  simp only [dirtyIn, Bool.and_eq_true, decide_eq_true_eq, beq_iff_eq] at h
  exact h.2

theorem not_dirtyIn_cluster {c c' q : Nat} (v : Sec) (d st : Bool) : dirtyIn c ⟨clOwn c', q, v, d, st⟩ = false := by
  have h : ¬ clOwn c' < 768 := by unfold clOwn; omega
  simp [dirtyIn, h]

/-- The cluster cache's copy once a dirty one of an L1 has been merged. -/
theorem find_cluster_pulled {c q : Nat} {cs : List CacheSec} {x : CacheSec} (h : cs.find? (dirtyIn c) = some x) :
    (pulled c q cs).find? (heldBy (clOwn c)) = some ⟨clOwn c, q, x.data, true, x.stream⟩ := by
  have hown := dirtyIn_own (List.find?_some h)
  have hne : x.own ≠ clOwn c := by unfold clOwn; omega
  have hkeep : ∀ y, heldBy (clOwn c) y = true → (!heldBy x.own y) = true := fun y hy => by
    simp only [heldBy, beq_iff_eq, Bool.not_eq_true', beq_eq_false_iff_ne] at hy ⊢
    exact fun h' => hne (h'.symm.trans hy)
  rw [pulled, h]
  dsimp only
  rw [List.find?_cons_of_neg (by simpa [heldBy] using hne), find?_filter_of_imp _ hkeep, List.find?_cons_of_pos (by simp [heldBy])]

theorem pulled_of_clean {c q : Nat} {cs : List CacheSec} (h : cs.find? (dirtyIn c) = none) : pulled c q cs = cs := by
  rw [pulled, h]

/-- Merging leaves the copies of owners that hold the sector clean. -/
theorem find_pulled_other {c q own : Nat} {cs : List CacheSec} (hcl : own ≠ clOwn c) (h : ∀ x, cs.find? (dirtyIn c) = some x → x.own ≠ own) :
    (pulled c q cs).find? (heldBy own) = cs.find? (heldBy own) := by
  cases hd : cs.find? (dirtyIn c) with
  | none => rw [pulled_of_clean hd]
  | some x =>
    have hne := h x hd
    have hkeep : ∀ n, n ≠ own → ∀ y, heldBy own y = true → (!heldBy n y) = true := fun n hn y hy => by
      simp only [heldBy, beq_iff_eq, Bool.not_eq_true', beq_eq_false_iff_ne] at hy ⊢
      exact fun h' => hn (h'.symm.trans hy)
    rw [pulled, hd]
    dsimp only
    rw [List.find?_cons_of_neg (by simpa [heldBy] using hne), find?_filter_of_imp _ (hkeep _ hne),
      List.find?_cons_of_neg (by simpa [heldBy] using hcl.symm), find?_filter_of_imp _ (hkeep _ hcl.symm)]

/-! ### What a read returns -/

/-- The data of a sector at its cluster cache, which sees its L1s. -/
def clusterData (c : Nat) (cs : List CacheSec) (home : Sec) : Sec :=
  match cs.find? (dirtyIn c) with
  | some x => x.data
  | none => ((cs.find? (heldBy (clOwn c))).map (·.data)).getD home

/-- The data of a sector at its home slice once its cluster has written it back. -/
def homeData (c : Nat) (cs : List CacheSec) (home : Sec) : Sec :=
  match cs.find? (dirtyIn c) with
  | some x => x.data
  | none => ((cs.find? (heldBy (clOwn c))).map fun x => if x.dirty then x.data else home).getD home

/-- The data of a sector at a bay's L1, or at its cluster cache where the L1 holds none. -/
def bayData (bay : Nat) (cs : List CacheSec) (home : Sec) : Sec :=
  ((cs.find? (heldBy bay)).map (·.data)).getD (clusterData (clusterOf bay) cs home)

/-- What a bay reads of a sector at a retention. -/
def readData (bay al : Nat) (cs : List CacheSec) (home : Sec) : Sec :=
  if 3 ≤ al then homeData (clusterOf bay) cs home else if al = 2 then clusterData (clusterOf bay) cs home else bayData bay cs home

theorem fillCluster_fst (ms : MemSys) (c q : Nat) (st : Bool) : (fillCluster ms c q st).1 = clusterData c (copiesOf ms q) (homeSector ms q) := by
  rw [fillCluster, cacheGet_eq, copiesOf_pullUp, homeSector_pullUp, clusterData]
  cases hd : (copiesOf ms q).find? (dirtyIn c) with
  | some x => rw [find_cluster_pulled hd]
  | none =>
    rw [pulled_of_clean hd]
    cases (copiesOf ms q).find? (heldBy (clOwn c)) <;> rfl

section
variable {q : Nat} (hq : q < podBase / 16)
include hq

/-- A write-back leaves the home slice with the cluster's data. -/
theorem homeSector_writeBack (ms : MemSys) (c : Nat) : homeSector (writeBack ms c q) q = homeData c (copiesOf ms q) (homeSector ms q) := by
  rw [writeBack, cacheGet_eq, copiesOf_pullUp, homeData]
  cases hd : (copiesOf ms q).find? (dirtyIn c) with
  | some x =>
    rw [find_cluster_pulled hd]
    exact homeSector_homeWrite_whole _ hq _
  | none =>
    rw [pulled_of_clean hd]
    cases (copiesOf ms q).find? (heldBy (clOwn c)) with
    | none => exact homeSector_pullUp ..
    | some x =>
      dsimp only [Option.map_some, Option.getD_some]
      split
      · exact homeSector_homeWrite_whole _ hq _
      · exact homeSector_pullUp ..

theorem homeSector_evict (ms : MemSys) (c : Nat) : homeSector (evict ms c q) q = homeData c (copiesOf ms q) (homeSector ms q) :=
  homeSector_writeBack hq ms c

theorem readSec_fst (ms : MemSys) (bay al : Nat) : (readSec ms bay al q).1 = readData bay al (copiesOf ms q) (homeSector ms q) := by
  rw [readSec, readData]
  by_cases h3 : 3 ≤ al
  · simp only [ge_iff_le, if_pos h3]
    exact homeSector_evict hq ms _
  · simp only [ge_iff_le, if_neg h3, beq_iff_eq]
    by_cases h2 : al = 2
    · simp only [if_pos h2]
      exact fillCluster_fst ..
    · simp only [if_neg h2]
      rw [cacheGet_eq, bayData]
      cases (copiesOf ms q).find? (heldBy bay) with
      | some x => rfl
      | none => exact fillCluster_fst ..

end

end Sys2Proof.Proofs
end

section
/-! PROOFS. Caches: what a store leaves of the copies in its cluster, and loads after it (R109, R122, R124, R133). -/

namespace Sys2Proof.Proofs

open Sys2Proof.Machine Sys2Proof.Spec

/-! ### Room in a cache -/

/-- How many sectors a cache holds. -/
def heldCount (ms : MemSys) (own : Nat) : Nat := (ms.caches.filter fun c => c.own == own).length

theorem makeRoom_of_room {ms : MemSys} {own : Nat} (h : heldCount ms own < cacheRoom own) : makeRoom ms own = ms := by
  have hv : victimOf ms own = none := if_pos (by rwa [List.length_reverse])
  rw [makeRoom, hv]

theorem heldCount_cachePut_ne (ms : MemSys) {own own' : Nat} (h : own' ≠ own) (q : Nat) (v : Sec) (d st : Bool) :
    heldCount (cachePut ms own' q v d st) own = heldCount ms own := by
  rw [heldCount, cachePut, List.filter_cons_of_neg (by simpa using h), List.filter_filter, heldCount]
  congr 1
  refine List.filter_congr fun x _ => ?_
  by_cases hx : x.own = own
  · simp [hx, h.symm]
  · simp [hx]

theorem heldCount_cachePut_le {ms : MemSys} {own q : Nat} {x : CacheSec} (hx : x ∈ ms.caches) (ho : x.own = own) (hs : x.sec = q) (v : Sec) (d st : Bool) :
    heldCount (cachePut ms own q v d st) own ≤ heldCount ms own := by
  have hlt : ((ms.caches.filter fun c => c.own == own).filter fun c => !(c.own == own && c.sec == q)).length < heldCount ms own :=
    List.length_filter_lt_length_iff_exists.mpr ⟨x, List.mem_filter.mpr ⟨hx, by simpa using ho⟩, by simp [ho, hs]⟩
  rw [heldCount, cachePut, List.filter_cons_of_pos (by simp), List.length_cons, List.filter_comm]
  exact hlt

theorem heldCount_pullUp_le (ms : MemSys) (c q : Nat) {own : Nat} (h : own < 768) : heldCount (pullUp ms c q) own ≤ heldCount ms own := by
  have hcl : clOwn c ≠ own := by unfold clOwn; omega
  rw [pullUp]
  cases hd : dirtyL1 ms c q with
  | none => exact le_rfl
  | some x =>
    have hput := heldCount_cachePut_ne ms hcl q x.data true x.stream
    have hsome := List.find?_some hd
    simp only [Bool.and_eq_true, beq_iff_eq, decide_eq_true_eq] at hsome
    dsimp only
    by_cases hx : x.own = own
    · rw [hx]
      refine (heldCount_cachePut_le (x := x) ?_ hx hsome.1.1.1 _ _ _).trans_eq hput
      refine List.mem_cons_of_mem _ (List.mem_filter.mpr ⟨List.mem_of_find?_eq_some hd, ?_⟩)
      have hne : x.own ≠ clOwn c := fun h' => hcl (h'.symm.trans hx)
      simp [hne]
    · rw [heldCount_cachePut_ne _ hx, hput]

/-! ### Other sectors -/

theorem caches_l2Fill (ms : MemSys) (q : Nat) : (l2Fill ms q).caches = ms.caches := by
  rw [l2Fill]; split <;> rfl

theorem homeSector_append_l2 (ms : MemSys) {q q' : Nat} (h : q' ≠ q) (v : Sec) (d : Bool) :
    homeSector { ms with l2 := ms.l2 ++ [⟨q, v, d⟩] } q' = homeSector ms q' := by
  have hfind : (ms.l2 ++ [(⟨q, v, d⟩ : PodSec)]).find? (fun p => p.sec == q') = ms.l2.find? fun p => p.sec == q' := by
    rw [List.find?_append, List.find?_cons_of_neg (by simpa using h.symm), List.find?_nil, Option.or_none]
  cases hp : isPod (16 * q') <;> simp only [homeSector, hp, Bool.false_eq_true, if_false, if_true, hfind]

theorem homeSector_l2Fill (ms : MemSys) {q q' : Nat} (h : q' ≠ q) : homeSector (l2Fill ms q) q' = homeSector ms q' := by
  rw [l2Fill]
  split
  · exact homeSector_append_l2 ms h _ _
  · rfl

section
variable {ms : MemSys} {c q q' : Nat} (hr : heldCount ms (clOwn c) < cacheRoom (clOwn c)) (st : Bool)

theorem fillCluster_snd_held {x : CacheSec} (h : cacheGet (pullUp ms c q) (clOwn c) q = some x) : (fillCluster ms c q st).2 = pullUp ms c q := by
  rw [fillCluster, h]

include hr in
/-- With room in the cluster cache, a fill adds a clean copy and evicts nothing. -/
theorem fillCluster_snd_filled (h : cacheGet (pullUp ms c q) (clOwn c) q = none) :
    (fillCluster ms c q st).2 = cachePut (l2Fill ms q) (clOwn c) q (homeSector ms q) false st := by
  have hclean : pullUp ms c q = ms := by
    rw [cacheGet_eq, copiesOf_pullUp] at h
    rw [pullUp, dirtyL1_eq]
    cases hd : (copiesOf ms q).find? (dirtyIn c) with
    | none => rfl
    | some x => rw [find_cluster_pulled hd] at h; cases h
  have hroom : makeRoom (l2Fill ms q) (clOwn c) = l2Fill ms q := makeRoom_of_room (by rw [heldCount, caches_l2Fill]; exact hr)
  rw [hclean] at h
  rw [fillCluster, hclean, h]
  dsimp only
  rw [hroom]

include hr

theorem copiesOf_fillCluster (h : q' ≠ q) : copiesOf (fillCluster ms c q st).2 q' = copiesOf ms q' := by
  cases hg : cacheGet (pullUp ms c q) (clOwn c) q with
  | some x => rw [fillCluster_snd_held st hg, copiesOf_pullUp_ne _ _ h]
  | none =>
    rw [fillCluster_snd_filled hr st hg, copiesOf_cachePut_ne _ _ h, copiesOf, caches_l2Fill, copiesOf]

theorem homeSector_fillCluster (h : q' ≠ q) : homeSector (fillCluster ms c q st).2 q' = homeSector ms q' := by
  cases hg : cacheGet (pullUp ms c q) (clOwn c) q with
  | some x => rw [fillCluster_snd_held st hg, homeSector_pullUp]
  | none => rw [fillCluster_snd_filled hr st hg]; exact homeSector_l2Fill ms h

theorem heldCount_fillCluster {own : Nat} (ho : own < 768) : heldCount (fillCluster ms c q st).2 own ≤ heldCount ms own := by
  cases hg : cacheGet (pullUp ms c q) (clOwn c) q with
  | some x => rw [fillCluster_snd_held st hg]; exact heldCount_pullUp_le ms c q ho
  | none =>
    rw [fillCluster_snd_filled hr st hg, heldCount_cachePut_ne _ (by unfold clOwn; omega), heldCount, caches_l2Fill, heldCount]

end

/-! ### A line taken -/

/-- A copy in an L1 of cluster c other than the one that keeps the line. -/
def awayFrom (c keep : Nat) (x : CacheSec) : Bool := decide (x.own < 768) && x.own / 8 == c && x.own != keep

theorem takeLine_filter (ms : MemSys) (c line keep : Nat) :
    takeLine ms c line keep =
      let u := (ms.caches.filter fun x => (x.sec / 4 == line && awayFrom c keep x) && x.dirty).foldl (fun ms x => pullUp ms c x.sec) ms
      { u with caches := u.caches.filter fun x => !(x.sec / 4 == line && awayFrom c keep x) } := by
  simp only [takeLine, awayFrom, Bool.and_assoc]

theorem homeSector_foldl_pullUp (c q : Nat) : ∀ (l : List CacheSec) (ms : MemSys), homeSector (l.foldl (fun ms x => pullUp ms c x.sec) ms) q = homeSector ms q
  | [], _ => rfl
  | x :: l, ms => (homeSector_foldl_pullUp c q l _).trans (homeSector_pullUp ms c x.sec q)

theorem heldCount_foldl_pullUp (c : Nat) {own : Nat} (h : own < 768) : ∀ (l : List CacheSec) (ms : MemSys),
    heldCount (l.foldl (fun ms x => pullUp ms c x.sec) ms) own ≤ heldCount ms own
  | [], _ => le_rfl
  | x :: l, ms => (heldCount_foldl_pullUp c h l _).trans (heldCount_pullUp_le ms c x.sec h)

/-- Merging the dirty copies of some sectors: that of a sector among them once, those of others not at all. -/
theorem copiesOf_foldl_pullUp {c q : Nat} : ∀ (l : List CacheSec) (ms : MemSys), ((pulled c q (copiesOf ms q)).find? (dirtyIn c) = none) →
    copiesOf (l.foldl (fun ms x => pullUp ms c x.sec) ms) q = if l.any fun x => x.sec == q then pulled c q (copiesOf ms q) else copiesOf ms q
  | [], _, _ => rfl
  | x :: l, ms, h => by
    rw [List.foldl_cons, List.any_cons]
    by_cases hx : x.sec = q
    · have hp := copiesOf_pullUp ms c q
      have hclean : pulled c q (pulled c q (copiesOf ms q)) = pulled c q (copiesOf ms q) := pulled_of_clean h
      rw [hx, copiesOf_foldl_pullUp l _ (by rw [hp, hclean, h]), hp, hclean, ite_self, if_pos (by simp)]
    · have hp := copiesOf_pullUp_ne ms c (q := x.sec) (q' := q) (fun h => hx h.symm)
      rw [copiesOf_foldl_pullUp l _ (by rw [hp, h]), hp, beq_eq_false_iff_ne.mpr hx, Bool.false_or]

theorem homeSector_takeLine (ms : MemSys) (c line keep q : Nat) : homeSector (takeLine ms c line keep) q = homeSector ms q := by
  rw [takeLine_filter]
  exact homeSector_foldl_pullUp c q _ ms

theorem heldCount_takeLine (ms : MemSys) (c line keep : Nat) {own : Nat} (h : own < 768) : heldCount (takeLine ms c line keep) own ≤ heldCount ms own := by
  rw [takeLine_filter, heldCount]
  dsimp only
  rw [List.filter_comm]
  exact (List.length_filter_le _ _).trans (heldCount_foldl_pullUp c h _ ms)

theorem copiesOf_foldl_pullUp_ne {c q : Nat} : ∀ (l : List CacheSec) (ms : MemSys), (∀ x ∈ l, x.sec ≠ q) →
    copiesOf (l.foldl (fun ms x => pullUp ms c x.sec) ms) q = copiesOf ms q
  | [], _, _ => rfl
  | x :: l, ms, h => by
    obtain ⟨hx, hl⟩ := List.forall_mem_cons.mp h
    rw [List.foldl_cons, copiesOf_foldl_pullUp_ne l _ hl, copiesOf_pullUp_ne _ _ hx.symm]

/-- Sectors of other lines keep their copies. -/
theorem copiesOf_takeLine_ne (ms : MemSys) (c keep : Nat) {line q : Nat} (h : q / 4 ≠ line) : copiesOf (takeLine ms c line keep) q = copiesOf ms q := by
  rw [takeLine_filter, copiesOf]
  dsimp only
  rw [List.filter_filter, ← copiesOf_foldl_pullUp_ne (c := c) (q := q) (ms.caches.filter fun x => (x.sec / 4 == line && awayFrom c keep x) && x.dirty) ms, copiesOf]
  · refine List.filter_congr fun x _ => ?_
    by_cases hx : x.sec = q
    · simp [hx, h]
    · simp [hx]
  · intro x hx hq
    simp only [List.mem_filter, Bool.and_eq_true, beq_iff_eq] at hx
    exact h (hq ▸ hx.2.1.1)

/-- A line that an L1, or none, has taken: a dirty copy elsewhere is merged, and the other L1s' copies are dropped. -/
theorem copiesOf_takeLine (ms : MemSys) {c keep q : Nat} (h : (pulled c q (copiesOf ms q)).find? (dirtyIn c) = none) :
    copiesOf (takeLine ms c (q / 4) keep) q =
      (if (copiesOf ms q).any fun x => awayFrom c keep x && x.dirty then pulled c q (copiesOf ms q) else copiesOf ms q).filter fun x => !awayFrom c keep x := by
  have hany : ((ms.caches.filter fun x => (x.sec / 4 == q / 4 && awayFrom c keep x) && x.dirty).any fun x => x.sec == q) =
      (copiesOf ms q).any fun x => awayFrom c keep x && x.dirty := by
    rw [copiesOf, List.any_filter, List.any_filter]
    refine List.any_congr rfl fun x => ?_
    by_cases hx : x.sec = q
    · simp [hx]
    · rw [beq_eq_false_iff_ne.mpr hx, Bool.false_and, Bool.and_false]
  rw [takeLine_filter, ← hany, ← copiesOf_foldl_pullUp _ ms h, copiesOf, copiesOf, List.filter_filter, List.filter_filter]
  refine List.filter_congr fun x _ => ?_
  by_cases hx : x.sec = q
  · simp [hx]
  · rw [beq_eq_false_iff_ne.mpr hx, Bool.false_and, Bool.and_false]

/-- No other L1 of the cluster holds a sector of the line any longer. -/
theorem not_away_of_takeLine {ms : MemSys} {c keep line : Nat} {x : CacheSec} (hx : x ∈ (takeLine ms c line keep).caches) (hl : x.sec / 4 = line) :
    awayFrom c keep x = false := by
  rw [takeLine_filter] at hx
  have h := (List.mem_filter.mp hx).2
  simpa [hl] using h

end Sys2Proof.Proofs
end

section
/-! PROOFS. Caches: loads after a store of the same bay (R109, R122, R124, R133). -/

namespace Sys2Proof.Proofs

open Sys2Proof.Machine Sys2Proof.Spec

/-! ### The data of a sector of a line that has been taken -/

/-- All dirty copies in the L1s of cluster c are of one L1. -/
def OneOwner (c : Nat) (cs : List CacheSec) : Prop := ∀ x ∈ cs, ∀ y ∈ cs, dirtyIn c x = true → dirtyIn c y = true → x.own = y.own

theorem oneOwner_of_oneDirty {ms : MemSys} {c q : Nat} (h : OneDirty ms c q) : OneOwner c (copiesOf ms q) := by
  intro x hx y hy hdx hdy
  simp only [copiesOf, List.mem_filter, beq_iff_eq] at hx hy
  simp only [dirtyIn, Bool.and_eq_true, decide_eq_true_eq, beq_iff_eq] at hdx hdy
  exact h x hx.1 y hy.1 hx.2 hy.2 hdx.1 hdy.1 hdx.2.1 hdy.2.1 hdx.2.2 hdy.2.2

section
variable {c q : Nat} {cs : List CacheSec} (h : OneOwner c cs)
include h

/-- Once the one L1's dirty copy has been merged, none is dirty. -/
theorem pulled_clean : (pulled c q cs).find? (dirtyIn c) = none := by
  cases hd : cs.find? (dirtyIn c) with
  | none => rw [pulled_of_clean hd, hd]
  | some x =>
    have hx := List.find?_some hd
    rw [pulled, hd, List.find?_eq_none]
    intro y hy hdy
    simp only [List.mem_cons, List.mem_filter] at hy
    rcases hy with rfl | ⟨rfl | ⟨hy, -⟩, hne⟩
    · cases hdy
    · rw [not_dirtyIn_cluster] at hdy; cases hdy
    · simp only [heldBy, Bool.not_eq_true', beq_eq_false_iff_ne] at hne
      exact hne (h y hy x (List.mem_of_find?_eq_some hd) hdy hx)

end

/-- The copies of a sector once its line has been taken for `keep`. -/
def takenCopies (c keep q : Nat) (cs : List CacheSec) : List CacheSec :=
  (if cs.any fun x => awayFrom c keep x && x.dirty then pulled c q cs else cs).filter fun x => !awayFrom c keep x

theorem awayFrom_iff {c keep : Nat} {x : CacheSec} : awayFrom c keep x = true ↔ (x.own < 768 ∧ x.own / 8 = c) ∧ x.own ≠ keep := by
  simp [awayFrom]

theorem dirtyIn_of_away {c keep : Nat} {x : CacheSec} (h : (awayFrom c keep x && x.dirty) = true) : dirtyIn c x = true ∧ x.own ≠ keep := by
  rw [Bool.and_eq_true, awayFrom_iff] at h
  exact ⟨by simp [dirtyIn, h.1.1.1, h.1.1.2, h.2], h.1.2⟩

theorem not_away_cluster {c keep : Nat} {x : CacheSec} (h : heldBy (clOwn c) x = true) : (!awayFrom c keep x) = true := by
  rw [heldBy, beq_iff_eq, clOwn] at h
  rw [Bool.not_eq_true', ← Bool.not_eq_true, awayFrom_iff]
  omega

section
variable {c keep q : Nat} {cs : List CacheSec} (h : OneOwner c cs)

include h in
/-- A dirty copy of another L1 is merged. -/
theorem find_taken_merged (ha : (cs.any fun x => awayFrom c keep x && x.dirty) = true) :
    ∃ x, cs.find? (dirtyIn c) = some x ∧ x.own ≠ keep ∧ (takenCopies c keep q cs).find? (dirtyIn c) = none ∧
      (takenCopies c keep q cs).find? (heldBy (clOwn c)) = some ⟨clOwn c, q, x.data, true, x.stream⟩ := by
  obtain ⟨y, hy, haway⟩ := List.any_eq_true.mp ha
  obtain ⟨hdy, hkeep⟩ := dirtyIn_of_away haway
  cases hd : cs.find? (dirtyIn c) with
  | none => exact absurd hdy (List.find?_eq_none.mp hd y hy)
  | some x =>
    have hown := h x (List.mem_of_find?_eq_some hd) y hy (List.find?_some hd) hdy
    refine ⟨x, rfl, hown ▸ hkeep, ?_, ?_⟩
    · rw [takenCopies, if_pos ha, List.find?_eq_none]
      exact fun z hz => List.find?_eq_none.mp (pulled_clean h) z (List.mem_filter.mp hz).1
    · rw [takenCopies, if_pos ha, find?_filter_of_imp _ fun _ => not_away_cluster]
      exact find_cluster_pulled hd

/-- With no dirty copy of another L1, the dirty copy and the cluster cache's stay. -/
theorem find_taken_kept (ha : (cs.any fun x => awayFrom c keep x && x.dirty) = false) :
    (takenCopies c keep q cs).find? (dirtyIn c) = cs.find? (dirtyIn c) ∧
      (takenCopies c keep q cs).find? (heldBy (clOwn c)) = cs.find? (heldBy (clOwn c)) := by
  rw [takenCopies, if_neg (ne_true_of_eq_false ha)]
  refine ⟨?_, find?_filter_of_imp _ fun _ => not_away_cluster⟩
  rw [find?_filter_and]
  refine List.find?_congr fun x hx => ?_
  have hx' := List.any_eq_false.mp ha x hx
  cases hd : dirtyIn c x with
  | false => rw [Bool.and_false]
  | true =>
    have hdirty : x.dirty = true := by simp only [dirtyIn, Bool.and_eq_true] at hd; exact hd.1
    rw [hdirty, Bool.and_true] at hx'
    rw [Bool.and_true, Bool.not_eq_true']
    exact eq_false_of_ne_true hx'

include h

theorem clusterData_taken (home : Sec) : clusterData c (takenCopies c keep q cs) home = clusterData c cs home := by
  cases ha : cs.any fun x => awayFrom c keep x && x.dirty with
  | false => rw [clusterData, clusterData, (find_taken_kept ha).1, (find_taken_kept ha).2]
  | true =>
    obtain ⟨x, hx, -, hd, hc⟩ := find_taken_merged (q := q) h ha
    rw [clusterData, clusterData, hd, hc, hx]
    rfl

theorem homeData_taken (home : Sec) : homeData c (takenCopies c keep q cs) home = homeData c cs home := by
  cases ha : cs.any fun x => awayFrom c keep x && x.dirty with
  | false => rw [homeData, homeData, (find_taken_kept ha).1, (find_taken_kept ha).2]
  | true =>
    obtain ⟨x, hx, -, hd, hc⟩ := find_taken_merged (q := q) h ha
    rw [homeData, homeData, hd, hc, hx]
    rfl

end

/-- The L1 that keeps the line reads as before. -/
theorem bayData_taken_keep {bay q : Nat} {cs : List CacheSec} (h : OneOwner (clusterOf bay) cs) (hb : bay < 768) (home : Sec) :
    bayData bay (takenCopies (clusterOf bay) bay q cs) home = bayData bay cs home := by
  have hfind : (takenCopies (clusterOf bay) bay q cs).find? (heldBy bay) = cs.find? (heldBy bay) := by
    have hkeep : ∀ x, heldBy bay x = true → (!awayFrom (clusterOf bay) bay x) = true := fun x hx => by
      rw [heldBy, beq_iff_eq] at hx
      rw [Bool.not_eq_true', ← Bool.not_eq_true, awayFrom_iff]
      exact fun h' => h'.2 hx
    rw [takenCopies, find?_filter_of_imp _ hkeep]
    split
    · next ha =>
      obtain ⟨x, hx, hne, -⟩ := find_taken_merged (q := q) h ha
      refine find_pulled_other (by unfold clOwn; omega) fun y hy => ?_
      rw [hx, Option.some_inj] at hy
      exact hy ▸ hne
    · rfl
  rw [bayData, bayData, hfind, clusterData_taken h]

/-- An L1 of the cluster from which the line has been taken reads the cluster cache. -/
theorem bayData_taken_none {bay q : Nat} {cs : List CacheSec} (h : OneOwner (clusterOf bay) cs) (hb : bay < 768) (home : Sec) :
    bayData bay (takenCopies (clusterOf bay) 768 q cs) home = clusterData (clusterOf bay) cs home := by
  have hfind : (takenCopies (clusterOf bay) 768 q cs).find? (heldBy bay) = none := by
    rw [List.find?_eq_none]
    intro x hx hown
    have hx := (List.mem_filter.mp hx).2
    rw [heldBy, beq_iff_eq] at hown
    rw [Bool.not_eq_true', ← Bool.not_eq_true, awayFrom_iff, hown, clusterOf] at hx
    exact hx ⟨⟨hb, rfl⟩, by omega⟩
  rw [bayData, hfind, clusterData_taken h]
  rfl

/-! ### A store -/

theorem readMem_fst (ms : MemSys) (bay al : Nat) {a n : Nat} (h : a % 16 + n ≤ 16) :
    (readMem ms bay al a n).1 = secBytes (readSec ms bay al (a / 16)).1 (a % 16) n := by
  rw [readMem]
  exact congrArg Prod.fst (if_pos (by omega))

theorem writeMem_sector (ms : MemSys) (bay al : Nat) {ha : Nat} {bs : List Byte} (h : ha % 16 + bs.length ≤ 16) :
    writeMem ms bay al ha bs = writeSec ms bay al ha bs := by
  rw [writeMem]
  exact if_pos (by omega)

/-- The data that a bay reads where its own copy is dirty and comes first. -/
theorem readData_own {bay : Nat} (hb : bay < 768) (al q : Nat) (v : Sec) (st : Bool) (cs : List CacheSec) (home : Sec) :
    readData bay al (⟨bay, q, v, true, st⟩ :: cs) home = v := by
  have hd : (⟨bay, q, v, true, st⟩ :: cs).find? (dirtyIn (clusterOf bay)) = some ⟨bay, q, v, true, st⟩ :=
    List.find?_cons_of_pos (by simp [dirtyIn, hb, clusterOf])
  have hh : (⟨bay, q, v, true, st⟩ :: cs).find? (heldBy bay) = some ⟨bay, q, v, true, st⟩ := List.find?_cons_of_pos (by simp [heldBy])
  rw [readData, homeData, clusterData, bayData, hd, hh]
  simp

/-- The data that a bay reads where its cluster cache's copy is dirty and no L1 of the cluster holds one. -/
theorem readData_cluster {bay al q : Nat} {v : Sec} {st : Bool} {cs : List CacheSec} {home : Sec} (hd : cs.find? (dirtyIn (clusterOf bay)) = none)
    (hh : cs.find? (heldBy bay) = none) (hb : bay < 768) : readData bay al (⟨clOwn (clusterOf bay), q, v, true, st⟩ :: cs) home = v := by
  have hne : clOwn (clusterOf bay) ≠ bay := by unfold clOwn; omega
  have hd' : (⟨clOwn (clusterOf bay), q, v, true, st⟩ :: cs).find? (dirtyIn (clusterOf bay)) = none := by
    rw [List.find?_cons_of_neg (by rw [not_dirtyIn_cluster]; exact Bool.false_ne_true), hd]
  have hh' : (⟨clOwn (clusterOf bay), q, v, true, st⟩ :: cs).find? (heldBy bay) = none := by
    rw [List.find?_cons_of_neg (by simpa [heldBy] using hne), hh]
  have hc : (⟨clOwn (clusterOf bay), q, v, true, st⟩ :: cs).find? (heldBy (clOwn (clusterOf bay))) = some ⟨clOwn (clusterOf bay), q, v, true, st⟩ :=
    List.find?_cons_of_pos (by simp [heldBy])
  rw [readData, homeData, bayData, clusterData, hd', hh', hc]
  simp

/-- The data that a bay reads where its cluster holds no copy. -/
theorem readData_absent {bay al : Nat} {cs : List CacheSec} {home : Sec} (h : ∀ x ∈ cs, ofCluster (clusterOf bay) x.own = false) (hb : bay < 768) :
    readData bay al cs home = home := by
  have hnone : ∀ f : CacheSec → Bool, (∀ x, f x = true → ofCluster (clusterOf bay) x.own = true) → cs.find? f = none := fun f hf =>
    List.find?_eq_none.mpr fun x hx hfx => absurd ((h x hx).symm.trans (hf x hfx)) Bool.false_ne_true
  have hd : cs.find? (dirtyIn (clusterOf bay)) = none := hnone _ fun x hx => by
    have := dirtyIn_own hx
    simp [ofCluster, this]
  have hc : cs.find? (heldBy (clOwn (clusterOf bay))) = none := hnone _ fun x hx => by
    rw [heldBy, beq_iff_eq] at hx
    simp [ofCluster, hx]
  have hh : cs.find? (heldBy bay) = none := hnone _ fun x hx => by
    rw [heldBy, beq_iff_eq] at hx
    simp [ofCluster, hx, hb, clusterOf]
  rw [readData, homeData, bayData, clusterData, hd, hc, hh]
  simp

section
variable {q q' : Nat}

theorem copiesOf_writeBack_ne (ms : MemSys) (c : Nat) (h : q' ≠ q) : copiesOf (writeBack ms c q) q' = copiesOf ms q' := by
  have hpull := copiesOf_pullUp_ne ms c h
  rw [writeBack]
  cases cacheGet (pullUp ms c q) (clOwn c) q with
  | none => exact hpull
  | some x =>
    dsimp only
    split
    · rw [copiesOf, caches_homeWrite, ← copiesOf, copiesOf_cachePut_ne _ _ h, hpull]
    · exact hpull

theorem copiesOf_evict_ne (ms : MemSys) (c : Nat) (h : q' ≠ q) : copiesOf (evict ms c q) q' = copiesOf ms q' := by
  rw [← copiesOf_writeBack_ne ms c h, copiesOf, evict, List.filter_filter, copiesOf]
  refine List.filter_congr fun x _ => ?_
  by_cases hx : x.sec = q'
  · simp [hx, h]
  · simp [hx]

/-- No copy of an evicted sector is left in the cluster. -/
theorem not_ofCluster_of_evict {ms : MemSys} {c : Nat} {x : CacheSec} (hx : x ∈ (evict ms c q).caches) (hs : x.sec = q) : ofCluster c x.own = false := by
  have h := (List.mem_filter.mp hx).2
  simpa [hs] using h

theorem homeSector_evict_ne (ms : MemSys) (c : Nat) (hq : q < podBase / 16) (hq' : q' < podBase / 16) (h : q' ≠ q) :
    homeSector (evict ms c q) q' = homeSector ms q' := by
  have hpod : 16 * q < podBase := by unfold podBase at *; omega
  have hpull := homeSector_pullUp ms c q q'
  change homeSector (writeBack ms c q) q' = _
  rw [writeBack]
  cases cacheGet (pullUp ms c q) (clOwn c) q with
  | none => exact hpull
  | some x =>
    dsimp only
    split
    · exact (homeSector_homeWrite_ne _ hpod (by rw [length_secBytes]; omega) hq' (by omega)).trans hpull
    · exact hpull

end

/-- The cache for which a store at the L1 or the cluster cache takes the line, and the one that then holds the sector dirty. -/
def keeper (al bay : Nat) : Nat := if al = 2 then 768 else bay
def holder (al bay : Nat) : Nat := if al = 2 then clOwn (clusterOf bay) else bay

section
variable {ms : MemSys} {bay al ha : Nat} {bs : List Byte}

theorem writeSec_home (h : 3 ≤ al) : writeSec ms bay al ha bs = homeWrite (evict ms (clusterOf bay) (ha / 16)) ha bs := if_pos h

theorem writeSec_cluster : writeSec ms bay 2 ha bs =
    cachePut (takeLine (fillCluster ms (clusterOf bay) (ha / 16) false).2 (clusterOf bay) (ha / 16 / 4) 768) (clOwn (clusterOf bay)) (ha / 16)
      (secPut (fillCluster ms (clusterOf bay) (ha / 16) false).1 (ha % 16) bs) true false := rfl

/-- The caches as a store at the L1 takes the line, before the sector is put. -/
def lineTaken (ms : MemSys) (bay al ha : Nat) : MemSys :=
  takeLine (fillCluster ms (clusterOf bay) (ha / 16) (al == 1)).2 (clusterOf bay) (ha / 16 / 4) bay

theorem writeSec_own (h : al < 2) : writeSec ms bay al ha bs =
    cachePut (if (cacheGet (lineTaken ms bay al ha) bay (ha / 16)).isSome then lineTaken ms bay al ha else makeRoom (lineTaken ms bay al ha) bay) bay (ha / 16)
      (secPut (fillCluster ms (clusterOf bay) (ha / 16) (al == 1)).1 (ha % 16) bs) true (al == 1) := by
  have h3 : ¬ al ≥ 3 := by omega
  have h2 : ¬ (al == 2) = true := by simp; omega
  exact (if_neg h3).trans (if_neg h2)

/-- Where the caches have room, a store below the home slice fills, takes the line and puts the sector. -/
theorem writeSec_taken (hb : bay < 768) (hal : al < 3) (hr : ∀ own ∈ [bay, clOwn (clusterOf bay)], heldCount ms own < cacheRoom own) :
    writeSec ms bay al ha bs =
      cachePut (takeLine (fillCluster ms (clusterOf bay) (ha / 16) (al == 1)).2 (clusterOf bay) (ha / 16 / 4) (keeper al bay)) (holder al bay) (ha / 16)
        (secPut (fillCluster ms (clusterOf bay) (ha / 16) (al == 1)).1 (ha % 16) bs) true (al == 1) := by
  by_cases h2 : al = 2
  · subst h2
    rw [writeSec_cluster]
    rfl
  · have hroom : heldCount (lineTaken ms bay al ha) bay < cacheRoom bay :=
      ((heldCount_takeLine _ _ _ _ hb).trans (heldCount_fillCluster (hr _ (by simp)) _ hb)).trans_lt (hr _ (by simp))
    rw [writeSec_own (by omega), makeRoom_of_room hroom, ite_self, keeper, holder, if_neg h2, if_neg h2]
    rfl

/-- A load of the bytes that the bay has stored returns them. -/
theorem read_stored (hb : bay < 768) (al' : Nat) (hbs : ha % 16 + bs.length ≤ 16) (hpod : ha < podBase) :
    (readMem (writeMem ms bay al ha bs) bay al' ha bs.length).1 = bs := by
  have hq : ha / 16 < podBase / 16 := by unfold podBase at *; omega
  rw [readMem_fst _ _ _ hbs, writeMem_sector _ _ _ hbs, readSec_fst hq]
  by_cases h3 : 3 ≤ al
  · rw [writeSec_home h3, readData_absent (fun x hx => ?_) hb, secBytes_homeWrite _ hpod hbs]
    rw [copiesOf, caches_homeWrite] at hx
    obtain ⟨hx, hs⟩ := List.mem_filter.mp hx
    exact not_ofCluster_of_evict hx (beq_iff_eq.mp hs)
  by_cases h2 : al = 2
  · subst h2
    have haway : ∀ x ∈ (copiesOf (takeLine (fillCluster ms (clusterOf bay) (ha / 16) false).2 (clusterOf bay) (ha / 16 / 4) 768) (ha / 16)).filter
        (fun x => !heldBy (clOwn (clusterOf bay)) x), awayFrom (clusterOf bay) 768 x = false := fun x hx => by
      obtain ⟨hx, hs⟩ := List.mem_filter.mp (List.mem_filter.mp hx).1
      exact not_away_of_takeLine hx (by rw [beq_iff_eq.mp hs])
    have hfar : ∀ x, x.own < 768 ∧ x.own / 8 = clusterOf bay → awayFrom (clusterOf bay) 768 x = true := fun x hx => awayFrom_iff.mpr ⟨hx, by omega⟩
    rw [writeSec_cluster, copiesOf_cachePut, readData_cluster _ _ hb, secBytes_secPut hbs]
    · exact List.find?_eq_none.mpr fun x hx hd => absurd ((haway x hx).symm.trans (hfar x (dirtyIn_own hd))) Bool.false_ne_true
    · refine List.find?_eq_none.mpr fun x hx hd => absurd ((haway x hx).symm.trans (hfar x ?_)) Bool.false_ne_true
      rw [heldBy, beq_iff_eq] at hd
      exact ⟨hd ▸ hb, by rw [hd, clusterOf]⟩
  · rw [writeSec_own (by omega), copiesOf_cachePut, readData_own hb, secBytes_secPut hbs]

/-! ### Other sectors -/

section
variable (hb : bay < 768) (hr : ∀ own ∈ [bay, clOwn (clusterOf bay)], heldCount ms own < cacheRoom own) {q : Nat} (hne : q ≠ ha / 16)
include hb hr hne

theorem homeSector_stored (hpod : ha < podBase) (hq : q < podBase / 16) (hbs : ha % 16 + bs.length ≤ 16) :
    homeSector (writeSec ms bay al ha bs) q = homeSector ms q := by
  have hq0 : ha / 16 < podBase / 16 := by unfold podBase at *; omega
  by_cases h3 : 3 ≤ al
  · rw [writeSec_home h3, homeSector_homeWrite_ne _ hpod hbs hq hne, homeSector_evict_ne ms _ hq0 hq hne]
  · rw [writeSec_taken hb (by omega) hr]
    exact (homeSector_takeLine _ _ _ _ q).trans (homeSector_fillCluster (hr _ (by simp)) _ hne)

/-- A sector of another line keeps its copies. -/
theorem copiesOf_stored_line (hl : q / 4 ≠ ha / 16 / 4) : copiesOf (writeSec ms bay al ha bs) q = copiesOf ms q := by
  by_cases h3 : 3 ≤ al
  · rw [writeSec_home h3, copiesOf, caches_homeWrite, ← copiesOf, copiesOf_evict_ne ms _ hne]
  · rw [writeSec_taken hb (by omega) hr, copiesOf_cachePut_ne _ _ hne, copiesOf_takeLine_ne _ _ _ hl, copiesOf_fillCluster (hr _ (by simp)) _ hne]

section
variable (hl : q / 4 = ha / 16 / 4) (hone : OneOwner (clusterOf bay) (copiesOf ms q))
include hl hone

theorem copiesOf_stored_taken (h3 : al < 3) :
    copiesOf (writeSec ms bay al ha bs) q = takenCopies (clusterOf bay) (keeper al bay) q (copiesOf ms q) := by
  have hfill : copiesOf (fillCluster ms (clusterOf bay) (ha / 16) (al == 1)).2 q = copiesOf ms q := copiesOf_fillCluster (hr _ (by simp)) _ hne
  rw [writeSec_taken hb h3 hr, copiesOf_cachePut_ne _ _ hne, ← hl, copiesOf_takeLine _ (by rw [hfill]; exact pulled_clean hone), hfill]
  rfl

/-- A sector of the same line, of which at most one L1 holds a dirty copy, is read as before, but for a copy of the bay's L1 that a
store of L1 bypass drops. -/
theorem readData_stored {al' : Nat} (h2 : al = 2 → 2 ≤ al') (home : Sec) :
    readData bay al' (copiesOf (writeSec ms bay al ha bs) q) home = readData bay al' (copiesOf ms q) home := by
  by_cases h3 : 3 ≤ al
  · rw [writeSec_home h3, copiesOf, caches_homeWrite, ← copiesOf, copiesOf_evict_ne ms _ hne]
  rw [copiesOf_stored_taken hb hr hne hl hone (by omega), readData, readData, homeData_taken hone, clusterData_taken hone]
  by_cases h2' : al = 2
  · by_cases h : 3 ≤ al'
    · rw [if_pos h, if_pos h]
    · rw [if_neg h, if_neg h, if_pos (by omega), if_pos (by omega)]
  · rw [keeper, if_neg h2', bayData_taken_keep hone hb]

/-- Where a store of L1 bypass has dropped the bay's copy, the cluster cache's is read. -/
theorem readData_bypassed {al' : Nat} (h2 : al = 2) (h2' : al' < 2) (home : Sec) :
    readData bay al' (copiesOf (writeSec ms bay al ha bs) q) home = readData bay 2 (copiesOf ms q) home := by
  have h3 : ¬ 3 ≤ al' := by omega
  have hne2 : ¬ al' = 2 := by omega
  rw [copiesOf_stored_taken hb hr hne hl hone (by omega), readData, if_neg h3, if_neg hne2, keeper, if_pos h2, bayData_taken_none hone hb]
  rfl

end

end

/-- The L1 that holds the stored sector dirty is the bay's. -/
theorem dirty_stored (hb : bay < 768) (hr : ∀ own ∈ [bay, clOwn (clusterOf bay)], heldCount ms own < cacheRoom own) {x : CacheSec}
    (hx : x ∈ (writeSec ms bay al ha bs).caches) (hs : x.sec = ha / 16) (ho : x.own < 768) (hc : x.own / 8 = clusterOf bay) : al < 2 ∧ x.own = bay := by
  by_cases h3 : 3 ≤ al
  · rw [writeSec_home h3, caches_homeWrite] at hx
    have h := not_ofCluster_of_evict hx hs
    simp [ofCluster, ho, hc] at h
  rw [writeSec_taken hb (by omega) hr] at hx
  rcases List.mem_cons.mp hx with rfl | hx
  · by_cases h2 : al = 2
    · have : ¬ clOwn (clusterOf bay) < 768 := by unfold clOwn; omega
      exact absurd (by simpa [holder, h2] using ho) this
    · exact ⟨by omega, by simp [holder, h2]⟩
  · have haway := not_away_of_takeLine (List.mem_filter.mp hx).1 (by rw [hs])
    rw [← Bool.not_eq_true, awayFrom_iff, not_and, not_not] at haway
    have hkeep := haway ⟨ho, hc⟩
    by_cases h2 : al = 2
    · rw [keeper, if_pos h2] at hkeep; omega
    · rw [keeper, if_neg h2] at hkeep; exact ⟨by omega, hkeep⟩

end

/-- Settles O21: what a bay reads depends on the copies of its cluster and the home image, and a store changes those of its sector, and
of its line as the statement allows. -/
theorem loadsSeeOwnStores : Obligations.LoadsSeeOwnStores := by
  unfold Obligations.LoadsSeeOwnStores
  intro ms bay al al' ha bs hb hal hal' hlen hbs hpod
  refine ⟨read_stored hb al' hbs hpod, fun hr => ⟨fun a n hn ha' hpod' => ⟨fun hl => ?_, fun hl hne hone hby => ?_⟩, fun x hx hs hd ho hc => ?_⟩⟩
  · have hq : a / 16 < podBase / 16 := by unfold podBase at *; omega
    have hne : a / 16 ≠ ha / 16 := fun h => hl (by omega)
    rw [readMem_fst _ _ _ ha', readMem_fst _ _ _ ha', writeMem_sector _ _ _ hbs, readSec_fst hq, readSec_fst hq,
      homeSector_stored hb hr hne hpod hq hbs, copiesOf_stored_line hb hr hne (by omega)]
  · have hq : a / 16 < podBase / 16 := by unfold podBase at *; omega
    have hl' : a / 16 / 4 = ha / 16 / 4 := by omega
    have hone' := oneOwner_of_oneDirty hone
    rw [readMem_fst _ _ _ ha', readMem_fst _ _ _ ha', readSec_fst hq, readSec_fst hq] at hby
    rw [readMem_fst _ _ _ ha', readMem_fst _ _ _ ha', writeMem_sector _ _ _ hbs, readSec_fst hq, readSec_fst hq,
      homeSector_stored hb hr hne hpod hq hbs]
    by_cases h2 : al = 2 ∧ al' < 2
    · rw [readData_bypassed hb hr hne hl' hone' h2.1 h2.2]
      exact hby h2.1 h2.2
    · rw [readData_stored hb hr hne hl' hone' (fun h => by omega)]
  · rw [writeMem_sector _ _ _ hbs] at hx
    exact dirty_stored hb hr hx hs ho hc

end Sys2Proof.Proofs
end

section
/-! PROOFS. Cards: the work of each type as one act, and a COPY of one row (R286, R288, R289). -/

namespace Sys2Proof.Proofs

open Sys2Proof.Machine Sys2Proof.Spec

/-! ### The start of a card -/

theorem ref_handleIn (h : Nat) : ∀ (fuel : Nat) (t : Team), (Team.handleIn h fuel t).ref = t.ref
  | 0, _ => rfl
  | fuel + 1, t => by
    rw [Team.handleIn]
    dsimp only
    split
    · rfl
    · exact ref_handleIn h fuel _

theorem ref_startCard (t : Team) (k : Card) : (t.startCard k).ref = t.ref := by
  rw [Team.startCard]
  split
  · rfl
  · rw [Team.startHandle]
    split
    · exact ref_handleIn ..
    · split
      · exact ref_handleIn ..
      · rfl

theorem phaseCard_eq (t : Team) (k : Card) (p : CardPhase) (now : Nat) : t.phaseCard k.seq p now = cardAt t k p now := rfl

/-- The instant from which a card counts its requests. -/
def workSince (k : Card) (s : State) : Nat := if k.phase == .started then k.since else s.time

/-- What becomes of a card whose work ends, waits or kills. -/
theorem workCard_eq (t : Team) (k : Card) (work : Card → State → Eng Unit) (s : State) :
    (∀ s', work k (s.asTeam (cardAt t k .moved s.time)) = .ok ((), s') → workCard t k work s = { s'.setTeam s'.tm with th := s.th, tm := s.tm }) ∧
      (work k (s.asTeam (cardAt t k .moved s.time)) = .error (.wait none) → workCard t k work s = s.setTeam (cardAt t k .started (workSince k s))) ∧
      (work k (s.asTeam (cardAt t k .moved s.time)) = .error .kill →
        workCard t k work s = (s.setTeam (cardAt t k .started (workSince k s))).killContext t.ref.ctx 0x40 0) := by
  simp only [← phaseCard_eq]
  refine ⟨fun s' h => ?_, fun h => ?_, fun h => ?_⟩
  all_goals
    rw [workCard, h]
    rfl

theorem runCard_ready {ty : Nat} {r : TeamRef} {s : State} {t : Team} {k : Card} (hk : t.card? k.seq = some k) (hty : cardType k.bytes = ty)
    (hr : s.runningTeam r = some t) (hc : cardReady s t k = true) (work : Card → State → Eng Unit) :
    runCard ty r k.seq work s = workCard (t.startCard k) k work s := by
  simp only [runCard, hr, hk]
  exact if_neg (by simp [hty, hc])

theorem retry_started {r : TeamRef} {s : State} {t : Team} {k : Card} (hk : t.card? k.seq = some k) (hp : s.placedTeam r = some t)
    (hs : k.phase = .started) : exec (.engineFaultRetry r k.seq) s = .next (workCard t k (cardWork (cardType k.bytes)) s) := by
  refine congrArg Host.Outcome.next ?_
  simp only [hp, hk, hs, beq_self_eq_true, if_true]

/-- A card of a type starts, and its retry tries the same work again. -/
theorem card_performs {i : TeamRef → Nat → Instr} {ty : Nat} {work : Card → State → Eng Unit} (hi : ∀ r n s, exec (i r n) s = .next (runCard ty r n work s))
    (hw : cardWork ty = work) (s : State) (r : TeamRef) (t : Team) (k : Card) (hk : t.card? k.seq = some k) (hty : cardType k.bytes = ty) :
    (s.runningTeam r = some t → cardReady s t k = true →
      (∀ s', work k (s.asTeam (cardAt (t.startCard k) k .moved s.time)) = .ok ((), s') →
        exec (i r k.seq) s = .next { s'.setTeam s'.tm with th := s.th, tm := s.tm }) ∧
      (work k (s.asTeam (cardAt (t.startCard k) k .moved s.time)) = .error (.wait none) →
        exec (i r k.seq) s = .next (s.setTeam (cardAt (t.startCard k) k .started s.time))) ∧
      (work k (s.asTeam (cardAt (t.startCard k) k .moved s.time)) = .error .kill →
        exec (i r k.seq) s = .next ((s.setTeam (cardAt (t.startCard k) k .started s.time)).killContext t.ref.ctx 0x40 0))) ∧
    (s.placedTeam r = some t → k.phase = .started →
      (∀ s', work k (s.asTeam (cardAt t k .moved s.time)) = .ok ((), s') →
        exec (.engineFaultRetry r k.seq) s = .next { s'.setTeam s'.tm with th := s.th, tm := s.tm }) ∧
      (work k (s.asTeam (cardAt t k .moved s.time)) = .error (.wait none) →
        exec (.engineFaultRetry r k.seq) s = .next (s.setTeam (cardAt t k .started k.since)))) := by
  refine ⟨fun hr hc => ?_, fun hp hs => ?_⟩
  · have hwait : k.phase = .waiting := by
      simp only [cardReady, Bool.and_eq_true, beq_iff_eq] at hc
      exact hc.1.1.1.1
    have hsince : workSince k s = s.time := if_neg (by simp [hwait])
    obtain ⟨hok, hw', hkill⟩ := workCard_eq (t.startCard k) k work s
    rw [hsince] at hw' hkill
    rw [ref_startCard] at hkill
    rw [hi, runCard_ready hk hty hr hc]
    exact ⟨fun s' h => congrArg _ (hok s' h), fun h => congrArg _ (hw' h), fun h => congrArg _ (hkill h)⟩
  · have hsince : workSince k s = k.since := if_pos (by simp [hs])
    obtain ⟨hok, hw', -⟩ := workCard_eq t k work s
    rw [hsince] at hw'
    rw [retry_started hk hp hs, hty, hw]
    exact ⟨fun s' h => congrArg _ (hok s' h), fun h => congrArg _ (hw' h)⟩

/-! ### A COPY of one row -/

theorem copyRows_one {b : List Byte} (hy : field b 12 4 = 1) (hz : field b 16 4 = 1) : copyRows b = [(0, 0)] := by
  simp [copyRows, hy, hz]

theorem badRange_of_sound {t : Team} (h : t.badStore = []) (sp o n : Nat) : t.badRange sp o n = false := by
  rw [Team.badRange, badIn_of_sound h]
  exact Bool.and_false _

theorem regionRead_store {s : State} {r : DWord} (hr : regionIsStore r = true) (hb : s.tm.badStore = []) (n : Nat) :
    regionRead s r 0 n = .ok ((s.tm.store (regionSpace r)).read (regionOffset r) n, s) := by
  rw [regionRead, if_pos hr, Int.add_zero, Int.toNat_natCast]
  exact if_neg (by rw [badRange_of_sound hb]; exact Bool.false_ne_true)

theorem cardRead_store {k : Card} {s : State} (hr : regionIsStore (cardRbase k.bytes) = true) (hb : s.tm.badStore = []) (he : k.early = none) (n : Nat) :
    cardRead k s 0 n = .ok ((s.tm.store (regionSpace (cardRbase k.bytes))).read (regionOffset (cardRbase k.bytes)) n, s) := by
  rw [cardRead, regionRead_store hr hb, engThen, he]

theorem regionWrite_store {s : State} {r : DWord} (hw : regionIsStore r = true) (seq : Nat) (bs : List Byte) :
    regionWrite s seq r 0 bs = .ok ((), { s with tm := storedTeam s.tm (regionSpace r) (regionOffset r) bs }) := by
  rw [regionWrite, if_pos hw, Int.add_zero, Int.toNat_natCast, storeWrite_eq]

theorem copyWork_one {k : Card} {s : State} (hr : regionIsStore (cardRbase k.bytes) = true) (hw : regionIsStore (cardWbase k.bytes) = true)
    (hy : field k.blk 12 4 = 1) (hz : field k.blk 16 4 = 1) (hb : s.tm.badStore = []) (he : k.early = none) :
    copyWork k s = .ok ((), { s with
      tm := storedTeam s.tm (regionSpace (cardWbase k.bytes)) (regionOffset (cardWbase k.bytes))
        ((s.tm.store (regionSpace (cardRbase k.bytes))).read (regionOffset (cardRbase k.bytes)) (field k.blk 8 4)) }) := by
  rw [copyWork, copyRows_one hy hz]
  simp only [engEach, cardRead_store hr hb he, engThen, regionWrite_store hw]

/-- Settles O49: every card type by the one lemma about a card's work. -/
theorem cardResults : Obligations.CardResults := by
  unfold Obligations.CardResults
  refine ⟨fun p hp s r t k hk hty => ?_, fun k s hr hw hy hz hb he => copyWork_one hr hw hy hz hb he⟩
  refine card_performs (fun r n s => ?_) ?_ s r t k hk hty
  all_goals
    simp only [cardWorks, List.mem_cons, List.not_mem_nil, or_false] at hp
    rcases hp with rfl | rfl | rfl | rfl | rfl | rfl | rfl | rfl | rfl | rfl <;> rfl

end Sys2Proof.Proofs
end

section
/-! PROOFS. Acceptance, completion and retirement of cards, and the life of a matrix operation (R117, R277, R283, R286). -/

namespace Sys2Proof.Proofs

open Sys2Proof.Machine Sys2Proof.Spec

theorem setTeam_eq_withTeam (s : State) (t : Team) : s.setTeam t = withTeam s t := by
  simp only [State.setTeam, withTeam, beq_iff_eq]

theorem teams_setTeam (s : State) (n : Nat) (t : Team) : (State.setTeam { s with turns := n } t).teams = (withTeam s t).teams := by
  rw [setTeam_eq_withTeam]
  rfl

/-! ### Acceptance -/

/-- The bytes of the card that an append names. -/
def cardBytes (t : Team) (a : Machine.Append) : List Byte := t.lst.read (32 + 32 * ((a.upto - 1).toNat % t.ring.size)) 32

/-- The card as it joins the ring. -/
def acceptedCard (s : State) (t : Team) (a : Machine.Append) : Card :=
  let c := cardBytes t a
  let h := cardHandle c
  { seq := (a.upto - 1).toNat, bytes := c, blk := t.lst.read (cardParam c) (paramSize (cardType c)), tid := a.tid, place := a.place
    phase := .waiting
    writing := h != 0xFF && bindingIs (t.handle h) (cardWbase c) (cardWlen c)
    exp2 := BitVec.ofNat 32 (ftabRec t.ftab 2).deg :: (ftabRec t.ftab 2).c, early := none
    since := s.time }

section
variable {s : State} {r : TeamRef} {t : Team} {a : Machine.Append}

/-- The card that the sequencer takes next, where nothing it reads has failed: it is refused, or it joins the ring. -/
theorem cardAccept_eq (hr : s.runningTeam r = some t) (hn : t.ring.nextCard (BitVec.ofNat 32 (t.lst.readNat 0 4)) s.turns = some a) (hb : t.badStore = []) :
    let at' := 32 + 32 * ((a.upto - 1).toNat % t.ring.size)
    let c := t.lst.read at' 32
    let checked := cardCheck (decide (s.iod.service = .reduced)) { t with ring := { t.ring with stopped := false } } c
    (∀ e, checked = some e → exec (.cardAccept r) s =
      .next (withTeam s { t with ring := { t.ring with stopped := true, again := [] }, imprecise := t.imprecise ++ [(cEngineCard, at')] })) ∧
    (checked = none → exec (.cardAccept r) s =
      .next ({ s with turns := s.turns + 1 }.setTeam { t with ring := t.ring.takeNext (acceptedCard s t a) })) := by
  have hsvc : (s.iod.service == .reduced) = decide (s.iod.service = .reduced) := rfl
  have hbad : ∀ o n, ¬ t.badRange 0 o n = true := fun o n => by rw [badRange_of_sound hb]; exact Bool.false_ne_true
  refine ⟨fun e he => ?_, fun he => ?_⟩
  all_goals
    refine congrArg Host.Outcome.next ?_
    simp only [hr, hn, if_neg (hbad _ _), hsvc, he, ← setTeam_eq_withTeam] <;> rfl

end

section
variable {s : State} {r : TeamRef} {t : Team}

/-- On a ring that has not stopped, the card at the count is next. -/
theorem nextCard_at_count (hsz : 0 < t.ring.size) (hs : t.ring.stopped = false) (ha : t.ring.again = [])
    (h1 : 1 ≤ (BitVec.ofNat 32 (t.lst.readNat 0 4) - t.ring.accepted).toNat)
    (h2 : (BitVec.ofNat 32 (t.lst.readNat 0 4) - t.ring.accepted).toNat ≤ t.ring.size) (hl : t.ring.cards.length < t.ring.size) (turn : Nat) :
    ∃ a, a.upto = t.ring.accepted + 1 ∧ t.ring.nextCard (BitVec.ofNat 32 (t.lst.readNat 0 4)) turn = some a := by
  have hroom : ¬ (t.ring.size == 0 || decide (t.ring.cards.length ≥ t.ring.size)) = true := by simp; omega
  have hnone : ¬ (!t.ring.again.isEmpty) = true := by simp [ha]
  have hgo : ¬ (t.ring.stopped || decide ((BitVec.ofNat 32 (t.lst.readNat 0 4) - t.ring.accepted).toNat < 1) ||
      decide ((BitVec.ofNat 32 (t.lst.readNat 0 4) - t.ring.accepted).toNat > t.ring.size)) = true := by
    rw [hs, decide_eq_false (by omega), decide_eq_false (by omega)]
    exact Bool.false_ne_true
  rw [Ring.nextCard]
  exact ⟨_, rfl, (if_neg hroom).trans ((if_neg hnone).trans (if_neg hgo))⟩

/-- A card accepted before the team was saved comes first. -/
theorem nextCard_again {a : Machine.Append} {rest : List Machine.Append} (ha : t.ring.again = a :: rest) (hsz : 0 < t.ring.size)
    (hl : t.ring.cards.length < t.ring.size) (notify : Word) (turn : Nat) : t.ring.nextCard notify turn = some a := by
  have hroom : ¬ (t.ring.size == 0 || decide (t.ring.cards.length ≥ t.ring.size)) = true := by simp; omega
  have hsome : (!t.ring.again.isEmpty) = true := by simp [ha]
  rw [Ring.nextCard]
  exact (if_neg hroom).trans ((if_pos hsome).trans (by rw [ha]; rfl))

theorem takeNext_at_count {x : Ring} (ha : x.again = []) (k : Card) : x.takeNext k = { x with
    accepted := x.accepted + 1, cards := x.cards ++ [k], appends := x.appends.filter fun y => countBefore (x.accepted + 1) y.upto } := by
  rw [Ring.takeNext, ha]
  rfl

theorem takeNext_again {x : Ring} {a : Machine.Append} {rest : List Machine.Append} (ha : x.again = a :: rest) (k : Card) :
    x.takeNext k = { x with cards := x.cards ++ [k], again := rest } := by
  rw [Ring.takeNext, ha]
  rfl

end

/-! ### Completion and retirement of a card without a handle -/

section
variable {s : State} {r : TeamRef} {t : Team} {k : Card} (hp : s.placedTeam r = some t) (hk : t.card? k.seq = some k) (hh : cardHandle k.bytes = 0xFF)
include hp hk hh

theorem cardReadsComplete_moved (hm : k.phase = .moved) : exec (.cardReadsComplete r k.seq) s = .next (withTeam s { t with ring := { t.ring with
    cards := t.ring.cards.map fun c => if c.seq == k.seq then { c with phase := .readsDone, since := s.time } else c } }) := by
  refine congrArg Host.Outcome.next ?_
  simp only [hp, hk, hm, hh, bne_self_eq_false, Bool.false_eq_true, if_false, beq_self_eq_true, Bool.true_or, if_true, setTeam_eq_withTeam]
  rfl

theorem cardRetire_readsDone (hm : k.phase = .readsDone) (hpod : s.ms.podOut = []) : exec (.cardRetire r k.seq) s = .next (withTeam s { t with
    ring := { t.ring with cards := t.ring.cards.filter fun c => c.seq != k.seq } }) := by
  refine congrArg Host.Outcome.next ?_
  simp only [hp, hk, hm, hh, hpod, List.any_nil, bne_self_eq_false, Bool.or_self, Bool.false_eq_true, if_false, beq_self_eq_true, Bool.true_or, if_true,
    setTeam_eq_withTeam]

end

/-! ### A matrix operation without handles -/

theorem setStream_eq {t : Team} {n : Nat} {st : Stream} (h : t.streams[n]? = some st) (f : Stream → Stream) :
    t.setStream n f = { t with streams := t.streams.set n (f st) } := by
  rw [Team.setStream, updAt_eq_set h]

theorem badFoot_of_sound {t : Team} (h : t.badStore = []) (f : Footprint) : t.badFoot f = false := by
  rw [Team.badFoot, List.any_eq_false]
  intro x _
  rw [badRange_of_sound h]
  exact Bool.false_ne_true

theorem clearFoot_of_sound {t : Team} (h : t.badStore = []) (f : Footprint) (old : List Footprint) : t.clearFoot f old = t := by
  rw [Team.clearFoot, h, List.filter_nil, ← h]

section
variable {s : State} {r : TeamRef} {t : Team} {n : Nat} {m tk : Word} {q : List MxJob} {j : MxJob}

theorem mxopStart_starts (hrd : (MxBlk.ofBytes j.blk).readers = []) (hc : (MxBlk.ofBytes j.blk).hc = 0xFF) {rest : List MxJob} (hr : s.runningTeam r = some t) (hd : t.decl.det = 0) (hst : t.streams[n]? = some ⟨m, tk, j :: rest, none⟩) :
    exec (.mxopStart r n) s = .next (withTeam s { t with streams := t.streams.set n ⟨m, tk, rest, some ⟨j, none, none, []⟩⟩ }) := by
  refine congrArg Host.Outcome.next ?_
  simp only [hr, hst, hd, hrd, hc, bne_self_eq_false, Bool.false_and, List.all_nil, beq_self_eq_true, Bool.true_or, Bool.and_self, Bool.not_true,
    Bool.or_self, Bool.false_eq_true, if_false, List.foldl_nil, if_true, setStream_eq hst, setTeam_eq_withTeam]

theorem mxopReadsComplete_sound (hrd : (MxBlk.ofBytes j.blk).readers = []) (hp : s.placedTeam r = some t) (hb : t.badStore = [])
    (hst : t.streams[n]? = some ⟨m, tk, q, some ⟨j, none, none, []⟩⟩)
    (hh : mxHeadersFaulty (MxBlk.ofBytes j.blk) (readOperands t (MxBlk.ofBytes j.blk)) = false) :
    exec (.mxopReadsComplete r n) s = .next (withTeam s { t with
      streams := t.streams.set n ⟨m, tk, q, some ⟨j, some (readOperands t (MxBlk.ofBytes j.blk)), none, []⟩⟩ }) := by
  refine congrArg Host.Outcome.next ?_
  simp only [hp, hst, Option.bind_some, MxRun.operands, badFoot_of_sound hb, Bool.or_self, hh, Bool.false_eq_true, if_false, hrd, List.foldl_nil,
    setStream_eq hst, setTeam_eq_withTeam]

theorem mxopAbandon_faulty (hrd : (MxBlk.ofBytes j.blk).readers = []) (hc : (MxBlk.ofBytes j.blk).hc = 0xFF) (hp : s.placedTeam r = some t)
    (hst : t.streams[n]? = some ⟨m, tk, q, some ⟨j, none, none, []⟩⟩)
    (hh : mxHeadersFaulty (MxBlk.ofBytes j.blk) (readOperands t (MxBlk.ofBytes j.blk)) = true) :
    exec (.mxopAbandon r n) s = .next (withTeam s { t with
      streams := t.streams.set n ⟨m, tk, q, none⟩, imprecise := t.imprecise ++ [(cTensor, j.off)] }) := by
  refine congrArg Host.Outcome.next ?_
  simp only [hp, hst, Option.bind_some, MxRun.operands, hh, if_true, hrd, List.foldl_nil, hc, beq_self_eq_true, setStream_eq hst, setTeam_eq_withTeam]

theorem mxopComplete_writes (hc : (MxBlk.ofBytes j.blk).hc = 0xFF) (hp : s.placedTeam r = some t) (hb : t.badStore = []) {o : MxOperands} {e : Option MxOperands} (hst : t.streams[n]? = some ⟨m, tk, q, some ⟨j, some o, e, []⟩⟩) :
    exec (.mxopComplete r n) s = .next (withTeam s { t with
      cst := (MxBlk.ofBytes j.blk).fpC.write t.cst (mxResult (MxBlk.ofBytes j.blk) o ((MxBlk.ofBytes j.blk).fpC.read t.cst) j.ser).1
      streams := t.streams.set n ⟨(mxResult (MxBlk.ofBytes j.blk) o ((MxBlk.ofBytes j.blk).fpC.read t.cst) j.ser).2, tk, q, none⟩ }) := by
  refine congrArg Host.Outcome.next ?_
  have hclear : ∀ (c : Memory) (f : Footprint) (l : List Footprint), Team.clearFoot { t with cst := c } f l = { t with cst := c } := fun c f l =>
    clearFoot_of_sound (t := { t with cst := c }) hb f l
  have hstream : ∀ (c : Memory) (f : Stream → Stream), Team.setStream { t with cst := c } n f =
      { t with cst := c, streams := t.streams.set n (f ⟨m, tk, q, some ⟨j, some o, e, []⟩⟩) } := fun c f => setStream_eq (t := { t with cst := c }) hst f
  simp only [hp, hst, Option.bind_some, badFoot_of_sound hb, Bool.and_false, Bool.false_eq_true, if_false, MxRun.result, MxBlk.putTiles, List.foldl_nil,
    List.map_nil, hclear, hstream, hc, beq_self_eq_true, if_true, setTeam_eq_withTeam]

end

/-! ### The obligation -/

/-- Settles O50: each event by the lemma about it. -/
theorem engineEventResults : Obligations.EngineEventResults := by
  unfold Obligations.EngineEventResults
  refine ⟨fun s r t hr => ?_, fun s r t a rest hr ha hsz hl hb => ?_, fun s r t k hp hk hh => ?_, fun s r t n m tk j rest hr hd hst hrd hc => ?_,
    fun s r t n m tk q j hp hb hrd hc => ⟨fun hst => ⟨fun hh => ?_, fun hh => ?_⟩, fun o e hst => ?_⟩⟩
  · intro n at' c ahead hsz hs ha h1 h2 hl hb
    obtain ⟨a, hup, hnext⟩ := nextCard_at_count hsz hs ha h1 h2 hl s.turns
    have hupto : a.upto - 1 = t.ring.accepted := by rw [hup]; simp
    have hring : { t with ring := { t.ring with stopped := false } } = t := by rw [← hs]
    obtain ⟨hrefused, htaken⟩ := cardAccept_eq hr hnext hb
    dsimp only at hrefused htaken
    rw [hupto, hring] at hrefused htaken
    refine ⟨fun e he => ?_, fun he => ?_⟩
    · rw [hrefused e he, ← ha]
    · have hbytes : cardBytes t a = c := congrArg (fun w : Word => t.lst.read (32 + 32 * (w.toNat % t.ring.size)) 32) hupto
      rw [takeNext_at_count ha] at htaken
      exact ⟨_, acceptedCard s t a, htaken he, teams_setTeam s _ _, congrArg BitVec.toNat hupto, hbytes,
        congrArg (fun l => t.lst.read (cardParam l) (paramSize (cardType l))) hbytes, rfl, rfl, rfl⟩
  · intro c he
    have htaken := (cardAccept_eq hr (nextCard_again ha hsz hl _ _) hb).2 he
    rw [takeNext_again ha] at htaken
    exact ⟨_, acceptedCard s t a, htaken, teams_setTeam s _ _, rfl, rfl, rfl, rfl⟩
  · exact ⟨cardReadsComplete_moved hp hk hh, cardRetire_readsDone hp hk hh⟩
  · exact mxopStart_starts hrd hc hr hd hst
  · exact mxopReadsComplete_sound hrd hp hb hst hh
  · exact mxopAbandon_faulty hrd hc hp hst hh
  · exact mxopComplete_writes hc hp hb hst

end Sys2Proof.Proofs
end

section
/-! PROOFS. Bring-up, failing dies, the reference clock, power and pod time (R459 to R467, R472, R473). -/

namespace Sys2Proof.Proofs

open Sys2Proof.Machine Sys2Proof.Spec

/-! ### Dies -/

theorem getElem?_updAt_ne {α : Type} {l : List α} {i j : Nat} (h : i ≠ j) (f : α → α) : (updAt l i f)[j]? = l[j]? := by
  rw [updAt]
  split
  · exact List.getElem?_set_ne h
  · rfl

section
variable {s : State} {n : Nat} {d : Die} (h : s.iod.dies[n]? = some d)
include h

theorem die_eq : s.die n = d := by
  rw [State.die, nth, List.getD_eq_getElem?_getD, h]
  rfl

theorem mapDie_eq (f : Die → Die) : s.mapDie n f = withDie s n (f d) := by
  rw [State.mapDie, State.mapIod, updAt_eq_set h, withDie]

end

/-- A die that is not off is one of the module's. -/
theorem getElem?_of_die {s : State} {n : Nat} (h : (s.die n).st ≠ .off) : s.iod.dies[n]? = some (s.die n) := by
  cases hd : s.iod.dies[n]? with
  | none =>
    rw [State.die, nth, List.getD_eq_getElem?_getD, hd] at h
    exact absurd rfl h
  | some d => rw [die_eq hd]

/-! ### Reset, reduced service, the end of training, full service -/

theorem powerOnReset_recovery {s : State} (h : s.iod.service = .off) (hf : s.iod.fwok = false) :
    ∃ u, exec .powerOnReset s = .next u ∧ u.iod.service = .recovery ∧ u.teams = s.teams ∧ u.ctxs = s.ctxs := by
  refine ⟨_, congrArg Host.Outcome.next ((if_neg ?_).trans (if_pos ?_)), rfl, rfl, rfl⟩
  · rw [h]; exact Bool.false_ne_true
  · rw [hf]; rfl

theorem powerOnReset_reduced {s : State} (h : s.iod.service = .off) (hf : s.iod.fwok = true) :
    ∃ u, exec .powerOnReset s = .next u ∧ u.iod.service = .reduced ∧ u.iod.fwok = true ∧ (∀ n, n ≠ 14 → u.iod.dies[n]? = s.iod.dies[n]?) ∧
      (∀ x ∈ u.iod.hbm, x = .training) ∧ u.iod.hbm.length = s.iod.hbm.length := by
  refine ⟨_, congrArg Host.Outcome.next ((if_neg ?_).trans (if_neg ?_)), rfl, hf, fun n hn => getElem?_updAt_ne (Ne.symm hn) _, ?_, List.length_map ..⟩
  · rw [h]; exact Bool.false_ne_true
  · rw [hf]; exact Bool.false_ne_true
  · intro x hx
    obtain ⟨_, -, rfl⟩ := List.mem_map.mp hx
    rfl

theorem powerOnReset_writing {s : State} (h : s.iod.service ≠ .off) (hf : s.iod.fwwrite ≠ none) :
    ∃ u, exec .powerOnReset s = .next u ∧ u.iod.service = .off ∧ u.iod.fwok = false ∧ u.iod.fwwrite = none ∧ u.teams = [] ∧ u.ctxs = [] := by
  refine ⟨_, congrArg Host.Outcome.next ((if_pos ?_).trans (if_pos ?_)), rfl, rfl, rfl, rfl, rfl⟩
  · exact bne_iff_ne.mpr h
  · exact Option.isSome_iff_ne_none.mpr hf

theorem reducedServiceStart_starts {s : State} (hs : s.iod.service = .reduced) (h0 : (s.die 0).st = .training) (h8 : (s.die 8).st = .training)
    (hh : s.iod.hbm[0]? = some .training) :
    ∃ u, exec .reducedServiceStart s = .next u ∧ (u.die 0).st = .ready ∧ (u.die 8).st = .ready ∧ u.iod.hbm[0]? = some .ready ∧
      (∀ n, n ≠ 0 → n ≠ 8 → u.iod.dies[n]? = s.iod.dies[n]?) := by
  have hd0 := getElem?_of_die (s := s) (n := 0) (by rw [h0]; exact nofun)
  have hd8 := getElem?_of_die (s := s) (n := 8) (by rw [h8]; exact nofun)
  refine ⟨_, congrArg Host.Outcome.next (if_pos ?_), ?_, ?_, ?_, fun n hn hn' => ?_⟩
  · simp [hs, h0, h8, hh]
  · refine congrArg Die.st (die_eq (d := { s.die 0 with st := .ready }) ?_)
    exact (getElem?_updAt_ne (by decide) _).trans ((getElem?_updAt _ _ _).trans (by rw [hd0]; rfl))
  · refine congrArg Die.st (die_eq (d := { s.die 8 with st := .ready }) ?_)
    exact (getElem?_updAt _ _ _).trans ((congrArg _ (getElem?_updAt_ne (by decide) _)).trans (by rw [hd8]; rfl))
  · exact (getElem?_updAt _ _ _).trans (congrArg (Option.map fun _ => DieState.ready) hh)
  · exact (getElem?_updAt_ne (Ne.symm hn') _).trans (getElem?_updAt_ne (Ne.symm hn) _)

theorem mem_startOrder {n : Nat} : n ∈ startOrder → n < 14 := by decide +revert

theorem nextDie_none {s : State} (h : ∀ n < 14, (s.die n).st ≠ .off) : nextDie s = none := by
  rw [nextDie, List.find?_eq_none]
  exact fun n hn => mt beq_iff_eq.mp (h n (mem_startOrder hn))

theorem trainingEnd_ends {s : State} (hs : s.iod.service = .reduced) (ht : s.iod.trained = false) (hd : ∀ n < 14, (s.die n).st ≠ .off)
    (hr : ∀ t ∈ s.teams, t.st ≠ .running) :
    ∃ u, exec .trainingEnd s = .next u ∧ u.iod.trained = true ∧ (∀ d ∈ u.iod.dies, d.st ≠ .training) ∧ (∀ d ∈ u.iod.hbm, d ≠ .training) ∧
      placing u = false ∧ u.teams = s.teams := by
  have hnone : s.teams.filter (fun t => t.st == .running) = [] := List.filter_eq_nil_iff.mpr fun t h => mt beq_iff_eq.mp (hr t h)
  refine ⟨_, congrArg Host.Outcome.next ((if_neg ?_).trans (congrArg (List.foldl _ _) hnone)), rfl, fun d h => ?_, fun d h => ?_, ?_, rfl⟩
  · rw [hs, ht, nextDie_none hd]; exact Bool.false_ne_true
  · obtain ⟨x, -, rfl⟩ := List.mem_map.mp h
    split
    · exact nofun
    · next hx => exact mt beq_iff_eq.mpr hx
  · obtain ⟨x, -, rfl⟩ := List.mem_map.mp h
    split
    · split <;> exact nofun
    · next hx => exact mt beq_iff_eq.mpr hx
  · exact Bool.and_false _

theorem fullServiceStart_starts {s : State} (hs : s.iod.service = .reduced) (ht : s.iod.trained = true) (hp : ∀ t ∈ s.teams, t.placedHere = false) :
    exec .fullServiceStart s = .next { s with iod := { s.iod with service := .full, trained := false } } := by
  have hnone : s.teams.any Team.placedHere = false := List.any_eq_false.mpr fun t h => ne_true_of_eq_false (hp t h)
  exact congrArg Host.Outcome.next (if_pos (by rw [hs, ht, hnone]; rfl))

/-! ### Starts and bays -/

theorem batchDue_of_due {s : State} {d : Die} (h : (d.bays = 0 ∧ d.batchAt = 0) ∨ d.batchAt + 2000 ≤ s.time) : batchDue s d = true := by
  simpa [batchDue] using h

/-- The dies before one in the order of R467. -/
theorem startOrder_split {n : Nat} (hn : n < 14) :
    startOrder = startOrder.take (startOrder.idxOf n) ++ n :: startOrder.drop (startOrder.idxOf n + 1) ∧
      ∀ m ∈ startOrder.take (startOrder.idxOf n), m < 14 ∧ ((n < 8 ∧ (8 ≤ m ∨ m < n)) ∨ (8 ≤ n ∧ 8 ≤ m ∧ m < n)) := by
  decide +revert

/-- The first die that is off, where those before it in the order are not. -/
theorem nextDie_some {s : State} {n : Nat} (hn : n < 14) (hoff : (s.die n).st = .off)
    (h : ∀ m < 14, (n < 8 ∧ (8 ≤ m ∨ m < n)) ∨ (8 ≤ n ∧ 8 ≤ m ∧ m < n) → (s.die m).st ≠ .off) : nextDie s = some n := by
  obtain ⟨hsplit, hbefore⟩ := startOrder_split hn
  refine List.find?_eq_some_iff_append.mpr ⟨beq_iff_eq.mpr hoff, _, _, hsplit, fun m hm => ?_⟩
  rw [Bool.not_eq_true', beq_eq_false_iff_ne]
  exact h m (hbefore m hm).1 (hbefore m hm).2

section
variable {s : State} {n : Nat} {d : Die} (hd : s.iod.dies[n]? = some d)
include hd

theorem bayStartBatch_start (hs : s.iod.service = .reduced) (hn : n < 14) (hoff : d.st = .off)
    (h : ∀ m < 14, (n < 8 ∧ (8 ≤ m ∨ m < n)) ∨ (8 ≤ n ∧ 8 ≤ m ∧ m < n) → (s.die m).st ≠ .off) :
    exec (.bayStartBatch n) s = .next (withDie s n { d with st := .training }) := by
  have hnext := nextDie_some hn (by rw [die_eq hd]; exact hoff) h
  refine congrArg Host.Outcome.next ((if_pos ?_).trans ?_)
  · rw [hs, hnext]; simp
  · rw [startDie, hnext]
    exact mapDie_eq hd _

/-- The bays of a die in full service, once every die has started. -/
theorem bayStartBatch_full (hn : n < 8) (hr : d.st = .ready) (hs : s.iod.service = .full) (hall : ∀ m < 14, (s.die m).st ≠ .off) :
    exec (.bayStartBatch n) s = .next (
      if batchDue s d && d.bays < 96 && earlierStarted s n then withDie s n { d with bays := min 96 (d.bays + 8), batchAt := s.time }
      else if batchDue s d && !d.gated.isEmpty then withDie s n { d with gated := d.gated.drop 8, batchAt := s.time } else s) := by
  have hup : (d.st == .ready || d.st == .degraded) = true := by rw [hr]; rfl
  refine congrArg Host.Outcome.next ((if_neg ?_).trans ?_)
  · rw [nextDie_none hall]; simp
  · rw [die_eq hd, hs, hup, decide_eq_true hn, mapDie_eq hd, mapDie_eq hd]
    rfl

/-- Eight bays at a time, 2 µs apart; bays that leave their power-gated state; nothing before the time. -/
theorem bayStartBatch_bays (hn : n < 8) (hr : d.st = .ready) (hs : s.iod.service = .full) (hall : ∀ m < 14, (s.die m).st ≠ .off) :
    let due := (d.bays = 0 ∧ d.batchAt = 0) ∨ d.batchAt + 2000 ≤ s.time
    (due → d.bays < 96 → (∀ m < n, (s.die m).bays = 96 ∨ (s.die m).st = .failed) →
      exec (.bayStartBatch n) s = .next (withDie s n { d with bays := min 96 (d.bays + 8), batchAt := s.time })) ∧
    (due → d.bays = 96 → d.gated ≠ [] → exec (.bayStartBatch n) s = .next (withDie s n { d with gated := d.gated.drop 8, batchAt := s.time })) ∧
    (¬ due → exec (.bayStartBatch n) s = .next s) := by
  have hfull := bayStartBatch_full hd hn hr hs hall
  refine ⟨fun hdue hb hm => ?_, fun hdue hb hg => ?_, fun hdue => ?_⟩
  · have hearlier : earlierStarted s n = true := List.all_eq_true.mpr fun m h => by simpa using hm m (List.mem_range.mp h)
    rw [hfull, if_pos (by rw [batchDue_of_due hdue, hearlier, decide_eq_true hb]; rfl)]
  · have hgate : d.gated.isEmpty = false := by simpa using hg
    rw [hfull, if_neg (by simp [hb]), if_pos (by rw [batchDue_of_due hdue, hgate]; rfl)]
  · have hnot : batchDue s d = false := by simpa [batchDue] using hdue
    rw [hfull, hnot]
    rfl

/-! ### Failing dies, clocks and power -/

theorem dieFailed_heard (hr : d.st = .ready) (ht : s.time < d.heard + 20 * s.iod.lto) : exec (.dieFailed n) s = .next s := by
  refine congrArg Host.Outcome.next (if_neg ?_)
  rw [die_eq hd, hr, decide_eq_false (Nat.not_le.mpr ht)]
  simp

/-- A die that has not heard is marked, and the live contexts that touch it are killed. -/
theorem dieFailed_silent (hn : n < 14) (hr : d.st = .ready) (ht : d.heard + 20 * s.iod.lto ≤ s.time) : exec (.dieFailed n) s = .next (
    (s.ctxs.filter fun c => (c.st == .resident || c.st == .saved) && touchesDie s n c).foldl (fun s c => s.killContext c.id 0x40 0)
      (withDie s n { d with st := .failed })) := by
  refine congrArg Host.Outcome.next ((if_pos ?_).trans (congrArg (fun u => List.foldl _ u _) (mapDie_eq hd _)))
  rw [die_eq hd, hr, decide_eq_true hn, decide_eq_true ht]
  rfl

theorem dieFailed_no_contexts (hn : n < 14) (hr : d.st = .ready) (ht : d.heard + 20 * s.iod.lto ≤ s.time) (hc : ∀ c ∈ s.ctxs, c.st = .free) :
    exec (.dieFailed n) s = .next (withDie s n { d with st := .failed }) := by
  have hnone : (s.ctxs.filter fun c => (c.st == .resident || c.st == .saved) && touchesDie s n c) = [] :=
    List.filter_eq_nil_iff.mpr fun c h => by rw [hc c h]; exact Bool.false_ne_true
  rw [dieFailed_silent hd hn hr ht, hnone]
  rfl

theorem dieFailed_one_context (hn : n < 14) (hr : d.st = .ready) (ht : d.heard + 20 * s.iod.lto ≤ s.time) {c : Ctx} (hc : s.ctxs = [c])
    (hres : c.st = .resident) (htouch : ∃ t ∈ s.teams, t.ref.ctx = c.id ∧ t.placedHere = true ∧ t.bay / 96 = n) :
    exec (.dieFailed n) s = .next ((withDie s n { d with st := .failed }).killContext c.id 0x40 0) := by
  have htouches : touchesDie s n c = true := by
    rw [touchesDie, Bool.or_eq_true]
    obtain ⟨t, hmem, hctx, hplaced, hbay⟩ := htouch
    exact .inl (List.any_eq_true.mpr ⟨t, hmem, by simp [hctx, hplaced, hbay]⟩)
  have hone : (s.ctxs.filter fun c => (c.st == .resident || c.st == .saved) && touchesDie s n c) = [c] := by
    rw [hc, List.filter_singleton, htouches, hres]
    rfl
  rw [dieFailed_silent hd hn hr ht, hone]
  rfl

theorem referenceClockLoss_counts (hn : n < 14) (hr : d.st = .ready) : exec (.referenceClockLoss n) s =
    .next { withDie s n { d with refLost := true, st := .degraded } with
      teams := s.teams.map fun t => { t with threads := t.threads.map fun x => if x.bay / 96 = n then { x with
        asked := x.asked.map fun a => { a with backup := true }
        sent := x.sent.map fun w => { w with backup := true } } else x } } := by
  refine congrArg Host.Outcome.next ((if_pos ?_).trans ?_)
  · rw [die_eq hd, hr, decide_eq_true hn]; rfl
  · simp only [beq_iff_eq]
    rw [State.mapDie, State.mapIod, updAt_eq_set hd]
    rfl

theorem referenceClockReturn_ready (hl : d.refLost = true) (hs : d.st = .degraded) :
    exec (.referenceClockReturn n) s = .next (withDie s n { d with refLost := false, st := .ready }) := by
  refine congrArg Host.Outcome.next ((if_pos ?_).trans ((mapDie_eq hd _).trans ?_))
  · rw [die_eq hd]; exact hl
  · rw [hs]; rfl

theorem powerCapStretch_stretches (w : Nat) (hn : n < 8) (hw : d.cap ≤ w) : exec (.powerCapStretch n w) s = .next (withDie s n { d with stretched := true }) := by
  refine congrArg Host.Outcome.next ((if_pos ?_).trans (mapDie_eq hd _))
  rw [die_eq hd, decide_eq_true hn, decide_eq_true hw]; rfl

theorem clockRestore_restores (w : Nat) (hn : n < 8) (hw : w < d.cap) : exec (.clockRestore n w) s = .next (withDie s n { d with stretched := false }) := by
  refine congrArg Host.Outcome.next ((if_pos ?_).trans (mapDie_eq hd _))
  rw [die_eq hd, decide_eq_true hn, decide_eq_true hw]; rfl

end

/-! ### Pod time -/

/-- A node that a route reaches over a link that is up. -/
theorem reachable_iff {s : State} {m : Nat} : reachable s m = true ↔ ∃ r ∈ s.iod.routes, r.1 = m ∧ s.iod.podl.getD r.2 0 = 2 := by
  simp only [reachable, List.any_eq_true, Bool.and_eq_true, beq_iff_eq, nth]

theorem mem_insertBy {α : Type} (lt : α → α → Bool) (x y : α) : ∀ l, y ∈ insertBy lt x l ↔ y = x ∨ y ∈ l
  | [] => by simp [insertBy]
  | z :: l => by
    rw [insertBy]
    split
    · exact List.mem_cons
    · rw [List.mem_cons, mem_insertBy lt x y l, List.mem_cons]
      exact or_left_comm

/-- Insertion puts the least number first. -/
theorem head_insertBy {x : Nat} {l : List Nat} {y : Nat} (h : (insertBy (fun a b => decide (a < b)) x l).head? = some y)
    (hl : ∀ z, l.head? = some z → ∀ w ∈ l, z ≤ w) : ∀ w ∈ insertBy (fun a b => decide (a < b)) x l, y ≤ w := by
  cases l with
  | nil =>
    obtain rfl : x = y := Option.some.inj h
    simp [insertBy]
  | cons z l =>
    have hz := hl z rfl
    rw [insertBy] at h ⊢
    split at h
    · next hlt =>
      obtain rfl : x = y := Option.some.inj h
      rw [if_pos hlt]
      rw [decide_eq_true_eq] at hlt
      exact fun w hw => (List.mem_cons.mp hw).elim (·.ge) fun hw => hlt.le.trans (hz w hw)
    · next hge =>
      obtain rfl : z = y := Option.some.inj h
      rw [if_neg hge]
      rw [decide_eq_true_eq, not_lt] at hge
      intro w hw
      rcases List.mem_cons.mp hw with rfl | hw
      · exact le_rfl
      · rcases (mem_insertBy _ _ _ _).mp hw with rfl | hw
        · exact hge
        · exact hz w (List.mem_cons_of_mem _ hw)

/-- A sorted list has the elements of the list, the least first. -/
theorem sortBy_nat (l : List Nat) : ∀ acc : List Nat, (∀ z, acc.head? = some z → ∀ w ∈ acc, z ≤ w) →
    (∀ w, w ∈ l.foldl (fun acc x => insertBy (fun a b => decide (a < b)) x acc) acc ↔ w ∈ acc ∨ w ∈ l) ∧
      ∀ z, (l.foldl (fun acc x => insertBy (fun a b => decide (a < b)) x acc) acc).head? = some z →
        ∀ w ∈ l.foldl (fun acc x => insertBy (fun a b => decide (a < b)) x acc) acc, z ≤ w := by
  induction l with
  | nil => exact fun acc h => ⟨fun w => by simp, h⟩
  | cons x l ih =>
    intro acc h
    obtain ⟨hmem, hhead⟩ := ih (insertBy (fun a b => decide (a < b)) x acc) fun z hz => head_insertBy hz h
    refine ⟨fun w => ?_, hhead⟩
    rw [List.foldl_cons, hmem, mem_insertBy, List.mem_cons, or_comm (a := w = x), or_assoc]

/-- The source of a module's time: the least node that it reaches, where that is below its own. -/
theorem timeSource_eq_some_iff {s : State} {node peer : Nat} (hn : s.iod.node = some node) :
    timeSource s = some peer ↔ reachable s peer = true ∧ peer < node ∧ ∀ m, reachable s m = true → peer ≤ m := by
  have hmem : ∀ w, w ∈ sortBy (fun a b => decide (a < b)) ((s.iod.routes.map (·.1)).filter fun m => reachable s m && decide (m < node)) ↔
      reachable s w = true ∧ w < node := fun w => by
    rw [sortBy, (sortBy_nat _ [] (fun _ h => by cases h)).1, List.mem_filter, Bool.and_eq_true, decide_eq_true_eq]
    simp only [List.not_mem_nil, false_or, and_iff_right_iff_imp]
    rintro ⟨hr, -⟩
    obtain ⟨r, hmem, rfl, -⟩ := reachable_iff.mp hr
    exact List.mem_map_of_mem hmem
  have hleast : ∀ z, (sortBy (fun a b => decide (a < b)) ((s.iod.routes.map (·.1)).filter fun m => reachable s m && decide (m < node))).head? = some z →
      ∀ w ∈ sortBy (fun a b => decide (a < b)) ((s.iod.routes.map (·.1)).filter fun m => reachable s m && decide (m < node)), z ≤ w :=
    (sortBy_nat _ [] (fun _ h => by cases h)).2
  rw [timeSource, hn]
  dsimp only
  generalize sortBy (fun a b => decide (a < b)) ((s.iod.routes.map (·.1)).filter fun m => reachable s m && decide (m < node)) = l at hmem hleast
  refine ⟨fun h => ?_, fun ⟨hr, hlt, hmin⟩ => ?_⟩
  · obtain ⟨hr, hlt⟩ := (hmem peer).mp (List.mem_of_mem_head? h)
    refine ⟨hr, hlt, fun m hm => ?_⟩
    by_cases hb : m < node
    · exact hleast peer h m ((hmem m).mpr ⟨hm, hb⟩)
    · omega
  · have hp := (hmem peer).mpr ⟨hr, hlt⟩
    cases hl : l.head? with
    | none => rw [List.head?_eq_none_iff] at hl; rw [hl] at hp; cases hp
    | some z =>
      have hz := (hmem z).mp (List.mem_of_mem_head? hl)
      exact congrArg some (le_antisymm (hleast z hl peer hp) (hmin z hz.1))

theorem timeSyncMeasure_other {s : State} {peer : Nat} (h : timeSource s ≠ some peer) (src : Nat) : exec (.timeSyncMeasure peer src) s = .next s :=
  congrArg Host.Outcome.next (if_pos (bne_iff_ne.mpr h))

theorem timeSyncMeasure_source {s : State} {peer : Nat} (h : timeSource s = some peer) (src : Nat) :
    ∃ u, exec (.timeSyncMeasure peer src) s = .next u ∧ u.iod.syncCount = s.iod.syncCount + 1 ∧ -100 ≤ u.iod.syncRate ∧ u.iod.syncRate ≤ 100 ∧
      (s.time < src → 0 ≤ u.iod.syncRate) ∧ u.time = s.time := by
  have hdraw : (0 : Int) ≤ Config.choice s.draws % 101 ∧ (Config.choice s.draws % 101 : Int) ≤ 100 := by omega
  refine ⟨_, congrArg Host.Outcome.next (if_neg (by rw [h]; simp)), rfl, ?_, ?_, fun hlt => ?_, rfl⟩
  all_goals
    dsimp only [State.mapIod]
    split_ifs <;> omega

/-- Settles O53: each event by the lemma about it. -/
theorem bringUpResults : Obligations.BringUpResults := by
  unfold Obligations.BringUpResults
  refine ⟨fun s h => ⟨powerOnReset_recovery h, powerOnReset_reduced h⟩, fun s => powerOnReset_writing, fun s => reducedServiceStart_starts,
    fun s => trainingEnd_ends, fun s => fullServiceStart_starts, fun s n d hd => ⟨?_, ?_, ?_, ?_, ?_, ?_, ?_⟩, fun s peer node src hn => ?_⟩
  · exact bayStartBatch_start hd
  · exact bayStartBatch_bays hd
  · exact fun hn hr => ⟨dieFailed_heard hd hr, fun ht => ⟨dieFailed_no_contexts hd hn hr ht, fun c => dieFailed_one_context hd hn hr ht⟩⟩
  · exact referenceClockLoss_counts hd
  · exact referenceClockReturn_ready hd
  · exact powerCapStretch_stretches hd
  · exact clockRestore_restores hd
  · have hsource := timeSource_eq_some_iff (peer := peer) hn
    simp only [reachable_iff] at hsource
    refine ⟨fun h => timeSyncMeasure_source (hsource.mpr h) src, fun h => timeSyncMeasure_other (fun hs => ?_) src⟩
    obtain ⟨hr, hlt, hmin⟩ := hsource.mp hs
    rcases h with h | h | ⟨m, hm, hb⟩
    · exact h hr
    · omega
    · exact absurd (hmin m hm) (by omega)

end Sys2Proof.Proofs
end

section
/-! PROOFS. Events of threads and teams: long results, holds, walks, re-slices, convergence faults, imprecise causes and
latch entries (R25, R29, R177, R221, R222, R236 to R239, R422, R428, R440, R441). -/

namespace Sys2Proof.Proofs

open Sys2Proof.Machine Sys2Proof.Spec

/-! ### Long results -/

/-- Without flags among the results, a register's write ORs none in. -/
theorem settleFlags_of_no_flags {ps : List Pending} (h : ∀ p ∈ ps, ∀ m c, p ≠ .flags m c) (k : Nat) : settleFlags ps k = (0, ps) := by
  simp only [settleFlags]
  split
  · next m n hp => exact absurd rfl (h _ (List.mem_of_getElem? hp) m n)
  · rfl

/-- Flags that follow the registers `gs` wait for their own registers only: one fewer when `gs` are not all of them. -/
theorem settleFlags_flags {gs : List Pending} (hg : ∀ p ∈ gs, ∃ n v, p = .reg n v) (l l' : List Pending) (m : Word) {n : Nat}
    (hn : gs.length < n) :
    settleFlags (l ++ (gs ++ .flags m n :: l')) l.length =
      if n = 1 then (m, l ++ (gs ++ l')) else (0, l ++ (gs ++ .flags m (n - 1) :: l')) := by
  have hrun : ∀ q : Pending → Bool, (∀ a b, q (.reg a b) = true) → q (.flags m n) = false → (gs ++ .flags m n :: l').takeWhile q = gs := by
    intro q hreg hflags
    rw [List.takeWhile_append_of_pos, List.takeWhile_cons_of_neg (by simp [hflags]), List.append_nil]
    intro p hp
    obtain ⟨a, b, rfl⟩ := hg p hp
    exact hreg a b
  have hat : (l ++ (gs ++ .flags m n :: l'))[l.length + gs.length]? = some (.flags m n) := by simp
  simp only [settleFlags, List.drop_left]
  rw [hrun _ (fun _ _ => rfl) rfl]
  simp only [hat, if_neg (Nat.not_le.2 hn), beq_iff_eq]
  split
  · simp [List.eraseIdx_append_of_length_le]
  · simp

section
variable {s : State} {r : ThreadRef} {t : Team} {x : Thread}

/-- The state with the thread in the place of the team's one of its number. -/
def withThread (s : State) (t : Team) (x y : Thread) : State := withTeam s (withThreads t fun z => if z.tid = x.tid then y else z)

theorem setTeam_setThread {y : Thread} (hy : y.tid = x.tid) : s.setTeam (t.setThread y) = withThread s t x y := by
  rw [setTeam_eq_withTeam]
  simp only [Team.setThread, withThread, withThreads, beq_iff_eq, hy]

theorem exec_longResultWrite (h : Names s r t x) {k : Nat} (hk : k < x.pending.length) {y : Thread} (hw : x.writeOne k = y) (hy : y.tid = x.tid) :
    exec (.longResultWrite r k) s = .next (withThread s t x y) := by
  refine congrArg Host.Outcome.next ?_
  simp only [thread?_of_names h, if_pos hk, hw, setTeam_setThread hy]

theorem exec_longResultWrite_reg (h : Names s r t x) {k n : Nat} {v m : Word} {ps : List Pending} (hk : x.pending[k]? = some (.reg n v))
    (hs : settleFlags (x.pending.eraseIdx k) k = (m, ps)) :
    exec (.longResultWrite r k) s = .next (withThread s t x { x with regs := x.regs.set n v, fps := x.fps ||| m, pending := ps }) := by
  refine exec_longResultWrite h (List.getElem?_eq_some_iff.1 hk).1 ?_ ?_
  · simp only [Thread.writeOne, hk, hs, Thread.setReg]
  · rfl

theorem exec_longResultWrite_last (h : Names s r t x) {l l' : List Pending} {n : Nat} {v m : Word} (hp : x.pending = l ++ .reg n v :: .flags m 1 :: l') :
    exec (.longResultWrite r l.length) s = .next (withThread s t x { x with regs := x.regs.set n v, fps := x.fps ||| m, pending := l ++ l' }) := by
  refine exec_longResultWrite_reg h (by simp [hp]) ?_
  rw [hp, List.eraseIdx_append_of_length_le (Nat.le_refl _), Nat.sub_self]
  exact settleFlags_flags (gs := []) (by simp) l l' m (by simp)

theorem exec_longResultWrite_first (h : Names s r t x) {l l' : List Pending} {n n' : Nat} {v v' m : Word}
    (hp : x.pending = l ++ .reg n v :: .reg n' v' :: .flags m 2 :: l') :
    exec (.longResultWrite r l.length) s =
      .next (withThread s t x { x with regs := x.regs.set n v, pending := l ++ .reg n' v' :: .flags m 1 :: l' }) := by
  have hs : settleFlags (x.pending.eraseIdx l.length) l.length = (0, l ++ .reg n' v' :: .flags m 1 :: l') := by
    rw [hp, List.eraseIdx_append_of_length_le (Nat.le_refl _), Nat.sub_self]
    exact settleFlags_flags (gs := [.reg n' v']) (by simp) l l' m (by simp)
  simpa using exec_longResultWrite_reg h (by simp [hp]) hs

theorem exec_longResultWrite_second (h : Names s r t x) {l l' : List Pending} {n n' : Nat} {v v' m : Word}
    (hp : x.pending = l ++ .reg n v :: .reg n' v' :: .flags m 2 :: l') :
    exec (.longResultWrite r (l.length + 1)) s =
      .next (withThread s t x { x with regs := x.regs.set n' v', pending := l ++ .reg n v :: .flags m 1 :: l' }) := by
  have hp' : x.pending = (l ++ [.reg n v]) ++ .reg n' v' :: .flags m 2 :: l' := by simp [hp]
  have hl : (l ++ [Pending.reg n v]).length = l.length + 1 := by simp
  have hs : settleFlags (x.pending.eraseIdx (l.length + 1)) (l.length + 1) = (0, l ++ .reg n v :: .flags m 1 :: l') := by
    rw [hp', ← hl, List.eraseIdx_append_of_length_le (Nat.le_refl _), Nat.sub_self]
    refine (settleFlags_flags (gs := []) (n := 2) (by simp) (l ++ [.reg n v]) l' m (by simp)).trans ?_
    simp
  simpa using exec_longResultWrite_reg h (by simp [hp]) hs

theorem exec_longResultWrite_alone (h : Names s r t x) {k n : Nat} {v : Word} (hk : x.pending[k]? = some (.reg n v))
    (hf : ∀ p ∈ x.pending, ∀ m c, p ≠ .flags m c) :
    exec (.longResultWrite r k) s = .next (withThread s t x { x with regs := x.regs.set n v, pending := x.pending.eraseIdx k }) := by
  simpa using exec_longResultWrite_reg h hk (settleFlags_of_no_flags (fun p hp => hf p (List.mem_of_mem_eraseIdx hp)) k)

theorem exec_longResultWrite_pred (h : Names s r t x) {k n : Nat} {b : Bool} (hk : x.pending[k]? = some (.pred n b)) :
    exec (.longResultWrite r k) s =
      .next (withThread s t x { x with preds := if n = 0 then x.preds else x.preds.set n b, pending := x.pending.eraseIdx k }) := by
  refine exec_longResultWrite h (List.getElem?_eq_some_iff.1 hk).1 ?_ ?_
  · simp only [Thread.writeOne, hk, Thread.setPred, beq_iff_eq]
    split <;> rfl
  · rfl

/-! ### Holds -/

theorem exec_rcvHoldExpiry (h : Names s r t x) (hst : x.status = .blocked .rcv) (hc : x.conv = none)
    (hd : x.since + roundOf s r.team.ctx ≤ s.cycle) :
    exec (.rcvHoldExpiry r) s = .next (withTeam s (withThreads t fun y =>
      if y.tid / t.grant = x.tid / t.grant ∧ y.bay = x.bay ∧ y.atRcv (t.st == .running) x.pc.toNat (x.standAddr rcvWord) = true then
        { y with conv := some [], gang := x.gang } else y)) := by
  refine congrArg Host.Outcome.next ?_
  have hdue : x.since + s.interval r.team.ctx ≤ s.cycle := hd
  simp only [thread?_of_names h, hst, hc, hdue, beq_self_eq_true, Option.isNone_none, decide_true, Bool.and_self, if_true,
    setTeam_eq_withTeam, rcvMerge, withThreads, Bool.and_eq_true, beq_iff_eq, and_assoc]

theorem exec_yieldHoldEnd (h : Names s r t x) (hy : x.yielded = true) (hd : x.since + 16 ≤ s.cycle ∨ x.passed = true) :
    exec (.yieldHoldEnd r) s =
      .next (withTeam s (withThreads t fun y => if y.gang = x.gang then { y with yielded := false, passed := false } else y)) := by
  refine congrArg Host.Outcome.next ?_
  have hover : (x.yielded && x.yieldOver s.cycle) = true := by simpa [hy, Thread.yieldOver] using hd
  simp only [thread?_of_names h, if_pos hover, setTeam_eq_withTeam, Team.endYield, withThreads, beq_iff_eq]

/-! ### Replays -/

/-- A thread that waits for its access to be made again: parked or set aside. -/
def awaitsReplay (y : Thread) : Bool :=
  match y.status with
  | .parked _ _ | .aside _ => true
  | _ => false

/-- The team, the parked and set-aside threads of the gang about to issue their group again. -/
def reissued (t : Team) (x : Thread) : Team :=
  withThreads t fun y => if awaitsReplay y = true ∧ y.gang = x.gang then { y with status := .within } else y

theorem reissue_eq (s : State) (t : Team) (x : Thread) : reissue s t x = withTeam s (reissued t x) := by
  rw [reissue, setTeam_eq_withTeam]
  refine congrArg (fun f => withTeam s (withThreads t f)) (funext fun y => ?_)
  cases hst : y.status
  case parked | aside => simp only [awaitsReplay, hst, beq_iff_eq, true_and]
  all_goals simp only [awaitsReplay, hst, Bool.false_eq_true, false_and, if_false]

theorem exec_faultReplayWalk (h : Names s r t x) {va k l n a : Nat} {s' : State} (hst : x.status = .parked va k) (hr : t.st = .running)
    (hl : leafFor s r.team.ctx x.bay va = (.leaf l n a, s')) : exec (.faultReplayWalk r) s = .next (withTeam s' (reissued t x)) := by
  refine congrArg Host.Outcome.next ?_
  have hmay : mayReplay t x = true := by rw [mayReplay, hr]; rfl
  rw [replayWalk, thread?_of_names h]
  simp only [hst, hmay, hl, reissue_eq]

/-- The walk of a set-aside sub-cohort whose leaf is found. -/
theorem lockedRewalk_leaf (h : Names s r t x) {va l n a : Nat} {s' : State} (hst : x.status = .aside va) (hr : t.st = .running)
    (hl : leafFor s r.team.ctx x.bay va = (.leaf l n a, s')) :
    lockedRewalk r s =
      if leafLock l then s.setTeam { t with threads := t.threads.map fun y => if y.gang == x.gang then y.keepAside s.time else y }
      else reissue s' t x := by
  have hmay : mayReplay t x = true := by rw [mayReplay, hr]; rfl
  rw [lockedRewalk, thread?_of_names h]
  simp only [hst, hmay, hl]

theorem exec_lockedPageRewalk_free (h : Names s r t x) {va l n a : Nat} {s' : State} (hst : x.status = .aside va) (hr : t.st = .running)
    (hl : leafFor s r.team.ctx x.bay va = (.leaf l n a, s')) (hk : leafLock l = false) :
    exec (.lockedPageRewalk r) s = .next (withTeam s' (reissued t x)) := by
  refine congrArg Host.Outcome.next ?_
  simp only [lockedRewalk_leaf h hst hr hl, hk, Bool.false_eq_true, if_false, reissue_eq]

/-- A thread set aside, as the walk just made leaves it. -/
def keptAside (now g : Nat) (y : Thread) : Thread :=
  if y.gang = g ∧ (match y.status with | .aside _ => true | _ => false) = true then { y with since := max 1 now } else y

theorem keepAside_eq (now g : Nat) (y : Thread) : (if y.gang == g then y.keepAside now else y) = keptAside now g y := by
  simp only [beq_iff_eq, keptAside]
  cases hst : y.status
  case aside => simp only [Thread.keepAside, hst, and_true]
  all_goals simp only [Thread.keepAside, hst, Bool.false_eq_true, and_false, if_false, ite_self]

theorem exec_lockedPageRewalk_locked (h : Names s r t x) {va l n a : Nat} {s' : State} (hst : x.status = .aside va) (hr : t.st = .running)
    (hl : leafFor s r.team.ctx x.bay va = (.leaf l n a, s')) (hk : leafLock l = true) :
    exec (.lockedPageRewalk r) s = .next (withTeam s (withThreads t (keptAside s.time x.gang))) := by
  refine congrArg Host.Outcome.next ?_
  simp only [lockedRewalk_leaf h hst hr hl, hk, if_true, setTeam_eq_withTeam, keepAside_eq]
  rfl

end

/-! ### Teams -/

section
variable {s : State} {r : TeamRef} {t : Team} (h : s.runningTeam r = some t)
include h

theorem running_of_runningTeam : t.st = .running ∧ s.placedTeam r = some t := by
  rw [State.runningTeam] at h
  split at h
  next u hu =>
    split at h
    · next hc =>
      cases h
      obtain ⟨hrun, halive⟩ := Bool.and_eq_true_iff.1 hc
      refine ⟨by simpa using hrun, ?_⟩
      have hhere : t.placedHere = true := by rw [Team.placedHere, hrun, Bool.true_or]
      rw [State.placedTeam, hu]
      simp only [hhere, halive, Bool.and_self, if_true]
    · cases h
  next => cases h

/-- The team under the grant that its request yields, no longer held. -/
def resliced (s : State) (t : Team) : Team :=
  { ((t.regroup (s.wouldGrant t t.widthReq)).seat s).unhold with reqPending := false }

theorem exec_reslice {c : Nat} (hc : t.hold = some c)
    (hx : ∀ x ∈ t.threads, x.status = .exited ∨ (x.status = .boundary ∧ x.held = true ∧ x.migrated = false))
    (hd : s.cycle ≤ c + roundOf s r.ctx) : exec (.reslice r) s = .next (withTeam s (resliced s t)) := by
  refine congrArg Host.Outcome.next ?_
  have hpoint : t.atReslicePoint = true := by
    rw [Team.atReslicePoint, List.all_eq_true]
    intro x hm
    rcases hx x hm with he | ⟨hb, hh, hg⟩
    · simp [he]
    · simp [hb, hh, hg]
  have hdue : s.cycle ≤ c + s.interval r.ctx := hd
  simp only [h, hc, hpoint, hdue, decide_true, Bool.and_self, if_true, setTeam_eq_withTeam]
  rfl

omit h in
theorem threads_resliced (s : State) (t : Team) :
    ((resliced s t).threads.map fun x => { x with gang := 0 }) = t.threads.map fun x => { x with gang := 0, held := false } := by
  simp only [resliced, Team.unhold, Team.seat, Team.regroup, List.map_map]
  rfl

theorem exec_setwHoldLapse {c : Nat} (hc : t.hold = some c) (hd : c + roundOf s r.ctx ≤ s.cycle) :
    exec (.setwHoldLapse r) s = .next (withTeam s { t with hold := none, threads := t.threads.map fun x => { x with held := false } }) := by
  refine congrArg Host.Outcome.next ?_
  have hdue : c + s.interval r.ctx ≤ s.cycle := hd
  simp only [h, hc, if_pos hdue, setTeam_eq_withTeam]
  rfl

theorem exec_convergenceFault {co : Option Nat} (hv : t.diverged co = true) (hd : 4 * roundOf s r.ctx ≤ t.convAcc.getD (t.convSlot co) 0) :
    exec (.convergenceFault r co) s = .next ((t.convThreads co).foldl (fun s x => raiseAt s ⟨r, x.tid⟩ convergentWord cConverge 0) s) := by
  refine congrArg Host.Outcome.next ?_
  have hdue : (t.diverged co && 4 * s.interval r.ctx ≤ nth t.convAcc (t.convSlot co) 0) = true := by
    rw [hv, Bool.true_and]
    exact decide_eq_true hd
  simp only [h, if_pos hdue]

theorem exec_impreciseTrapDelivery (hi : t.imprecise ≠ []) {d : State}
    (hd : (match t.causeThread with
      | none => s.killContext r.ctx 0x43 0
      | some x => if x.ready && !(t.st == .shuttered && threadStopped x) then deliverCauses s t x else s) = d) :
    exec (.impreciseTrapDelivery r) s = .next d := by
  refine congrArg Host.Outcome.next ?_
  have hne : ¬ t.imprecise.isEmpty = true := by simpa using hi
  simp only [(running_of_runningTeam h).2, if_neg hne]
  exact hd

theorem exec_impreciseTrapDelivery_none (hi : t.imprecise ≠ []) (hx : ∀ x ∈ t.threads, x.status = .exited) :
    exec (.impreciseTrapDelivery r) s = .next (s.killContext r.ctx 0x43 0) := by
  refine exec_impreciseTrapDelivery h hi ?_
  have hnone : t.causeThread = none := by
    rw [Team.causeThread, List.find?_eq_none]
    exact fun x hm => by simp [hx x hm]
  rw [hnone]

theorem exec_impreciseTrapDelivery_ready (hi : t.imprecise ≠ []) {x : Thread} (hx : (t.threads.find? fun x => x.status != .exited) = some x)
    (hb : x.status = .boundary) : exec (.impreciseTrapDelivery r) s = .next (deliverCauses s t x) := by
  refine exec_impreciseTrapDelivery h hi ?_
  have hready : (x.ready && !(t.st == .shuttered && threadStopped x)) = true := by
    have hst := (running_of_runningTeam h).1
    simp [Thread.ready, hb, hst]
  rw [show t.causeThread = some x from hx]
  exact if_pos hready

end

/-! ### Latch entries -/

section
variable (s : State) (r : ThreadRef)

theorem mapLatch_eq (f : Latch → Latch) : s.mapLatch r f = withLatch s r f := by
  simp only [State.mapLatch, State.mapMs, withLatch, beq_iff_eq]

theorem exec_waituExpiry :
    exec (.waituExpiry r) s = .next (withLatch s r fun l =>
      if (∃ d, l.deadline = some d ∧ d ≤ s.time) ∧ l.outcome = none then { l with lapsed := true } else l) := by
  refine congrArg Host.Outcome.next ((mapLatch_eq s r _).trans (congrArg _ (funext fun l => ?_)))
  cases hd : l.deadline with
  | none => simp
  | some d => simp [and_comm]

theorem expire_of_deadline {l : Latch} {d now : Nat} (ho : l.outcome = none) (hd : l.deadline = some d) :
    l.expire now = { l with outcome := if l.lapsed = true ∨ d + 1000 < now then some false else none } := by
  simp only [Latch.expire, ho, hd, Option.isSome_none, Bool.false_eq_true, if_false, Bool.or_eq_true, decide_eq_true_eq]
  split
  · rfl
  · rw [← ho, ← hd]

/-- An entry whose line is read again at a time. -/
def reread (now : Nat) (ms : MemSys) (l : Latch) : Latch :=
  if l.outcome = none ∧ l.ownView = false then { l with reread := now, outcome := if latchHolds ms l = true then some true else none } else l

theorem read_eq_reread (ms : MemSys) (now : Nat) (l : Latch) : l.read ms now = reread now ms l := by
  simp only [Latch.read, reread, Bool.and_eq_true, Option.isNone_iff_eq_none, Bool.not_eq_true']

theorem exec_latchBayReread_none (h : ∀ l ∈ s.ms.latches, l.who = .thread r → l.place = .bay → l.outcome ≠ none) :
    exec (.latchBayReread r) s = .next s := by
  refine congrArg Host.Outcome.next ?_
  have hnone : (s.ms.latches.find? fun l => l.who == .thread r && l.place == .bay && l.outcome.isNone) = none := by
    rw [List.find?_eq_none]
    intro l hl hc
    simp only [Bool.and_eq_true, beq_iff_eq, Option.isNone_iff_eq_none] at hc
    exact h l hl hc.1.1 hc.1.2 hc.2
  rw [bayReread, hnone]

theorem exec_latchBayReread {b : Nat} {first : Latch}
    (hf : (s.ms.latches.find? fun l => l.who == .thread r && l.place == .bay && l.outcome.isNone) = some first)
    (hb : s.waiterBay (.thread r) = some b) :
    exec (.latchBayReread r) s =
      let ms := dropHostLine (first.pa / 64) (acquireCaches s.ms b 2)
      .next { s with ms := { ms with latches := ms.latches.map fun l => if l.who = .thread r ∧ l.place = .bay then reread s.time ms l else l } } := by
  refine congrArg Host.Outcome.next ?_
  rw [bayReread, hf, hb]
  simp only [State.mapMs, Bool.and_eq_true, beq_iff_eq, read_eq_reread]

theorem exec_hostLineReread_near {line : Nat} (h : isHost (64 * line) = false) : exec (.hostLineReread line) s = .next s := by
  refine congrArg Host.Outcome.next ?_
  rw [hostReread, h]
  rfl

theorem exec_hostLineReread {line : Nat} (h : isHost (64 * line) = true) :
    exec (.hostLineReread line) s =
      let ms := { s.ms with l2 := s.ms.l2.filter fun p => p.dirty || p.sec / 4 != line }
      .next { s with ms := { ms with
        latches := ms.latches.map fun l => if l.pa / 64 = line ∧ (l.place = .table ∨ l.place = .overflow) then reread s.time ms l else l } } := by
  refine congrArg Host.Outcome.next ?_
  rw [hostReread, if_pos h]
  simp only [dropHostLine, if_pos h, State.mapMs, Bool.and_eq_true, Bool.or_eq_true, beq_iff_eq, read_eq_reread]

theorem exec_pageWalk {bay ctx va : Nat} {res : WalkRes} {s' : State} (hva : va < 2 ^ 56) (ha : s.alive ctx = true)
    (hl : leafFor (tlbDrop s ctx bay va) ctx bay va = (res, s')) : exec (.pageWalk bay ctx va) s = .next s' := by
  refine congrArg Host.Outcome.next ?_
  have hok : (addrOk56 va && s.alive ctx) = true := by
    rw [ha, Bool.and_true]
    exact decide_eq_true hva
  rw [if_pos hok, hl]

end

/-- Settles O47: each event's body, under the conditions that the statement gives it. -/
theorem threadEventResults : Obligations.ThreadEventResults := by
  unfold Obligations.ThreadEventResults
  refine ⟨fun s r t x h => ⟨fun k n v hk hf => exec_longResultWrite_alone h hk hf, fun l n v m l' hp => exec_longResultWrite_last h hp,
      fun l n v n' v' m l' hp => ⟨exec_longResultWrite_first h hp, exec_longResultWrite_second h hp⟩,
      fun k n b hk => exec_longResultWrite_pred h hk, exec_rcvHoldExpiry h, exec_yieldHoldEnd h,
      fun va k l n a s' hst hr hl => exec_faultReplayWalk h hst hr hl, fun va l n a s' hst hr hl =>
        ⟨exec_lockedPageRewalk_free h hst hr hl, exec_lockedPageRewalk_locked h hst hr hl⟩⟩,
    fun s r t h => ⟨fun c hc hx hd => ⟨resliced s t, exec_reslice h hc hx hd, rfl, rfl, rfl, threads_resliced s t⟩,
      fun c => exec_setwHoldLapse h, fun co => exec_convergenceFault h, exec_impreciseTrapDelivery_none h,
      fun hi x => exec_impreciseTrapDelivery_ready h hi⟩,
    fun s r => ⟨exec_waituExpiry s r, fun l d now => expire_of_deadline, ⟨exec_latchBayReread_none s r, fun b first hf hb => ?_,
      fun line => ⟨exec_hostLineReread_near s, exec_hostLineReread s⟩⟩, fun bay ctx va res s' => exec_pageWalk s⟩⟩
  refine exec_latchBayReread s r hf ?_
  simpa only [State.waiterBay, beq_iff_eq] using hb

end Sys2Proof.Proofs
end

section
/-! PROOFS. Write-backs, the host, the pod, link errors and uncorrectable errors (R125, R155 to R159, R433, R446, R447,
R461 to R464). -/

namespace Sys2Proof.Proofs

open Sys2Proof.Machine Sys2Proof.Spec

/-! ### The host's accesses -/

section
variable {pa n : Nat} (hn : 0 < n) (hs : pa / 16 = (pa + n - 1) / 16)
include hn hs

/-- Bytes of one sector are one write. -/
theorem homeWriteAll_sector (hn' : n ≤ 16) (ms : MemSys) {bs : List Byte} (hb : bs.length = n) : homeWriteAll ms pa bs = homeWrite ms pa bs := by
  have hne : ¬ bs.isEmpty = true := by
    rw [List.isEmpty_iff_length_eq_zero]
    omega
  have hfit : bs.length ≤ 16 - pa % 16 := by omega
  have hdone : ∀ ms' k, homeWriteGo ms' (pa + (16 - pa % 16)) [] k = ms' := fun ms' k => by cases k <;> rfl
  rw [homeWriteAll, homeWriteGo, if_neg hne]
  dsimp only
  rw [List.take_of_length_le hfit, List.drop_eq_nil_of_le hfit, hdone]

theorem any_sectorsOf (f : Nat → Bool) : (sectorsOf pa n).any f = f (pa / 16) := by
  have hz : ¬ (n == 0) = true := by
    rw [beq_iff_eq]
    omega
  rw [sectorsOf, if_neg hz, ← hs, Nat.sub_self]
  simp [rangeFrom]

variable (hp : pa < 2 ^ 40)
include hp

theorem hostReach_near : hostReach pa n = true := by
  have hline : pa / 64 = (pa + n - 1) / 64 := by omega
  have hwin : windowOk 0 pa = true := decide_eq_true hp
  have hz : (n != 0) = true := by
    rw [bne_iff_ne]
    omega
  simp only [hostReach, hz, ← hline, hwin, beq_self_eq_true, Bool.or_true, Bool.true_or, Bool.and_self]

omit hn hs in
theorem windowOk_host_near : windowOk 2 pa = false := by
  have h : ¬ 8 * 2 ^ 48 ≤ pa := by omega
  simp only [windowOk, h, decide_false, Bool.false_and]

/-- A host access within a sector of near memory is one write there, or one read of a sector that is not lost. -/
theorem exec_hostAccess_near (s : State) (store : Bool) (v : Nat) :
    exec (.hostAccess store pa n v) s = .next (
      if store then s.mapMs fun ms => homeWriteAll ms pa (toBytes n v)
      else if s.ms.lost (pa / 16) then s else { s with iod := { s.iod with hostRead := homeNat s.ms pa n } }) := by
  refine congrArg Host.Outcome.next ?_
  have hz : ¬ (n == 0) = true := by
    rw [beq_iff_eq]
    omega
  simp only [if_neg hz, hostReach_near hn hs hp, windowOk_host_near hp, any_sectorsOf hn hs, Bool.not_true, Bool.false_eq_true, if_false]

end

/-! ### Pod messages -/

/-- The state once a peer's message has been performed. -/
def peerPerformed (s : State) (peer seq : Nat) (ms : MemSys) : State := { s with ms := { ms with podIn := ms.podIn ++ [(peer, seq)] } }

section
variable {s : State} {peer seq pa n v : Nat}

theorem podMessageReceive_unreached (h : reachable s peer = false) (ack : Bool) : exec (.podMessageReceive peer seq ack pa n v) s = .next s :=
  congrArg Host.Outcome.next (if_pos (by rw [h]; rfl))

section
variable (h : reachable s peer = true)
include h

theorem podMessageReceive_write (hnode : s.iod.node ≠ none) (hnew : (peer, seq) ∉ s.ms.podIn) :
    exec (.podMessageReceive peer seq false pa n v) s =
      .next ((performPeer s peer pa n v).mapMs fun ms => { ms with podIn := ms.podIn ++ [(peer, seq)] }) := by
  refine congrArg Host.Outcome.next ?_
  have hgo : ¬ (s.iod.node.isNone || s.ms.podIn.contains (peer, seq)) = true := by simpa [hnode] using hnew
  simp only [h, Bool.not_true, Bool.false_eq_true, if_false, if_neg hgo]

theorem podMessageReceive_again (hold : (peer, seq) ∈ s.ms.podIn) : exec (.podMessageReceive peer seq false pa n v) s = .next s := by
  refine congrArg Host.Outcome.next ?_
  have hstop : (s.iod.node.isNone || s.ms.podIn.contains (peer, seq)) = true := by simp [hold]
  simp only [h, Bool.not_true, Bool.false_eq_true, if_false, if_pos hstop]

/-- The state without the message that an acknowledgement names. -/
def acknowledged (s : State) (peer seq : Nat) : State :=
  { s with ms := { s.ms with podOut := s.ms.podOut.filter fun m => !(m.peer == peer && m.seq == seq) } }

theorem podMessageReceive_ack {m : PodMsg} (hm : (s.ms.podOut.find? fun m => m.peer == peer && m.seq == seq) = some m) :
    exec (.podMessageReceive peer seq true pa n v) s = .next (
      match m.who with
      | some r => if v == 0 then acknowledged s peer seq else (acknowledged s peer seq).killContext r.team.ctx 0x40 0
      | none => acknowledged s peer seq) := by
  refine congrArg Host.Outcome.next ?_
  simp only [h, Bool.not_true, Bool.false_eq_true, if_false, if_true, hm]
  rfl

theorem podMessageReceive_ack_zero {m : PodMsg} (hm : (s.ms.podOut.find? fun m => m.peer == peer && m.seq == seq) = some m) :
    exec (.podMessageReceive peer seq true pa n 0) s = .next (acknowledged s peer seq) := by
  rw [podMessageReceive_ack h hm]
  cases m.who <;> rfl

theorem podMessageReceive_refused {m : PodMsg} (hm : (s.ms.podOut.find? fun m => m.peer == peer && m.seq == seq) = some m) {r : ThreadRef}
    (hw : m.who = some r) (hv : v ≠ 0) :
    exec (.podMessageReceive peer seq true pa n v) s = .next ((acknowledged s peer seq).killContext r.team.ctx 0x40 0) := by
  rw [podMessageReceive_ack h hm, hw]
  exact congrArg Host.Outcome.next (if_neg (by simpa using hv))

end

section
variable (hn : 0 < n) (hn' : n ≤ 16) (hs : pa / 16 = (pa + n - 1) / 16)
include hn hn' hs

theorem performPeer_admitted {ha : Nat} (he : exported s pa = some ha) :
    performPeer s peer pa n v = s.mapMs fun ms => homeWrite ms ha (toBytes n v) := by
  have hz : ¬ (n == 0) = true := by
    rw [beq_iff_eq]
    omega
  have hone : (n ≤ 16 && pa / 16 == (pa + n - 1) / 16) = true := by
    rw [← hs]
    simpa using hn'
  refine (if_neg hz).trans ((if_pos hone).trans ?_)
  rw [he]

theorem performPeer_outside (he : exported s pa = none) : performPeer s peer pa n v = s := by
  have hz : ¬ (n == 0) = true := by
    rw [beq_iff_eq]
    omega
  have hone : (n ≤ 16 && pa / 16 == (pa + n - 1) / 16) = true := by
    rw [← hs]
    simpa using hn'
  refine (if_neg hz).trans ((if_pos hone).trans ?_)
  rw [he]

variable (h : reachable s peer = true) (hnode : s.iod.node ≠ none) (hnew : (peer, seq) ∉ s.ms.podIn)
include h hnode hnew

theorem podMessageReceive_admitted {w : ExportWin} (hw : (s.iod.exports.find? fun w => w.base ≤ pa && pa < w.base + w.size) = some w) :
    exec (.podMessageReceive peer seq false pa n v) s =
      .next (peerPerformed s peer seq (homeWrite s.ms ((if w.home ≠ bits pa 32 30 then (w.home + 1) * aliasBase else 0) + pa) (toBytes n v))) := by
  have hadm : exported s pa = some ((if w.home ≠ bits pa 32 30 then (w.home + 1) * aliasBase else 0) + pa) := by
    simp only [exported, hw, Option.map_some, bne_iff_ne]
  rw [podMessageReceive_write h hnode hnew, performPeer_admitted hn hn' hs hadm]
  rfl

theorem podMessageReceive_outside (hw : (s.iod.exports.find? fun w => w.base ≤ pa && pa < w.base + w.size) = none) :
    exec (.podMessageReceive peer seq false pa n v) s = .next (peerPerformed s peer seq s.ms) := by
  have hno : exported s pa = none := by simp only [exported, hw, Option.map_none]
  rw [podMessageReceive_write h hnode hnew, performPeer_outside hn hn' hs hno]
  rfl

end
end

/-! ### Waits for peers, and link timeouts -/

section
variable {s : State} {r : ThreadRef} {t : Team} {x : Thread}

/-- When a count of the link timeout that began at an instant has ended. -/
def linkDue (s : State) (since : Nat) (backup : Bool) : Nat := since + if backup = true then 19 * s.iod.lto else 10 * s.iod.lto

theorem askedFrom_eq (s : State) (a : Asked) : askedFrom s.iod.lto a = linkDue s a.since a.backup := by
  rw [askedFrom, linkDue]
  split <;> rfl

theorem podOverdue_eq {w : MemWait} (hw : x.sent = some w) (hst : x.status = .blocked .pod ∨ x.status = .blocked .flush)
    (hm : ∃ m ∈ s.ms.podOut, (m.peer, m.seq) ∈ w.msgs) : podOverdue s x askedFrom = decide (linkDue s w.since w.backup ≤ s.time) := by
  have hany : (s.ms.podOut.any fun m => w.msgs.contains (m.peer, m.seq)) = true := by simpa using hm
  rcases hst with hst | hst
  all_goals
    simp only [podOverdue, hw, hst, hany, Bool.and_true, askedFrom_eq]

/-- The state in which a pod-link fault is raised: the messages are the team's, and the error is counted. -/
def disowned (s : State) (r : ThreadRef) : State :=
  { s with
    ms := { s.ms with podOut := s.ms.podOut.map fun m => if m.who == some r then { m with who := some (backRef r.team.ctx) } else m }
    iod := { s.iod with ltocnt := (s.iod.ltocnt + 1) % 2 ^ 64 } }

theorem podLinkFault_eq {ws : List Word} {f : State} (hg : atGroup s r = some (t, x, ws, f)) :
    podLinkFault s r = raiseAt (disowned s r) r memoryWord cPodLink (((ws.findSome? (linkUse f)).map (·.va)).getD 0) := by
  rw [podLinkFault, hg]
  rfl

theorem exec_podLinkFault (h : Names s r t x) : exec (.podLinkFault r) s = .next (if podOverdue s x askedFrom then podLinkFault s r else s) :=
  congrArg Host.Outcome.next (by rw [thread?_of_names h])

section
variable (h : s.placedTeam r.team = some t) {addr : Nat}
include h

theorem linkTimeout_card (hr : 2 ^ 32 ≤ r.tid) :
    exec (.linkTimeout r addr) s = .next (
      if t.ring.cards.any fun c => c.seq == r.tid - 2 ^ 32 && c.phase != .waiting && c.since + 10 * s.iod.lto ≤ s.time then
        (countLink s).killContext r.team.ctx 0x40 0
      else s) :=
  congrArg Host.Outcome.next (by simp only [h, if_pos hr])

theorem linkTimeout_thread {a : Asked} (hr : r.tid < 2 ^ 32) (hx : (t.threads.find? fun x => x.tid == r.tid) = some x)
    (hst : x.status = .blocked .link) (ha : x.asked = some a) :
    exec (.linkTimeout r addr) s = .next (if linkDue s a.since a.backup ≤ s.time then timeoutThread s r x a else s) := by
  have hlow : ¬ r.tid ≥ 2 ^ 32 := Nat.not_le.2 hr
  exact congrArg Host.Outcome.next (by simp only [h, if_neg hlow, hx, hst, ha, askedFrom_eq])

end

theorem timeoutThread_eq {a : Asked} {ws : List Word} (hi : x.issued = ws) (hw : ws ≠ []) (hs : x.step = none) :
    timeoutThread s r x a =
      let f := s.focus r
      (State.linkError { f with grp := ⟨ws, a.pos, f.th, f.tm, none⟩ } a.walker a.sec).flush := by
  subst hi
  have hne : ¬ x.issued.isEmpty = true := by simpa using hw
  simp only [timeoutThread, if_neg hne, hs]

end

/-! ### Links -/

theorem podLinkTrainingFail_eq {s : State} {port : Nat} (hp : port < 16) (hl : port < s.iod.podl.length) :
    exec (.podLinkTrainingFail port) s = .next (settleSync { s with iod := { s.iod with podl := s.iod.podl.set port 3 } }) := by
  refine congrArg Host.Outcome.next ?_
  rw [if_pos hp, State.mapIod, updAt_eq_set (List.getElem?_eq_getElem hl)]

/-- A node is a module's source of time only if it is reached and lower; and some such node is. -/
theorem timeSource_isNone {s : State} : (timeSource s).isNone = true ↔ ¬ ∃ n ∈ s.iod.node, ∃ m, reachable s m = true ∧ m < n := by
  have hlist : ∀ n, (sortBy (fun a b => decide (a < b)) ((s.iod.routes.map (·.1)).filter fun m => reachable s m && decide (m < n))).head? = none ↔
      ¬ ∃ m, reachable s m = true ∧ m < n := fun n => by
    rw [List.head?_eq_none_iff, List.eq_nil_iff_forall_not_mem, not_exists]
    refine forall_congr' fun m => not_congr ?_
    rw [sortBy, (sortBy_nat _ [] (fun _ h => by cases h)).1, List.mem_filter, Bool.and_eq_true, decide_eq_true_eq]
    simp only [List.not_mem_nil, false_or, and_iff_right_iff_imp]
    rintro ⟨hr, -⟩
    obtain ⟨r, hmem, rfl, -⟩ := reachable_iff.mp hr
    exact List.mem_map_of_mem hmem
  rw [Option.isNone_iff_eq_none, timeSource]
  cases hn : s.iod.node with
  | none => simp
  | some n => simpa using hlist n

/-- A port taken out of use leaves the links of the others. -/
theorem getD_set_up {l : List Nat} {port q : Nat} (hl : port < l.length) : (l.set port 3).getD q 0 = 2 ↔ q ≠ port ∧ l.getD q 0 = 2 := by
  simp only [List.getD_eq_getElem?_getD]
  by_cases h : q = port
  · subst h
    simp [hl]
  · simp [h, List.getElem?_set_ne (Ne.symm h)]

/-! ### Uncorrectable errors -/

theorem markFailed_new {ms : MemSys} {q : Nat} (h : physSec q ∉ ms.failed) : markFailed ms [q] = { ms with failed := ms.failed ++ [physSec q] } := by
  have hnew : ([q].map physSec).filter (fun q => !ms.failed.contains q) = [physSec q] := by simpa using h
  rw [markFailed, hnew]

theorem physSec_near {q : Nat} (h : 16 * q < 2 ^ 40) : physSec q = q := Nat.mod_eq_of_lt (by rw [aliasBase]; omega)

theorem uncorrectableError_memory {s : State} {q : Nat} (hq : 16 * q < 2 ^ 40) (hf : q ∉ s.ms.failed) :
    ∃ u, exec (.uncorrectableError (.memory q)) s = .next u ∧ u.ms = { s.ms with failed := s.ms.failed ++ [q] } ∧
      u.iod.retired = (s.iod.retired + 1) % 2 ^ 64 ∧ u.teams = s.teams := by
  have hwin : (windowOk 0 (16 * q) || windowOk 1 (16 * q)) = true := Bool.or_eq_true_iff.2 (Or.inl (decide_eq_true hq))
  refine ⟨_, congrArg Host.Outcome.next (if_pos hwin), ?_, rfl, rfl⟩
  have hmark := markFailed_new (ms := s.ms) (q := q) (by rwa [physSec_near hq])
  rwa [physSec_near hq] at hmark

theorem uncorrectableError_clean {s : State} {own q : Nat} {x : CacheSec} (hx : cacheGet s.ms own q = some x) (hd : x.dirty = false) :
    ∃ u, exec (.uncorrectableError (.cacheCopy own q)) s = .next u ∧
      u.ms = { s.ms with caches := s.ms.caches.filter fun c => !(c.own == own && c.sec == q) } := by
  refine ⟨State.mapMs (countUncorr s ((if own < 768 then own / 8 else own - 768) / 12) false) fun ms => cacheDrop ms own q, congrArg Host.Outcome.next ?_, rfl⟩
  simp only [hx, hd, Bool.false_eq_true, if_false]

theorem uncorrectableError_dirty {s : State} {own q : Nat} {x : CacheSec} (hx : cacheGet s.ms own q = some x) (hf : physSec q ∉ s.ms.failed)
    (hd : x.dirty = true) :
    ∃ u, exec (.uncorrectableError (.cacheCopy own q)) s = .next u ∧ u.ms.failed = s.ms.failed ++ [physSec q] ∧ u.ms.mem = s.ms.mem := by
  let c := if own < 768 then own / 8 else own - 768
  let ms := { s.ms with caches := s.ms.caches.filter fun y => !(y.sec == q && ofCluster c y.own) }
  refine ⟨{ countUncorr s (c / 12) true with ms := markFailed ms [q] }, congrArg Host.Outcome.next ?_, ?_, rfl⟩
  · simp only [hx, hd, if_true, State.mapMs]
    rfl
  · exact congrArg MemSys.failed (markFailed_new (ms := ms) hf)

/-- A list with what it lacks of another. -/
theorem mem_append_missing {α : Type} [BEq α] [LawfulBEq α] {a : α} {l m : List α} (h : a ∈ m) :
    a ∈ l ++ m.filter fun b => !l.contains b := by
  by_cases hl : a ∈ l
  · exact List.mem_append_left _ hl
  · exact List.mem_append_right _ (List.mem_filter.2 ⟨h, by simpa using hl⟩)

/-- The team with more of its registers in error. -/
def withBadReg (t : Team) (bad : List (Nat × Nat)) : Team := { t with badReg := t.badReg ++ bad.filter fun b => !t.badReg.contains b }

/-- The team with more of its typed-store sectors in error. -/
def withBadStore (t : Team) (bad : List (Nat × Nat)) : Team := { t with badStore := t.badStore ++ bad.filter fun b => !t.badStore.contains b }

theorem uncorrectableError_register {s : State} {r : ThreadRef} {t : Team} {x : Thread} {n : Nat} (h : Names s r t x) (hn : n < 64) :
    ∃ u v, exec (.uncorrectableError (.register r n)) s = .next u ∧ u.teams = (withTeam s v).teams ∧ (x.tid, n) ∈ v.badReg ∧
      (∀ b ∈ t.badReg, b ∈ v.badReg) ∧ v.threads = t.threads := by
  let bad := (rangeFrom (x.tid / 16 * 16) 16).map fun i => (i, n)
  have hbad : (x.tid, n) ∈ bad := List.mem_map.2 ⟨x.tid, mem_rangeFrom.2 (by omega), rfl⟩
  refine ⟨_, withBadReg t bad, congrArg Host.Outcome.next ?_, teams_setTeam (countUncorr s (x.bay / 96) false) s.turns (withBadReg t bad),
    mem_append_missing hbad, fun b hb => List.mem_append_left _ hb, rfl⟩
  have hlow : ¬ n ≥ 64 := Nat.not_le.2 hn
  simp only [thread?_of_names h, if_neg hlow, Nat.min_eq_left hn.le]
  rfl

theorem uncorrectableError_typedStore {s : State} {r : TeamRef} {t : Team} {sp off : Nat} (h : s.placedTeam r = some t) (hsp : sp < 4)
    (ho : off < t.storeSize sp) :
    ∃ u v, exec (.uncorrectableError (.typedStore r sp off)) s = .next u ∧ u.teams = (withTeam s v).teams ∧ (sp, off / 16) ∈ v.badStore ∧
      (∀ b ∈ t.badStore, b ∈ v.badStore) ∧ v.threads = t.threads := by
  let bad := (rangeFrom (off / 64 * 4) 4).map fun q => (sp, q)
  have hbad : (sp, off / 16) ∈ bad := List.mem_map.2 ⟨off / 16, mem_rangeFrom.2 (by omega), rfl⟩
  refine ⟨_, withBadStore t bad, congrArg Host.Outcome.next ?_, teams_setTeam (countUncorr s (t.bay / 96) false) s.turns (withBadStore t bad),
    mem_append_missing hbad, fun b hb => List.mem_append_left _ hb, rfl⟩
  have hin : (sp < 4 && off < t.storeSize sp) = true := by simp [hsp, ho]
  simp only [h, if_pos hin]
  rfl

/-! ### The obligation -/

section
variable (s : State)

theorem cacheWriteback_results {c : Nat} (q : Nat) (hc : c < 96) :
    exec (.cacheWriteback c q false) s = .next { s with ms := writeBack s.ms c q } ∧
    exec (.cacheWriteback c q true) s = .next { s with ms := { writeBack s.ms c q with
      caches := (writeBack s.ms c q).caches.filter fun x => !(x.sec == q && (x.own == 768 + c || (x.own < 768 && x.own / 8 == c))) } } :=
  ⟨congrArg Host.Outcome.next (if_pos hc), congrArg Host.Outcome.next (if_pos hc)⟩

theorem podLinkFault_results {r : ThreadRef} {t : Team} {x : Thread} {w : MemWait} (h : Names s r t x) (hw : x.sent = some w)
    (hst : x.status = .blocked .pod ∨ x.status = .blocked .flush) (hm : ∃ m ∈ s.ms.podOut, (m.peer, m.seq) ∈ w.msgs) :
    (s.time < linkDue s w.since w.backup → exec (.podLinkFault r) s = .next s) ∧
    (linkDue s w.since w.backup ≤ s.time → ∀ ws f, atGroup s r = some (t, x, ws, f) → exec (.podLinkFault r) s =
      .next (raiseAt (disowned s r) r memoryWord cPodLink (((ws.findSome? (linkUse f)).map (·.va)).getD 0))) := by
  rw [exec_podLinkFault h, podOverdue_eq hw hst hm]
  refine ⟨fun hlt => congrArg Host.Outcome.next (if_neg (by simpa using hlt)), fun hle ws f hg => ?_⟩
  rw [if_pos (decide_eq_true hle), podLinkFault_eq hg]

theorem linkTimeout_results {r : ThreadRef} {t : Team} (addr : Nat) (h : s.placedTeam r.team = some t) :
    (2 ^ 32 ≤ r.tid →
      ((∃ c ∈ t.ring.cards, c.seq = r.tid - 2 ^ 32 ∧ c.phase ≠ .waiting ∧ c.since + 10 * s.iod.lto ≤ s.time) →
        exec (.linkTimeout r addr) s = .next ((countLink s).killContext r.team.ctx 0x40 0)) ∧
      ((∀ c ∈ t.ring.cards, s.time < c.since + 10 * s.iod.lto) → exec (.linkTimeout r addr) s = .next s)) ∧
    ∀ x a ws, r.tid < 2 ^ 32 → (t.threads.find? fun x => x.tid == r.tid) = some x → x.status = .blocked .link → x.asked = some a →
      (s.time < linkDue s a.since a.backup → exec (.linkTimeout r addr) s = .next s) ∧
      (linkDue s a.since a.backup ≤ s.time → x.issued = ws → ws ≠ [] → x.step = none →
        let f := s.focus r
        let f := { f with grp := ⟨ws, a.pos, f.th, f.tm, none⟩ }
        (a.walker = false → exec (.linkTimeout r addr) s = .next (State.raise (countLink f) cDataError (16 * a.sec)).flush) ∧
        (a.walker = true → exec (.linkTimeout r addr) s = .next ((countLink f).killContext f.tm.ref.ctx 0x40 0).flush)) := by
  refine ⟨fun hr => ⟨fun hc => ?_, fun hc => ?_⟩, fun x a ws hr hx hst ha => ⟨fun hlt => ?_, fun hle hi hw hs => ⟨fun hwk => ?_, fun hwk => ?_⟩⟩⟩
  · rw [linkTimeout_card h hr]
    refine congrArg Host.Outcome.next (if_pos ?_)
    simpa [and_assoc] using hc
  · rw [linkTimeout_card h hr]
    refine congrArg Host.Outcome.next (if_neg ?_)
    rw [List.any_eq_true]
    rintro ⟨c, hmem, hlate⟩
    simp only [Bool.and_eq_true, decide_eq_true_eq] at hlate
    exact absurd hlate.2 (Nat.not_le.2 (hc c hmem))
  · rw [linkTimeout_thread h hr hx hst ha, if_neg (Nat.not_le.2 hlt)]
  · rw [linkTimeout_thread h hr hx hst ha, if_pos hle, timeoutThread_eq hi hw hs, hwk]
    rfl
  · rw [linkTimeout_thread h hr hx hst ha, if_pos hle, timeoutThread_eq hi hw hs, hwk]
    rfl

theorem podLinkTrainingFail_results {port : Nat} (hp : port < 16) (hl : port < s.iod.podl.length) :
    let source := ∃ n ∈ s.iod.node, ∃ r ∈ s.iod.routes, r.1 < n ∧ ∃ q ∈ s.iod.routes, q.1 = r.1 ∧ q.2 ≠ port ∧ s.iod.podl.getD q.2 0 = 2
    (source → exec (.podLinkTrainingFail port) s = .next { s with iod := { s.iod with podl := s.iod.podl.set port 3 } }) ∧
    (¬ source → exec (.podLinkTrainingFail port) s = .next { s with iod := { s.iod with podl := s.iod.podl.set port 3, syncRate := 0 } }) := by
  intro source
  rw [podLinkTrainingFail_eq hp hl]
  have hsource : (timeSource { s with iod := { s.iod with podl := s.iod.podl.set port 3 } }).isNone = true ↔ ¬ source := by
    rw [timeSource_isNone]
    refine not_congr (exists_congr fun n => and_congr_right fun _ => ?_)
    constructor
    · rintro ⟨m, hm, hlt⟩
      obtain ⟨q, hq, rfl, hup⟩ := reachable_iff.mp hm
      exact ⟨q, hq, hlt, q, hq, rfl, (getD_set_up hl).mp hup⟩
    · rintro ⟨r, -, hlt, q, hq, he, hup⟩
      exact ⟨r.1, reachable_iff.mpr ⟨q, hq, he, (getD_set_up hl).mpr hup⟩, hlt⟩
  exact ⟨fun h => congrArg Host.Outcome.next (if_neg fun hc => hsource.mp hc h), fun h => congrArg Host.Outcome.next (if_pos (hsource.mpr h))⟩

end

/-- Settles O48: each event by the lemma about it. -/
theorem memoryEventResults : Obligations.MemoryEventResults := by
  unfold Obligations.MemoryEventResults
  refine ⟨fun s c q => cacheWriteback_results s q, fun s pa n v hn hn' hs hp => ?_, fun s v => rfl, fun s peer seq pa n v => ?_, fun s peer => rfl,
    fun s r t x w => podLinkFault_results s, fun s r t addr => linkTimeout_results s addr,
    fun s port hp => ⟨fun hup => congrArg Host.Outcome.next (if_pos ?_), podLinkTrainingFail_results s hp⟩,
    fun s q => uncorrectableError_memory, fun s own q x hx hf => ⟨uncorrectableError_clean hx, uncorrectableError_dirty hx hf⟩,
    fun s r t x n => uncorrectableError_register, fun s r t sp off => uncorrectableError_typedStore⟩
  · simp only [exec_hostAccess_near hn hs hp, if_true, Bool.false_eq_true, if_false]
    refine ⟨?_, fun hlost => congrArg Host.Outcome.next (if_neg (by simp [hlost])), fun hlost => congrArg Host.Outcome.next (if_pos hlost)⟩
    rw [State.mapMs, homeWriteAll_sector hn hs hn' s.ms (length_toBytes n v)]
  · exact ⟨podMessageReceive_unreached, fun h => ⟨fun hnode hnew hn hn' hs =>
      ⟨fun w => podMessageReceive_admitted hn hn' hs h hnode hnew, podMessageReceive_outside hn hn' hs h hnode hnew⟩,
      podMessageReceive_again h, fun m hm => ⟨podMessageReceive_ack_zero h hm, fun r => podMessageReceive_refused h hm⟩⟩⟩
  · rw [nth, hup, decide_eq_true hp]
    rfl

end Sys2Proof.Proofs
end

section
/-! PROOFS. Host queues, dependences, retirement of grids, commit and abort of deterministic teams, and the end of a kill
(R35, R160, R161, R393 to R400, R405 to R409, R455). -/

namespace Sys2Proof.Proofs

open Sys2Proof.Machine Sys2Proof.Spec

/-! ### What writing a context's entry leaves -/

theorem owners_homeWrite (ms : MemSys) (ha : Nat) (bs : List Byte) : (homeWrite ms ha bs).owners = ms.owners := by
  simp only [homeWrite, wakeLine]
  split_ifs <;> rfl

/-- The latch entries stay those of the same waiters. -/
theorem who_wakeLine (ms : MemSys) (line : Nat) : (wakeLine ms line).latches.map (·.who) = ms.latches.map (·.who) := by
  rw [wakeLine, List.map_map]
  refine List.map_congr_left fun l _ => ?_
  dsimp only [Function.comp]
  split <;> rfl

theorem who_homeWrite (ms : MemSys) (ha : Nat) (bs : List Byte) : (homeWrite ms ha bs).latches.map (·.who) = ms.latches.map (·.who) := by
  rw [homeWrite, who_wakeLine]
  dsimp only
  split_ifs <;> rfl

section
variable (s : State) (id code : Nat)

@[simp] theorem teams_setCtxState : (setCtxState s id code).teams = s.teams := by rw [setCtxState]; split <;> rfl
@[simp] theorem grids_setCtxState : (setCtxState s id code).grids = s.grids := by rw [setCtxState]; split <;> rfl
@[simp] theorem ctxs_setCtxState : (setCtxState s id code).ctxs = s.ctxs := by rw [setCtxState]; split <;> rfl
@[simp] theorem iod_setCtxState : (setCtxState s id code).iod = s.iod := by rw [setCtxState]; split <;> rfl

@[simp] theorem owners_setCtxState : (setCtxState s id code).ms.owners = s.ms.owners := by
  rw [setCtxState]
  split
  · rfl
  · exact owners_homeWrite _ _ _

@[simp] theorem who_setCtxState : (setCtxState s id code).ms.latches.map (·.who) = s.ms.latches.map (·.who) := by
  rw [setCtxState]
  split
  · rfl
  · exact who_homeWrite _ _ _

@[simp] theorem teams_settleResident : (settleResident s id).teams = s.teams := by
  rw [settleResident]
  split
  · exact teams_setCtxState _ _ _
  · rfl

@[simp] theorem grids_settleResident : (settleResident s id).grids = s.grids := by
  rw [settleResident]
  split
  · exact grids_setCtxState _ _ _
  · rfl

@[simp] theorem iod_settleResident : (settleResident s id).iod = s.iod := by
  rw [settleResident]
  split
  · exact iod_setCtxState _ _ _
  · rfl

@[simp] theorem owners_settleResident : (settleResident s id).ms.owners = s.ms.owners := by
  rw [settleResident]
  split
  · exact owners_setCtxState _ _ _
  · rfl

@[simp] theorem who_settleResident : (settleResident s id).ms.latches.map (·.who) = s.ms.latches.map (·.who) := by
  rw [settleResident]
  split
  · exact who_setCtxState _ _ _
  · rfl

end

/-! ### Grids by name -/

theorem gridOf_congr {s u : State} (h : u.grids = s.grids) (ctx gid : Nat) : u.gridOf ctx gid = s.gridOf ctx gid := by
  rw [State.gridOf, State.gridOf, h]

theorem grids_setGrid_congr {s u : State} (h : u.grids = s.grids) (g : Grid) : (u.setGrid g).grids = (s.setGrid g).grids := by
  rw [State.setGrid, State.setGrid, h]

/-- The later of two records of one grid stays. -/
theorem grids_setGrid_setGrid {s : State} {g k : Grid} (hc : g.ctx = k.ctx) (hg : g.gid = k.gid) :
    ((s.setGrid g).setGrid k).grids = (s.setGrid k).grids := by
  simp only [State.setGrid, List.map_map]
  refine List.map_congr_left fun x _ => ?_
  dsimp only [Function.comp]
  rw [hc, hg]
  by_cases h : (x.ctx == k.ctx && x.gid == k.gid) = true
  · simp only [h, if_true, hc, hg, beq_self_eq_true, Bool.and_self]
  · simp only [if_neg h]

theorem gridOf_setGrid {s : State} {g : Grid} (h : ∃ x ∈ s.grids, x.ctx = g.ctx ∧ x.gid = g.gid) : (s.setGrid g).gridOf g.ctx g.gid = g := by
  obtain ⟨x, hx, hc, hg⟩ := h
  have hfind : (s.setGrid g).grids.find? (fun y => y.ctx == g.ctx && y.gid == g.gid) ≠ none := by
    rw [Ne, List.find?_eq_none]
    intro hn
    refine hn g (List.mem_map.2 ⟨x, hx, if_pos ?_⟩) ?_
    · simp [hc, hg]
    · simp
  obtain ⟨y, hy⟩ := Option.ne_none_iff_exists'.mp hfind
  rw [State.gridOf, hy, Option.getD_some]
  obtain ⟨z, -, hz⟩ := List.mem_map.mp (List.mem_of_find?_eq_some hy)
  have hname := List.find?_some hy
  rw [← hz] at hname ⊢
  split at hname
  · next hp => rw [if_pos hp]
  · next hp => exact absurd hname hp

/-! ### Host queues -/

section
variable {s : State} {q : Nat}

theorem queueDesc_of_table (hl : s.iod.lqtb ≠ 0) (hz : zeroBytes (homeRead s.ms (s.iod.lqtb + 32 * q) 32) 22 10 = true) :
    queueDesc s q = homeRead s.ms (s.iod.lqtb + 32 * q) 32 := by
  have hc : ¬ (s.iod.lqtb == 0 || !zeroBytes (homeRead s.ms (queueAt s q) 32) 22 10) = true := by
    rw [queueAt, hz]
    simpa using hl
  exact if_neg hc

theorem lqdbWrite_moves (v : BitVec 64) (hn : s.iod.queues.length = 64) (hl : s.iod.lqtb ≠ 0) :
    let q := v.toNat % 64
    let tail := BitVec.ofNat 32 (v.toNat / 2 ^ 32)
    let h := s.iod.queues.getD q ⟨0, 0⟩
    let qd := homeRead s.ms (s.iod.lqtb + 32 * q) 32
    zeroBytes qd 22 10 = true → (field qd 20 1).testBit 0 = true → (tail - h.head).toNat ≤ 2 ^ field qd 19 1 →
    exec (.lqdbWrite v) s = .next { s with iod := { s.iod with queues := s.iod.queues.set q { h with tail := tail } } } := by
  intro q tail h qd hz he ht
  have hq : q < s.iod.queues.length := by
    rw [hn]
    exact Nat.mod_lt _ (by decide)
  have hget : s.iod.queues[q]? = some h := by
    rw [List.getElem?_eq_getElem hq, show h = s.iod.queues.getD q ⟨0, 0⟩ from rfl, List.getD_eq_getElem?_getD, List.getElem?_eq_getElem hq]
    rfl
  have hdesc : queueDesc s q = qd := queueDesc_of_table hl hz
  have hon : ¬ (!bitAt (field (queueDesc s q) 20 1) 0) = true := by
    rw [hdesc, bitAt_eq_testBit, he]
    decide
  have hroom : ¬ (tail - h.head).toNat > 2 ^ field (queueDesc s q) 19 1 := by
    rw [hdesc]
    exact Nat.not_lt.2 ht
  refine congrArg Host.Outcome.next ((if_neg hon).trans ((if_neg hroom).trans ?_))
  rw [setQueue, updAt_eq_set hget]

/-- A queue with nothing of an earlier slot to do goes on to its next slot. -/
theorem acceptQueue_next {part : Nat} (hl : s.iod.lqtb ≠ 0) (hc : s.iod.ctxtb ≠ 0) :
    let h := s.iod.queues.getD q ⟨0, 0⟩
    let qd := homeRead s.ms (s.iod.lqtb + 32 * q) 32
    zeroBytes qd 22 10 = true → (∀ p ∈ s.iod.passes, p.queue ≠ q) → (field qd 20 1).testBit 0 = true → (field qd 21 1).testBit 0 = false →
    h.head ≠ h.tail → s.inService = true → queuePart s q = some part → partGrids s part < 16384 → acceptQueue s q = nextSlot s q qd h part := by
  intro h qd hz hpass he hs hne hserv hpart hroom
  have hdesc : queueDesc s q = qd := queueDesc_of_table hl hz
  have hrun : ¬ (s.iod.ctxtb == 0 || !s.inService) = true := by
    rw [hserv]
    simpa using hc
  have hnone : (s.iod.passes.find? fun p => p.queue == q) = none := by
    rw [List.find?_eq_none]
    simpa using hpass
  have hgo : ¬ (!bitAt (field qd 20 1) 0 || bitAt (field qd 21 1) 0 || h.head == h.tail) = true := by
    rw [bitAt_eq_testBit, bitAt_eq_testBit, he, hs]
    simpa using hne
  rw [acceptQueue]
  refine (if_neg hrun).trans ?_
  rw [hnone, hdesc]
  refine (if_neg hgo).trans ?_
  rw [hpart]
  exact if_neg (Nat.not_le.2 hroom)

/-- A slot whose descriptor passes every check: a grid, its dependence, then the head count. -/
theorem nextSlot_accepted {qd : List Byte} {h : HostQueue} {part : Nat} {c : Ctx} {s1 s2 s3 : State} {d : List Byte} {gid : Nat}
    (hctx : ctxFor s part (field qd 16 2) = .ok c s1)
    (hread : feRead s1 (field qd 16 2) 0 (field qd 0 8 + 64 * (h.head.toNat % 2 ^ field qd 19 1)) 64 = .ok (d, s2))
    (hacc : acceptDesc s2 c d (field qd 18 1 % 8) 0 none = .ok gid s3) :
    nextSlot s q qd h part =
      let p : QueuePass := ⟨q, field qd 16 2, 0, 0, field qd 8 8⟩
      passSlot (judgeSlot (registerDep s3 (s3.gridOf (field qd 16 2) gid)) p) p := by
  rw [nextSlot]
  simp only [hctx, hread, hacc]

end

/-! ### Dependences and timed starts -/

theorem dependenceMet_none {s : State} {ctx gid : Nat} (hst : (s.gridOf ctx gid).st = .waiting) (ha : s.alive ctx = true)
    (hl : gridLatch s (s.gridOf ctx gid) = none) (hd : (s.gridOf ctx gid).depaddr = 0) (hc : (s.gridOf ctx gid).cond = false) :
    exec (.dependenceMet ctx gid) s = .next (s.setGrid { s.gridOf ctx gid with st := .ready, waitSince := s.time }) := by
  have hgo : ¬ ((s.gridOf ctx gid).st != .waiting || !s.alive ctx) = true := by simp [hst, ha]
  refine congrArg Host.Outcome.next ((if_neg hgo).trans ?_)
  rw [hl]
  refine (if_pos (by rw [hd]; rfl)).trans (if_pos ?_)
  rw [hc]
  rfl

theorem gridTimedStart_starts {s : State} {ctx gid : Nat} (hst : (s.gridOf ctx gid).st ≠ .retired) (ht : (s.gridOf ctx gid).timed = true)
    (hd : (s.gridOf ctx gid).tstart ≤ s.time) :
    exec (.gridTimedStart ctx gid) s = .next (s.setGrid { s.gridOf ctx gid with timed := false }) :=
  congrArg Host.Outcome.next (if_pos (by simp [hst, ht, hd]))

/-! ### Retirement of a grid -/

section
variable (s : State) (who : ThreadRef)

@[simp] theorem teams_performAll : (performAll s who).teams = s.teams := by rw [performAll, State.mapMs]
@[simp] theorem grids_performAll : (performAll s who).grids = s.grids := by rw [performAll, State.mapMs]
@[simp] theorem ctxs_performAll : (performAll s who).ctxs = s.ctxs := by rw [performAll, State.mapMs]

end

theorem alive_congr {s u : State} (h : u.ctxs = s.ctxs) (ctx : Nat) : u.alive ctx = s.alive ctx := by
  rw [State.alive, State.alive, State.ctxOf, State.ctxOf, State.ctx?, State.ctx?, h]

section
variable {s u : State} {g : Grid}

theorem retireGo_act {ctx gid : Nat} (hg : s.gridOf ctx gid = g) (hst : g.st ≠ .retired) (ha : s.alive ctx = true) (hw : retireWaits s g = false)
    (hu : retireAct s g = .ok u) (k : Nat) : retireGo ctx gid (k + 1) s = retireGo ctx gid k u := by
  have hgo : ¬ (g.st == .retired || !s.alive ctx || retireWaits s g) = true := by simp [hst, ha, hw]
  rw [retireGo, hg]
  refine (if_neg hgo).trans ?_
  rw [hu]

theorem retireGo_waits {ctx gid : Nat} (hg : s.gridOf ctx gid = g) (hw : retireWaits s g = true) (k : Nat) : retireGo ctx gid (k + 1) s = s := by
  have hstop : (g.st == .retired || !s.alive ctx || retireWaits s g) = true := by rw [hw, Bool.or_true]
  rw [retireGo, hg]
  exact if_pos hstop

theorem retireWaits_nil {k : Nat} (hr : g.retiring = some (k, [])) : retireWaits s g = false := by
  rw [retireWaits, hr]
  simp

/-- What is sent to peers and not acknowledged is awaited. -/
theorem retireWaits_unacked {k : Nat} (hr : g.retiring = some (k, s.ms.unacked)) (hn : s.ms.unacked ≠ []) : retireWaits s g = true := by
  obtain ⟨x, hx⟩ := List.exists_mem_of_ne_nil _ hn
  obtain ⟨m, hm, rfl⟩ := List.mem_map.mp hx
  rw [retireWaits, hr]
  exact List.any_eq_true.2 ⟨m, (List.mem_filter.mp hm).1, List.contains_iff_mem.2 hx⟩

theorem filter_not_contains_self {α : Type} [BEq α] [LawfulBEq α] (l : List α) : (l.filter fun m => !l.contains m) = [] := by
  simp

theorem retireAct_perform (hr : g.retiring = none) :
    retireAct s g = .ok ((performAll s (retireRef g.ctx g.gid)).setGrid
      { g with retiring := some (1, (performAll s (retireRef g.ctx g.gid)).ms.unacked) }) := by
  rw [retireAct]
  simp only [hr]

section
variable (hc : g.cmpl = 0)
include hc

theorem retireAct_record {l : List (Nat × Nat)} (hr : g.retiring = some (1, l)) :
    retireAct s g = .ok (s.setGrid { g with retiring := some (2, []) }) := by
  rw [retireAct]
  simp only [hr, hc, beq_self_eq_true, if_true, filter_not_contains_self]

theorem retireAct_status {l : List (Nat × Nat)} (hr : g.retiring = some (2, l)) :
    retireAct s g = .ok (s.setGrid { g with cmpl := 0, status := if g.status = 2 then 2 else 1, retiring := some (3, []) }) := by
  rw [retireAct]
  simp only [hr, hc, beq_self_eq_true, beq_iff_eq, if_true, filter_not_contains_self]

end

theorem retireAct_signal {l : List (Nat × Nat)} (hr : g.retiring = some (3, l)) (hs : g.sigaddr = 0) : retireAct s g = .ok (finishGrid s g) := by
  rw [retireAct]
  simp only [hr, signalGrid, hs, beq_self_eq_true, if_true]

variable (h : TheGrid s g) (ha : s.alive g.ctx = true) (hd : gridDone s g = true) (hr : g.retiring = none)
include h ha hd hr

/-- The first act of a retirement: what the grid did is performed. -/
def retirePerformed (s : State) (g : Grid) : State :=
  (performAll s (retireRef g.ctx g.gid)).setGrid { g with retiring := some (1, (performAll s (retireRef g.ctx g.gid)).ms.unacked) }

omit h ha hr in
theorem st_of_gridDone : g.st = .ready := by
  rw [gridDone, Bool.and_assoc, Bool.and_eq_true, beq_iff_eq] at hd
  exact hd.1

theorem exec_gridRetire : exec (.gridRetire g.ctx g.gid) s = .next (retireGo g.ctx g.gid 3 (retirePerformed s g)) := by
  have hgo : ¬ (!s.alive g.ctx || !gridDone s (s.gridOf g.ctx g.gid)) = true := by
    rw [h.1, ha, hd]
    decide
  refine congrArg Host.Outcome.next ((if_neg hgo).trans ?_)
  exact retireGo_act h.1 (by rw [st_of_gridDone hd]; decide) ha (by rw [retireWaits, hr]) (retireAct_perform hr) 3

omit ha hd hr in
theorem gridOf_retirePerformed :
    (retirePerformed s g).gridOf g.ctx g.gid = { g with retiring := some (1, (performAll s (retireRef g.ctx g.gid)).ms.unacked) } :=
  gridOf_setGrid (s := performAll s (retireRef g.ctx g.gid))
    (g := { g with retiring := some (1, (performAll s (retireRef g.ctx g.gid)).ms.unacked) }) (by simpa using h.2)

theorem gridRetire_awaits (hs : (performAll s (retireRef g.ctx g.gid)).ms.unacked ≠ []) :
    ∃ u, exec (.gridRetire g.ctx g.gid) s = .next u ∧
      u.grids = (s.setGrid { g with retiring := some (1, (performAll s (retireRef g.ctx g.gid)).ms.unacked) }).grids ∧ u.teams = s.teams := by
  refine ⟨retirePerformed s g, ?_, ?_, ?_⟩
  · rw [exec_gridRetire h ha hd hr]
    exact congrArg Host.Outcome.next (retireGo_waits (gridOf_retirePerformed h) (retireWaits_unacked rfl hs) 2)
  · rw [retirePerformed]
    exact grids_setGrid_congr (grids_performAll s _) _
  · rw [retirePerformed, State.setGrid_teams, teams_performAll]

theorem gridRetire_retires (hc : g.cmpl = 0) (hg : g.sigaddr = 0) (hs : (performAll s (retireRef g.ctx g.gid)).ms.unacked = []) :
    ∃ u, exec (.gridRetire g.ctx g.gid) s = .next u ∧
      u.grids = (s.setGrid { g with st := .retired, status := if g.status = 2 then 2 else 1, cmpl := 0, retiring := some (3, []) }).grids ∧
      u.teams = s.teams.filter fun t => !(t.ref.ctx == g.ctx && t.ref.gid == g.gid) := by
  have hst : g.st ≠ .retired := by
    rw [st_of_gridDone hd]
    decide
  let g1 : Grid := { g with retiring := some (1, []) }
  let g2 : Grid := { g with retiring := some (2, []) }
  let g3 : Grid := { g with cmpl := 0, status := if g.status = 2 then 2 else 1, retiring := some (3, []) }
  have hs1 : retirePerformed s g = (performAll s (retireRef g.ctx g.gid)).setGrid g1 := by
    rw [retirePerformed, hs]
  have hin0 : ∃ x ∈ (performAll s (retireRef g.ctx g.gid)).grids, x.ctx = g.ctx ∧ x.gid = g.gid := by simpa using h.2
  have halive : (performAll s (retireRef g.ctx g.gid)).alive g.ctx = true :=
    (alive_congr (ctxs_performAll s _) _).trans ha
  have hgrids := grids_performAll s (retireRef g.ctx g.gid)
  have hteams := teams_performAll s (retireRef g.ctx g.gid)
  generalize performAll s (retireRef g.ctx g.gid) = s0 at hs1 hin0 halive hgrids hteams
  let s1 : State := s0.setGrid g1
  have hnamed : ∀ (v : State) (k : Grid), (∃ x ∈ v.grids, x.ctx = g.ctx ∧ x.gid = g.gid) → k.ctx = g.ctx → k.gid = g.gid →
      ∃ x ∈ (v.setGrid k).grids, x.ctx = g.ctx ∧ x.gid = g.gid := by
    rintro v k ⟨x, hx, hxc, hxg⟩ hkc hkg
    exact ⟨k, List.mem_map.2 ⟨x, hx, if_pos (by simp [hxc, hxg, hkc, hkg])⟩, hkc, hkg⟩
  have hin1 := hnamed _ g1 hin0 rfl rfl
  have hin2 := hnamed _ g2 hin1 rfl rfl
  have hact1 : retireGo g.ctx g.gid 3 s1 = retireGo g.ctx g.gid 2 (s1.setGrid g2) :=
    retireGo_act (gridOf_setGrid (g := g1) hin0) hst halive (retireWaits_nil rfl) (retireAct_record (g := g1) hc rfl) 2
  have hact2 : retireGo g.ctx g.gid 2 (s1.setGrid g2) = retireGo g.ctx g.gid 1 ((s1.setGrid g2).setGrid g3) :=
    retireGo_act (gridOf_setGrid (g := g2) hin1) hst halive (retireWaits_nil rfl) (retireAct_status (g := g2) hc rfl) 1
  have hact3 : retireGo g.ctx g.gid 1 ((s1.setGrid g2).setGrid g3) = finishGrid ((s1.setGrid g2).setGrid g3) g3 :=
    retireGo_act (gridOf_setGrid (g := g3) hin2) hst halive (retireWaits_nil rfl) (retireAct_signal (g := g3) rfl hg) 0
  refine ⟨finishGrid ((s1.setGrid g2).setGrid g3) g3, ?_, ?_, ?_⟩
  · rw [exec_gridRetire h ha hd hr, hs1, hact1, hact2, hact3]
  · let k : Grid := { g3 with st := .retired }
    calc (finishGrid ((s1.setGrid g2).setGrid g3) g3).grids = (((s1.setGrid g2).setGrid g3).setGrid k).grids := rfl
      _ = ((s1.setGrid g2).setGrid k).grids := grids_setGrid_setGrid (k := k) rfl rfl
      _ = (s1.setGrid k).grids := grids_setGrid_setGrid (k := k) rfl rfl
      _ = (s0.setGrid k).grids := grids_setGrid_setGrid (k := k) rfl rfl
      _ = (s.setGrid k).grids := grids_setGrid_congr hgrids k
  · rw [← hteams]
    rfl

end

/-! ### Deterministic launches -/

theorem phaseCommit_commits {s : State} {g : Grid} (h : TheGrid s g) (hst : g.st = .ready) (hd : g.decl.det ≠ 0) (ha : s.alive g.ctx = true)
    (hp : phaseTeams g ≠ []) (ht : ∀ i ∈ phaseTeams g, ∃ t, (s.teams.find? fun t => t.ref == ⟨g.ctx, g.gid, i⟩ && t.st == .retired) = some t) :
    ∃ u, exec (.phaseCommit g.ctx g.gid) s = .next u ∧
      u.grids = (s.setGrid { g with phases := g.phases + 1, phaseImg := ⟨[]⟩, phaseHeld := [] }).grids ∧
      (∀ o ∈ u.ms.owners, ¬ (o.ctx = g.ctx ∧ o.gid = g.gid)) ∧ ∀ t ∈ u.teams, t.ref.ctx = g.ctx → t.ref.gid = g.gid → t.log = [] := by
  have hall : ((phaseTeams g).all fun i => (s.teams.find? fun t => t.ref == ⟨g.ctx, g.gid, i⟩ && t.st == .retired).isSome) = true :=
    List.all_eq_true.2 fun i hi => Option.isSome_iff_exists.2 (ht i hi)
  have hgo : ¬ ((s.gridOf g.ctx g.gid).st != .ready || (s.gridOf g.ctx g.gid).decl.det == 0 || !s.alive g.ctx ||
      (phaseTeams (s.gridOf g.ctx g.gid)).isEmpty || !(phaseTeams (s.gridOf g.ctx g.gid)).all fun i =>
        (s.teams.find? fun t => t.ref == ⟨g.ctx, g.gid, i⟩ && t.st == .retired).isSome) = true := by
    rw [h.1, hall]
    simp [hst, hd, ha, hp]
  refine ⟨_, congrArg Host.Outcome.next (if_neg hgo), ?_, ?_, ?_⟩
  · simp only [h.1]
    rfl
  · intro o ho
    have hkeep := (List.mem_filter.mp ho).2
    rw [Bool.not_eq_true', ← Bool.not_eq_true] at hkeep
    simpa only [Bool.and_eq_true, beq_iff_eq] using hkeep
  · intro t ht hc hg
    obtain ⟨x, -, rfl⟩ := List.mem_map.mp ht
    split at hc
    · next hx => rw [if_pos hx]
    · next hx =>
      rw [if_neg hx] at hg
      exact absurd (by simp [hc, hg]) hx

theorem detTeamAbort_aborts {s : State} {r : TeamRef} {t : Team} (h : s.team? r = some t) (hd : t.decl.det ≠ 0) (hst : t.st ≠ .retired)
    (ha : s.alive r.ctx = true) :
    ∃ u, exec (.detTeamAbort r) s = .next u ∧ u.teams = s.teams.filter (fun x => x.ref != r) ∧
      (∀ l ∈ u.iod.launches, l.who.team ≠ r) ∧ ∀ l ∈ u.ms.latches, ∀ q, l.who = .thread q → q.team ≠ r := by
  have href : t.ref = r := by simpa using List.find?_some h
  have hgo : (t.decl.det != 0 && t.st != .retired && s.alive r.ctx) = true := by simp [hd, hst, ha]
  have hexec : exec (.detTeamAbort r) s = .next (abortTeam s t) := by
    refine congrArg Host.Outcome.next ?_
    rw [h]
    exact if_pos hgo
  refine ⟨abortTeam s t, hexec, ?_, ?_, ?_⟩
  · rw [abortTeam, href]
    exact teams_settleResident _ _
  · intro l hl
    rw [abortTeam, href, iod_settleResident] at hl
    simpa using (List.mem_filter.mp hl).2
  · intro l hl q hq he
    have hwho : l.who ∈ (abortTeam s t).ms.latches.map (·.who) := List.mem_map_of_mem hl
    rw [abortTeam, href, who_settleResident] at hwho
    obtain ⟨k, hk, hkq⟩ := List.mem_map.mp hwho
    have hkeep := (List.mem_filter.mp hk).2
    rw [hkq, hq] at hkeep
    simp [he] at hkeep

/-! ### The end of a kill -/

/-- Stores dropped or not change the caches and the draws only. -/
theorem dropIssued_eq (s : State) (ctx : Nat) : ∃ ms n, dropIssued s ctx = { s with ms := ms, draws := n } := by
  rw [dropIssued]
  generalize ((List.range 96).flatMap fun c => ((dirtyOf s.ms c).filter fun q => !mayBeOthers s ctx c q).map fun q => (c, q)) = l
  suffices h : ∀ (l : List (Nat × Nat)) (v : State), ∃ ms n, l.foldl dropSector v = { v with ms := ms, draws := n } from h l s
  intro l
  induction l with
  | nil => exact fun v => ⟨v.ms, v.draws, rfl⟩
  | cons d l ih =>
    intro v
    obtain ⟨ms, n, hv⟩ : ∃ ms n, dropSector v d = { v with ms := ms, draws := n } := by
      rw [dropSector]
      split
      · exact ⟨v.ms, v.draws + 1, rfl⟩
      · exact ⟨_, v.draws + 1, rfl⟩
    obtain ⟨ms', n', hl⟩ := ih (dropSector v d)
    refine ⟨ms', n', ?_⟩
    rw [List.foldl_cons, hl, hv]

theorem contextKillComplete_completes {s : State} {c : Ctx} (h : s.ctx? c.id = some c) (hst : c.st = .killing)
    (hg : ∀ g ∈ s.grids, g.ctx = c.id → g.st = .retired) (hu : (performAll (dropIssued s c.id) (retireRef c.id 0)).ms.unacked = []) :
    ∃ u, exec (.contextKillComplete c.id) s = .next u ∧ u.ctxs = (s.setCtx { c with st := .killed }).ctxs ∧ u.grids = s.grids ∧
      u.teams = s.teams.filter (fun t => t.ref.ctx != c.id) ∧ ∀ o ∈ u.ms.owners, o.ctx ≠ c.id := by
  obtain ⟨ms, n, hdrop⟩ := dropIssued_eq s c.id
  rw [hdrop] at hu
  generalize hv : performAll { s with ms := ms, draws := n } (retireRef c.id 0) = v at hu
  have hgrids : v.grids = s.grids := by rw [← hv, grids_performAll]
  have hctxs : v.ctxs = s.ctxs := by rw [← hv, ctxs_performAll]
  have hteams : v.teams = s.teams := by rw [← hv, teams_performAll]
  have hof : s.ctxOf c.id = c := by
    rw [State.ctxOf, h]
    rfl
  have hgo : ¬ ((s.ctxOf c.id).st != .killing) = true := by
    rw [hof, hst]
    decide
  have hquiet : ¬ (v.ms.podOut.any fun m => m.n != 0 && (match m.who with | some r => r.team.ctx == c.id | none => false)) = true := by
    rw [MemSys.unacked, List.map_eq_nil_iff, List.filter_eq_nil_iff] at hu
    rw [List.any_eq_true]
    rintro ⟨m, hm, hc⟩
    exact hu m hm (Bool.and_eq_true_iff.1 hc).1
  have hnone : (v.grids.filter fun g => g.ctx == c.id && g.st != .retired) = [] := by
    rw [hgrids, List.filter_eq_nil_iff]
    intro g hmem hc
    simp only [Bool.and_eq_true, beq_iff_eq, bne_iff_ne] at hc
    exact hc.2 (hg g hmem hc.1)
  let w : State :=
    { v with
      teams := v.teams.filter fun t => t.ref.ctx != c.id
      grids := v.grids.map fun (g : Grid) => if g.ctx == c.id && g.st != GridState.retired then { g with st := GridState.retired, status := 4, killn := c.killn } else g }
  let x : State := w.mapMs fun ms => { ms with owners := ms.owners.filter fun o => o.ctx != c.id }
  have hexec : exec (.contextKillComplete c.id) s = .next (setCtxState (x.setCtx { c with st := .killed }) c.id 3) := by
    refine congrArg Host.Outcome.next ((if_neg hgo).trans ?_)
    rw [hdrop, hv, hof]
    refine (if_neg hquiet).trans ?_
    rw [hnone]
    rfl
  refine ⟨_, hexec, ?_, ?_, ?_, ?_⟩
  · rw [ctxs_setCtxState, State.setCtx, State.setCtx, ← hctxs]
    rfl
  · rw [grids_setCtxState]
    refine (List.map_congr_left fun g hmem => if_neg fun hc => ?_).trans ((List.map_id _).trans hgrids)
    exact List.filter_eq_nil_iff.mp hnone g hmem hc
  · rw [teams_setCtxState, ← hteams]
    rfl
  · intro o ho
    rw [owners_setCtxState] at ho
    simpa using (List.mem_filter.mp ho).2

end Sys2Proof.Proofs
end

section
/-! PROOFS. Placement, pre-emption, saving, resumption and retirement of teams (R11, R20 to R37, R401 to R404, R450 to
R454). -/

namespace Sys2Proof.Proofs

open Sys2Proof.Machine Sys2Proof.Spec

/-! ### Clean sectors after an acquire -/

theorem mem_dedup {l : List Nat} {x : Nat} : ∀ {acc : List Nat},
    x ∈ l.foldl (fun acc x => if acc.contains x then acc else acc ++ [x]) acc → x ∈ acc ∨ x ∈ l := by
  induction l with
  | nil => exact fun h => Or.inl h
  | cons y l ih =>
    intro acc h
    rcases ih h with h | h
    · dsimp only at h
      split at h
      · exact Or.inl h
      · rcases List.mem_append.mp h with h | h
        · exact Or.inl h
        · exact Or.inr (List.mem_cons.2 (Or.inl (List.mem_singleton.mp h)))
    · exact Or.inr (List.mem_cons_of_mem _ h)

theorem mem_of_mem_sortDedup {l : List Nat} {x : Nat} (h : x ∈ sortDedup l) : x ∈ l := by
  have hs := (mem_dedup h).resolve_left List.not_mem_nil
  exact (((sortBy_nat l [] (fun _ h => by cases h)).1 x).mp hs).resolve_left List.not_mem_nil

theorem exists_dirty_of_mem_dirtyOf {ms : MemSys} {c q : Nat} (h : q ∈ dirtyOf ms c) :
    ∃ d ∈ ms.caches, ofCluster c d.own = true ∧ d.sec = q ∧ d.dirty = true := by
  obtain ⟨d, hd, rfl⟩ := List.mem_map.mp (mem_of_mem_sortDedup h)
  obtain ⟨hmem, hc⟩ := List.mem_filter.mp hd
  obtain ⟨hdirty, hown⟩ := Bool.and_eq_true_iff.1 hc
  exact ⟨d, hmem, hown, rfl, hdirty⟩

/-- What a device-scope acquire leaves in a cluster has a dirty copy there. -/
theorem dirty_of_acquireCaches {ms : MemSys} {bay : Nat} {x : CacheSec} (hx : x ∈ (acquireCaches ms bay 2).caches)
    (ho : ofCluster (clusterOf bay) x.own = true) :
    ∃ d ∈ (acquireCaches ms bay 2).caches, ofCluster (clusterOf bay) d.own = true ∧ d.sec = x.sec ∧ d.dirty = true := by
  have hkept : x ∈ ms.caches.filter fun x => !ofCluster (clusterOf bay) x.own || (dirtyOf ms (clusterOf bay)).contains x.sec := hx
  have hin := (List.mem_filter.mp hkept).2
  rw [ho, Bool.not_true, Bool.false_or, List.contains_iff_mem] at hin
  obtain ⟨d, hd, hown, hsec, hdirty⟩ := exists_dirty_of_mem_dirtyOf hin
  refine ⟨d, List.mem_filter.2 ⟨hd, ?_⟩, hown, hsec, hdirty⟩
  rw [hsec, List.contains_iff_mem.2 hin, Bool.or_true]

/-! ### Placement -/

section
variable (s : State) (id : Nat) (t : Team)

@[simp] theorem teams_makeResident : (makeResident s id).teams = s.teams := by
  rw [makeResident]
  dsimp only
  split
  · rfl
  · exact teams_setCtxState _ _ _

@[simp] theorem teams_writeTeamState : (writeTeamState s t).teams = s.teams := by
  rw [writeTeamState]
  split
  · rfl
  · rw [State.mapMs_teams]

@[simp] theorem grids_writeTeamState : (writeTeamState s t).grids = s.grids := by
  rw [writeTeamState]
  split
  · rfl
  · rw [State.mapMs_grids]

end

/-- A team seated in its slots is still at its start. -/
theorem atStart_startTeam (s : State) (g : Grid) (i bay w pcap image at' : Nat) : AtStart ((startTeam g i bay w pcap image at').seat s) g i bay w := by
  refine ⟨rfl, rfl, rfl, rfl, rfl, rfl, rfl, rfl, rfl, rfl, rfl, rfl, rfl, ?_, ?_⟩
  · show ((List.range g.decl.dim).map (startThread g bay w)).map (·.tid) = List.range g.decl.dim
    rw [List.map_map]
    exact List.map_id _
  · intro x hx
    obtain ⟨n, -, rfl⟩ := List.mem_map.mp hx
    refine ⟨rfl, rfl, rfl, rfl, rfl, rfl, rfl, ?_, rfl, rfl, rfl, rfl, rfl, rfl⟩
    have hlow : BitVec.ofNat 32 g.args.toNat = g.args.setWidth 32 := by bv_omega
    have hhigh : BitVec.ofNat 32 (g.args.toNat / 2 ^ 32) = g.args.extractLsb' 32 32 := by
      apply BitVec.eq_of_toNat_eq
      simp [Nat.shiftRight_eq_div_pow]
    rw [← hlow, ← hhigh]
    rfl

/-- The team that a grid's team i is once placed. -/
def placedTeam (s : State) (g : Grid) (i bay w pcap : Nat) : Team :=
  let v := makeResident s g.ctx
  (startTeam g i bay w pcap (freeImage v g.ctx) v.turns).seat v

/-- The state with the team among the teams, its image marked. -/
def withPlaced (s : State) (g : Grid) (i bay w pcap : Nat) : State :=
  let v := makeResident s g.ctx
  let t := placedTeam s g i bay w pcap
  writeTeamState { v with teams := v.teams ++ [t], turns := v.turns + 1 } t

/-- The state once the bay has acquired what happened before the launch, and the grid has noted its team. -/
def placedState (s : State) (g : Grid) (i bay w pcap : Nat) : State :=
  let v := (withPlaced s g i bay w pcap).mapMs fun ms => acquireCaches ms bay 2
  let k := v.gridOf g.ctx g.gid
  v.setGrid { k with placed := max k.placed (i + 1), waitSince := v.time, tbegin := if k.placed == 0 then v.time else k.tbegin }

theorem placeOne_eq {s : State} {g : Grid} {i bay w pcap : Nat} (h : fitsNew s g i bay = some (w, pcap)) :
    placeOne s g i bay = some (placedState s g i bay w pcap) := by
  rw [placeOne, h]
  rfl

theorem teams_placedState (s : State) (g : Grid) (i bay w pcap : Nat) :
    (placedState s g i bay w pcap).teams = s.teams ++ [placedTeam s g i bay w pcap] := by
  rw [placedState, State.setGrid_teams, State.mapMs_teams, withPlaced, teams_writeTeamState, teams_makeResident]

theorem ms_placedState (s : State) (g : Grid) (i bay w pcap : Nat) :
    (placedState s g i bay w pcap).ms = acquireCaches (withPlaced s g i bay w pcap).ms bay 2 := by
  rw [placedState, State.setGrid_ms, State.mapMs]

theorem placeOne_places {s : State} {g : Grid} {i bay w pcap : Nat} (h : fitsNew s g i bay = some (w, pcap)) :
    ∃ u t, placeOne s g i bay = some u ∧ u.teams = s.teams ++ [t] ∧ AtStart t g i bay w ∧ t.pcap = pcap ∧
      ∃ ms, u.ms = acquireCaches ms bay 2 := by
  exact ⟨_, _, placeOne_eq h, teams_placedState s g i bay w pcap, atStart_startTeam _ _ _ _ _ _ _ _, rfl, _, ms_placedState s g i bay w pcap⟩

/-- A team that is neither of a co-resident grid nor of a cluster group starts alone. -/
theorem placeUnit_alone {s : State} {g : Grid} (hc : g.cores = false) (hg : g.group = 1) (i : Nat) : placeUnit s g i = [] := by
  rw [placeUnit, hc, hg]
  simp [rangeFrom]

theorem teamPlace_places {s : State} {g : Grid} {i bay w pcap : Nat} (h : TheGrid s g) (hp : placing s = true) (ho : gridOffers s g = true)
    (hn : nextTeam s g = some i) (he : noEarlier s g.prio g.order i = true) (hc : g.cores = false) (hg : g.group = 1)
    (hf : fitsNew s g i bay = some (w, pcap)) :
    ∃ u t, exec (.teamPlace ⟨g.ctx, g.gid, i⟩ bay) s = .next u ∧ u.teams = s.teams ++ [t] ∧ AtStart t g i bay w ∧ t.pcap = pcap ∧
      ∀ c ∈ u.ms.caches, ofCluster (clusterOf bay) c.own = true →
        ∃ d ∈ u.ms.caches, ofCluster (clusterOf bay) d.own = true ∧ d.sec = c.sec ∧ d.dirty = true := by
  obtain ⟨u, t, hplace, hteams, hstart, hcap, ms, hms⟩ := placeOne_places hf
  have hgo : (placing s && gridOffers s g && nextTeam s g == some i && noEarlier s g.prio g.order i) = true := by simp [hp, ho, hn, he]
  have hrest : (placeOne s g i bay).bind (placeRest g (placeUnit s g i)) = some u := by
    rw [hplace, placeUnit_alone hc hg]
    rfl
  refine ⟨u, t, congrArg Host.Outcome.next ?_, hteams, hstart, hcap, ?_⟩
  · simp only [h.1, if_pos hgo, hrest]
  · rw [hms]
    exact fun c hx ho => dirty_of_acquireCaches hx ho

/-! ### Pre-emption -/

/-- The next team of an offer, new or saved, finds room on a bay. -/
def offerFits (g : Grid) (o : Offer) (s : State) (b : Nat) : Bool :=
  match o.saved with
  | none => (fitsNew s g o.team b).isSome
  | some t => (fitsSaved s t b).isSome

theorem priorityPreempt_shutters {s : State} {g : Grid} {o : Offer} {bay : Nat} {t : Team} (h : TheGrid s g) (hp : placing s = true)
    (ho : nextOffer s g = some o) (hw : s.iod.priwt < s.time - g.waitSince) (hf : o.fits s = false)
    (hb : ((List.range 768).filter fun b => (victim s b g.prio).isSome && offerFits g o (without s b g.prio) b) = [bay])
    (hv : victim s bay g.prio = some t) (hd : t.decl.det = 0) (hc : (s.gridOf t.ref.ctx t.ref.gid).cores = false) :
    exec (.priorityPreempt g.ctx g.gid) s = .next (shutterTeam false s t.ref) := by
  have hgo : ¬ (!placing s || s.time - g.waitSince ≤ s.iod.priwt || o.fits s) = true := by
    have hlate : ¬ s.time - g.waitSince ≤ s.iod.priwt := Nat.not_le.2 hw
    simp only [hp, hf, hlate, decide_false, Bool.not_true, Bool.or_self, Bool.false_eq_true, not_false_eq_true]
  have hpick : s.pick ((List.range 768).filter fun b => (victim s b g.prio).isSome && offerFits g o (without s b g.prio) b) = some (bay, s) := by
    rw [hb]
    rfl
  have hremove : removeTeam s t = shutterTeam false s t.ref := by
    rw [removeTeam, hd, hc]
    rfl
  refine congrArg Host.Outcome.next ?_
  rw [h.1]
  dsimp only
  rw [ho]
  refine (if_neg hgo).trans ?_
  cases hs : o.saved
  all_goals
    simp only [offerFits, hs] at hpick
    simp only [hpick, hv, hremove]

/-! ### Retirement of a team -/

/-- A team that has retired. -/
def retiredTeam (t : Team) : Team :=
  { t with st := .retired, threads := [], lst := ⟨[]⟩, ast := ⟨[]⟩, wst := ⟨[]⟩, cst := ⟨[]⟩, handles := [], streams := [], hold := none }

theorem teamRetire_retires {s : State} {r : TeamRef} {t : Team} (h : s.placedTeam r = some t) (hd : t.decl.det = 0)
    (hx : ∀ x ∈ t.threads, x.status = .exited) (hu : t.unretired = 0) (hs : ∀ x ∈ t.streams, x.jobs = []) (hi : t.imprecise = []) :
    ∃ u v, exec (.teamRetire r) s = .next u ∧ u.teams = (withTeam s v).teams ∧ v.ref = t.ref ∧ v.st = .retired ∧ v.threads = [] ∧ v.lst = ⟨[]⟩ ∧
      u.grids = (s.setGrid { s.gridOf r.ctx r.gid with retired := (s.gridOf r.ctx r.gid).retired + 1 }).grids := by
  have hgo : ¬ (!(t.threads.all fun x => x.status == .exited) || t.unretired != 0 || !(t.streams.all fun x => x.jobs.isEmpty) ||
      !t.imprecise.isEmpty) = true := by
    have hexit : (t.threads.all fun x => x.status == .exited) = true := by simpa using hx
    have hempty : (t.streams.all fun x => x.jobs.isEmpty) = true := by simpa using hs
    simp [hexit, hempty, hu, hi]
  let v := writeTeamState (s.setTeam (retiredTeam t)) (retiredTeam t)
  have hgrids : v.grids = s.grids := grids_writeTeamState _ _
  have hexec : exec (.teamRetire r) s =
      .next (settleResident (v.setGrid { v.gridOf r.ctx r.gid with retired := (v.gridOf r.ctx r.gid).retired + 1 }) r.ctx) := by
    refine congrArg Host.Outcome.next ?_
    rw [h]
    refine (if_neg hgo).trans ?_
    rw [hd]
    rfl
  refine ⟨_, retiredTeam t, hexec, ?_, rfl, rfl, rfl, rfl, ?_⟩
  · rw [teams_settleResident, State.setGrid_teams, teams_writeTeamState, setTeam_eq_withTeam]
  · rw [grids_settleResident, grids_setGrid_congr hgrids, gridOf_congr hgrids]

/-! ### Saving and resumption -/

theorem saveState_eq (t : Team) : t.saveState = { t with
    st := .saved, hold := none, convAcc := t.convAcc.map fun _ => 0, ring := t.ring.unaccept,
    threads := t.threads.map fun x => { written x with held := false, issued := [] } } := by
  simp only [Team.saveState, drain_eq_written]

/-- The state once a team has been saved. -/
def savedTeamState (s : State) (r : TeamRef) (t : Team) : State :=
  let bays := (t.bay :: (t.threads.map (·.bay))).eraseDups
  let v := s.mapMs fun ms => bays.foldl (fun ms b => releaseCaches ms b 2) ms
  let g := v.gridOf r.ctx r.gid
  let g := if (offers v).any fun o => o.grid.ctx == g.ctx && o.grid.gid == g.gid then g else { g with waitSince := v.time }
  settleResident (savePhasers (writeImage ((v.setGrid g).setTeam t.saveState) t.saveState) r) r.ctx

theorem teams_savedTeamState {s : State} {t : Team} (hi : t.image = 0) (r : TeamRef) :
    (savedTeamState s r t).teams = (withTeam s t.saveState).teams := by
  have hnoimage : ∀ v : State, writeImage v t.saveState = v := fun v => if_pos (by rw [show t.saveState.image = t.image from rfl, hi]; rfl)
  rw [savedTeamState, teams_settleResident, savePhasers, State.mapMs_teams, hnoimage, setTeam_eq_withTeam, withTeam, State.setGrid_teams, State.mapMs_teams, withTeam]

/-- A team without an image is saved with nothing written. -/
theorem teamSaved_saves {s : State} {r : TeamRef} {t : Team} (h : s.team? r = some t) (hst : t.st = .shuttered) (ha : s.alive r.ctx = true)
    (hx : ∀ x ∈ t.threads, threadStopped x = true) (he : enginesStopped s t = true)
    (hf : ∀ x ∈ t.threads, x.status = .blocked .fence → fenceStays s t x = true) (hi : t.image = 0) :
    ∃ u, exec (.teamSaved r) s = .next u ∧ u.teams = (withTeam s { t with
      st := .saved, hold := none, convAcc := t.convAcc.map fun _ => 0, ring := t.ring.unaccept,
      threads := t.threads.map fun x => { written x with held := false, issued := [] } }).teams := by
  have hgo : ¬ (t.st != .shuttered || !s.alive r.ctx || !t.threads.all threadStopped || !enginesStopped s t ||
      t.threads.any (fun x => x.status == .blocked .fence && !fenceStays s t x)) = true := by
    have hstop : t.threads.all threadStopped = true := by simpa using hx
    have hfence : t.threads.any (fun x => x.status == .blocked .fence && !fenceStays s t x) = false := by
      rw [List.any_eq_false]
      intro x hm hc
      simp only [Bool.and_eq_true, beq_iff_eq, Bool.not_eq_true'] at hc
      rw [hf x hm hc.1] at hc
      exact Bool.noConfusion hc.2
    simp [hst, ha, hstop, he, hfence]
  refine ⟨savedTeamState s r t, congrArg Host.Outcome.next ?_, ?_⟩
  · rw [h]
    exact if_neg hgo
  · rw [teams_savedTeamState hi, saveState_eq]

theorem teamResume_resumes {s u : State} {r : TeamRef} {t : Team} {bay : Nat} (h : s.team? r = some t) (hp : placing s = true) (hst : t.st = .saved)
    (hm : t.shutMb = false) (hu : resumeUnit s t = [t]) (ho : teamOffered s t = true)
    (he : noEarlier s (s.gridOf r.ctx r.gid).prio (s.gridOf r.ctx r.gid).order t.ref.team = true) (hr : resumeOne s t bay = some u) :
    exec (.teamResume r bay) s = .next (resumeCauses u t) := by
  have href : t.ref = r := by simpa using List.find?_some h
  have hgo : (placing s && t.st == .saved && [t].any (teamOffered s) && [t].all (fun x => !x.shutMb) &&
      noEarlier s (s.gridOf r.ctx r.gid).prio (s.gridOf r.ctx r.gid).order t.ref.team) = true := by
    simp [hp, hst, ho, hm, he]
  have hrest : (resumeOne s t bay).bind (resumeRest ([t].filter fun x => x.ref != r)) = some u := by
    have hnil : ([t].filter fun x => x.ref != r) = [] := List.filter_cons_of_neg (by rw [href, bne_self_eq_false]; decide)
    rw [hnil, hr]
    rfl
  refine congrArg Host.Outcome.next ?_
  simp only [h, hu, if_pos hgo, hrest, List.foldl_cons, List.foldl_nil]

/-- Settles O51: each event by the lemma about it. -/
theorem launchEventResults : Obligations.LaunchEventResults := by
  unfold Obligations.LaunchEventResults
  refine ⟨fun s v hn hl => lqdbWrite_moves v hn hl, fun s v hl => execLqdbWrite_of_no_table hl v, fun s q part c s1 s2 s3 d gid => ?_,
    fun s ctx gid => ⟨dependenceMet_none, gridTimedStart_starts⟩, fun s g i bay w pcap => teamPlace_places,
    fun s g o bay t h hp ho hw hf hb => priorityPreempt_shutters h hp ho hw hf hb, fun s r t => teamRetire_retires,
    fun s g h ha hd hr hc hg => ⟨gridRetire_retires h ha hd hr hc hg, gridRetire_awaits h ha hd hr⟩, fun s g => phaseCommit_commits,
    fun s r t => detTeamAbort_aborts, fun s r t => teamSaved_saves, fun s u r t bay => teamResume_resumes, fun s c => contextKillComplete_completes⟩
  intro h qd id p hl hc hz hpass he hs hne hserv hpart hroom hctx hread hacc
  refine congrArg Host.Outcome.next ((acceptQueue_next hl hc hz hpass he hs hne hserv hpart hroom).trans ?_)
  exact nextSlot_accepted hctx hread hacc

end Sys2Proof.Proofs
end

section
/-! PROOFS. The management mailbox and its commands but TRANSREQ (R375, R385, R433, R450, R455, R461, R465, R468 to R471, R474
to R476). -/

namespace Sys2Proof.Proofs

open Sys2Proof.Machine Sys2Proof.Spec

/-! ### The mailbox -/

theorem mbFinish_eq_answered (s : State) (a st : Nat) : mbFinish s a st = answered s a st := rfl

section
variable {s u : State} {a cmd st : Nat} {r : List Byte} {used : List (Nat × Nat)} {mine : List Byte → Bool} {k : List Byte → State → MbOut}

theorem mbReservedOk_of_commanded (h : Commanded s a cmd r used) : mbReservedOk r used = true := by
  rw [mbReservedOk, List.all_eq_true]
  intro i hi
  obtain ⟨hlow, hhigh⟩ := mem_rangeFrom.mp hi
  rcases h.reserved i hlow hhigh with h0 | ⟨h8, v, hv, hin⟩
  · rw [h0]
    rfl
  · refine Bool.or_eq_true_iff.2 (Or.inr (List.any_eq_true.2 ⟨v, hv, ?_⟩))
    simpa [h8] using hin

variable (h : Commanded s a cmd r used) (hs : s.iod.service = .full) (hm : mine r = true)
include h hs hm

/-- In full service a well-formed record of the command is performed. -/
theorem mbRun_eq : mbRun s cmd mine used k = match k r s with | .done st s => mbFinish s a st | .busy s => s := by
  have hown : ¬ (field r 0 1 != cmd || !mine r || s.iod.service == .off) = true := by
    rw [h.command, hm, hs]
    simp
  have hserved : ¬ mbRefused s cmd = true := by
    rw [mbRefused, hs]
    exact Bool.false_ne_true
  have hformat : ¬ (!mbReservedOk r used) = true := by
    rw [mbReservedOk_of_commanded h]
    decide
  rw [mbRun, h.busy]
  dsimp only
  rw [h.record]
  refine (if_neg hown).trans ((if_neg hformat).trans ((if_neg hserved).trans ?_))
  cases k r s <;> rfl

theorem mbRun_done (hk : k r s = .done st u) : mbRun s cmd mine used k = answered u a st := by
  rw [mbRun_eq h hs hm, hk]
  rfl

theorem mbRun_busy (hk : k r s = .busy u) : mbRun s cmd mine used k = u := by
  rw [mbRun_eq h hs hm, hk]

end

/-- The state with a record taken into the mailbox; a shootdown or a bias flip stands in their order. -/
def taken (s : State) (at' : Nat) (r q : List Byte) : State :=
  { s with iod := { s.iod with
    mb := some at', mbrec := r ++ q
    shootq := if field r 0 1 = 3 ∧ (field q 0 1 = 1 ∨ field q 0 1 = 3) then s.iod.shootq ++ [0] else s.iod.shootq } }

theorem mbctlWrite_busy {s : State} (a : Nat) (hs : s.iod.service ≠ .off) (hb : s.iod.mb ≠ none) :
    exec (.mbctlWriteWhileBusy a) s = .next { s with iod := { s.iod with mbdrop := (s.iod.mbdrop + 1) % 2 ^ 32 } } := by
  have hon : ¬ (s.iod.service == .off) = true := by simpa using hs
  exact congrArg Host.Outcome.next ((if_neg hon).trans (if_pos (Option.isSome_iff_ne_none.2 hb)))

section
variable {s : State} (a : Nat) (hs : s.iod.service ≠ .off) (hb : s.iod.mb = none)
include hs hb

theorem mbctlWrite_free :
    let at' := a / 64 * 64
    let r := homeRead s.ms at' 64
    let q := if field r 0 1 = 3 ∧ field r 8 8 % 64 = 0 then homeRead s.ms (field r 8 8) 64 else []
    exec (.mbctlWriteWhileBusy a) s = .next (if mbKnown r q then taken s at' r q else endUnknown (taken s at' r q) at' r q) := by
  intro at' r q
  have hon : ¬ (s.iod.service == .off) = true := by simpa using hs
  have hfree : ¬ s.iod.mb.isSome = true := by
    rw [hb]
    exact Bool.false_ne_true
  have hq : (if (field r 0 1 == 3 && field r 8 8 % 64 == 0) = true then homeRead s.ms (field r 8 8) 64 else []) = q := by
    simp only [Bool.and_eq_true, beq_iff_eq]
    rfl
  have htaken : ({ s with iod := { s.iod with
      mb := some at', mbrec := r ++ q
      shootq := if (field r 0 1 == 3 && (field q 0 1 == 1 || field q 0 1 == 3)) = true then s.iod.shootq ++ [0] else s.iod.shootq } } : State) =
        taken s at' r q := by
    simp only [taken, Bool.and_eq_true, Bool.or_eq_true, beq_iff_eq]
  refine congrArg Host.Outcome.next ((if_neg hon).trans ((if_neg hfree).trans ?_))
  dsimp only
  rw [show homeRead s.ms (a / 64 * 64) 64 = r from rfl, hq, show a / 64 * 64 = at' from rfl, htaken]

/-- A record of no command ends with status 2. -/
theorem mbctlWrite_unknown :
    let at' := a / 64 * 64
    let r := homeRead s.ms at' 64
    let q := if field r 0 1 = 3 ∧ field r 8 8 % 64 = 0 then homeRead s.ms (field r 8 8) 64 else []
    field r 0 1 = 0 ∨ 0x0B < field r 0 1 → exec (.mbctlWriteWhileBusy a) s = .next (answered (taken s at' r q) at' 2) := by
  intro at' r q hc
  have h2 : ¬ (field r 0 1 == 2) = true := by
    rw [beq_iff_eq]
    omega
  have h3 : ¬ (field r 0 1 == 3) = true := by
    rw [beq_iff_eq]
    omega
  have hknown : ¬ mbKnown r q = true := by
    rw [mbKnown, if_neg h2, if_neg h3, Bool.and_eq_true, decide_eq_true_eq, decide_eq_true_eq]
    omega
  have hend : (field r 0 1 != 3 || !mbReservedOk r [(8, 8)] || field r 8 8 % 64 != 0) = true := by
    rw [bne, Bool.eq_false_of_not_eq_true h3]
    rfl
  refine (mbctlWrite_free a hs hb).trans (congrArg Host.Outcome.next ((if_neg hknown).trans ?_))
  exact if_pos hend

theorem mbctlWrite_known :
    let at' := a / 64 * 64
    let r := homeRead s.ms at' 64
    let q := if field r 0 1 = 3 ∧ field r 8 8 % 64 = 0 then homeRead s.ms (field r 8 8) 64 else []
    mbKnown r q = true → exec (.mbctlWriteWhileBusy a) s = .next (taken s at' r q) :=
  fun hk => (mbctlWrite_free a hs hb).trans (congrArg Host.Outcome.next (if_pos hk))

end

/-! ### The commands -/

theorem anyResident_of_idle {s : State} (h : Idle s) : ¬ anyResident s = true := by
  rw [anyResident, List.any_eq_true]
  rintro ⟨c, hc, hst⟩
  obtain ⟨hres, hkill⟩ := h c hc
  simp [hres, hkill] at hst

theorem anyResident_of_not_idle {s : State} (h : ¬ Idle s) : anyResident s = true := by
  by_contra hn
  refine h fun c hc => ?_
  rw [anyResident, List.any_eq_true] at hn
  constructor
  · exact fun he => hn ⟨c, hc, by rw [he]; rfl⟩
  · exact fun he => hn ⟨c, hc, by rw [he]; rfl⟩

section
variable {s : State} {a : Nat} {r : List Byte} (hs : s.iod.service = .full)
include hs

theorem exec_resync (h : Commanded s a 1 r [(8, 8)]) (ha : field r 8 8 % 64 = 0) :
    exec .resync s = .next (answered { sampleErrors s with ms := sysWrite s.ms (field r 8 8) (resyncRecord (sampleErrors s)) } a 1) := by
  refine congrArg Host.Outcome.next (mbRun_done h hs rfl (if_neg ?_))
  rw [ha]
  decide

section
variable (h : Commanded s a 2 r [(8, 1), (9, 1), (10, 1), (16, 8)])
include h

theorem setreg_done {reg st : Nat} {sized : Bool} {ok : Nat → Nat → Nat → Bool} {k : Nat → Nat → Nat → State → MbOut} {u : State}
    (hr : field r 8 1 = reg) (hp : reg = 3 ∨ field r 9 1 = 0) (hn : sized = true ∨ field r 10 1 = 0)
    (ho : ok (field r 9 1) (field r 10 1) (field r 16 8) = true) (hk : k (field r 9 1) (field r 10 1) (field r 16 8) s = .done st u) :
    setreg s reg sized ok k = answered u a st := by
  refine mbRun_done h hs (beq_iff_eq.2 hr) ((if_neg ?_).trans hk)
  rw [ho]
  rcases hp with hp | hp <;> rcases hn with hn | hn <;> simp [hp, hn]

theorem setreg_refused {reg : Nat} {sized : Bool} {ok : Nat → Nat → Nat → Bool} {k : Nat → Nat → Nat → State → MbOut}
    (hr : field r 8 1 = reg) (ho : ok (field r 9 1) (field r 10 1) (field r 16 8) = false) : setreg s reg sized ok k = answered s a 2 := by
  refine mbRun_done h hs (beq_iff_eq.2 hr) (if_pos ?_)
  rw [ho, Bool.not_false, Bool.or_true]

/-- Every SETREG of a register whose value, PART and SIZE are within their limits. -/
theorem setreg_results :
    let reg := field r 8 1
    let p := field r 9 1
    let n := field r 10 1
    let v := field r 16 8
    let ends := fun (i : Instr) (t : State) (st : Nat) => exec i s = .next (answered t a st)
    (reg = 1 → p = 0 → n = 0 → v % 4096 = 0 → Idle s → ends .setregCtxtb { s with iod := { s.iod with ctxtb := v } } 1) ∧
    (reg = 1 → p = 0 → n = 0 → v % 4096 = 0 → ¬ Idle s → ends .setregCtxtb s 3) ∧
    (reg = 2 → p = 0 → n = 0 → v % 64 = 0 → ends .setregLqtb { s with iod := { s.iod with lqtb := v } } 1) ∧
    (reg = 3 → p < 8 → 6 ≤ n → n ≤ 16 → v % 4096 = 0 → ends .setregFqb { s with iod := { s.iod with fqb := s.iod.fqb.set p (v, n) } } 1) ∧
    (reg = 4 → p = 0 → n = 0 → ends .setregPriwt { s with iod := { s.iod with priwt := v } } 1) ∧
    (reg = 5 → p = 0 → 4 ≤ n → n ≤ 20 → v % 4096 = 0 → (∀ l ∈ s.ms.latches, l.place ≠ .overflow) →
      ends .setregLovb { s with iod := { s.iod with lovb := v, lovs := n, lovNext := none } } 1) ∧
    (reg = 6 → p = 0 → n = 0 → 1000 ≤ v → v ≤ 10000000 → ends .setregLto { s with iod := { s.iod with lto := v } } 1) ∧
    (reg = 6 → (v < 1000 ∨ 10000000 < v) → ends .setregLto s 2) := by
  intro reg p n v ends
  refine ⟨fun hr hp hn hv hi => ?_, fun hr hp hn hv hi => ?_, fun hr hp hn hv => ?_, fun hr hp hn hn' hv => ?_, fun hr hp hn => ?_,
    fun hr hp hn hn' hv hl => ?_, fun hr hp hn hv hv' => ?_, fun hr hv => ?_⟩
  · exact congrArg Host.Outcome.next (setreg_done hs h hr (.inr hp) (.inr hn) (beq_iff_eq.2 hv) (if_neg (anyResident_of_idle hi)))
  · exact congrArg Host.Outcome.next (setreg_done hs h hr (.inr hp) (.inr hn) (beq_iff_eq.2 hv) (if_pos (anyResident_of_not_idle hi)))
  · exact congrArg Host.Outcome.next (setreg_done hs h hr (.inr hp) (.inr hn) (beq_iff_eq.2 hv) rfl)
  · refine congrArg Host.Outcome.next (setreg_done hs h hr (.inl rfl) (.inl rfl) ?_ rfl)
    simpa [and_assoc] using (⟨hp, hn, hn', hv⟩ : p < 8 ∧ 6 ≤ n ∧ n ≤ 16 ∧ v % 4096 = 0)
  · exact congrArg Host.Outcome.next (setreg_done hs h hr (.inr hp) (.inr hn) rfl rfl)
  · have hsettle : settleLov { s with iod := { s.iod with lovNext := some (v, n) } } =
        { s with iod := { s.iod with lovb := v, lovs := n, lovNext := none } } := by
      have hnone : ¬ (s.ms.latches.any fun l => l.place == .overflow) = true := by simpa using hl
      exact if_neg hnone
    refine congrArg Host.Outcome.next (setreg_done hs h hr (.inr hp) (.inl rfl) ?_ (congrArg (MbOut.done 1) hsettle))
    simpa [and_assoc] using (⟨hn, hn', hv⟩ : 4 ≤ n ∧ n ≤ 20 ∧ v % 4096 = 0)
  · refine congrArg Host.Outcome.next (setreg_done hs h hr (.inr hp) (.inr hn) ?_ rfl)
    simpa using (⟨hv, hv'⟩ : 1000 ≤ v ∧ v ≤ 10000000)
  · refine congrArg Host.Outcome.next (setreg_refused hs h hr ?_)
    rw [Bool.and_eq_false_iff, decide_eq_false_iff_not, decide_eq_false_iff_not, Nat.not_le, Nat.not_le]
    exact hv

end

section
variable (h : Commanded s a 4 r [(8, 2), (10, 1), (16, 4), (20, 4)]) (hf : field r 10 1 ≤ 1) (ha : s.alive (field r 8 2) = true)
include h hf ha

theorem exec_shutter_none (hn : ∀ t ∈ s.teams, t.ref.ctx ≠ field r 8 2) : exec .shutter s = .next (answered s a 3) := by
  have hsize : ¬ field r 10 1 > 1 := Nat.not_lt.2 hf
  have hnamed : ¬ (s.teams.any fun t => t.ref.ctx == field r 8 2 && t.shutMb) = true := by
    rw [List.any_eq_true]
    rintro ⟨t, ht, hc⟩
    exact hn t ht (by simpa using (Bool.and_eq_true_iff.1 hc).1)
  have halive : ¬ (!s.alive (field r 8 2)) = true := by
    rw [ha]
    decide
  have hnone : (s.teams.filter fun t => t.ref.ctx == field r 8 2 && t.st != .retired &&
      (field r 10 1 == 1 || (t.ref.gid == field r 16 4 && t.ref.team == field r 20 4))) = [] := by
    rw [List.filter_eq_nil_iff]
    intro t ht hc
    refine hn t ht ?_
    simp only [Bool.and_eq_true, beq_iff_eq] at hc
    exact hc.1.1
  refine congrArg Host.Outcome.next (mbRun_done h hs rfl ((if_neg hsize).trans ((if_neg hnamed).trans ((if_neg halive).trans (if_pos ?_)))))
  rw [hnone]
  rfl

end

end

/-! ### Shuttering a team by the mailbox -/

theorem releaseGang_keeps (t : Team) (g : Nat) : (t.releaseGang g).ref = t.ref ∧ (t.releaseGang g).st = t.st ∧ (t.releaseGang g).shutMb = t.shutMb :=
  ⟨rfl, rfl, rfl⟩

theorem releaseGangs_keeps (l : List Nat) : ∀ t : Team,
    (l.foldl Team.releaseGang t).ref = t.ref ∧ (l.foldl Team.releaseGang t).st = t.st ∧ (l.foldl Team.releaseGang t).shutMb = t.shutMb := by
  induction l with
  | nil => exact fun t => ⟨rfl, rfl, rfl⟩
  | cons g l ih => exact fun t => ih (t.releaseGang g)

/-- The one team of the module, shuttered by the mailbox, is placed still and awaited. -/
theorem teams_shutterTeam {s : State} {t : Team} (ht : s.teams = [t]) (hst : t.st = .running) :
    ∃ v, (shutterTeam true s t.ref).teams = [v] ∧ v.ref = t.ref ∧ v.st = .shuttered ∧ v.shutMb = true := by
  have hfind : s.team? t.ref = some t := by
    rw [State.team?, ht]
    exact List.find?_cons_of_pos (by simp)
  let w : Team := { t.unhold with st := .shuttered, shutMb := true, threads := t.unhold.threads.map fun x => { x with entering := false } }
  have hset : (writeTeamState (s.setTeam w) w).teams = [w] := by
    rw [teams_writeTeamState, State.setTeam, ht]
    exact congrArg (· :: []) (if_pos (beq_iff_eq.2 rfl))
  have hfind' : (writeTeamState (s.setTeam w) w).team? t.ref = some w := by
    rw [State.team?, hset]
    exact List.find?_cons_of_pos (beq_iff_eq.2 rfl)
  have heq : shutterTeam true s t.ref = releaseFin (writeTeamState (s.setTeam w) w) t.ref := by
    rw [shutterTeam, hfind]
    exact if_pos (beq_iff_eq.2 hst)
  obtain ⟨href, hw, hmb⟩ := releaseGangs_keeps ((((w.threads.filter fun x => x.fin && x.status != .exited).map (·.gang)).eraseDups)) w
  refine ⟨_, ?_, href, hw, hmb⟩
  rw [heq, releaseFin, hfind']
  dsimp only
  rw [State.setTeam, hset]
  exact congrArg (· :: []) (if_pos (beq_iff_eq.2 href.symm))

section
variable {s : State} {a : Nat} {r : List Byte} (hs : s.iod.service = .full)
include hs

theorem exec_shutter_one (h : Commanded s a 4 r [(8, 2), (10, 1), (16, 4), (20, 4)]) (ha : s.alive (field r 8 2) = true) {t : Team}
    (ht : s.teams = [t]) (hst : t.st = .running) (hmb : t.shutMb = false) (hall : field r 10 1 = 1) (hc : t.ref.ctx = field r 8 2) :
    exec .shutter s = .next (shutterTeam true s t.ref) := by
  have hsize : ¬ field r 10 1 > 1 := by
    rw [hall]
    decide
  have hnamed : ¬ (s.teams.any fun t => t.ref.ctx == field r 8 2 && t.shutMb) = true := by simp [ht, hmb]
  have halive : ¬ (!s.alive (field r 8 2)) = true := by
    rw [ha]
    decide
  have hts : (s.teams.filter fun t => t.ref.ctx == field r 8 2 && t.st != .retired &&
      (field r 10 1 == 1 || (t.ref.gid == field r 16 4 && t.ref.team == field r 20 4))) = [t] := by simp [ht, hc, hst, hall]
  have hmates : (s.teams.filter fun u => u.st != .retired && [t].any fun t =>
      t.ref.ctx == u.ref.ctx && t.ref.gid == u.ref.gid && t.ref != u.ref && (s.gridOf t.ref.ctx t.ref.gid).cores) = [] := by simp [ht]
  obtain ⟨v, hv, href, hsh, hvmb⟩ := teams_shutterTeam ht hst
  have hbusy : shutterAnswer (shutterTeam true s t.ref) (field r 8 2) = .busy (shutterTeam true s t.ref) := by
    refine if_pos ?_
    rw [hv]
    simp [href, hc, hsh, hvmb, Team.placedHere]
  refine congrArg Host.Outcome.next (mbRun_busy h hs rfl ((if_neg hsize).trans ((if_neg hnamed).trans ((if_neg halive).trans ?_))))
  dsimp only
  rw [hts, hmates]
  exact (if_neg (by simp)).trans hbusy

/-! ### The other commands -/

section
variable (h : Commanded s a 5 r [(8, 2)]) (hid : field r 8 2 < 4096)
include h hid

theorem exec_kill_unknown (hc : s.ctx? (field r 8 2) = none) : exec .kill s = .next (answered s a 1) := by
  have hkill : s.killContext (field r 8 2) 0x44 0 = s := by rw [State.killContext, hc]
  refine congrArg Host.Outcome.next (mbRun_done h hs rfl ((if_neg (Nat.not_le.2 hid)).trans ?_))
  dsimp only
  rw [hkill, State.ctxOf, hc]
  exact if_neg Bool.false_ne_true

theorem exec_kill_resident {c : Ctx} (hc : s.ctx? (field r 8 2) = some c) (hst : c.st = .resident) :
    exec .kill s = .next (s.killContext (field r 8 2) 0x44 0) := by
  have hk := ctx?_killContext hc hst 0x44 0
  refine congrArg Host.Outcome.next (mbRun_busy h hs rfl ((if_neg (Nat.not_le.2 hid)).trans ?_))
  dsimp only
  rw [State.ctxOf, hk]
  rfl

end

theorem exec_partset (h : Commanded s a 6 r [(8, 8)]) (ha : field r 8 8 % 64 = 0) (hi : Idle s)
    (ho : partTableOk (homeRead s.ms (field r 8 8) 1024) = true) :
    exec .partset s = .next (answered { s with iod := { s.iod with parts := (List.range 8).map (partOf (homeRead s.ms (field r 8 8) 1024)) } } a 1) := by
  have hplace : ¬ (field r 8 8 % 64 != 0) = true := by
    rw [ha]
    decide
  exact congrArg Host.Outcome.next (mbRun_done h hs rfl ((if_neg hplace).trans ((if_neg (anyResident_of_idle hi)).trans (if_pos ho))))

/-- The fixed power caps by kind of die (R465). -/
def mostPower (d : Nat) : Nat := if d < 8 then 740 else if d < 12 then 120 else if d < 14 then 150 else 200

omit hs in
theorem fixedCap_eq {d : Nat} (h : d ≤ 14) : fixedCap d = mostPower d := by
  interval_cases d <;> rfl

section
variable (h : Commanded s a 7 r [(8, 1), (10, 2)]) (hd : field r 8 1 ≤ 14)
include h hd

theorem exec_powercap (hw : field r 10 2 ≤ mostPower (field r 8 1)) (hw' : mostPower (field r 8 1) ≤ 2 * field r 10 2) {x : Die}
    (hx : s.iod.dies[field r 8 1]? = some x) :
    exec .powercap s = .next (answered { s with iod := { s.iod with dies := s.iod.dies.set (field r 8 1) { x with cap := field r 10 2 } } } a 1) := by
  have hcap : ¬ (field r 10 2 > fixedCap (field r 8 1) || 2 * field r 10 2 < fixedCap (field r 8 1)) = true := by
    rw [fixedCap_eq hd, Bool.or_eq_true, decide_eq_true_eq, decide_eq_true_eq]
    omega
  refine congrArg Host.Outcome.next (mbRun_done h hs rfl ((if_neg (Nat.not_lt.2 hd)).trans ((if_neg hcap).trans ?_)))
  rw [updAt_eq_set hx]

theorem exec_powercap_refused (hw : mostPower (field r 8 1) < field r 10 2) : exec .powercap s = .next (answered s a 3) := by
  have hcap : (field r 10 2 > fixedCap (field r 8 1) || 2 * field r 10 2 < fixedCap (field r 8 1)) = true := by
    rw [fixedCap_eq hd, Bool.or_eq_true, decide_eq_true_eq]
    exact Or.inl hw
  exact congrArg Host.Outcome.next (mbRun_done h hs rfl ((if_neg (Nat.not_lt.2 hd)).trans (if_pos hcap)))

end

/-- A module joins a pod and admits no window of its memory. -/
theorem exec_podcfg (h : Commanded s a 8 r [(8, 2), (10, 1), (16, 8)]) (hhi : field r 8 2 < 4096 + 32768) (hlo : 32768 ≤ field r 8 2)
    (hn : field r 10 1 = 0) (hi : Idle s) :
    exec .podcfg s =
      .next (answered { s with iod := { s.iod with node := some (field r 8 2 - 32768), exports := [], syncCount := 0, syncRate := 0 } } a 1) := by
  have hformat : ¬ (bits (field r 8 2) 14 12 != 0 || field r 10 1 > 8) = true := by
    have hz : bits (field r 8 2) 14 12 = 0 := by
      rw [bits]
      omega
    rw [hz, hn]
    decide
  have hnode : (if bitAt (field r 8 2) 15 = true then some (field r 8 2 % 4096) else none) = some (field r 8 2 - 32768) := by
    have hbit : bitAt (field r 8 2) 15 = true := by
      rw [bitAt, beq_iff_eq]
      omega
    have hmod : field r 8 2 % 4096 = field r 8 2 - 32768 := by omega
    rw [if_pos hbit, hmod]
  refine congrArg Host.Outcome.next (mbRun_done h hs rfl ((if_neg hformat).trans ((if_neg (anyResident_of_idle hi)).trans ?_)))
  rw [hn, hnode]
  rfl

theorem exec_timeset (h : Commanded s a 9 r [(8, 8)]) :
    (s.iod.everResident = false → exec .timeset s = .next (answered { s with time := field r 8 8 } a 1)) ∧
    (s.iod.everResident = true → exec .timeset s = .next (answered s a 3)) :=
  ⟨fun he => congrArg Host.Outcome.next (mbRun_done h hs rfl (if_neg (by rw [he]; decide))),
    fun he => congrArg Host.Outcome.next (mbRun_done h hs rfl (if_pos he))⟩

theorem exec_attest (h : Commanded s a 0x0B r [(8, 8), (16, 8)]) (ha : field r 16 8 % 64 = 0) :
    exec .attest s = .next (answered { s with ms := sysWrite s.ms (field r 16 8) (attestReport s (homeRead s.ms (field r 8 8) 48)) } a 1) := by
  refine congrArg Host.Outcome.next (mbRun_done h hs rfl (if_neg ?_))
  rw [ha]
  decide

section
variable (h : Commanded s a 0x0A r [(8, 8), (16, 8)])
include h

theorem exec_fwload_refused (hi : Idle s) (hn : s.iod.fwwrite = none) (ho : imageOk (homeRead s.ms (field r 8 8) (field r 16 8)) = false) :
    exec .fwload s = .next (answered s a 4) := by
  refine congrArg Host.Outcome.next (mbRun_done h hs rfl ?_)
  simp only [hn, if_neg (anyResident_of_idle hi), ho, Bool.false_eq_true, if_false]

theorem exec_fwload_writes (hi : Idle s) (hn : s.iod.fwwrite = none) (ho : imageOk (homeRead s.ms (field r 8 8) (field r 16 8)) = true) :
    exec .fwload s = .next { s with iod := { s.iod with fwwrite := some (homeRead s.ms (field r 8 8) (field r 16 8)), fwok := false } } := by
  refine congrArg Host.Outcome.next (mbRun_busy h hs rfl ?_)
  simp only [hn, if_neg (anyResident_of_idle hi), ho, if_true]

theorem exec_fwload_resets {image : List Byte} (hw : s.iod.fwwrite = some image) :
    ∃ u, exec .fwload s = .next u ∧ u.iod.fwok = true ∧ u.iod.fwimage = image ∧ u.iod.service = .off ∧ u.ctxs = [] ∧
      u.teams = [] ∧ u.grids = [] ∧ u.time = 0 ∧ u.ms.caches = [] ∧ u.ms.tlb = [] ∧ u.ms.mem = settledMem (answered s a 1).ms := by
  refine ⟨moduleReset (answered s a 1) (slotWith image), congrArg Host.Outcome.next (mbRun_busy h hs rfl ?_), rfl, rfl, rfl, rfl, rfl, rfl, rfl,
    rfl, rfl, rfl⟩
  simp only [hw, h.busy]
  rfl

end
end

end Sys2Proof.Proofs
end

section
/-! PROOFS. Translation requests: shootdowns, migrations and bias flips, and with them the mailbox (R156, R425 to R430). -/

namespace Sys2Proof.Proofs

open Sys2Proof.Machine Sys2Proof.Spec

/-! ### Requests -/

section
variable {s u : State} {a cmd p st n : Nat} {r q : List Byte} {k : List Byte → Nat → State → TrOut} (h : Requested s a cmd r q p)
include h

/-- How a request ends: answered in its record, then the command done. -/
def requestAnswered (s : State) (q : List Byte) (st n a : Nat) : State :=
  answered (trFinish { s with iod := { s.iod with transreq := none } } q st n) a 1

/-- The record of a request passes every check of its command. -/
theorem trRun_body :
    (if field r 8 8 % 64 != 0 then MbOut.done 2 s
      else
        let q := s.iod.request
        let s0 := { s with iod := { s.iod with transreq := none } }
        if !trFormatOk q cmd then .done 1 (trFinish s0 q 2 0)
        else
          match asidPart s (field q 2 2) with
          | none => .done 1 (trFinish s0 q 7 0)
          | some p =>
            match k q p s with
            | .done st n s => .done 1 (trFinish { s with iod := { s.iod with transreq := none } } q st n)
            | .busy s => .busy s
            | .taken s => .done 1 s) =
      match k q p s with
      | .done st n s => .done 1 (trFinish { s with iod := { s.iod with transreq := none } } q st n)
      | .busy s => .busy s
      | .taken s => .done 1 s := by
  have hplace : ¬ (field r 8 8 % 64 != 0) = true := by
    rw [h.place]
    decide
  have hreq : s.iod.request = q := h.request
  have hformat : ¬ (!trFormatOk q cmd) = true := by
    rw [h.format]
    decide
  refine (if_neg hplace).trans ?_
  rw [hreq]
  refine (if_neg hformat).trans ?_
  rw [h.part]

theorem trRun_mine : (field s.iod.request 0 1 == cmd) = true := by
  rw [show s.iod.request = q from h.request, beq_iff_eq]
  exact h.kind

theorem trRun_done (hk : k q p s = .done st n u) : trRun s cmd k = requestAnswered u q st n a :=
  mbRun_done h.toCommanded h.service (trRun_mine h) ((trRun_body h).trans (by rw [hk]))

theorem trRun_busy (hk : k q p s = .busy u) : trRun s cmd k = u :=
  mbRun_busy h.toCommanded h.service (trRun_mine h) ((trRun_body h).trans (by rw [hk]))

theorem trRun_taken (hk : k q p s = .taken u) : trRun s cmd k = answered u a 1 :=
  mbRun_done h.toCommanded h.service (trRun_mine h) ((trRun_body h).trans (by rw [hk]))

end

/-! ### Shootdowns -/

/-- What a shootdown of an ASID's range drops; with size 0 of all its addresses. -/
def shotDown (s : State) (p asid base size : Nat) (ms : MemSys) : MemSys :=
  { ms with
    tlb := ms.tlb.filter fun e => !(e.asid == asid && (size == 0 || (e.base < base + size && base < e.base + e.size)))
    walks := ms.walks.filter fun e => !(e.asid == asid && (size == 0 || (e.base < base + size && base < e.base + e.size)))
    icache := ms.icache.filter fun c => !(s.iod.parts.getD p Part.unused).cdmask.testBit (c.bay / 96) }

theorem shootdown_eq (s : State) (p asid base size : Nat) : shootdown s p (· == asid) base size = { s with ms := shotDown s p asid base size s.ms } := by
  simp only [shootdown, State.mapMs, shotDown, bitAt_eq_testBit]
  rfl

section
variable {s : State}

theorem wakeWalkers_no_teams (ht : s.teams = []) (asids cover : Nat → Bool) : wakeWalkers s asids cover = s := by
  rw [wakeWalkers, ht]
  rfl

theorem stillThrough_quiet (hp : s.ms.podOut = []) (asids : Nat → Bool) : stillThrough s asids = false := by
  rw [stillThrough, hp]
  rfl

section
variable {a p : Nat} {r q : List Byte} (h : Requested s a 1 r q p) (hk : field q 1 1 = 0)
include h

theorem exec_shootdown_waits (ht : s.iod.shootq.head? ≠ some 0) : exec .shootdown s = .next s := by
  have hturn : (!mailboxTurn s) = true := by simpa [mailboxTurn] using ht
  exact congrArg Host.Outcome.next (trRun_busy h (if_pos hturn))

include hk

theorem exec_shootdown (hteams : s.teams = []) (hp : s.ms.podOut = []) (ht : s.iod.shootq.head? = some 0) :
    exec .shootdown s =
      .next (requestAnswered { s with ms := shotDown s p (field q 2 2) (field q 8 8) (field q 16 8) s.ms } q 1 0 a) := by
  have hturn : ¬ (!mailboxTurn s) = true := by simp [mailboxTurn, ht]
  have hasids : (fun a => if field q 1 1 == 1 then
      (nth s.iod.parts p Part.unused).asidBase ≤ a &&
        a < (nth s.iod.parts p Part.unused).asidBase + (nth s.iod.parts p Part.unused).asidCnt
      else a == field q 2 2) = (· == field q 2 2) := by
    rw [hk]
    rfl
  refine congrArg Host.Outcome.next (trRun_done h ?_)
  dsimp only
  rw [hasids, shootdown_eq]
  let v : State := { s with ms := shotDown s p (field q 2 2) (field q 8 8) (field q 16 8) s.ms }
  refine (if_neg hturn).trans ((if_neg ?_).trans (congrArg (TrOut.done 1 0) (wakeWalkers_no_teams (s := v) hteams _ _)))
  exact fun hc => Bool.false_ne_true ((stillThrough_quiet (s := v) hp _).symm.trans hc)

end

/-! ### Stages of a job -/

section
variable {j : TransJob} {id e k at' : Nat}

theorem withLock_free (hl : leafLock e = false) : withLock e = e + 32 := by
  rw [withLock, hl]
  rfl

theorem cas64_same {new : Nat} (h : homeNat s.ms at' 8 = e) : cas64 s at' e new = some { s with ms := homeWrite s.ms at' (toBytes 8 new) } :=
  if_pos (beq_iff_eq.2 h)

theorem cas64_other {new : Nat} (h : homeNat s.ms at' 8 ≠ e) : cas64 s at' e new = none := if_neg (by simpa using h)

/-- The job whose page is locked. -/
def lockedJob (s : State) (j : TransJob) (e k at' : Nat) : TransJob :=
  { j with ctx := ((asidCtx s j.asid).map (·.id)).getD 0, entryAt := at', entry := e, k := k, stage := 1 }

theorem jobLock_locks {sized : Nat → Bool} {refused done : Nat → Nat → Bool} (hw : trWalk s j.asid (field j.record 8 8) = (some (e, k, at'), s))
    (hs : sized k = true) (hl : leafLock e = false) (hr : refused e k = false) (hd : done e k = false) (hc : homeNat s.ms at' 8 = e) :
    jobLock id s j sized refused done = .goesOn (lockedJob s j e k at') (askShoot id { s with ms := homeWrite s.ms at' (toBytes 8 (e + 32)) }) := by
  rw [jobLock, hw]
  simp only [hs, hl, hr, hd, Bool.not_true, Bool.false_eq_true, if_false, withLock_free hl, cas64_same hc]
  rfl

variable {f : TransJob → State → JobOut}

theorem jobShoot_waits (ht : s.iod.shootq.head? ≠ some id) : jobShoot id s j f = .goesOn j s := if_pos (bne_iff_ne.2 ht)

section
variable (ht : s.iod.shootq.head? = some id)
include ht

theorem jobShoot_shoots (hs : j.shot = false) :
    jobShoot id s j f = .goesOn { j with shot := true } { s with ms := shotDown s j.part j.asid j.base (2 ^ j.k) s.ms } := by
  have hturn : ¬ (s.iod.shootq.head? != some id) = true := by simp [ht]
  refine (if_neg hturn).trans ((if_pos (by rw [hs]; rfl)).trans ?_)
  rw [jobShootdown, shootdown_eq]

theorem jobShoot_done (hs : j.shot = true) (hp : s.ms.podOut = []) (hteams : s.teams = []) :
    jobShoot id s j f = f { j with shot := false } (if id == 0 then s else { s with iod := { s.iod with shootq := s.iod.shootq.tail } }) := by
  have hturn : ¬ (s.iod.shootq.head? != some id) = true := by simp [ht]
  have hshot : ¬ (!j.shot) = true := by simp [hs]
  have hclear : ¬ (!jobClear s j) = true := by
    rw [jobClear, stillThrough_quiet hp]
    decide
  refine (if_neg hturn).trans ((if_neg hshot).trans ((if_neg hclear).trans (congrArg (f { j with shot := false }) ?_)))
  refine wakeWalkers_no_teams ?_ _ _
  split
  · exact hteams
  · exact hteams

end
end

/-! ### The migration engines -/

section
variable {a p : Nat} {r q : List Byte}

/-- A migration goes to its engine, and the command is done. -/
theorem exec_migrate_taken {l : List TransJob} (h : Requested s a 2 r q p) (hl : s.iod.movers[field q 37 1]? = some l) :
    exec .migrate s = .next (answered { s with
      iod := { s.iod with movers := s.iod.movers.set (field q 37 1) (l ++ [⟨q, p, 0, 0, 0, 0, 0, 0, 0, false⟩]) } } a 1) := by
  have hrun := trRun_taken (k := fun q p s =>
    .taken { s with iod := { s.iod with movers := updAt s.iod.movers (field q 37 1) fun l => l ++ [TransJob.new q p] } }) h rfl
  rw [updAt_eq_set hl] at hrun
  refine congrArg Host.Outcome.next ?_
  rw [hrun]
  refine if_pos ?_
  rw [h.busy]
  rfl

end

section
variable {u : State} {j i : TransJob} (hb : s.iod.mb = none) (hm : s.iod.movers = [[j], []])
include hb hm

/-- With one job at engine 0 and none at engine 1, it is engine 0 that goes on. -/
theorem exec_migrate_engine : exec .migrate s = .next (moverStep 0 s) := by
  have hrun : ∀ k, trRun s 2 k = s := fun k => by rw [trRun, mbRun, hb]
  have hone : (([0, 1] : List Nat).filter fun e => nth s.iod.movers e [] != []) = [0] := by
    rw [hm]
    simp [nth]
  refine congrArg Host.Outcome.next ?_
  dsimp only
  rw [hrun]
  refine (if_neg (by simp)).trans ?_
  rw [hone]

/-- The state in which engine 0 holds a job, or none. -/
def withMovers (s : State) (l : List TransJob) : State := { s with iod := { s.iod with movers := [l, []] } }

theorem migrate_goesOn (hu : u.iod.movers = [[j], []]) (hs : migrateStage s j = .goesOn i u) : exec .migrate s = .next (withMovers u [i]) := by
  have hjob : nth s.iod.movers 0 [] = [j] := by
    rw [hm]
    rfl
  rw [exec_migrate_engine hb hm, moverStep, hjob]
  dsimp only
  rw [hs]
  dsimp only
  rw [hu]
  rfl

theorem migrate_done {st n : Nat} (hu : u.iod.movers = [[j], []]) (hs : migrateStage s j = .done st n u) :
    exec .migrate s = .next (trFinish (withMovers u []) j.record st n) := by
  have hjob : nth s.iod.movers 0 [] = [j] := by
    rw [hm]
    rfl
  rw [exec_migrate_engine hb hm, moverStep, hjob]
  dsimp only
  rw [hs]
  dsimp only
  rw [hu]
  rfl

omit hb hm in
theorem withMovers_self (hm : s.iod.movers = [[j], []]) : withMovers s [j] = s := by
  rw [withMovers, ← hm]

end

theorem iod_podFill (who : ThreadRef) (s : State) (q : Nat) : (podFill who s q).iod = s.iod := by
  rw [podFill]
  split <;> rfl

theorem iod_foldl_podFill (who : ThreadRef) (l : List Nat) : ∀ s : State, (l.foldl (podFill who) s).iod = s.iod := by
  induction l with
  | nil => exact fun s => rfl
  | cons q l ih => exact fun s => (ih _).trans (iod_podFill who s q)

theorem iod_copyPage (s : State) (j : TransJob) : (copyPage s j).iod = s.iod := by
  rw [copyPage]
  dsimp only
  split
  · rw [State.mapMs_iod, State.mapMs_iod, iod_foldl_podFill, State.mapMs_iod]
  · split
    · rw [State.mapMs_iod, State.mapMs_iod]
    · rw [State.mapMs_iod, State.mapMs_iod]

/-! ### The stages of a migration by engine 0 -/

section
variable {j : TransJob} (he : field j.record 37 1 = 0)
include he

theorem migrateStage_lock {e k at' : Nat} (hst : j.stage = 0) (hw : trWalk s j.asid (field j.record 8 8) = (some (e, k, at'), s))
    (hz : field j.record 24 8 % 2 ^ k = 0) (hl : leafLock e = false) (hh : leafHC e = false)
    (hd : destinationOk s j.part (movedEntry j.record e) k (field j.record 24 8) = true) (hc : homeNat s.ms at' 8 = e) :
    migrateStage s j = .goesOn (lockedJob s j e k at')
      { s with ms := homeWrite s.ms at' (toBytes 8 (e + 32)), iod := { s.iod with shootq := s.iod.shootq ++ [1] } } := by
  rw [migrateStage, hst, he]
  refine (jobLock_locks hw ?_ hl ?_ rfl hc).trans rfl
  · rw [hz]
    rfl
  · rw [hh, hd]
    rfl

theorem migrateStage_waits (hst : j.stage = 1 ∨ j.stage = 9) (ht : s.iod.shootq.head? ≠ some 1) : migrateStage s j = .goesOn j s := by
  rcases hst with hst | hst
  all_goals
    rw [migrateStage, hst, he]
    exact jobShoot_waits ht

theorem migrateStage_shoots (hst : j.stage = 1 ∨ j.stage = 9) (ht : s.iod.shootq.head? = some 1) (hs : j.shot = false) :
    migrateStage s j = .goesOn { j with shot := true } { s with ms := shotDown s j.part j.asid j.base (2 ^ j.k) s.ms } := by
  rcases hst with hst | hst
  all_goals
    rw [migrateStage, hst, he]
    exact (jobShoot_shoots ht hs).trans (by rw [hst])

theorem migrateStage_purges (hst : j.stage = 1) (ht : s.iod.shootq.head? = some 1) (hs : j.shot = true) (hp : s.ms.podOut = []) (hteams : s.teams = []) :
    migrateStage s j = .goesOn { j with shot := false, stage := 2 }
      { s with
        ms := purgePage s.ms (engineRef j) (physHa (leafHa j.entry (2 ^ j.k) 0)) (2 ^ j.k)
        iod := { s.iod with shootq := s.iod.shootq.tail } } := by
  rw [migrateStage, hst, he]
  exact jobShoot_done ht hs hp hteams

theorem migrateStage_ends (hst : j.stage = 9) (ht : s.iod.shootq.head? = some 1) (hs : j.shot = true) (hp : s.ms.podOut = []) (hteams : s.teams = []) :
    migrateStage s j = .done j.status j.pages { s with iod := { s.iod with shootq := s.iod.shootq.tail } } := by
  rw [migrateStage, hst, he]
  exact jobShoot_done ht hs hp hteams

omit he

/-- Nothing of a job is at a peer. -/
theorem no_message (hp : s.ms.podOut = []) (who : ThreadRef) : ¬ (s.ms.podOut.any fun m => m.who == some who) = true := by
  rw [hp]
  exact Bool.false_ne_true

theorem migrateStage_copies (hst : j.stage = 2) (hp : s.ms.podOut = []) (hf : s.ms.failed = [])
    (hd : portDown s.ms (physHa (leafHa j.entry (2 ^ j.k) 0)) = false) : migrateStage s j = .goesOn { j with stage := 3 } (copyPage s j) := by
  have hread : ¬ (portDown s.ms (physHa (leafHa j.entry (2 ^ j.k) 0)) ||
      s.ms.failed.any fun f => physHa (leafHa j.entry (2 ^ j.k) 0) ≤ 16 * f && 16 * f < physHa (leafHa j.entry (2 ^ j.k) 0) + 2 ^ j.k) = true := by
    rw [hd, hf]
    exact Bool.false_ne_true
  rw [migrateStage, hst]
  exact (if_neg (no_message hp _)).trans (if_neg hread)

include he

section
variable (hst : j.stage = 3) (hp : s.ms.podOut = []) (hl : leafLock j.entry = false)
include hst hp hl

theorem migrateStage_replaces (hc : homeNat s.ms j.entryAt 8 = j.entry + 32) :
    migrateStage s j = .goesOn { j with stage := 9, status := 1, pages := 1 }
      { s with ms := homeWrite s.ms j.entryAt (toBytes 8 (movedEntry j.record j.entry)), iod := { s.iod with shootq := s.iod.shootq ++ [1] } } := by
  rw [migrateStage, hst, he]
  refine (if_neg (no_message hp _)).trans ?_
  rw [jobUnlock, withLock_free hl, cas64_same hc]
  rfl

theorem migrateStage_conflicts (hc : homeNat s.ms j.entryAt 8 ≠ j.entry + 32) :
    migrateStage s j = .goesOn { j with stage := 9, status := 5, pages := 0 } { s with iod := { s.iod with shootq := s.iod.shootq ++ [1] } } := by
  rw [migrateStage, hst, he]
  refine (if_neg (no_message hp _)).trans ?_
  rw [jobUnlock, withLock_free hl, cas64_other hc]
  rfl

end
end

/-! ### Bias flips -/

section
variable {u : State} {a p : Nat} {r q : List Byte} (h : Requested s a 3 r q p) (ht : s.iod.shootq.head? = some 0)
include h ht

theorem biasFlip_goesOn {j : TransJob} (hb : biasStage s (s.iod.transreq.getD (TransJob.new q p)) = .goesOn j u) :
    exec .biasFlip s = .next { u with iod := { u.iod with transreq := some j } } := by
  have hturn : ¬ (!mailboxTurn s) = true := by simp [mailboxTurn, ht]
  refine congrArg Host.Outcome.next (trRun_busy h ((if_neg hturn).trans ?_))
  rw [hb]

theorem biasFlip_done {st n : Nat} (hb : biasStage s (s.iod.transreq.getD (TransJob.new q p)) = .done st n u) :
    exec .biasFlip s = .next (requestAnswered u q st n a) := by
  have hturn : ¬ (!mailboxTurn s) = true := by simp [mailboxTurn, ht]
  refine congrArg Host.Outcome.next (trRun_done h ((if_neg hturn).trans ?_))
  rw [hb]

end

section
variable {j : TransJob}

theorem biasStage_lock {e k at' : Nat} (hst : j.stage = 0) (hw : trWalk s j.asid (field j.record 8 8) = (some (e, k, at'), s))
    (hl : leafLock e = false) (hh : leafHC e = true) (hb : biasedEntry j.record e ≠ e) (hc : homeNat s.ms at' 8 = e) :
    biasStage s j = .goesOn (lockedJob s j e k at') { s with ms := homeWrite s.ms at' (toBytes 8 (e + 32)) } := by
  rw [biasStage, hst]
  refine (jobLock_locks hw rfl hl ?_ ?_ hc).trans rfl
  · rw [hh]
    rfl
  · exact beq_eq_false_iff_ne.2 hb

variable (ht : s.iod.shootq.head? = some 0)
include ht

theorem biasStage_shoots (hst : j.stage = 1 ∨ j.stage = 9) (hs : j.shot = false) :
    biasStage s j = .goesOn { j with shot := true } { s with ms := shotDown s j.part j.asid j.base (2 ^ j.k) s.ms } := by
  rcases hst with hst | hst
  all_goals
    rw [biasStage, hst]
    exact (jobShoot_shoots ht hs).trans (by rw [hst])

/-- The memory once the losing side of a flip is drained: to host bias the device's copies go. -/
def drained (s : State) (j : TransJob) : MemSys :=
  if field j.record 36 1 = 1 then purgePage s.ms (engineRef j) (physHa (leafHa j.entry (2 ^ j.k) 0)) (2 ^ j.k) else s.ms

theorem biasStage_flips (hst : j.stage = 1) (hs : j.shot = true) (hp : s.ms.podOut = []) (hteams : s.teams = []) (hl : leafLock j.entry = false)
    (hc : homeNat (drained s j) j.entryAt 8 = j.entry + 32) :
    biasStage s j = .goesOn { j with shot := false, stage := 9, status := 1, pages := 1 }
      { s with ms := homeWrite (drained s j) j.entryAt (toBytes 8 (biasedEntry j.record j.entry)) } := by
  have hdrain : (if field j.record 36 1 == 1 then
      s.mapMs fun ms => purgePage ms (engineRef { j with shot := false }) (physHa (leafHa j.entry (2 ^ j.k) 0)) (2 ^ j.k) else s) =
        { s with ms := drained s j } := by
    simp only [drained, beq_iff_eq]
    split <;> rfl
  rw [biasStage, hst]
  refine (jobShoot_done ht hs hp hteams).trans ?_
  dsimp only
  rw [show (if (0 == 0) = true then s else { s with iod := { s.iod with shootq := s.iod.shootq.tail } }) = s from rfl, hdrain, jobUnlock,
    withLock_free hl, cas64_same (s := { s with ms := drained s j }) hc]
  rfl

theorem biasStage_ends (hst : j.stage = 9) (hs : j.shot = true) (hp : s.ms.podOut = []) (hteams : s.teams = []) :
    biasStage s j = .done j.status j.pages s := by
  rw [biasStage, hst]
  exact jobShoot_done ht hs hp hteams

end
end

end Sys2Proof.Proofs
end

section
/-! PROOFS. The mailbox and each of its commands in full service, from the lemmas about each (R425 to R430, R468 to R476). -/

namespace Sys2Proof.Proofs

open Sys2Proof.Machine Sys2Proof.Spec

/-! ### Migration by engine 0 -/

/-- The state with another memory system, another order of shootdowns, and a job at engine 0. -/
def migrating (s : State) (ms : MemSys) (turns : List Nat) (j : TransJob) : State :=
  { s with ms := ms, iod := { s.iod with movers := [[j], []], shootq := turns } }

section
variable {s : State} {j : TransJob} (hb : s.iod.mb = none) (hm : s.iod.movers = [[j], []]) (he : field j.record 37 1 = 0) (hp : s.ms.podOut = [])
  (hteams : s.teams = [])
include hb hm he

theorem migrate_locks {e k at' : Nat} (hst : j.stage = 0) (hw : trWalk s (field j.record 2 2) (field j.record 8 8) = (some (e, k, at'), s))
    (hz : field j.record 24 8 % 2 ^ k = 0) (hl : leafLock e = false) (hh : leafHC e = false)
    (hd : destinationOk s j.part (movedEntry j.record e) k (field j.record 24 8) = true) (hc : homeNat s.ms at' 8 = e) :
    exec .migrate s = .next (migrating s (homeWrite s.ms at' (toBytes 8 (e + 32))) (s.iod.shootq ++ [1])
      { j with ctx := ((asidCtx s (field j.record 2 2)).map (·.id)).getD 0, entryAt := at', entry := e, k := k, stage := 1 }) :=
  migrate_goesOn hb hm (by exact hm) (migrateStage_lock he hst hw hz hl hh hd hc)

theorem migrate_waits (hst : j.stage = 1 ∨ j.stage = 9) (ht : s.iod.shootq.head? ≠ some 1) : exec .migrate s = .next s :=
  (migrate_goesOn hb hm (by exact hm) (migrateStage_waits he hst ht)).trans (congrArg Host.Outcome.next (withMovers_self hm))

theorem migrate_shoots (hst : j.stage = 1 ∨ j.stage = 9) (ht : s.iod.shootq.head? = some 1) (hs : j.shot = false) :
    exec .migrate s =
      .next (migrating s (shotDown s j.part (field j.record 2 2) (field j.record 8 8 / 2 ^ j.k * 2 ^ j.k) (2 ^ j.k) s.ms) s.iod.shootq { j with shot := true }) :=
  migrate_goesOn hb hm (by exact hm) (migrateStage_shoots he hst ht hs)

section
include hp

omit he in
theorem migrate_copies (hst : j.stage = 2) (hf : s.ms.failed = []) (hd : portDown s.ms (physHa (leafHa j.entry (2 ^ j.k) 0)) = false) :
    exec .migrate s = .next { copyPage s j with iod := { (copyPage s j).iod with movers := [[{ j with stage := 3 }], []] } } :=
  migrate_goesOn hb hm (by rw [iod_copyPage, hm]) (migrateStage_copies hst hp hf hd)

theorem migrate_replaces (hst : j.stage = 3) (hl : leafLock j.entry = false) (hc : homeNat s.ms j.entryAt 8 = j.entry + 32) :
    exec .migrate s = .next (migrating s (homeWrite s.ms j.entryAt (toBytes 8 (movedEntry j.record j.entry))) (s.iod.shootq ++ [1])
      { j with stage := 9, status := 1, pages := 1 }) :=
  migrate_goesOn hb hm (by exact hm) (migrateStage_replaces he hst hp hl hc)

theorem migrate_conflicts (hst : j.stage = 3) (hl : leafLock j.entry = false) (hc : homeNat s.ms j.entryAt 8 ≠ j.entry + 32) :
    exec .migrate s = .next (migrating s s.ms (s.iod.shootq ++ [1]) { j with stage := 9, status := 5, pages := 0 }) :=
  migrate_goesOn hb hm (by exact hm) (migrateStage_conflicts he hst hp hl hc)

include hteams

theorem migrate_purges (hst : j.stage = 1) (ht : s.iod.shootq.head? = some 1) (hs : j.shot = true) :
    exec .migrate s = .next (migrating s (purgePage s.ms (engineRef j) (physHa (leafHa j.entry (2 ^ j.k) 0)) (2 ^ j.k)) s.iod.shootq.tail
      { j with shot := false, stage := 2 }) :=
  migrate_goesOn hb hm (by exact hm) (migrateStage_purges he hst ht hs hp hteams)

theorem migrate_ends (hst : j.stage = 9) (ht : s.iod.shootq.head? = some 1) (hs : j.shot = true) :
    exec .migrate s =
      .next (trFinish { s with iod := { s.iod with movers := [[], []], shootq := s.iod.shootq.tail } } j.record j.status j.pages) :=
  migrate_done hb hm (by exact hm) (migrateStage_ends he hst ht hs hp hteams)

end
end

/-! ### Bias flips in their turn -/

/-- The job of a bias flip at a stage. -/
def flipJob (s : State) (q : List Byte) (p at' e k stage status : Nat) (shot : Bool) : TransJob :=
  ⟨q, p, ((asidCtx s (field q 2 2)).map (·.id)).getD 0, at', e, k, stage, status, status, shot⟩

/-- The state in which a bias flip goes on with other memory. -/
def flipping (s : State) (ms : MemSys) (j : TransJob) : State := { s with ms := ms, iod := { s.iod with transreq := some j } }

section
variable {s : State} {a p at' e k : Nat} {r q : List Byte} (h : Requested s a 3 r q p) (ht : s.iod.shootq.head? = some 0)
include h ht

theorem biasFlip_flipping {ms : MemSys} {j : TransJob} (hb : biasStage s (s.iod.transreq.getD (TransJob.new q p)) = .goesOn j { s with ms := ms }) :
    exec .biasFlip s = .next (flipping s ms j) :=
  biasFlip_goesOn h ht hb

theorem biasFlip_locks (hn : s.iod.transreq = none) (hl : leafLock e = false) (hw : trWalk s (field q 2 2) (field q 8 8) = (some (e, k, at'), s))
    (hh : leafHC e = true) (hb : biasedEntry q e ≠ e) (hc : homeNat s.ms at' 8 = e) :
    exec .biasFlip s = .next (flipping s (homeWrite s.ms at' (toBytes 8 (e + 32))) (flipJob s q p at' e k 1 0 false)) := by
  refine biasFlip_flipping h ht ?_
  rw [hn]
  exact biasStage_lock (j := TransJob.new q p) rfl hw hl hh hb hc

theorem biasFlip_shoots {stage status : Nat} (hj : s.iod.transreq = some (flipJob s q p at' e k stage status false)) (hst : stage = 1 ∨ stage = 9) :
    exec .biasFlip s = .next (flipping s (shotDown s p (field q 2 2) (field q 8 8 / 2 ^ k * 2 ^ k) (2 ^ k) s.ms) (flipJob s q p at' e k stage status true)) := by
  refine biasFlip_flipping h ht ?_
  rw [hj]
  exact biasStage_shoots (j := flipJob s q p at' e k stage status false) ht hst rfl

variable (hp : s.ms.podOut = []) (hteams : s.teams = [])
include hp hteams

theorem biasFlip_flips {j : TransJob} (hj : s.iod.transreq = some j) (hj' : s.iod.transreq = some (flipJob s q p at' e k 1 0 true))
    (hl : leafLock e = false)
    (hc : homeNat (if field q 36 1 = 1 then purgePage s.ms (engineRef j) (physHa (leafHa e (2 ^ k) 0)) (2 ^ k) else s.ms) at' 8 = e + 32) :
    exec .biasFlip s = .next (flipping s
      (homeWrite (if field q 36 1 = 1 then purgePage s.ms (engineRef j) (physHa (leafHa e (2 ^ k) 0)) (2 ^ k) else s.ms) at' (toBytes 8 (biasedEntry q e)))
      (flipJob s q p at' e k 9 1 false)) := by
  obtain rfl : j = flipJob s q p at' e k 1 0 true := Option.some.inj (hj.symm.trans hj')
  refine biasFlip_flipping h ht ?_
  rw [hj]
  exact biasStage_flips (j := flipJob s q p at' e k 1 0 true) ht rfl rfl hp hteams hl hc

theorem biasFlip_ends (hj : s.iod.transreq = some (flipJob s q p at' e k 9 1 true)) : exec .biasFlip s = .next (requestAnswered s q 1 1 a) := by
  refine biasFlip_done h ht ?_
  rw [hj]
  exact biasStage_ends (j := flipJob s q p at' e k 9 1 true) ht rfl rfl hp hteams

end

/-- Settles O52: each command and each stage by the lemma about it. -/
theorem mailboxResults : Obligations.MailboxResults := by
  unfold Obligations.MailboxResults
  refine ⟨fun s a hs => ⟨mbctlWrite_busy a hs, fun hb => ⟨mbctlWrite_known a hs hb, mbctlWrite_unknown a hs hb⟩⟩, fun s a r hs => ?_,
    fun s a r q p hteams => ⟨?_, ?_, ?_⟩⟩
  · exact ⟨exec_resync hs, setreg_results hs, fun h hf ha => ⟨exec_shutter_none hs h hf ha, fun t ht hst hmb hall hc => exec_shutter_one hs h ha ht hst hmb hall hc⟩,
      fun h hid => ⟨exec_kill_unknown hs h hid, fun c hc hst => exec_kill_resident hs h hid hc hst⟩, exec_partset hs,
      fun h hd => ⟨fun hw hw' x hx => exec_powercap hs h hd hw hw' hx, exec_powercap_refused hs h hd⟩, exec_podcfg hs, exec_timeset hs,
      fun h hi => ⟨exec_fwload_refused hs h hi, exec_fwload_writes hs h hi, fun image hw => exec_fwload_resets hs h hw⟩, exec_attest hs⟩
  · exact fun h hk hp => ⟨exec_shootdown h hk hteams hp, exec_shootdown_waits h⟩
  · exact fun l h hl => exec_migrate_taken h hl
  · refine fun e k at' hp => ⟨fun j hb hm hq hpart he => ?_, fun h ht hl => ?_⟩
    · subst hq hpart
      exact ⟨fun hst hw hz hl hh hd hc => migrate_locks hb hm he hst hw hz hl hh hd hc,
        fun hst => ⟨migrate_waits hb hm he hst, fun ht hs => migrate_shoots hb hm he hst ht hs⟩,
        fun hst ht hs => migrate_purges hb hm he hp hteams hst ht hs, fun hst hf hd => migrate_copies hb hm hp hst hf hd,
        fun hst hl => ⟨migrate_replaces hb hm he hp hst hl, migrate_conflicts hb hm he hp hst hl⟩,
        fun hst ht hs => migrate_ends hb hm he hp hteams hst ht hs⟩
    · exact ⟨fun hn hw hh hb hc => biasFlip_locks h ht hn hl hw hh hb hc, fun hj => biasFlip_shoots h ht hj (.inl rfl),
        fun j hj hj' hc => biasFlip_flips h ht hp hteams hj hj' hl hc, fun hj => biasFlip_shoots h ht hj (.inr rfl), biasFlip_ends h ht hp hteams⟩

end Sys2Proof.Proofs
end
